-- ==== Sys2Proof/Word.lean ====
section
/-! DEFINITION. The word types of the TK96 (R4, R24, R44): registers hold 64 bits, vector registers 1,024 bits,
and every address counts bits. -/

namespace Sys2Proof

/-- A 64-bit register, address or container (R44, R36). -/
abbrev Word := BitVec 64

/-- One byte of memory. -/
abbrev Byte := BitVec 8

/-- A 32-bit word of code (R52). -/
abbrev CodeWord := BitVec 32

/-- A 1,024-bit vector or mask register (R44). -/
abbrev Vec := BitVec 1024

/-- A 256-bit digest or claim name, byte k in bits 8k + 7 to 8k (R413). -/
abbrev Digest := BitVec 256

end Sys2Proof
end

