-- ==== Sys2Proof/Syntax.lean ====
section
/-! DEFINITION. The syntax of the TK96: operand selectors (R50), width classes (R30), element types (R62), copy formats
(R155), the records that the steps of the other agents carry, and Instr, one constructor per row of the table. -/

namespace Sys2Proof

/-- The operand selectors of R50. -/
inductive Sel where
  | g (n : BitVec 6)
  | k (n : BitVec 3)
  | z (n : BitVec 1)
  | nil
  | sid
  | cid
  | clk
  | w (n : BitVec 3)
  | c (n : BitVec 2)
  | mb (n : BitVec 3)
  | sp
  | fp
  | tp
  | lp
  | slo
  | shi
  deriving DecidableEq, Repr

/-- A source operand that may be the literal word instead (R54). -/
inductive Src where
  | sel (s : Sel)
  | lit (v : Word)
  deriving DecidableEq, Repr

/-- The number of a vector register (R50). -/
abbrev VReg := BitVec 5

/-- The number of a mask register, or a MASK code in which 0 selects all lanes (R50). -/
abbrev MReg := BitVec 3

/-- The width classes of R30. -/
inductive Cls where
  | w1 | w2 | w3 | w4 | w6 | w8 | w16 | w32 | w64 | w128 | w256 | w512 | w1024
  deriving DecidableEq, Repr

/-- The element types of R62. -/
inductive Ty where
  | s3 | n3 | s4 | n4 | s6 | n6 | s8 | n8 | s16 | n16 | s32 | n32 | s64 | n64 | e4m3 | e5m2 | f16 | bf16 | f32
  deriving DecidableEq, Repr

/-- The rounding modes of R59: nearest even, toward zero, down, up, nearest away. -/
inductive Rm where
  | ne | tz | dn | up | na
  deriving DecidableEq, Repr

/-- The operation codes of the atomics, 0 to 12 (R217). -/
inductive AOp where
  | add | smin | smax | nmin | nmax | fadd | bfadd | fmax | fmin | and | or | xor | swap
  deriving DecidableEq, Repr

/-- The group sizes of a grouped format (R73). -/
inductive Grp where
  | g32 | g64 | g128
  deriving DecidableEq, Repr

/-- The element widths of a grouped format (R63). -/
inductive QElt where
  | q3 | q4 | q6 | q8
  deriving DecidableEq, Repr

/-- A copy format of R155: an element type, or a grouped format of R63. -/
inductive Fmt where
  | ty (t : Ty)
  | grouped (e : QElt) (g : Grp)
  deriving DecidableEq, Repr

/-- The shift amount of `VSHL`, `VSHR` and `VSHRA`: a register of lanes, or one amount (R173). -/
inductive VAmt where
  | reg (b : VReg)
  | imm (n : BitVec 7)
  deriving DecidableEq, Repr

/-- The source of `VITP`: a vector register, or the interpolation input queue (R186). -/
inductive VIn where
  | reg (a : VReg)
  | vin
  deriving DecidableEq, Repr

/-- The FLAGS fields of `CPY`, `CPYM`, `CPYR` and `CPYS` (R155): a space bit is true for G. -/
structure CopyFlags where
  sat : Bool
  rm : Rm
  dsp : Bool
  ssp : Bool
  dfmt : Fmt
  sfmt : Fmt
  deriving DecidableEq, Repr

/-- A message frame (R255): where it goes, the sender, the header, digest and payload, and the sender's token register. -/
structure Frame where
  pkg : BitVec 10
  core : Nat
  ctx : BitVec 8
  srcPkg : BitVec 10
  sender : Nat
  tok : BitVec 6
  header : BitVec 128
  digest : Digest
  payload : BitVec 384
  deriving DecidableEq, Repr

/-- What a code source answers (R368). -/
inductive Answer where
  | none
  | record (bytes : List Byte)
  | container (bytes : List Byte)
  deriving DecidableEq, Repr

/-- An answer with the source that gives it, by the number of R368: 0 to 7 the table, 8 the host, 9 the shelf. -/
structure SourceAnswer where
  source : Nat
  answer : Answer
  deriving DecidableEq, Repr

/-- A flit about code (R388): a neighbour's answer to a request of this package, or a request of a neighbour with its digest, class,
partition identifier, GNEED and VNEED. -/
inductive CodeFlit where
  | answer (pkg : BitVec 10) (a : Answer)
  | ask (pkg : BitVec 10) (digest : Digest) (cls ppid gneed vneed : Nat)
  deriving DecidableEq, Repr

/-- Where a host's access through a port points (R374, R392, R393): a byte of BAR0, a byte of BAR2, or through CXL.mem a byte of HBM. -/
inductive BarAt where
  | bar0 (off : Nat)
  | bar2 (off : Nat)
  | mem (byte : Nat)
  deriving DecidableEq, Repr

/-- The claim functions of major 0x3D as they travel to the home tile (R231). -/
inductive ClaimFn where
  | claim | cwait | fulfil | abandon | unpin | cpeek | taskEnds | arenaFreed | notice
  deriving DecidableEq, Repr

/-- A claim request (R229): the task is named by package and number, `strand` is where the reply goes. -/
structure ClaimReq where
  fn : ClaimFn
  name : Digest
  ppid : BitVec 16
  domain : BitVec 16
  pkg : BitVec 10
  ctx : BitVec 8
  task : Nat
  strand : Nat
  handle : Word
  deriving DecidableEq, Repr

/-- The PCIe AtomicOps of R374. -/
inductive HostAtomic where
  | fetchAdd | swap | cas
  deriving DecidableEq, Repr

/-- What comes back from another package, or from this one's memory (R142, R218, R231, R266): a value; a failure with its cause
(R329, R316); the acknowledgement of a store at a bit, with the cause if it failed there and the flags of an addition (R150, R160); what a claim function on a name answers a task (R231), `asleep` for a `CWAIT` whose record stands. -/
inductive Reply where
  | value (v : BitVec 1024)
  | failed (cause : BitVec 8)
  | poisoned (bit : Nat)
  | stored (bit : Nat) (cause : Option (BitVec 8)) (flags : BitVec 8)
  | claim (task : Nat) (name : Digest) (code : BitVec 8) (handle : Word)
  | claimTrap (state : BitVec 8)
  | asleep
  deriving DecidableEq, Repr

/-- For whom another package accesses memory (R28, R329): pod partition identifier and context. -/
structure Issuer where
  ppid : BitVec 16
  ctx : BitVec 8
  deriving DecidableEq, Repr

/-- What a `CPYR` adds to the elements of one sector of another package (R160): the command's flags, and for each element its offset
in the sector, the source pattern and the header. -/
structure FarAdd where
  flags : CopyFlags
  elems : List (Nat × Nat × Nat)
  deriving DecidableEq, Repr

/-- The data of a remote store (R266, R315): its value, which bits it writes, which containers of the run are poisoned, and what it
adds in place of the value. -/
structure FarData where
  val : BitVec 1024
  mask : BitVec 1024
  poison : BitVec 16
  add : Option FarAdd
  deriving DecidableEq, Repr

/-- A walk of thread 0 of a tile for a context and a 2^19-bit page (R334). -/
structure WalkId where
  tile : Nat
  ctx : Nat
  page : Nat
  deriving DecidableEq, Repr

/-- What a launch that is forwarded to a member package carries of its packet and record (R347, R350). -/
structure LaunchMsg where
  prio : Nat
  record : List Word
  deriving DecidableEq, Repr

/-- Which event met an uncorrectable error (R321, R298): `frame` is the write of a strand's trap frame. -/
inductive ErrSource where
  | scrubber | prefetch | access | table (n : BitVec 2) | acc (acc : Bool) (elt : Nat) | frame (n : Nat)
  deriving DecidableEq, Repr

/-- A firmware image (R397): the root public key that it carries, x and y, its body, the signature, r and s, and its version. -/
structure FwImage where
  key : Digest × Digest
  body : List Byte
  sig : Digest × Digest
  version : Nat
  deriving DecidableEq, Repr

/-- The data of an inbound write, which may be a poisoned TLP (R315, R316). -/
structure Tlp where
  bytes : List Byte
  poisoned : Bool
  deriving DecidableEq, Repr

/-- What the boot ROM finds at power-on (R394, R396): fuses and strap, the firmware images, what trains and passes. -/
structure PowerUp where
  fusesOk : Bool
  fuses : BitVec 512
  strap : Bool
  imageA : FwImage
  imageB : FwImage
  hbms : BitVec 16
  ports : BitVec 6
  links : BitVec 24
  tiles : BitVec 96
  deriving DecidableEq, Repr

/-- One constructor per row of spec/opcode_table.json: the instructions in the table's order, then the steps of the
other agents (the commit arbiter, the engines, the services, the hosts). -/
inductive Instr where
  /-- R95: Adds two 64-bit registers, wrapping modulo 2^64. -/
  | add (d a b : Sel)
  /-- R95: ADD with the b operand supplied as a 64-bit literal word. -/
  | addLit (d a : Sel) (b : Word)
  /-- R95: Subtracts b from a, wrapping modulo 2^64. -/
  | sub (d a b : Sel)
  /-- R95: SUB with a literal b. -/
  | subLit (d a : Sel) (b : Word)
  /-- R95: Bitwise AND of two registers. -/
  | and (d a b : Sel)
  /-- R95: AND with a literal b. -/
  | andLit (d a : Sel) (b : Word)
  /-- R95: Bitwise OR of two registers. -/
  | or (d a b : Sel)
  /-- R95: OR with a literal b. -/
  | orLit (d a : Sel) (b : Word)
  /-- R95: Bitwise XOR of two registers. -/
  | xor (d a b : Sel)
  /-- R95: XOR with a literal b. -/
  | xorLit (d a : Sel) (b : Word)
  /-- R95: a AND NOT b. -/
  | andn (d a b : Sel)
  /-- R95: ANDN with a literal b. -/
  | andnLit (d a : Sel) (b : Word)
  /-- R95: Signed minimum of two registers. -/
  | min (d a b : Sel)
  /-- R95: MIN with a literal b. -/
  | minLit (d a : Sel) (b : Word)
  /-- R95: Signed maximum of two registers. -/
  | max (d a b : Sel)
  /-- R95: MAX with a literal b. -/
  | maxLit (d a : Sel) (b : Word)
  /-- R95: Unsigned minimum. -/
  | minu (d a b : Sel)
  /-- R95: MINU with a literal b. -/
  | minuLit (d a : Sel) (b : Word)
  /-- R95: Unsigned maximum. -/
  | maxu (d a b : Sel)
  /-- R95: MAXU with a literal b. -/
  | maxuLit (d a : Sel) (b : Word)
  /-- R95: Shift left by b[5:0]. -/
  | shl (d a b : Sel)
  /-- R95: SHL with a literal b. -/
  | shlLit (d a : Sel) (b : Word)
  /-- R95: Logical shift right by b[5:0]. -/
  | shr (d a b : Sel)
  /-- R95: SHR with a literal b. -/
  | shrLit (d a : Sel) (b : Word)
  /-- R95: Arithmetic shift right by b[5:0]. -/
  | shra (d a b : Sel)
  /-- R95: SHRA with a literal b. -/
  | shraLit (d a : Sel) (b : Word)
  /-- R95: Rotate right by b[5:0]. -/
  | rot (d a b : Sel)
  /-- R95: ROT with a literal b. -/
  | rotLit (d a : Sel) (b : Word)
  /-- R95: Low 64 bits of the signed product. -/
  | mul (d a b : Sel)
  /-- R95: MUL with a literal b. -/
  | mulLit (d a : Sel) (b : Word)
  /-- R95: High 64 bits of the signed product. -/
  | mulh (d a b : Sel)
  /-- R95: MULH with a literal b. -/
  | mulhLit (d a : Sel) (b : Word)
  /-- R95: High 64 bits of the unsigned product. -/
  | mulhu (d a b : Sel)
  /-- R95: MULHU with a literal b. -/
  | mulhuLit (d a : Sel) (b : Word)
  /-- R96: Signed division on the shared divide unit. -/
  | div (d a b : Sel)
  /-- R96: DIV with a literal b. -/
  | divLit (d a : Sel) (b : Word)
  /-- R96: Unsigned division. -/
  | divu (d a b : Sel)
  /-- R96: DIVU with a literal b. -/
  | divuLit (d a : Sel) (b : Word)
  /-- R96: Signed remainder. -/
  | rem (d a b : Sel)
  /-- R96: REM with a literal b. -/
  | remLit (d a : Sel) (b : Word)
  /-- R96: Unsigned remainder. -/
  | remu (d a b : Sel)
  /-- R96: REMU with a literal b. -/
  | remuLit (d a : Sel) (b : Word)
  /-- R95: 1 if a equals b, else 0. -/
  | seteq (d a b : Sel)
  /-- R95: SETEQ with a literal b. -/
  | seteqLit (d a : Sel) (b : Word)
  /-- R95: 1 if a < b signed. -/
  | setlt (d a b : Sel)
  /-- R95: SETLT with a literal b. -/
  | setltLit (d a : Sel) (b : Word)
  /-- R95: 1 if a < b unsigned. -/
  | setltu (d a b : Sel)
  /-- R95: SETLTU with a literal b. -/
  | setltuLit (d a : Sel) (b : Word)
  /-- R95: 1 if a differs from b. -/
  | setne (d a b : Sel)
  /-- R95: SETNE with a literal b. -/
  | setneLit (d a : Sel) (b : Word)
  /-- R95: 1 if a >= b signed. -/
  | setge (d a b : Sel)
  /-- R95: SETGE with a literal b. -/
  | setgeLit (d a : Sel) (b : Word)
  /-- R95: 1 if a >= b unsigned. -/
  | setgeu (d a b : Sel)
  /-- R95: SETGEU with a literal b. -/
  | setgeuLit (d a : Sel) (b : Word)
  /-- R97: Saturating signed add, setting SA on clamp. -/
  | adds (d a b : Sel)
  /-- R97: ADDS with a literal b. -/
  | addsLit (d a : Sel) (b : Word)
  /-- R97: Saturating signed subtract, setting SA on clamp. -/
  | subs (d a b : Sel)
  /-- R97: SUBS with a literal b. -/
  | subsLit (d a : Sel) (b : Word)
  /-- R98: Selects a or b by the prior value of D. -/
  | csel (d a b : Sel)
  /-- R98: CSEL with a literal b. -/
  | cselLit (d a : Sel) (b : Word)
  /-- R95: Absolute signed difference as n64. -/
  | absd (d a b : Sel)
  /-- R95: ABSD with a literal b. -/
  | absdLit (d a : Sel) (b : Word)
  /-- R99: Adds a sign-extended 10-bit immediate. -/
  | addi (d a : Sel) (imm : BitVec 10)
  /-- R99: ANDs a sign-extended immediate. -/
  | andi (d a : Sel) (imm : BitVec 10)
  /-- R99: ORs a sign-extended immediate. -/
  | ori (d a : Sel) (imm : BitVec 10)
  /-- R99: XORs a sign-extended immediate. -/
  | xori (d a : Sel) (imm : BitVec 10)
  /-- R100: Shift left by an immediate amount. -/
  | shli (d a : Sel) (amt : BitVec 6)
  /-- R100: Logical shift right by an immediate amount. -/
  | shri (d a : Sel) (amt : BitVec 6)
  /-- R100: Arithmetic shift right by an immediate amount. -/
  | shrai (d a : Sel) (amt : BitVec 6)
  /-- R100: Rotate right by an immediate amount. -/
  | roti (d a : Sel) (amt : BitVec 6)
  /-- R99: 1 if a < sign-extended immediate. -/
  | setlti (d a : Sel) (imm : BitVec 10)
  /-- R101: Copies a register. -/
  | mov (d a : Sel)
  /-- R101: MOV of a 64-bit literal. -/
  | movLit (d : Sel) (a : Word)
  /-- R101: Two's complement negation. -/
  | neg (d a : Sel)
  /-- R101: NEG of a literal. -/
  | negLit (d : Sel) (a : Word)
  /-- R101: Bitwise NOT. -/
  | not (d a : Sel)
  /-- R101: NOT of a literal. -/
  | notLit (d : Sel) (a : Word)
  /-- R101: Counts leading zero bits. -/
  | clz (d a : Sel)
  /-- R101: CLZ of a literal. -/
  | clzLit (d : Sel) (a : Word)
  /-- R101: Counts trailing zero bits. -/
  | ctz (d a : Sel)
  /-- R101: CTZ of a literal. -/
  | ctzLit (d : Sel) (a : Word)
  /-- R101: Counts one bits. -/
  | popc (d a : Sel)
  /-- R101: POPC of a literal. -/
  | popcLit (d : Sel) (a : Word)
  /-- R101: Reverses bit order. -/
  | brev (d a : Sel)
  /-- R101: BREV of a literal. -/
  | brevLit (d : Sel) (a : Word)
  /-- R101: Sign-extends bits 31:0. -/
  | sext (d a : Sel)
  /-- R101: SEXT of a literal. -/
  | sextLit (d : Sel) (a : Word)
  /-- R101: Zero-extends bits 31:0. -/
  | zext (d a : Sel)
  /-- R101: ZEXT of a literal. -/
  | zextLit (d : Sel) (a : Word)
  /-- R102: Loads a sign-extended 17-bit immediate. -/
  | movi (d : Sel) (imm : BitVec 17)
  /-- R102: Loads a 64-bit literal. -/
  | moviLit (d : Sel) (imm : Word)
  /-- R103: Extracts an unsigned bit field at a dynamic position. -/
  | extb (d a : Sel) (b : Src) (pos : BitVec 6) (wid : BitVec 7)
  /-- R103: Extracts a sign-extended bit field. -/
  | extbs (d a : Sel) (b : Src) (pos : BitVec 6) (wid : BitVec 7)
  /-- R103: Inserts a bit field into the destination. -/
  | insb (d a : Sel) (b : Src) (pos : BitVec 6) (wid : BitVec 7)
  /-- R40: Advances a pointer by an element count of a class. -/
  | padd (d a : Sel) (b : Src) (c : Cls)
  /-- R40: Moves a pointer back by an element count. -/
  | psub (d a : Sel) (b : Src) (c : Cls)
  /-- R40: Element distance between two pointers. -/
  | pdiff (d a : Sel) (b : Src) (c : Cls)
  /-- R40: Greatest legal address of the class at or below A. -/
  | paln (d a : Sel) (c : Cls)
  /-- R41: Returns the check mask for a run of elements. -/
  | pchk (d a : Sel) (b : Src) (c : Cls)
  /-- R40: Forms a scratchpad-window address. -/
  | pwin (d a : Sel) (b : Src) (c : Cls)
  /-- R40: Decodes package and core from a window address. -/
  | pcore (d a : Sel)
  /-- R106: f32 addition rounded to nearest even. -/
  | fadd (d a b : Sel)
  /-- R106: FADD with a literal b. -/
  | faddLit (d a : Sel) (b : Word)
  /-- R106: f32 subtraction. -/
  | fsub (d a b : Sel)
  /-- R106: FSUB with a literal b. -/
  | fsubLit (d a : Sel) (b : Word)
  /-- R106: f32 multiplication. -/
  | fmul (d a b : Sel)
  /-- R106: FMUL with a literal b. -/
  | fmulLit (d a : Sel) (b : Word)
  /-- R106: f32 division on the divide unit. -/
  | fdiv (d a b : Sel)
  /-- R106: FDIV with a literal b. -/
  | fdivLit (d a : Sel) (b : Word)
  /-- R81: IEEE minimum of f32. -/
  | fmin (d a b : Sel)
  /-- R81: FMIN with a literal b. -/
  | fminLit (d a : Sel) (b : Word)
  /-- R81: IEEE maximum of f32. -/
  | fmax (d a b : Sel)
  /-- R81: FMAX with a literal b. -/
  | fmaxLit (d a : Sel) (b : Word)
  /-- R81: minimumNumber of f32. -/
  | fminn (d a b : Sel)
  /-- R81: FMINN with a literal b. -/
  | fminnLit (d a : Sel) (b : Word)
  /-- R81: maximumNumber of f32. -/
  | fmaxn (d a b : Sel)
  /-- R81: FMAXN with a literal b. -/
  | fmaxnLit (d a : Sel) (b : Word)
  /-- R107: Fused multiply-add into the destination, one rounding. -/
  | fma (d a b : Sel)
  /-- R107: FMA with a literal b. -/
  | fmaLit (d a : Sel) (b : Word)
  /-- R107: Fused c minus a times b, one rounding. -/
  | fms (d a b : Sel)
  /-- R107: FMS with a literal b. -/
  | fmsLit (d a : Sel) (b : Word)
  /-- R108: Correctly rounded f32 square root. -/
  | fsqrt (d a : Sel)
  /-- R108: Correctly rounded f32 reciprocal. -/
  | frcp (d a : Sel)
  /-- R109: f32 equality compare. -/
  | fcmpeq (d a b : Sel)
  /-- R109: FCMPEQ with a literal b. -/
  | fcmpeqLit (d a : Sel) (b : Word)
  /-- R109: f32 less-than compare. -/
  | fcmplt (d a b : Sel)
  /-- R109: FCMPLT with a literal b. -/
  | fcmpltLit (d a : Sel) (b : Word)
  /-- R109: f32 less-or-equal compare. -/
  | fcmple (d a b : Sel)
  /-- R109: FCMPLE with a literal b. -/
  | fcmpleLit (d a : Sel) (b : Word)
  /-- R110: One-hot class of an f32 value. -/
  | fclass (d a : Sel)
  /-- R112: Converts between scalar types under rounding or saturation. -/
  | fcvt (d : Sel) (a : Src) (td ts : Ty) (x : BitVec 4)
  /-- R80: Exchanges the FP status register. -/
  | fsx (d a : Sel)
  /-- R80: Reads the FP status register. -/
  | fsr (d : Sel)
  /-- R114: Unconditional branch by word offset. -/
  | br (off : BitVec 24)
  /-- R115: Branch if equal, short offset. -/
  | beq (a b : Sel) (off : BitVec 7)
  /-- R115: BEQ with a 32-bit offset. -/
  | beqExt (a b : Sel) (off : BitVec 32)
  /-- R115: BEQ with a literal b. -/
  | beqLit (a : Sel) (b : Word) (off : BitVec 7)
  /-- R115: BEQ with 32-bit offset and literal b. -/
  | beqExtLit (a : Sel) (b : Word) (off : BitVec 32)
  /-- R115: Branch if not equal. -/
  | bne (a b : Sel) (off : BitVec 7)
  /-- R115: BNE with a 32-bit offset. -/
  | bneExt (a b : Sel) (off : BitVec 32)
  /-- R115: BNE with a literal b. -/
  | bneLit (a : Sel) (b : Word) (off : BitVec 7)
  /-- R115: BNE with 32-bit offset and literal b. -/
  | bneExtLit (a : Sel) (b : Word) (off : BitVec 32)
  /-- R115: Branch if signed less. -/
  | blt (a b : Sel) (off : BitVec 7)
  /-- R115: BLT with a 32-bit offset. -/
  | bltExt (a b : Sel) (off : BitVec 32)
  /-- R115: BLT with a literal b. -/
  | bltLit (a : Sel) (b : Word) (off : BitVec 7)
  /-- R115: BLT with 32-bit offset and literal b. -/
  | bltExtLit (a : Sel) (b : Word) (off : BitVec 32)
  /-- R115: Branch if signed greater or equal. -/
  | bge (a b : Sel) (off : BitVec 7)
  /-- R115: BGE with a 32-bit offset. -/
  | bgeExt (a b : Sel) (off : BitVec 32)
  /-- R115: BGE with a literal b. -/
  | bgeLit (a : Sel) (b : Word) (off : BitVec 7)
  /-- R115: BGE with 32-bit offset and literal b. -/
  | bgeExtLit (a : Sel) (b : Word) (off : BitVec 32)
  /-- R115: Branch if unsigned less. -/
  | bltu (a b : Sel) (off : BitVec 7)
  /-- R115: BLTU with a 32-bit offset. -/
  | bltuExt (a b : Sel) (off : BitVec 32)
  /-- R115: BLTU with a literal b. -/
  | bltuLit (a : Sel) (b : Word) (off : BitVec 7)
  /-- R115: BLTU with 32-bit offset and literal b. -/
  | bltuExtLit (a : Sel) (b : Word) (off : BitVec 32)
  /-- R115: Branch if unsigned greater or equal. -/
  | bgeu (a b : Sel) (off : BitVec 7)
  /-- R115: BGEU with a 32-bit offset. -/
  | bgeuExt (a b : Sel) (off : BitVec 32)
  /-- R115: BGEU with a literal b. -/
  | bgeuLit (a : Sel) (b : Word) (off : BitVec 7)
  /-- R115: BGEU with 32-bit offset and literal b. -/
  | bgeuExtLit (a : Sel) (b : Word) (off : BitVec 32)
  /-- R115: Branch if selected walk end flags are set. -/
  | bwend (a b : Sel) (off : BitVec 7)
  /-- R115: BWEND with a 32-bit offset. -/
  | bwendExt (a b : Sel) (off : BitVec 32)
  /-- R115: BWEND with a literal flag mask. -/
  | bwendLit (a : Sel) (b : Word) (off : BitVec 7)
  /-- R115: BWEND with 32-bit offset and literal mask. -/
  | bwendExtLit (a : Sel) (b : Word) (off : BitVec 32)
  /-- R115: Branch if a is nonzero. -/
  | bnz (a : Sel) (off : BitVec 7)
  /-- R115: BNZ with a 32-bit offset. -/
  | bnzExt (a : Sel) (off : BitVec 32)
  /-- R117: Starts a zero-overhead hardware loop. -/
  | loop (ctr : BitVec 2) (cnt : Sel) (body : BitVec 15)
  /-- R117: LOOP with a literal count. -/
  | loopLit (ctr : BitVec 2) (cnt : Word) (body : BitVec 15)
  /-- R122: Binds a one-dimensional walk register. -/
  | wset1 (w : BitVec 3) (b s0 n0 : Sel)
  /-- R122: Binds a two-dimensional walk register. -/
  | wset2 (w : BitVec 3) (b s0 n0 s1 n1 : Sel)
  /-- R122: Binds a three-dimensional walk register. -/
  | wset3 (w : BitVec 3) (b s0 n0 s1 n1 s2 n2 : Sel)
  /-- R122: Reads one item of a walk register. -/
  | wget (d : Sel) (w : BitVec 3) (item : BitVec 7) (la : BitVec 4)
  /-- R122: Unbinds a walk register. -/
  | wclr (w : BitVec 3)
  /-- R130: Calls by import digest, writing a frame record. -/
  | calld (idx : BitVec 20)
  /-- R132: Returns through the frame record's token. -/
  | ret
  /-- R131: Calls by a digest held in a vector register. -/
  | callx (a : Sel)
  /-- R126: Ends the chunk, checkpoints and marks a region entry. -/
  | region
  /-- R138: Ends the chunk and yields issue to other ready strands. -/
  | yield
  /-- R138: Commits the chunk and ends the task. -/
  | stop
  /-- R138: Raises TRAP_SOFTWARE with the value of a. -/
  | trap (a : Sel)
  /-- R138: Raises BREAKPOINT. -/
  | brk
  /-- R138: Does nothing. -/
  | nop
  /-- R242: Calls by digest and lights a stealable continuation wick. -/
  | spawnd (idx : BitVec 20)
  /-- R247: Waits until the frame's join cell is zero. -/
  | sync
  /-- R248: Opens a splittable span over three g registers. -/
  | range (a : Sel)
  /-- R250: Takes the next span index or leaves the range. -/
  | rnext (d : Sel)
  /-- R253: Pushes a 512-bit item onto a stage ring. -/
  | enq (d a : Sel)
  /-- R253: ENQ with a literal ring descriptor. -/
  | enqLit (d : Sel) (a : Word)
  /-- R253: Takes an item from a stage ring. -/
  | deq (d a : Sel)
  /-- R253: DEQ with a literal ring descriptor. -/
  | deqLit (d : Sel) (a : Word)
  /-- R255: Sends an active-message frame to a core. -/
  | sendm (tok : BitVec 6) (a : Sel)
  /-- R255: SENDM with a literal message descriptor. -/
  | sendmLit (tok : BitVec 6) (a : Word)
  /-- R141: Scalar load from the core's scratchpad. -/
  | ldp (am : BitVec 2) (w : Cls) (base d : Sel) (la : BitVec 4)
  /-- R141: LDP with extension word (offset, index, SX). -/
  | ldpExt (am : BitVec 2) (w : Cls) (base d : Sel) (la : BitVec 4) (off : BitVec 48) (idx : Sel) (sx : Bool)
  /-- R141: Scalar store to the scratchpad. -/
  | stp (am : BitVec 2) (w : Cls) (base src : Sel)
  /-- R141: STP with extension word. -/
  | stpExt (am : BitVec 2) (w : Cls) (base src : Sel) (off : BitVec 48) (idx : Sel)
  /-- R141: Scalar load from global memory. -/
  | ldg (am : BitVec 2) (w : Cls) (base d : Sel) (la : BitVec 4)
  /-- R141: LDG with extension word. -/
  | ldgExt (am : BitVec 2) (w : Cls) (base d : Sel) (la : BitVec 4) (off : BitVec 48) (idx : Sel) (sx : Bool)
  /-- R141: Scalar store to global memory. -/
  | stg (am : BitVec 2) (w : Cls) (base src : Sel)
  /-- R141: STG with extension word. -/
  | stgExt (am : BitVec 2) (w : Cls) (base src : Sel) (off : BitVec 48) (idx : Sel)
  /-- R141: Scalar load from launch constant space. -/
  | ldk (am : BitVec 2) (w : Cls) (base d : Sel) (la : BitVec 4)
  /-- R141: LDK with extension word. -/
  | ldkExt (am : BitVec 2) (w : Cls) (base d : Sel) (la : BitVec 4) (off : BitVec 48) (idx : Sel) (sx : Bool)
  /-- R145: Vector load from scratchpad. -/
  | vldp (am : BitVec 2) (w : Cls) (base : Sel) (v : VReg) (la : BitVec 4)
  /-- R145: VLDP with extension word. -/
  | vldpExt (am : BitVec 2) (w : Cls) (base : Sel) (v : VReg) (la : BitVec 4) (off : BitVec 48)
  /-- R145: Unmasked vector store to scratchpad. -/
  | vstp (am : BitVec 2) (w : Cls) (base : Sel) (v : VReg)
  /-- R145: VSTP with descriptor operand. -/
  | vstpExt (am : BitVec 2) (w : Cls) (base : Sel) (v : VReg) (off : BitVec 48) (desc : Sel)
  /-- R145: Vector load from global memory. -/
  | vldg (am : BitVec 2) (w : Cls) (base : Sel) (v : VReg) (la : BitVec 4)
  /-- R145: VLDG with extension word. -/
  | vldgExt (am : BitVec 2) (w : Cls) (base : Sel) (v : VReg) (la : BitVec 4) (off : BitVec 48)
  /-- R145: Unmasked vector store to global memory. -/
  | vstg (am : BitVec 2) (w : Cls) (base : Sel) (v : VReg)
  /-- R145: VSTG with descriptor operand. -/
  | vstgExt (am : BitVec 2) (w : Cls) (base : Sel) (v : VReg) (off : BitVec 48) (desc : Sel)
  /-- R147: Gathers up to 32 elements from global memory. -/
  | vgath (w : Cls) (base : Sel) (v : VReg) (la : BitVec 4) (off : BitVec 48) (desc : Sel)
  /-- R147: Scatters up to 32 elements to global memory. -/
  | vscat (w : Cls) (base : Sel) (v : VReg) (off : BitVec 48) (desc : Sel)
  /-- R149: Reads once from an I/O page after earlier I/O stores. -/
  | iold (am : BitVec 2) (w : Cls) (base d : Sel) (la : BitVec 4)
  /-- R149: IOLD with extension word. -/
  | ioldExt (am : BitVec 2) (w : Cls) (base d : Sel) (la : BitVec 4) (off : BitVec 48) (idx : Sel)
  /-- R149: Sends one posted write to an I/O page. -/
  | iost (am : BitVec 2) (w : Cls) (base src : Sel) (off : BitVec 48) (idx : Sel)
  /-- R150: Ends the chunk and waits for its commit. -/
  | fence
  /-- R150: FENCE that also waits for remote accesses. -/
  | fencep
  /-- R150: FENCE that also waits for I/O accesses. -/
  | fenceio
  /-- R150: FENCE that also waits for all engine commands. -/
  | drain
  /-- R160: Copies and converts rows of elements. -/
  | cpy (tok : BitVec 6) (la : BitVec 4) (p1 p2 p3 p4 : Sel) (f : CopyFlags)
  /-- R161: Multicasts a copy to several cores' windows. -/
  | cpym (tok : BitVec 6) (la : BitVec 4) (p1 p2 p3 p4 p5 : Sel) (f : CopyFlags)
  /-- R160: Adds source elements into the destination. -/
  | cpyr (tok : BitVec 6) (la : BitVec 4) (p1 p2 p3 p4 : Sel) (f : CopyFlags)
  /-- R160: Fills an operand slot. -/
  | cpys (tok : BitVec 6) (la : BitVec 4) (slot : BitVec 7) (p2 p3 p4 p5 : Sel) (f : CopyFlags)
  /-- R162: Computes a CRC32C or CRC-64 over bytes. -/
  | cpyc (tok : BitVec 6) (la : BitVec 4) (p1 p2 p3 p4 : Sel) (dsp ssp kind : Bool)
  /-- R162: Decompresses one LZ4 or Zstandard frame. -/
  | cpyz (tok : BitVec 6) (la : BitVec 4) (p1 p2 p3 p4 : Sel) (dsp ssp kind : Bool)
  /-- R154: Reads a token without waiting. -/
  | tpoll (d : Sel) (t : BitVec 6) (la : BitVec 4)
  /-- R154: Waits for all or any of several tokens. -/
  | twaita (d m : Sel) (any : Bool) (la : BitVec 4)
  /-- R171: Lane-wise add. -/
  | vadd (t : Ty) (k : MReg) (d a b : VReg) (rm : Rm)
  /-- R171: Lane-wise subtract. -/
  | vsub (t : Ty) (k : MReg) (d a b : VReg) (rm : Rm)
  /-- R171: Lane-wise multiply. -/
  | vmul (t : Ty) (k : MReg) (d a b : VReg) (rm : Rm)
  /-- R171: Lane-wise fused multiply-add. -/
  | vfma (t : Ty) (k : MReg) (d a b c : VReg) (rm : Rm)
  /-- R171: Lane-wise fused c minus a times b. -/
  | vfms (t : Ty) (k : MReg) (d a b c : VReg) (rm : Rm)
  /-- R171: Lane-wise minimum. -/
  | vmin (t : Ty) (k : MReg) (d a b : VReg)
  /-- R171: Lane-wise maximum. -/
  | vmax (t : Ty) (k : MReg) (d a b : VReg)
  /-- R171: Lane-wise minimumNumber. -/
  | vminn (t : Ty) (k : MReg) (d a b : VReg)
  /-- R171: Lane-wise maximumNumber. -/
  | vmaxn (t : Ty) (k : MReg) (d a b : VReg)
  /-- R172: Lane-wise absolute value. -/
  | vabs (t : Ty) (k : MReg) (d a : VReg) (sat : Bool)
  /-- R172: Lane-wise negation. -/
  | vneg (t : Ty) (k : MReg) (d a : VReg) (sat : Bool)
  /-- R171: Lane-wise saturating add. -/
  | vadds (t : Ty) (k : MReg) (d a b : VReg)
  /-- R171: Lane-wise saturating subtract. -/
  | vsubs (t : Ty) (k : MReg) (d a b : VReg)
  /-- R171: Lane-wise high product. -/
  | vmulh (t : Ty) (k : MReg) (d a b : VReg)
  /-- R173: Lane-wise AND. -/
  | vand (t : Ty) (k : MReg) (d a b : VReg)
  /-- R173: Lane-wise OR. -/
  | vor (t : Ty) (k : MReg) (d a b : VReg)
  /-- R173: Lane-wise XOR. -/
  | vxor (t : Ty) (k : MReg) (d a b : VReg)
  /-- R173: Lane-wise a AND NOT b. -/
  | vandn (t : Ty) (k : MReg) (d a b : VReg)
  /-- R173: Lane-wise NOT. -/
  | vnot (t : Ty) (k : MReg) (d a : VReg)
  /-- R173: Lane-wise shift left. -/
  | vshl (t : Ty) (k : MReg) (d a : VReg) (amt : VAmt)
  /-- R173: Lane-wise logical shift right. -/
  | vshr (t : Ty) (k : MReg) (d a : VReg) (amt : VAmt)
  /-- R173: Lane-wise arithmetic shift right. -/
  | vshra (t : Ty) (k : MReg) (d a : VReg) (amt : VAmt)
  /-- R174: Lane-wise equality into a mask. -/
  | vcmpeq (t : Ty) (k : MReg) (m : MReg) (a b : VReg)
  /-- R174: Lane-wise inequality into a mask. -/
  | vcmpne (t : Ty) (k : MReg) (m : MReg) (a b : VReg)
  /-- R174: Lane-wise less-than into a mask. -/
  | vcmplt (t : Ty) (k : MReg) (m : MReg) (a b : VReg)
  /-- R174: Lane-wise less-or-equal into a mask. -/
  | vcmple (t : Ty) (k : MReg) (m : MReg) (a b : VReg)
  /-- R174: Selects lanes of a or b by mask. -/
  | vsel (t : Ty) (k : MReg) (d a b : VReg)
  /-- R174: Lane-wise floating class bits. -/
  | vclass (t : Ty) (k : MReg) (d a : VReg)
  /-- R175: Permutes lanes by an index vector. -/
  | vshuf (t t2 : Ty) (k : MReg) (d a b : VReg)
  /-- R175: Broadcasts a scalar to all lanes. -/
  | vbcast (t : Ty) (k : MReg) (d : VReg) (s : Sel)
  /-- R175: Slides lanes across two sources. -/
  | vslide (t : Ty) (k : MReg) (d a b : VReg) (n : BitVec 11)
  /-- R175: Writes s + i into lane i. -/
  | vidx (t : Ty) (k : MReg) (d : VReg) (s : Sel)
  /-- R175: Moves one lane to a scalar. -/
  | vmovs (t : Ty) (d : Sel) (a : VReg) (n : BitVec 11)
  /-- R175: Writes a scalar into one lane. -/
  | vmovv (t : Ty) (d : VReg) (s : Sel) (n : BitVec 11)
  /-- R176: Narrows integer lanes into part of the destination. -/
  | vpack (t t2 : Ty) (k : MReg) (d a : VReg) (n : BitVec 11) (sat : Bool)
  /-- R176: Widens integer lanes from part of the source. -/
  | vunpk (t t2 : Ty) (k : MReg) (d a : VReg) (n : BitVec 11) (sat : Bool)
  /-- R177: Reduces active lanes by a fixed tree into a scalar. -/
  | vred (t : Ty) (k : MReg) (op : BitVec 4) (d : Sel) (a : VReg) (rm : Rm) (sat : Bool)
  /-- R176: Converts lanes between any two lane types. -/
  | vcvt (t t2 : Ty) (k : MReg) (d a b : VReg) (n : BitVec 11) (rm : Rm) (sat : Bool)
  /-- R179: Quantises lanes by reciprocal with group headers. -/
  | vqnt (t t2 : Ty) (k : MReg) (d a b : VReg) (g : Grp) (n : BitVec 11) (rm : Rm)
  /-- R179: Dequantises code lanes to floating. -/
  | vdqnt (t t2 : Ty) (k : MReg) (d a b : VReg) (g : Grp) (n : BitVec 11) (rm : Rm)
  /-- R179: Quantises lanes by exact division. -/
  | vqdiv (t t2 : Ty) (k : MReg) (d a b : VReg) (g : Grp) (n : BitVec 11) (rm : Rm)
  /-- R180: Sends a vector register to local consumers. -/
  | vsend (a : VReg) (cons : BitVec 5) (sp : Bool) (s : Sel)
  /-- R181: After commit and consumer room, places the value in all named consumers. -/
  | vsendPlacement (n : Nat)
  /-- R186: Evaluates a piecewise quadratic table per lane. -/
  | vitp (t t2 : Ty) (k : MReg) (d : VReg) (x : VIn) (tbl : BitVec 2) (rm : Rm)
  /-- R185: Loads an interpolation table image. -/
  | tload (tbl : BitVec 2) (s : Sel)
  /-- R188: Mask AND. -/
  | mand (d a b : MReg)
  /-- R188: Mask OR. -/
  | mor (d a b : MReg)
  /-- R188: Mask XOR. -/
  | mxor (d a b : MReg)
  /-- R188: Mask NOT. -/
  | mnot (d a : MReg)
  /-- R188: Counts set mask bits below the lane count. -/
  | mcnt (t : Ty) (d : Sel) (a : MReg)
  /-- R188: Finds the lowest set mask bit. -/
  | mfirst (t : Ty) (d : Sel) (a : MReg)
  /-- R188: Writes 64 bits of a mask from a scalar. -/
  | msetg (d : MReg) (s : Sel) (p : BitVec 4)
  /-- R188: Writes a prefix mask of U(s) ones. -/
  | msetgPre (d : MReg) (s : Sel)
  /-- R188: Reads 64 bits of a mask. -/
  | mgetg (d : Sel) (a : MReg) (p : BitVec 4)
  /-- R193: Reserves operand slots within the quota. -/
  | slresv (d : BitVec 6) (m : Sel) (any : Bool) (la : BitVec 4)
  /-- R193: Frees slots after their users finish. -/
  | slfree (d : BitVec 6) (m : Sel) (la : BitVec 4)
  /-- R200: Loads a weight tile into the shadow plane. -/
  | mwld (tok : BitVec 6) (la : BitVec 4) (slot : BitVec 7) (off kdim ndim : Sel) (wf : Fmt) (half : Bool)
  /-- R202: Streams activation rows into an accumulator. -/
  | mstrm (tok : BitVec 6) (la : BitVec 4) (src : BitVec 7) (off m scale : Sel) (af : Fmt) (acc tr : Bool)
  /-- R205: Runs a ragged batch of grouped products. -/
  | mgrp (tok : BitVec 6) (la : BitVec 4) (slot : BitVec 7) (wmask counts scale : Sel) (af wf : Fmt) (acc : Bool)
  /-- R209: Drains an accumulator region to memory. -/
  | mdrn (tok : BitVec 6) (la : BitVec 4) (dst region e : Sel) (df : Fmt) (rm : Rm) (sat dsp acc clr : Bool)
  /-- R206: Clears an accumulator with a given exponent. -/
  | mclr (tok : BitVec 6) (la : BitVec 4) (e : Sel) (acc : Bool)
  /-- R207: Installs the matrix configuration word. -/
  | mcfg (tok : BitVec 6) (la : BitVec 4) (cfg : Sel)
  /-- R212: Sends a command image to another core's matrix unit. -/
  | mrmt (tok : BitVec 6) (la : BitVec 4) (cap : Sel) (vr : VReg)
  /-- R211: Makes a capability for remote matrix commands. -/
  | mcap (d : BitVec 6) (la : BitVec 4) (ctx mask : Sel) (rights : BitVec 3)
  /-- R210: Adds values exactly into a long-accumulator window. -/
  | addw (tok : BitVec 6) (la : BitVec 4) (win src n : Sel) (sf : Fmt)
  /-- R210: Rounds long-accumulator windows to floating. -/
  | wnorm (tok : BitVec 6) (la : BitVec 4) (dst win n : Sel) (df : Fmt) (rm : Rm)
  /-- R210: Zeroes long-accumulator windows. -/
  | wzero (tok : BitVec 6) (la : BitVec 4) (win n : Sel)
  /-- R218: Atomic read-modify-write returning the old value. -/
  | amo (am : BitVec 2) (w : Cls) (base d : Sel) (la : BitVec 4) (g : Bool) (op : AOp) (off : BitVec 48) (v : Sel)
  /-- R218: Atomic read-modify-write with no result. -/
  | red (am : BitVec 2) (w : Cls) (base : Sel) (g : Bool) (op : AOp) (off : BitVec 48) (v : Sel)
  /-- R218: Atomic compare-and-swap. -/
  | cas (am : BitVec 2) (w : Cls) (base d : Sel) (la : BitVec 4) (g : Bool) (off : BitVec 48) (v : Sel)
  /-- R225: Initialises a barrier entry. -/
  | bari (d h n : Sel) (la : BitVec 4)
  /-- R225: Arrives at a barrier without waiting. -/
  | bara (d h : Sel) (la : BitVec 4)
  /-- R225: Arrives at a barrier and sleeps until the episode ends. -/
  | barw (d h : Sel) (la : BitVec 4)
  /-- R231: Claims a name: maker, waiter, done or busy. -/
  | claim (d hd : Sel) (v : VReg) (la : BitVec 4)
  /-- R231: Collects a waiter record's outcome, sleeping while MAKING. -/
  | cwait (d hd : Sel) (v : VReg) (la : BitVec 4)
  /-- R234: Publishes the handle and wakes waiters. -/
  | fulfil (d : Sel) (v : VReg) (hv : Sel) (la : BitVec 4)
  /-- R231: Maker hands the entry to the oldest waiter. -/
  | abandon (d : Sel) (v : VReg) (la : BitVec 4)
  /-- R231: Returns a pin on a MADE entry. -/
  | unpin (d : Sel) (v : VReg) (la : BitVec 4)
  /-- R231: Inspects an entry without pinning. -/
  | cpeek (d hd : Sel) (v : VReg) (la : BitVec 4)
  /-- R304: Reads a control register. -/
  | csrr (d n : Sel)
  /-- R304: CSRR with a literal CSR number. -/
  | csrrLit (d : Sel) (n : Word)
  /-- R304: Writes a control register. -/
  | csrw (n s : Sel)
  /-- R304: CSRW with a literal CSR number. -/
  | csrwLit (n : Word) (s : Sel)
  /-- R304: Sets bits of a control register. -/
  | csrs (n s : Sel)
  /-- R304: CSRS with a literal CSR number. -/
  | csrsLit (n : Word) (s : Sel)
  /-- R304: Clears bits of a control register. -/
  | csrc (n s : Sel)
  /-- R304: CSRC with a literal CSR number. -/
  | csrcLit (n : Word) (s : Sel)
  /-- R305: Resumes, ends or holds the served strand from its trap frame. -/
  | eret (a : Sel)
  /-- R305: ERET with a literal mode. -/
  | eretLit (a : Word)
  /-- R306: Installs a checked TLB entry image. -/
  | tlbw (a s : Sel)
  /-- R306: TLBW with a literal image address. -/
  | tlbwLit (a : Word) (s : Sel)
  /-- R306: Invalidates TLB entries on a tile or the package. -/
  | tlbi (a s : Sel)
  /-- R306: TLBI with a literal address. -/
  | tlbiLit (a : Word) (s : Sel)
  /-- R304: Makes a HELD strand ready. -/
  | wake (a : Sel)
  /-- R304: WAKE with a literal strand number. -/
  | wakeLit (a : Word)
  /-- R307: Queries the lease range holding an address. -/
  | leaseq (d a : Sel)
  /-- R307: LEASEQ with a literal address. -/
  | leaseqLit (d : Sel) (a : Word)
  /-- R262: The arbiter places a chunk in the package order or aborts it. -/
  | chunkCommit (n : Nat)
  /-- R263: After eight aborts a chunk replays under an exclusive grant. -/
  | soloCommitGrant (n : Nat)
  /-- R261: The 256th instruction ends the chunk. -/
  | chunkInstructionLimit (n : Nat)
  /-- R143: A store needing a 65th entry ends the chunk and waits for commit. -/
  | storeBufferFull (n : Nat)
  /-- R142: Load data returns and writes the pending destination. -/
  | loadReply (n : Nat) (data : Reply)
  /-- R220: An atomic is applied indivisibly at its place. -/
  | atomicApplication (pkg : BitVec 10) (who : Issuer) (tag : Nat) (bit : Nat) (w : Cls) (op : Option AOp) (v e : Word)
  /-- R218: The old value returns to an AMO or CAS destination. -/
  | atomicReply (n : Nat) (data : Reply)
  /-- R158: A checked copy command enters its queue after its chunk commits. -/
  | copyCommandAcceptance (core : Nat)
  /-- R159: A 256-bit destination sector of a copy becomes visible. -/
  | copySectorWrite (core : Nat)
  /-- R152: The copy engine writes the command's token. -/
  | copyCommandCompletion (core : Nat)
  /-- R196: A matrix engine command is accepted after its chunk commits. -/
  | matrixCommandAcceptance (core : Nat)
  /-- R197: The matrix unit starts a command in acceptance order. -/
  | matrixCommandStart (core : Nat)
  /-- R198: The matrix command's writes are visible and its token is written. -/
  | matrixCommandCompletion (core : Nat)
  /-- R212: The owner's remote port takes a remote matrix command and checks it. -/
  | remoteCommandArrival (owner sender : Nat) (ctx : BitVec 8) (cap : Word) (image : BitVec 1024)
  /-- R243: A free strand takes the oldest lit wick of a victim. -/
  | steal (thief : Nat)
  /-- R251: A free strand takes the upper half of a victim's span. -/
  | spanSplit (thief : Nat)
  /-- R151: After draining, the task ends and the strand becomes free. -/
  | taskEnd (n : Nat)
  /-- R239: A strand that found nothing searches again after 2 µs. -/
  | workSearchRetry (n : Nat)
  /-- R256: A message frame arrives and is started, queued or refused. -/
  | messageFrameArrival (f : Frame)
  /-- R257: The service strand moves inbox frames to the overflow heap. -/
  | inboxSpill (core : Nat)
  /-- R257: Frames are replayed from the heap through the loop-back port. -/
  | inboxReplay (core : Nat)
  /-- R318: A frame not accepted in 10 ms completes with REMOTE_LOST. -/
  | sendmAcceptTimeout (n : Nat) (tok : BitVec 6)
  /-- R254: Every 10 µs the governor marks at most one core to move. -/
  | stageGovernorEvaluation (launch : Nat)
  /-- R254: A marked core moves to its new stage once all strands are free. -/
  | stageCoreMove (core : Nat)
  /-- R228: Freed clock bins are given or withdrawn. -/
  | tailwindBinChange (tile : Nat)
  /-- R135: After 250 ms in code wait the call traps CODE_UNAVAILABLE. -/
  | codeWaitExpiry (n : Nat)
  /-- R369: A code source's answer is checked, kept or passed over. -/
  | codeSourceAnswer (req : Nat) (a : SourceAnswer)
  /-- R369: A source's time limit passes and the next source is asked. -/
  | codeSourceTimeLimit (req : Nat)
  /-- R369: Thread 2 finishes or refuses translating a portable container. -/
  | codeTranslationEnd (req : Nat)
  /-- R364: An accepted record is installed and waiting strands retry. -/
  | codeInstall (req : Nat)
  /-- R365: Absent cold text is copied in and checked against COLDHASH. -/
  | coldTextFetch (handle : Nat)
  /-- R137: A poisoned line is refetched once, else CODE_POISON. -/
  | codePoisonRefetch (n : Nat) (clean : Bool)
  /-- R391: The shelf bucket and item reads complete. -/
  | codeShelfRead (req : Nat) (bucket : BitVec 512) (item : List Byte)
  /-- R388: A neighbour package answers a code-request flit. -/
  | codeRequestFlit (req : Nat) (a : CodeFlit)
  /-- R333: A core's miss request reaches its tile's thread 0. -/
  | tlbMiss (n : Nat)
  /-- R334: A probe reaches the home tile of a bucket. -/
  | tlbProbe (w : WalkId) (size : BitVec 2)
  /-- R334: A probe reply returns the matching entry or none. -/
  | tlbProbeReply (w : WalkId) (size : BitVec 2) (entry : Option (BitVec 128))
  /-- R334: An entry is installed in tile and core TLBs; joined accesses retry. -/
  | tlbFill (w : WalkId) (entry : BitVec 128)
  /-- R334: No entry: the access ends its task with TRANSLATION_ERROR. -/
  | tlbFail (w : WalkId)
  /-- R341: A notify write makes the command processor scan its queue. -/
  | queueNotify (q : Nat) (port : Option Nat)
  /-- R341: Each enabled queue is scanned every 100 µs. -/
  | queuePeriodicScan (q : Nat)
  /-- R351: Deficit round-robin visits partitions with waiting heads. -/
  | partitionServiceRound
  /-- R337: Every page is pinned with a valid entry; the lease becomes HELD. -/
  | leaseResident (launch : Nat)
  /-- R347: A validated launch binds free cores of its partition. -/
  | launchBind (launch : Nat)
  /-- R347: A member package receives and binds its copy of a pod launch. -/
  | launchForward (q : Nat) (record : LaunchMsg) (args : List Word)
  /-- R347: A member package's report reaches the originator. -/
  | memberReport (launch : Nat) (pkg : BitVec 10) (status cause : BitVec 8) (field : BitVec 16) (addr extra : Word)
  /-- R349: All strands free and no work left: the launch ends. -/
  | launchEnd (launch : Nat)
  /-- R337: Engine commands and remote stores drain; pins drop. -/
  | leaseDrained (launch : Nat)
  /-- R352: A head waiting 200 µs pre-empts lower-priority launches. -/
  | launchPreemption (part : Nat)
  /-- R353: A lantern thread assigns its 16 slots among partitions. -/
  | lanternFrameStart (tile thr : Nat)
  /-- R353: At a slot boundary the thread changes partition. -/
  | lanternSlotBoundary (tile thr : Nat)
  /-- R298: A trapping strand drains, writes its trap frame and migrates. -/
  | trapDelivery (n : Nat) (cause : BitVec 8) (addr extra : Word)
  /-- R298: Thread 1 starts serving a migrated strand. -/
  | trapHandlerStart (tile : Nat)
  /-- R314: A faulting lantern thread records LFAULT and restarts. -/
  | lanternThreadFault (n : Nat) (cause : BitVec 8) (addr extra : Word)
  /-- R300: A switch or scheduler asks strands to stop. -/
  | preemptionRequest (ctx : BitVec 8)
  /-- R270: A READY strand is saved at its next region boundary. -/
  | strandPreemption (n : Nat)
  /-- R301: After draining, a context's strand and core state is saved. -/
  | contextSave (ctx : BitVec 8)
  /-- R301: Saved state is written back before any strand issues. -/
  | contextRestore (ctx : BitVec 8)
  /-- R299: CTXSTATE write making a FREE context resident. -/
  | ctxResident (ctx : BitVec 8)
  /-- R299: CTXSTATE write suspending a resident context. -/
  | ctxSuspend (ctx : BitVec 8)
  /-- R299: CTXSTATE write making a suspended or swapped context resident. -/
  | ctxResume (ctx : BitVec 8)
  /-- R299: CTXSTATE write swapping a context out. -/
  | ctxSwapOut (ctx : BitVec 8)
  /-- R299: CTXSTATE write killing tasks and releasing the claim arena. -/
  | ctxTeardown (ctx : BitVec 8)
  /-- R299: All strands free and drained: the context becomes FREE. -/
  | ctxTeardownComplete (ctx : BitVec 8)
  /-- R303: Sets the descriptor address; ignored unless FREE. -/
  | ctxdescWrite (ctx : BitVec 8) (v : Word)
  /-- R303: Sets instruction-cache ways, invalidating removed ways. -/
  | icwaysWrite (tile : Nat) (ctx : BitVec 8) (v : Word)
  /-- R321: W1C write; clearing LASTING also clears LOGGED. -/
  | hstatWrite (unit : Nat) (v : Word)
  /-- R314: W1C of VALID, also clearing LOST. -/
  | lfstatWrite (thread : Nat) (v : Word)
  /-- R321: Sets the lasting window; out-of-range writes ignored. -/
  | hwinWrite (v : Word)
  /-- R338: Sets the page-table bucket bits; out-of-range ignored. -/
  | ptbitsWrite (v : Word)
  /-- R338: Sets the claim arena base after checks. -/
  | claimbaseWrite (ctx : BitVec 8) (v : Word)
  /-- R338: Sets the claim arena length, pinning or releasing it. -/
  | claimlenWrite (ctx : BitVec 8) (v : Word)
  /-- R9: Write to a register with no behaviour of its own. -/
  | registerWrite (num scope : Nat) (v : Word)
  /-- R378: RENEW restarts the host lease period or ends HOSTLESS. -/
  | hleaseRenew (port : Nat)
  /-- R377: Sets the renewal period; out-of-range writes ignored. -/
  | hleasePeriodWrite (port : Nat) (v : Word)
  /-- R378: The period ends without renewal. -/
  | hostLeaseExpiry
  /-- R378: Firmware sets DUAL; the lease becomes ACTIVE on A. -/
  | dualEnable
  /-- R378: Firmware clears DUAL; fences lifted, SINGLE. -/
  | dualClear
  /-- R378: A host port link goes down. -/
  | portLinkDown (port : Nat)
  /-- R375: After training or retrain the root ports are enumerated. -/
  | portEnumeration (port : Nat) (found : List (BitVec 256))
  /-- R392: A host write through BAR2 to an HBM granule. -/
  | bar2Write (port : Nat) (off : BarAt) (data : Tlp)
  /-- R393: A host read through BAR2, performed at one point of the order. -/
  | bar2Read (port : Nat) (off : BarAt) (len : Nat)
  /-- R376: A drive or host writes device memory after translation. -/
  | inboundWrite (port fn addr : Nat) (data : List Byte) (poisoned : Bool)
  /-- R376: A drive or host reads device memory after translation. -/
  | inboundRead (port fn addr len : Nat)
  /-- R149: A port accepts a posted I/O write. -/
  | iostAcceptance (port : Nat)
  /-- R149: An I/O read completion writes the destination. -/
  | ioldCompletion (n : Nat) (data : Word) (error : Bool)
  /-- R149: No completion in 50 ms: all ones and a logged error. -/
  | ioldTimeout (n : Nat)
  /-- R266: A remote load or store is performed at its home package. -/
  | remoteAccessArrival (pkg : BitVec 10) (who : Issuer) (tag : Nat) (bit : Nat) (w : Cls) (store : Option FarData)
  /-- R318: No remote reply in 10 ms traps REMOTE_LOST. -/
  | remoteReplyTimeout (n : Nat)
  /-- R386: A failed flit is retried at link level. -/
  | flitRetry (link : Nat)
  /-- R386: After 8 failed retries the link goes down. -/
  | podLinkDown (link : Nat)
  /-- R387: A flit is routed on; dropped after 8 hops. -/
  | flitForward (dest : BitVec 10) (hops : Nat) (body : Nat)
  /-- R387: Held traffic resumes on the alternate link after acknowledgement. -/
  | routeFailover (dest : BitVec 10)
  /-- R384: START begins a whole-memory checkpoint by quiescing. -/
  | ckptStart
  /-- R384: Contexts saved and NVMe commands done; writing begins. -/
  | checkpointQuiesced
  /-- R384: Commands not done in 1 s: checkpoint fails and contexts resume. -/
  | checkpointQuiesceTimeout
  /-- R384: All stripes written; flushes sent. -/
  | checkpointWritten
  /-- R384: A target write error fails the checkpoint. -/
  | checkpointWriteError
  /-- R384: Flushes complete: STATUS done, contexts resume. -/
  | checkpointFlushed
  /-- R385: RESTORE begins reading back the last good image. -/
  | ckptRestore
  /-- R385: Stripes checked and HBM written; contexts stand swapped out. -/
  | restoreComplete (image : Option (List (Nat × Byte)))
  /-- R401: A nonce write clears the report and ATTSTAT. -/
  | attestationNonceWrite (i : BitVec 3) (v : Word)
  /-- R400: Starts making an attestation report. -/
  | attreq (v : Word)
  /-- R400: The signed report stands and ATTSTAT reads 2. -/
  | attestationReportReady
  /-- R394: Boot ROM runs the bring-up sequence to readiness. -/
  | powerOn (p : PowerUp)
  /-- R402: 110 °C halts the package within 10 µs. -/
  | thermalHalt
  /-- R324: A tile or package limit sets LIMITING and withholds tailwind. -/
  | thermalLimit (tile : Nat)
  /-- R324: Clocks drop one 50 MHz bin until the condition clears. -/
  | throttleBinStep (core : Nat)
  /-- R321: A corrected error is counted and judged transient or lasting. -/
  | correctedError (unit addr : Nat)
  /-- R315: An uncorrectable error poisons containers and is logged. -/
  | uncorrectableError (unit bit : Nat) (src : ErrSource)
  /-- R317: An error in strand state replays the chunk or ends the task. -/
  | strandStateError (n : Nat) (recoverable : Bool)
  /-- R315: The scrubber reads every HBM sector each 24 hours. -/
  | patrolScrub (bit : Nat)
  /-- R221: Every 4,096 cycles each barometer counter falls by 1. -/
  | barometerDecay (tile : Nat)
  /-- R323: Hourly update of remaining-life estimates. -/
  | wearUpdate (unit : Nat)
  /-- R367: Trust or revocation change clears verified bits and flushes call caches. -/
  | trustListChange (part : Nat)
  /-- R267: Loss of supply, after which completed writes without Flush or FUA may be lost, HBM contents are gone and a fuse being blown is left old or new. -/
  | powerFailure
  /-- R324: Tile temperature and package power fall back below their limits, so LIMITING clears and throttling and the withholding of tailwind end. -/
  | thermalLimitCleared (tile : Nat)
  /-- R149: An IOST already accepted at its port fails beyond it, and the failure is logged with kind 4. -/
  | iostFailedBeyondPort (port : Nat) (ctx : BitVec 8) (addr : Word)
  /-- R231: A claim function's request reaches the name's home tile, possibly in another package, and performs its indivisible transition of R231 there. -/
  | claimRequestArrival (r : ClaimReq)
  /-- R374: A host's PCIe AtomicOp (FetchAdd, Swap or CAS) arriving at port A or B, for which the package is completer, is performed on device memory. -/
  | inboundAtomicop (port fn addr : Nat) (wide : Bool) (op : HostAtomic) (v e : Word)
  /-- R380: On a supervisor request, management firmware creates an NVMe I/O queue pair for a drive's bound context through the drive's admin queue. -/
  | ioQueuePairCreation (port fn : Nat) (depth : Nat) (sq cq : Word)
  /-- R397: After bring-up, firmware blows ROLLBACK bits up to its own version, which raises the minimum firmware version that will be accepted. -/
  | rollbackFuseBlow (count : Nat)
  deriving DecidableEq, Repr

end Sys2Proof
end

