-- ==== Sys2Proof/WellFormed.lean ====
section
/-! DEFINITION. Codes of the syntax's small types, and the static checks of R65 (steps 5 to 7) that a term of Instr can
fail: a term that passes is one the decoder can give. -/

namespace Sys2Proof

/-- The 7-bit code of a selector (R50). -/
def Sel.code : Sel → BitVec 7
  | .g n => 0#1 ++ n
  | .k n => 8#4 ++ n
  | .z n => 36#6 ++ n
  | .nil => 74
  | .sid => 75
  | .cid => 76
  | .clk => 77
  | .w n => 10#4 ++ n
  | .c n => 22#5 ++ n
  | .mb n => if n < 4 then 23#5 ++ n.extractLsb' 0 2 else 24#5 ++ n.extractLsb' 0 2
  | .sp => 100
  | .fp => 101
  | .tp => 102
  | .lp => 103
  | .slo => 104
  | .shi => 105

/-- The selector a code names, none for a reserved code (R50). -/
def Sel.ofCode (c : BitVec 7) : Option Sel :=
  let n := c.toNat
  if n < 64 then some (.g (BitVec.ofNat 6 n))
  else if n < 72 then some (.k (BitVec.ofNat 3 (n - 64)))
  else if n < 74 then some (.z (BitVec.ofNat 1 (n - 72)))
  else if n = 74 then some .nil
  else if n = 75 then some .sid
  else if n = 76 then some .cid
  else if n = 77 then some .clk
  else if n < 80 then none
  else if n < 88 then some (.w (BitVec.ofNat 3 (n - 80)))
  else if n < 92 then some (.c (BitVec.ofNat 2 (n - 88)))
  else if n < 100 then some (.mb (BitVec.ofNat 3 (n - 92)))
  else if n = 100 then some .sp
  else if n = 101 then some .fp
  else if n = 102 then some .tp
  else if n = 103 then some .lp
  else if n = 104 then some .slo
  else if n = 105 then some .shi
  else none

/-- The selectors an instruction may name as a destination (R50): general, small operand, nil, sp and fp. -/
def Sel.writable : Sel → Bool
  | .g _ | .k _ | .nil | .sp | .fp => true
  | _ => false

/-- Whether a selector names a general register. -/
def Sel.isG : Sel → Bool
  | .g _ => true
  | _ => false

/-- Whether a selector names a walk register. -/
def Sel.isW : Sel → Bool
  | .w _ => true
  | _ => false

/-- The W code of a class (R30). -/
def Cls.code : Cls → BitVec 4
  | .w1 => 0 | .w2 => 1 | .w3 => 2 | .w4 => 3 | .w6 => 4 | .w8 => 5 | .w16 => 6
  | .w32 => 7 | .w64 => 8 | .w128 => 9 | .w256 => 10 | .w512 => 11 | .w1024 => 12

/-- The class of a W code, none for 13 to 15 (R30). -/
def Cls.ofCode (c : BitVec 4) : Option Cls :=
  match c.toNat with
  | 0 => some .w1 | 1 => some .w2 | 2 => some .w3 | 3 => some .w4 | 4 => some .w6 | 5 => some .w8 | 6 => some .w16
  | 7 => some .w32 | 8 => some .w64 | 9 => some .w128 | 10 => some .w256 | 11 => some .w512 | 12 => some .w1024
  | _ => none

/-- The width in bits of one element of a class (R30). -/
def Cls.bits : Cls → Nat
  | .w1 => 1 | .w2 => 2 | .w3 => 3 | .w4 => 4 | .w6 => 6 | .w8 => 8 | .w16 => 16
  | .w32 => 32 | .w64 => 64 | .w128 => 128 | .w256 => 256 | .w512 => 512 | .w1024 => 1024

/-- The scalar classes w1 to w64 (R31). -/
def Cls.scalar (c : Cls) : Bool := c.bits ≤ 64

/-- The 5-bit type code (R62). -/
def Ty.code : Ty → BitVec 5
  | .s3 => 0 | .n3 => 1 | .s4 => 2 | .n4 => 3 | .s6 => 4 | .n6 => 5 | .s8 => 6 | .n8 => 7 | .s16 => 8 | .n16 => 9
  | .s32 => 10 | .n32 => 11 | .s64 => 12 | .n64 => 13 | .e4m3 => 14 | .e5m2 => 15 | .f16 => 16 | .bf16 => 17 | .f32 => 18

/-- The type of a code, none for 19 to 31 (R62). -/
def Ty.ofCode (c : BitVec 5) : Option Ty :=
  match c.toNat with
  | 0 => some .s3 | 1 => some .n3 | 2 => some .s4 | 3 => some .n4 | 4 => some .s6 | 5 => some .n6 | 6 => some .s8
  | 7 => some .n8 | 8 => some .s16 | 9 => some .n16 | 10 => some .s32 | 11 => some .n32 | 12 => some .s64
  | 13 => some .n64 | 14 => some .e4m3 | 15 => some .e5m2 | 16 => some .f16 | 17 => some .bf16 | 18 => some .f32
  | _ => none

/-- The width in bits of an element type (R69, R70). -/
def Ty.bits : Ty → Nat
  | .s3 | .n3 => 3
  | .s4 | .n4 => 4
  | .s6 | .n6 => 6
  | .s8 | .n8 | .e4m3 | .e5m2 => 8
  | .s16 | .n16 | .f16 | .bf16 => 16
  | .s32 | .n32 | .f32 => 32
  | .s64 | .n64 => 64

/-- The floating-point types (R70). -/
def Ty.isFloat : Ty → Bool
  | .e4m3 | .e5m2 | .f16 | .bf16 | .f32 => true
  | _ => false

/-- The signed integer types (R69). -/
def Ty.isSigned : Ty → Bool
  | .s3 | .s4 | .s6 | .s8 | .s16 | .s32 | .s64 => true
  | _ => false

/-- The integer types, codes 0 to 13 (R171). -/
def Ty.isInt (t : Ty) : Bool := !t.isFloat

/-- The types that have lanes in the vector unit: all but e4m3 and e5m2 (R72, R165). -/
def Ty.hasLanes : Ty → Bool
  | .e4m3 | .e5m2 => false
  | _ => true

/-- The class whose slots elements of a type occupy (R165). -/
def Ty.cls : Ty → Cls
  | .s3 | .n3 => .w3
  | .s4 | .n4 => .w4
  | .s6 | .n6 => .w6
  | .s8 | .n8 | .e4m3 | .e5m2 => .w8
  | .s16 | .n16 | .f16 | .bf16 => .w16
  | .s32 | .n32 | .f32 => .w32
  | .s64 | .n64 => .w64

/-- The rounding-mode code (R59). -/
def Rm.code : Rm → BitVec 3
  | .ne => 0 | .tz => 1 | .dn => 2 | .up => 3 | .na => 4

/-- The mode of a code, none for 5 to 7 (R59). -/
def Rm.ofCode (c : BitVec 3) : Option Rm :=
  match c.toNat with
  | 0 => some .ne | 1 => some .tz | 2 => some .dn | 3 => some .up | 4 => some .na
  | _ => none

/-- The operation code of an atomic (R217). -/
def AOp.code : AOp → BitVec 4
  | .add => 0 | .smin => 1 | .smax => 2 | .nmin => 3 | .nmax => 4 | .fadd => 5 | .bfadd => 6 | .fmax => 7 | .fmin => 8
  | .and => 9 | .or => 10 | .xor => 11 | .swap => 12

/-- The operation of a code, none for 13 to 15 (R217). -/
def AOp.ofCode (c : BitVec 4) : Option AOp :=
  match c.toNat with
  | 0 => some .add | 1 => some .smin | 2 => some .smax | 3 => some .nmin | 4 => some .nmax | 5 => some .fadd
  | 6 => some .bfadd | 7 => some .fmax | 8 => some .fmin | 9 => some .and | 10 => some .or | 11 => some .xor
  | 12 => some .swap
  | _ => none

/-- The classes an atomic operation accepts (R217). -/
def AOp.accepts (o : AOp) (c : Cls) : Bool :=
  match o with
  | .fadd | .fmax | .fmin => c == .w16 || c == .w32
  | .bfadd => c == .w16
  | _ => c.scalar

/-- The number of elements in a group (R73). -/
def Grp.size : Grp → Nat
  | .g32 => 32 | .g64 => 64 | .g128 => 128

/-- The group code (R63, R167). -/
def Grp.code : Grp → BitVec 2
  | .g32 => 0 | .g64 => 1 | .g128 => 2

/-- The group size of a code, none for 3 (R63). -/
def Grp.ofCode (c : BitVec 2) : Option Grp :=
  match c.toNat with
  | 0 => some .g32 | 1 => some .g64 | 2 => some .g128
  | _ => none

/-- The element code of a grouped format (R63). -/
def QElt.code : QElt → BitVec 2
  | .q3 => 0 | .q4 => 1 | .q6 => 2 | .q8 => 3

/-- The grouped element of a code (R63). -/
def QElt.ofCode (c : BitVec 2) : QElt :=
  match c.toNat with
  | 0 => .q3 | 1 => .q4 | 2 => .q6 | _ => .q8

/-- The type nW of the codes of a grouped element (R73). -/
def QElt.ty : QElt → Ty
  | .q3 => .n3 | .q4 => .n4 | .q6 => .n6 | .q8 => .n8

/-- The 6-bit copy format code (R155). -/
def Fmt.code : Fmt → BitVec 6
  | .ty t => 0#1 ++ t.code
  | .grouped e g => 2#2 ++ e.code ++ g.code

/-- The copy format of a code, none for a reserved one (R155). -/
def Fmt.ofCode (c : BitVec 6) : Option Fmt :=
  if c.toNat < 32 then (Ty.ofCode (c.extractLsb' 0 5)).map .ty
  else if c.toNat < 48 then (Grp.ofCode (c.extractLsb' 0 2)).map (.grouped (QElt.ofCode (c.extractLsb' 2 2)))
  else none

/-- Whether a copy format is grouped (R155). -/
def Fmt.isGrouped : Fmt → Bool
  | .grouped _ _ => true
  | .ty _ => false

/-- The type of a format's stored elements. -/
def Fmt.elt : Fmt → Ty
  | .ty t => t
  | .grouped e _ => e.ty

/-- The formats `MWLD` and `MGRP` accept as weights (R199). -/
def Fmt.isWeight : Fmt → Bool
  | .grouped _ _ => true
  | .ty t => match t with
    | .s3 | .n3 | .s4 | .n4 | .s6 | .n6 | .s8 | .n8 | .f16 | .bf16 => true
    | _ => false

/-- The formats a stream accepts as activations (R199). -/
def Fmt.isActivation : Fmt → Bool
  | .ty .s8 | .ty .n8 | .ty .f16 | .ty .bf16 | .ty .e4m3 | .ty .e5m2 => true
  | _ => false

/-- The formats of `ADDW` and `WNORM` (R199). -/
def Fmt.isWindow : Fmt → Bool
  | .ty .f16 | .ty .bf16 | .ty .f32 => true
  | _ => false

/-- The destination formats of `CPYR` (R160). -/
def Fmt.isReduce : Fmt → Bool
  | .ty t => 8 ≤ t.bits && t.hasLanes
  | .grouped _ _ => false

/-- The X codes that a type pair of `FCVT` admits (R111): SAT 0 or 1 for integer pairs, else a rounding mode. -/
def fcvtX (td ts : Ty) (x : BitVec 4) : Bool :=
  if td.isInt && ts.isInt then x.toNat ≤ 1 else x.toNat ≤ 4

/-- The types `FCVT` takes (R111): the pair n64, n64 is `FSX` or `FSR`. -/
def fcvtTypes (td ts : Ty) : Bool :=
  td.hasLanes && ts.hasLanes && !(td == .n64 && ts == .n64)

/-- OFF48 and IDX fields that AM leaves unused are zero (R57, R58). -/
def memFields (am : BitVec 2) (off : BitVec 48) (idx : Sel) : Bool :=
  (am == 0 || off == 0) && (am == 2 || idx == .g 0)

/-- As `memFields` where IDX has another use (R144, R216). -/
def offField (am : BitVec 2) (off : BitVec 48) : Bool := am == 0 || off == 0

/-- The vector width classes w128 to w1024 (R144). -/
def Cls.vector (c : Cls) : Bool := !c.scalar

/-- The classes of `IOLD` and `IOST`, w8 to w64 (R148). -/
def Cls.io (c : Cls) : Bool := 8 ≤ c.bits && c.bits ≤ 64

/-- The copy commands' P4 field: zero unless a side is grouped (R156). -/
def copyP4 (p4 : Sel) (f : CopyFlags) : Bool := f.sfmt.isGrouped || f.dfmt.isGrouped || p4 == .g 0

/-- The weight formats of a code lane type in `VQNT` and its kin: codes 0 to 7 (R179). -/
def Ty.isCode : Ty → Bool
  | .s3 | .n3 | .s4 | .n4 | .s6 | .n6 | .s8 | .n8 => true
  | _ => false

/-- f16, bf16 and f32 (R171). -/
def Ty.isVFloat (t : Ty) : Bool := t.isFloat && t.hasLanes

/-- The number of lanes of an element type (R165). -/
def Ty.lanes (t : Ty) : Nat :=
  match t.bits with
  | 3 => 336 | 4 => 256 | 6 => 160 | 8 => 128 | 16 => 64 | 32 => 32 | _ => 16

/-- RM only for a floating type (R171). -/
def rmOf (t : Ty) (rm : Rm) : Bool := t.isFloat || rm == .ne

/-- SAT only for an integer pair, RM only for a pair with a floating type (R176). -/
def convFields (t t2 : Ty) (rm : Rm) (sat : Bool) : Bool :=
  if t.isInt && t2.isInt then rm == .ne else !sat

/-- The types of each `VRED` operation (R177): 0 to 2 any, 3 and 4 floating, 5 to 7 integer. -/
def vredOk (op : BitVec 4) (t : Ty) (rm : Rm) (sat : Bool) : Bool :=
  t.hasLanes && (match op.toNat with
  | 0 => if t.isFloat then !sat else rm == .ne
  | 1 | 2 => !sat && rm == .ne
  | 3 | 4 => t.isFloat && !sat && rm == .ne
  | 5 | 6 | 7 => t.isInt && !sat && rm == .ne
  | _ => false)

/-- The static well-formedness of an instruction: what steps 4 to 7 of R65 ask of its fields. The steps of other
agents carry no encoding and are well formed. -/
def WellFormed : Instr → Bool
  | .add d _ _ | .sub d _ _ | .and d _ _ | .or d _ _ | .xor d _ _ | .andn d _ _ | .min d _ _ | .max d _ _
  | .minu d _ _ | .maxu d _ _ | .shl d _ _ | .shr d _ _ | .shra d _ _ | .rot d _ _ | .mul d _ _ | .mulh d _ _
  | .mulhu d _ _ | .div d _ _ | .divu d _ _ | .rem d _ _ | .remu d _ _ | .seteq d _ _ | .setlt d _ _
  | .setltu d _ _ | .setne d _ _ | .setge d _ _ | .setgeu d _ _ | .adds d _ _ | .subs d _ _ | .csel d _ _
  | .absd d _ _ | .fadd d _ _ | .fsub d _ _ | .fmul d _ _ | .fdiv d _ _ | .fmin d _ _ | .fmax d _ _
  | .fminn d _ _ | .fmaxn d _ _ | .fma d _ _ | .fms d _ _ | .fcmpeq d _ _ | .fcmplt d _ _ | .fcmple d _ _ => d.writable
  | .addLit d _ _ | .subLit d _ _ | .andLit d _ _ | .orLit d _ _ | .xorLit d _ _ | .andnLit d _ _ | .minLit d _ _
  | .maxLit d _ _ | .minuLit d _ _ | .maxuLit d _ _ | .shlLit d _ _ | .shrLit d _ _ | .shraLit d _ _
  | .rotLit d _ _ | .mulLit d _ _ | .mulhLit d _ _ | .mulhuLit d _ _ | .divLit d _ _ | .divuLit d _ _
  | .remLit d _ _ | .remuLit d _ _ | .seteqLit d _ _ | .setltLit d _ _ | .setltuLit d _ _ | .setneLit d _ _
  | .setgeLit d _ _ | .setgeuLit d _ _ | .addsLit d _ _ | .subsLit d _ _ | .cselLit d _ _ | .absdLit d _ _
  | .faddLit d _ _ | .fsubLit d _ _ | .fmulLit d _ _ | .fdivLit d _ _ | .fminLit d _ _ | .fmaxLit d _ _
  | .fminnLit d _ _ | .fmaxnLit d _ _ | .fmaLit d _ _ | .fmsLit d _ _ | .fcmpeqLit d _ _ | .fcmpltLit d _ _
  | .fcmpleLit d _ _ => d.writable
  | .fsqrt d _ | .frcp d _ | .fclass d _ | .mov d _ | .neg d _ | .not d _ | .clz d _ | .ctz d _ | .popc d _
  | .brev d _ | .sext d _ | .zext d _ | .pcore d _ | .fsx d _ => d.writable
  | .movLit d _ | .negLit d _ | .notLit d _ | .clzLit d _ | .ctzLit d _ | .popcLit d _ | .brevLit d _
  | .sextLit d _ | .zextLit d _ | .movi d _ | .moviLit d _ | .fsr d | .rnext d => d.writable
  | .addi d _ _ | .andi d _ _ | .ori d _ _ | .xori d _ _ | .setlti d _ _ => d.writable
  | .shli d _ _ | .shri d _ _ | .shrai d _ _ | .roti d _ _ => d.writable
  | .extb d _ _ pos wid | .extbs d _ _ pos wid | .insb d _ _ pos wid =>
    d.writable && wid != 0 && pos.toNat + wid.toNat ≤ 64
  | .padd d _ _ _ | .psub d _ _ _ | .pdiff d _ _ _ | .pchk d _ _ _ | .pwin d _ _ _ => d.writable
  | .paln d _ _ => d.writable
  | .fcvt d _ td ts x => d.writable && fcvtTypes td ts && fcvtX td ts x
  | .bwend a _ _ | .bwendExt a _ _ => a.isW
  | .bwendLit a _ _ | .bwendExtLit a _ _ => a.isW
  | .wget d _ item _ => d.writable && item.toNat ≤ 8
  | .range a => a.isG
  | .enq d _ | .deq d _ => d.writable
  | .enqLit d _ | .deqLit d _ => d.writable
  | .ldp _ w _ d _ | .ldg _ w _ d _ | .ldk _ w _ d _ => w.scalar && d.writable
  | .ldpExt am w _ d _ off idx _ | .ldgExt am w _ d _ off idx _ | .ldkExt am w _ d _ off idx _ =>
    w.scalar && d.writable && memFields am off idx
  | .stp _ w _ _ | .stg _ w _ _ => w.scalar
  | .stpExt am w _ _ off idx | .stgExt am w _ _ off idx => w.scalar && memFields am off idx
  | .vldp _ w _ _ _ | .vldg _ w _ _ _ => w.vector
  | .vldpExt am w _ _ _ off | .vldgExt am w _ _ _ off => w.vector && offField am off
  | .vstp _ w _ _ | .vstg _ w _ _ => w.vector
  | .vstpExt am w _ _ off _ | .vstgExt am w _ _ off _ => w.vector && offField am off
  | .vgath w _ _ _ _ _ => w.scalar
  | .vscat w _ _ _ _ => w.scalar
  | .iold _ w _ d _ => w.io && d.writable
  | .ioldExt am w _ d _ off idx => w.io && d.writable && memFields am off idx
  | .iost am w _ _ off idx => w.io && memFields am off idx
  | .cpy _ _ _ _ _ p4 f => copyP4 p4 f
  | .cpyr _ _ _ _ _ p4 f => copyP4 p4 f && f.dfmt.isReduce
  | .cpym _ _ _ _ _ p4 _ f => copyP4 p4 f
  | .cpys _ _ _ _ _ p4 _ f => copyP4 p4 f && !f.dsp
  | .tpoll d _ _ => d.writable
  | .twaita d _ _ _ => d.writable
  | .vadd t _ _ _ _ rm | .vsub t _ _ _ _ rm | .vmul t _ _ _ _ rm => t.hasLanes && rmOf t rm
  | .vfma t _ _ _ _ _ rm | .vfms t _ _ _ _ _ rm => t.hasLanes && rmOf t rm
  | .vmin t _ _ _ _ | .vmax t _ _ _ _ | .vsel t _ _ _ _ => t.hasLanes
  | .vminn t _ _ _ _ | .vmaxn t _ _ _ _ => t.isVFloat
  | .vadds t _ _ _ _ | .vsubs t _ _ _ _ | .vmulh t _ _ _ _ | .vand t _ _ _ _ | .vor t _ _ _ _ | .vxor t _ _ _ _
  | .vandn t _ _ _ _ => t.isInt
  | .vabs t _ _ _ sat | .vneg t _ _ _ sat => t.hasLanes && (t.isInt || !sat)
  | .vnot t _ _ _ => t.isInt
  | .vclass t _ _ _ => t.isVFloat
  | .vshl t _ _ _ _ | .vshr t _ _ _ _ | .vshra t _ _ _ _ => t.isInt
  | .vcmpeq t _ _ _ _ | .vcmpne t _ _ _ _ | .vcmplt t _ _ _ _ | .vcmple t _ _ _ _ => t.hasLanes
  | .vshuf t t2 _ _ _ _ => t.hasLanes && 8 ≤ t.bits && (t2 == .n8 || t2 == .n16) && t.lanes ≤ t2.lanes
  | .vbcast t _ _ _ => t.hasLanes
  | .vidx t _ _ _ => t.isInt
  | .vslide t _ _ _ _ n => t.hasLanes && n.toNat ≤ t.lanes
  | .vmovs t d _ n => t.hasLanes && n.toNat < t.lanes && d.writable
  | .vmovv t _ _ n => t.hasLanes && n.toNat < t.lanes
  | .vpack t t2 _ _ _ n _ => t.isInt && t2.isInt && t.bits < t2.bits && n.toNat < t.lanes
  | .vunpk t t2 _ _ _ n _ => t.isInt && t2.isInt && t2.bits < t.bits && n.toNat < t2.lanes
  | .vred t _ op d _ rm sat => vredOk op t rm sat && d.writable
  | .vcvt t t2 _ _ _ _ n rm sat => t.hasLanes && t2.hasLanes && convFields t t2 rm sat && n.toNat < 2 * t2.lanes
  | .vqnt t t2 _ _ _ _ _ n _ | .vqdiv t t2 _ _ _ _ _ n _ => t.isCode && t2.isVFloat && n.toNat < t.lanes
  | .vdqnt t t2 _ _ _ _ _ n _ => t.isVFloat && t2.isCode && n.toNat < t2.lanes
  | .vsend _ cons sp s => cons != 0 && (cons.getLsbD 2 || (!sp && s == .g 0))
  | .vitp t t2 _ _ _ _ _ => t.isVFloat && t2.isVFloat && ((t == .f32) == (t2 == .f32))
  | .mcnt t d _ | .mfirst t d _ => t.hasLanes && d.writable
  | .mgetg d _ _ => d.writable
  | .mwld _ _ _ _ _ _ wf _ => wf.isWeight
  | .mstrm _ _ _ _ _ _ af _ _ => af.isActivation
  | .mgrp _ _ _ _ _ _ af wf _ => af.isActivation && wf.isWeight
  | .mdrn _ _ _ _ e df _ _ _ _ clr => !df.isGrouped && (clr || e == .g 0)
  | .addw _ _ _ _ _ sf => sf.isWindow
  | .wnorm _ _ _ _ _ df _ => df.isWindow
  | .amo am w _ d _ _ op off _ => op.accepts w && d.writable && offField am off
  | .red am w _ _ op off _ => op.accepts w && offField am off
  | .cas am w _ d _ _ off _ => w.scalar && d.writable && offField am off
  | .bari d _ _ _ => d.writable
  | .bara d _ _ | .barw d _ _ => d.writable
  | .claim d hd _ _ | .cwait d hd _ _ | .cpeek d hd _ _ => d.writable && hd.writable
  | .fulfil d _ _ _ => d.writable
  | .abandon d _ _ | .unpin d _ _ => d.writable
  | .csrr d _ | .leaseq d _ => d.writable
  | .csrrLit d _ | .leaseqLit d _ => d.writable
  | _ => true

end Sys2Proof
end

