-- ==== Sys2Proof/Decode.lean ====
section
/-! DEFINITION. The decoder of R51 to R65, total on any words and naming the reason of each rejection, and the encoder,
from the same tables. -/

namespace Sys2Proof

/-- Why words are no instruction: a reason code of R65, or words that end inside the instruction. A rejection with
reason 8 or 9 comes after the budget check, so it carries the instruction whose registers that check reads. -/
inductive Illegal where
  /-- `ILLEGAL_INSTRUCTION` with this reason (R65). -/
  | reason (r : Nat)
  /-- Reason 8 or 9, found after the budget check and the earlier conditions of `i` (R65, steps 8 to 10). -/
  | late (r : Nat) (i : Instr)
  /-- The list of words ends before the instruction does (R51). -/
  | short
  deriving DecidableEq, Repr

/-- What decoding answers. -/
abbrev Decoded := Except Illegal Instr

/-- Goes on when `b` holds, and otherwise rejects with reason `r`. -/
def need (b : Bool) (r : Nat) (k : Decoded) : Decoded := if b then k else .error (.reason r)

/-- Reads a selector (R65 step 7). -/
def selK (c : BitVec 7) (k : Sel → Decoded) : Decoded :=
  match Sel.ofCode c with
  | some s => k s
  | none => .error (.reason 6)

/-- Reads a selector named as a destination (R65 step 7). -/
def dstK (c : BitVec 7) (k : Sel → Decoded) : Decoded :=
  match Sel.ofCode c with
  | some s => if s.writable then k s else .error (.reason 6)
  | none => .error (.reason 6)

/-- Reads a selector that must name a general register, as its number: a token or its kind (R152, R195). -/
def gK (c : BitVec 7) (k : BitVec 6 → Decoded) : Decoded :=
  if c.getLsbD 6 then .error (.reason 6) else k (c.extractLsb' 0 6)

/-- Reads a width class (R65 step 6). -/
def clsK (c : BitVec 4) (k : Cls → Decoded) : Decoded :=
  match Cls.ofCode c with
  | some s => k s
  | none => .error (.reason 5)

/-- Reads a type code (R65 step 6). -/
def tyK (c : BitVec 5) (k : Ty → Decoded) : Decoded :=
  match Ty.ofCode c with
  | some s => k s
  | none => .error (.reason 5)

/-- Reads a rounding mode (R65 step 6). -/
def rmK (c : BitVec 3) (k : Rm → Decoded) : Decoded :=
  match Rm.ofCode c with
  | some s => k s
  | none => .error (.reason 5)

/-- Reads a SAT code (R59). -/
def satK (c : BitVec 2) (k : Bool → Decoded) : Decoded :=
  if c.getLsbD 1 then .error (.reason 5) else k (c.getLsbD 0)

/-- Reads a copy format (R155). -/
def fmtK (c : BitVec 6) (k : Fmt → Decoded) : Decoded :=
  match Fmt.ofCode c with
  | some s => k s
  | none => .error (.reason 5)

/-- Rejects with reason 9 an instruction without a pending destination whose LA is nonzero (R60 rule 1). -/
def noLa (w : CodeWord) (i : Instr) : Decoded :=
  if w.extractLsb' 8 4 = 0 then .ok i else .error (.late 9 i)

/-- The LEN field (R51). -/
def lenOf (w : CodeWord) : BitVec 2 := w.extractLsb' 0 2

/-- The major opcode (R51). -/
def majorOf (w : CodeWord) : BitVec 6 := w.extractLsb' 2 6

/-- The number of words of an instruction whose LEN is `len` (R51). -/
def lenWords (len : BitVec 2) : Nat :=
  match len.toNat with
  | 0 => 1 | 1 => 3 | 2 => 3 | _ => 5

/-- The three-operand functions of majors 0x01 to 0x04, 0x10 and 0x11, numbered 8 × major + F (R64), in their two forms. -/
def rrrOp (n : Nat) : Option ((Sel → Sel → Sel → Instr) × (Sel → Sel → Word → Instr)) :=
  match n with
  | 8 => some (.add, .addLit)
  | 9 => some (.sub, .subLit)
  | 10 => some (.and, .andLit)
  | 11 => some (.or, .orLit)
  | 12 => some (.xor, .xorLit)
  | 13 => some (.andn, .andnLit)
  | 14 => some (.min, .minLit)
  | 15 => some (.max, .maxLit)
  | 16 => some (.minu, .minuLit)
  | 17 => some (.maxu, .maxuLit)
  | 18 => some (.shl, .shlLit)
  | 19 => some (.shr, .shrLit)
  | 20 => some (.shra, .shraLit)
  | 21 => some (.rot, .rotLit)
  | 22 => some (.mul, .mulLit)
  | 23 => some (.mulh, .mulhLit)
  | 24 => some (.mulhu, .mulhuLit)
  | 25 => some (.div, .divLit)
  | 26 => some (.divu, .divuLit)
  | 27 => some (.rem, .remLit)
  | 28 => some (.remu, .remuLit)
  | 29 => some (.seteq, .seteqLit)
  | 30 => some (.setlt, .setltLit)
  | 31 => some (.setltu, .setltuLit)
  | 32 => some (.setne, .setneLit)
  | 33 => some (.setge, .setgeLit)
  | 34 => some (.setgeu, .setgeuLit)
  | 35 => some (.adds, .addsLit)
  | 36 => some (.subs, .subsLit)
  | 37 => some (.csel, .cselLit)
  | 38 => some (.absd, .absdLit)
  | 128 => some (.fadd, .faddLit)
  | 129 => some (.fsub, .fsubLit)
  | 130 => some (.fmul, .fmulLit)
  | 131 => some (.fdiv, .fdivLit)
  | 132 => some (.fmin, .fminLit)
  | 133 => some (.fmax, .fmaxLit)
  | 134 => some (.fminn, .fminnLit)
  | 135 => some (.fmaxn, .fmaxnLit)
  | 136 => some (.fma, .fmaLit)
  | 137 => some (.fms, .fmsLit)
  | 140 => some (.fcmpeq, .fcmpeqLit)
  | 141 => some (.fcmplt, .fcmpltLit)
  | 142 => some (.fcmple, .fcmpleLit)
  | _ => none

/-- The one-operand functions of major 0x0B by FN6 (R101), in their two forms. -/
def uOp (n : Nat) : Option ((Sel → Sel → Instr) × (Sel → Word → Instr)) :=
  match n with
  | 0 => some (.mov, .movLit)
  | 1 => some (.neg, .negLit)
  | 2 => some (.not, .notLit)
  | 3 => some (.clz, .clzLit)
  | 4 => some (.ctz, .ctzLit)
  | 5 => some (.popc, .popcLit)
  | 6 => some (.brev, .brevLit)
  | 7 => some (.sext, .sextLit)
  | 8 => some (.zext, .zextLit)
  | _ => none

/-- Formats RRR of majors 0x01 to 0x04, 0x10 and 0x11 (R95, R105). -/
def decRRR (w : CodeWord) (l : Word) (ops : (Sel → Sel → Sel → Instr) × (Sel → Sel → Word → Instr)) : Decoded :=
  if lenOf w = 2 then
    need (w.extractLsb' 22 7 == 0) 4 <| dstK (w.extractLsb' 8 7) fun d => selK (w.extractLsb' 15 7) fun a => .ok (ops.2 d a l)
  else
    dstK (w.extractLsb' 8 7) fun d => selK (w.extractLsb' 15 7) fun a => selK (w.extractLsb' 22 7) fun b => .ok (ops.1 d a b)

/-- `FSQRT`, `FRCP` and `FCLASS`: B zero and LEN 0b00 (R108). -/
def decRR (w : CodeWord) (op : Sel → Sel → Instr) : Decoded :=
  need (w.extractLsb' 22 7 == 0 && lenOf w == 0) 4 <|
    dstK (w.extractLsb' 8 7) fun d => selK (w.extractLsb' 15 7) fun a => .ok (op d a)

/-- Format RI (R99). -/
def decRI (w : CodeWord) (op : Sel → Sel → BitVec 10 → Instr) : Decoded :=
  dstK (w.extractLsb' 8 7) fun d => selK (w.extractLsb' 15 7) fun a => .ok (op d a (w.extractLsb' 22 10))

/-- Major 0x09: IMM10 bits 9:8 zero (R59, R100). -/
def decShift (w : CodeWord) : Decoded :=
  need (w.extractLsb' 30 2 == 0) 4 <|
    dstK (w.extractLsb' 8 7) fun d => selK (w.extractLsb' 15 7) fun a =>
      let n := w.extractLsb' 22 6
      match (w.extractLsb' 28 2).toNat with
      | 0 => .ok (.shli d a n)
      | 1 => .ok (.shri d a n)
      | 2 => .ok (.shrai d a n)
      | _ => .ok (.roti d a n)

/-- Major 0x0B (R101). -/
def decU (w : CodeWord) (l : Word) : Decoded :=
  match uOp (w.extractLsb' 22 6).toNat with
  | none => .error (.reason 3)
  | some ops =>
    if lenOf w = 2 then
      need (w.extractLsb' 28 4 == 0 && w.extractLsb' 15 7 == 0) 4 <| dstK (w.extractLsb' 8 7) fun d => .ok (ops.2 d l)
    else
      need (w.extractLsb' 28 4 == 0) 4 <| dstK (w.extractLsb' 8 7) fun d => selK (w.extractLsb' 15 7) fun a => .ok (ops.1 d a)

/-- Major 0x0C (R102). -/
def decI (w : CodeWord) (l : Word) : Decoded :=
  if lenOf w = 2 then
    need (w.extractLsb' 15 17 == 0) 4 <| dstK (w.extractLsb' 8 7) fun d => .ok (.moviLit d l)
  else dstK (w.extractLsb' 8 7) fun d => .ok (.movi d (w.extractLsb' 15 17))

/-- The b operand of a major whose literal stands for B (R54). -/
def srcK (w : CodeWord) (l : Word) (k : Src → Decoded) : Decoded :=
  if lenOf w = 3 then k (.lit l) else selK (w.extractLsb' 22 7) fun b => k (.sel b)

/-- Major 0x0D (R103). -/
def decField (w : CodeWord) (x l : Word) : Decoded :=
  let pos := x.extractLsb' 0 6
  let wid := x.extractLsb' 6 7
  let f := (w.extractLsb' 29 3).toNat
  need (f < 3) 3 <|
  need (x.extractLsb' 13 51 == 0 && (lenOf w != 3 || w.extractLsb' 22 7 == 0) && wid != 0
    && pos.toNat + wid.toNat ≤ 64) 4 <|
  dstK (w.extractLsb' 8 7) fun d => selK (w.extractLsb' 15 7) fun a => srcK w l fun b =>
  match f with
  | 0 => .ok (.extb d a b pos wid)
  | 1 => .ok (.extbs d a b pos wid)
  | _ => .ok (.insb d a b pos wid)

/-- Major 0x0E (R104). -/
def decPtr (w : CodeWord) (x l : Word) : Decoded :=
  let f := (w.extractLsb' 29 3).toNat
  need (f < 7) 3 <|
  need (x.extractLsb' 4 60 == 0 && (lenOf w != 3 || w.extractLsb' 22 7 == 0)
    && ((f != 3 && f != 6) || (w.extractLsb' 22 7 == 0 && lenOf w == 1)) && (f != 6 || x.extractLsb' 0 4 == 0)) 4 <|
  clsK (x.extractLsb' 0 4) fun c =>
  dstK (w.extractLsb' 8 7) fun d => selK (w.extractLsb' 15 7) fun a =>
  match f with
  | 3 => .ok (.paln d a c)
  | 6 => .ok (.pcore d a)
  | _ => srcK w l fun b =>
    match f with
    | 0 => .ok (.padd d a b c)
    | 1 => .ok (.psub d a b c)
    | 2 => .ok (.pdiff d a b c)
    | 4 => .ok (.pchk d a b c)
    | _ => .ok (.pwin d a b c)

/-- Major 0x12: `FCVT`, and the pair n64, n64 as `FSX` and `FSR` (R80, R111). DEDUCED: that pair under LEN 0b11 is
neither form and is refused with reason 4 (log 10). -/
def decCvt (w : CodeWord) (x l : Word) : Decoded :=
  let xx := w.extractLsb' 28 4
  need (w.extractLsb' 22 6 == 0) 3 <|
  if x.extractLsb' 0 10 = 429 then
    need (x.extractLsb' 10 54 == 0 && lenOf w == 1 && xx.toNat < 2 && (xx == 0 || w.extractLsb' 15 7 == 74)) 4 <|
    dstK (w.extractLsb' 8 7) fun d =>
      if xx = 0 then selK (w.extractLsb' 15 7) fun a => .ok (.fsx d a) else .ok (.fsr d)
  else
    need (x.extractLsb' 10 54 == 0 && (lenOf w != 3 || w.extractLsb' 15 7 == 0)) 4 <|
    tyK (x.extractLsb' 5 5) fun td => tyK (x.extractLsb' 0 5) fun ts =>
    need (fcvtTypes td ts && fcvtX td ts xx) 5 <|
    dstK (w.extractLsb' 8 7) fun d =>
      if lenOf w = 3 then .ok (.fcvt d (.lit l) td ts xx)
      else selK (w.extractLsb' 15 7) fun a => .ok (.fcvt d (.sel a) td ts xx)

/-- Major 0x19: the compare-and-branch functions and `BNZ` (R115). -/
def decBC (w : CodeWord) (x l : Word) : Decoded :=
  let len := (lenOf w).toNat
  let ext := len == 1 || len == 3
  let lit := len == 2 || len == 3
  let cond := (w.extractLsb' 22 3).toNat
  let o7 := w.extractLsb' 25 7
  let o32 := x.extractLsb' 0 32
  need ((!ext || (o7 == 0 && x.extractLsb' 32 32 == 0)) && (!lit || w.extractLsb' 15 7 == 0)
    && (cond != 7 || (w.extractLsb' 15 7 == 0 && !lit))) 4 <|
  selK (w.extractLsb' 8 7) fun a =>
  need (cond != 6 || a.isW) 6 <|
  if cond = 7 then (if ext then .ok (.bnzExt a o32) else .ok (.bnz a o7)) else
  if lit then
    match cond, ext with
    | 0, false => .ok (.beqLit a l o7)
    | 0, true => .ok (.beqExtLit a l o32)
    | 1, false => .ok (.bneLit a l o7)
    | 1, true => .ok (.bneExtLit a l o32)
    | 2, false => .ok (.bltLit a l o7)
    | 2, true => .ok (.bltExtLit a l o32)
    | 3, false => .ok (.bgeLit a l o7)
    | 3, true => .ok (.bgeExtLit a l o32)
    | 4, false => .ok (.bltuLit a l o7)
    | 4, true => .ok (.bltuExtLit a l o32)
    | 5, false => .ok (.bgeuLit a l o7)
    | 5, true => .ok (.bgeuExtLit a l o32)
    | _, false => .ok (.bwendLit a l o7)
    | _, true => .ok (.bwendExtLit a l o32)
  else selK (w.extractLsb' 15 7) fun b =>
    match cond, ext with
    | 0, false => .ok (.beq a b o7)
    | 0, true => .ok (.beqExt a b o32)
    | 1, false => .ok (.bne a b o7)
    | 1, true => .ok (.bneExt a b o32)
    | 2, false => .ok (.blt a b o7)
    | 2, true => .ok (.bltExt a b o32)
    | 3, false => .ok (.bge a b o7)
    | 3, true => .ok (.bgeExt a b o32)
    | 4, false => .ok (.bltu a b o7)
    | 4, true => .ok (.bltuExt a b o32)
    | 5, false => .ok (.bgeu a b o7)
    | 5, true => .ok (.bgeuExt a b o32)
    | _, false => .ok (.bwend a b o7)
    | _, true => .ok (.bwendExt a b o32)

/-- Major 0x1A (R117). -/
def decLoop (w : CodeWord) (l : Word) : Decoded :=
  if lenOf w = 2 then
    need (w.extractLsb' 8 7 == 0) 4 <| .ok (.loopLit (w.extractLsb' 15 2) l (w.extractLsb' 17 15))
  else selK (w.extractLsb' 8 7) fun c => .ok (.loop (w.extractLsb' 15 2) c (w.extractLsb' 17 15))

/-- Whether a 7-bit field is a walk register's selector, 80 to 87. -/
def isWalk (c : BitVec 7) : Bool := c.extractLsb' 3 4 == 10

/-- Major 0x1B (R122). -/
def decWalk (w : CodeWord) (x : Word) : Decoded :=
  let f := (w.extractLsb' 26 6).toNat
  let tok := w.extractLsb' 12 7
  let p1 := w.extractLsb' 19 7
  let wr := tok.extractLsb' 0 3
  need (f < 5) 3 <|
  match f with
  | 0 => need (x.extractLsb' 14 50 == 0 && isWalk tok) 4 <|
    selK p1 fun b => selK (x.extractLsb' 0 7) fun s0 => selK (x.extractLsb' 7 7) fun n0 => noLa w (.wset1 wr b s0 n0)
  | 1 => need (x.extractLsb' 28 36 == 0 && isWalk tok) 4 <|
    selK p1 fun b => selK (x.extractLsb' 0 7) fun s0 => selK (x.extractLsb' 7 7) fun n0 =>
    selK (x.extractLsb' 14 7) fun s1 => selK (x.extractLsb' 21 7) fun n1 => noLa w (.wset2 wr b s0 n0 s1 n1)
  | 2 => need (x.extractLsb' 42 22 == 0 && isWalk tok) 4 <|
    selK p1 fun b => selK (x.extractLsb' 0 7) fun s0 => selK (x.extractLsb' 7 7) fun n0 =>
    selK (x.extractLsb' 14 7) fun s1 => selK (x.extractLsb' 21 7) fun n1 =>
    selK (x.extractLsb' 28 7) fun s2 => selK (x.extractLsb' 35 7) fun n2 => noLa w (.wset3 wr b s0 n0 s1 n1 s2 n2)
  | 3 => need (x.extractLsb' 7 57 == 0 && isWalk p1 && (x.extractLsb' 0 7).toNat ≤ 8) 4 <|
    dstK tok fun d => .ok (.wget d (p1.extractLsb' 0 3) (x.extractLsb' 0 7) (w.extractLsb' 8 4))
  | _ => need (x == 0 && isWalk tok && p1 == 0) 4 <| noLa w (.wclr wr)

/-- Major 0x1D (R138). -/
def decCtl (w : CodeWord) : Decoded :=
  let f := (w.extractLsb' 22 6).toNat
  need (f < 8) 3 <|
  need (w.extractLsb' 28 4 == 0 && w.extractLsb' 8 7 == 0 && (f == 1 || f == 5 || w.extractLsb' 15 7 == 0)) 4 <|
  match f with
  | 0 => .ok .ret
  | 1 => selK (w.extractLsb' 15 7) fun a => .ok (.callx a)
  | 2 => .ok .region
  | 3 => .ok .yield
  | 4 => .ok .stop
  | 5 => selK (w.extractLsb' 15 7) fun a => .ok (.trap a)
  | 6 => .ok .brk
  | _ => .ok .nop

/-- Major 0x1F (R247 to R255). -/
def decTask (w : CodeWord) (l : Word) : Decoded :=
  let f := (w.extractLsb' 22 6).toNat
  let a := w.extractLsb' 15 7
  let d := w.extractLsb' 8 7
  let lit := lenOf w == 2
  need (f < 6) 3 <|
  match f with
  | 0 => need (w.extractLsb' 28 4 == 0 && a == 0 && d == 0 && !lit) 4 <| .ok .sync
  | 1 => need (w.extractLsb' 28 4 == 0 && d == 0 && !lit) 4 <|
    selK a fun g => need g.isG 6 <| .ok (.range g)
  | 2 => need (w.extractLsb' 28 4 == 0 && a == 0 && !lit) 4 <| dstK d fun d => .ok (.rnext d)
  | 3 => need (w.extractLsb' 28 4 == 0 && (!lit || a == 0)) 4 <|
    dstK d fun d => if lit then .ok (.enqLit d l) else selK a fun a => .ok (.enq d a)
  | 4 => need (w.extractLsb' 28 4 == 0 && (!lit || a == 0)) 4 <|
    dstK d fun d => if lit then .ok (.deqLit d l) else selK a fun a => .ok (.deq d a)
  | _ => need (w.extractLsb' 28 4 == 0 && (!lit || a == 0)) 4 <|
    gK d fun t => if lit then .ok (.sendmLit t l) else selK a fun a => .ok (.sendm t a)

/-- The fields of a format M extension that AM leaves unused are zero, bit 7 too (R57, R58): `useIdx` says whether the
major gives IDX another use, `useOff` is false for majors where OFF48 is always an offset. -/
def extZero (am : BitVec 2) (x : Word) (useIdx : Bool) : Bool :=
  !x.getLsbD 7 && (am == 0 || x.extractLsb' 8 48 == 0) && (useIdx || am == 2 || x.extractLsb' 0 7 == 0)

/-- Scalar loads of majors 0x20, 0x22 and 0x24 (R141). -/
def decLoad (w : CodeWord) (x : Word)
    (op : BitVec 2 → Cls → Sel → Sel → BitVec 4 → Instr)
    (opX : BitVec 2 → Cls → Sel → Sel → BitVec 4 → BitVec 48 → Sel → Bool → Instr) : Decoded :=
  let am := w.extractLsb' 30 2
  let la := w.extractLsb' 8 4
  if lenOf w = 0 then
    clsK (w.extractLsb' 26 4) fun c => need c.scalar 5 <|
    selK (w.extractLsb' 19 7) fun b => dstK (w.extractLsb' 12 7) fun d => .ok (op am c b d la)
  else
    need (x.extractLsb' 57 7 == 0 && extZero am x false) 4 <|
    clsK (w.extractLsb' 26 4) fun c => need c.scalar 5 <|
    selK (w.extractLsb' 19 7) fun b => dstK (w.extractLsb' 12 7) fun d => selK (x.extractLsb' 0 7) fun i =>
    .ok (opX am c b d la (x.extractLsb' 8 48) i (x.getLsbD 56))

/-- Scalar stores of majors 0x21 and 0x23 (R141). -/
def decStore (w : CodeWord) (x : Word)
    (op : BitVec 2 → Cls → Sel → Sel → Instr)
    (opX : BitVec 2 → Cls → Sel → Sel → BitVec 48 → Sel → Instr) : Decoded :=
  let am := w.extractLsb' 30 2
  if lenOf w = 0 then
    clsK (w.extractLsb' 26 4) fun c => need c.scalar 5 <|
    selK (w.extractLsb' 19 7) fun b => selK (w.extractLsb' 12 7) fun s => noLa w (op am c b s)
  else
    need (x.extractLsb' 56 8 == 0 && extZero am x false) 4 <|
    clsK (w.extractLsb' 26 4) fun c => need c.scalar 5 <|
    selK (w.extractLsb' 19 7) fun b => selK (w.extractLsb' 12 7) fun s => selK (x.extractLsb' 0 7) fun i =>
    noLa w (opX am c b s (x.extractLsb' 8 48) i)

/-- Vector loads of majors 0x25 and 0x27 (R144). -/
def decVLoad (w : CodeWord) (x : Word)
    (op : BitVec 2 → Cls → Sel → VReg → BitVec 4 → Instr)
    (opX : BitVec 2 → Cls → Sel → VReg → BitVec 4 → BitVec 48 → Instr) : Decoded :=
  let am := w.extractLsb' 30 2
  let la := w.extractLsb' 8 4
  let v := w.extractLsb' 12 5
  if lenOf w = 0 then
    need (w.extractLsb' 17 2 == 0) 4 <|
    clsK (w.extractLsb' 26 4) fun c => need c.vector 5 <| selK (w.extractLsb' 19 7) fun b => .ok (op am c b v la)
  else
    need (w.extractLsb' 17 2 == 0 && x.extractLsb' 56 8 == 0 && x.extractLsb' 0 7 == 0 && extZero am x true) 4 <|
    clsK (w.extractLsb' 26 4) fun c => need c.vector 5 <| selK (w.extractLsb' 19 7) fun b =>
    .ok (opX am c b v la (x.extractLsb' 8 48))

/-- Vector stores of majors 0x26 and 0x28 (R144). -/
def decVStore (w : CodeWord) (x : Word)
    (op : BitVec 2 → Cls → Sel → VReg → Instr)
    (opX : BitVec 2 → Cls → Sel → VReg → BitVec 48 → Sel → Instr) : Decoded :=
  let am := w.extractLsb' 30 2
  let v := w.extractLsb' 12 5
  if lenOf w = 0 then
    need (w.extractLsb' 17 2 == 0) 4 <|
    clsK (w.extractLsb' 26 4) fun c => need c.vector 5 <| selK (w.extractLsb' 19 7) fun b => noLa w (op am c b v)
  else
    need (w.extractLsb' 17 2 == 0 && x.extractLsb' 56 8 == 0 && extZero am x true) 4 <|
    clsK (w.extractLsb' 26 4) fun c => need c.vector 5 <| selK (w.extractLsb' 19 7) fun b => selK (x.extractLsb' 0 7) fun i =>
    noLa w (opX am c b v (x.extractLsb' 8 48) i)

/-- `VGATH` and `VSCAT`: any other AM or LEN has reason 8 (R144), and a `VSCAT` with LA nonzero reason 9. -/
def decVIndexed (w : CodeWord) (x : Word) (gather : Bool) : Decoded :=
  let am := w.extractLsb' 30 2
  let la := w.extractLsb' 8 4
  let v := w.extractLsb' 12 5
  let ext := lenOf w == 1
  let off := if ext then x.extractLsb' 8 48 else 0
  need (w.extractLsb' 17 2 == 0 && (!ext || (x.extractLsb' 56 8 == 0 && extZero am x true))) 4 <|
  clsK (w.extractLsb' 26 4) fun c => need c.scalar 5 <|
  selK (w.extractLsb' 19 7) fun b => selK (if ext then x.extractLsb' 0 7 else 74) fun i =>
  let ins := if gather then Instr.vgath c b v la off i else .vscat c b v off i
  if am != 0 || !ext then .error (.late 8 ins) else if gather then .ok ins else noLa w ins

/-- Major 0x2B (R148). -/
def decIo (w : CodeWord) (x : Word) : Decoded :=
  let am := w.extractLsb' 30 2
  let la := w.extractLsb' 8 4
  if lenOf w = 0 then
    clsK (w.extractLsb' 26 4) fun c => need c.io 5 <|
    selK (w.extractLsb' 19 7) fun b => dstK (w.extractLsb' 12 7) fun d => .ok (.iold am c b d la)
  else
    need (x.extractLsb' 57 7 == 0 && extZero am x false) 4 <|
    clsK (w.extractLsb' 26 4) fun c => need c.io 5 <|
    selK (w.extractLsb' 19 7) fun b =>
    if x.getLsbD 56 then
      selK (w.extractLsb' 12 7) fun s => selK (x.extractLsb' 0 7) fun i => noLa w (.iost am c b s (x.extractLsb' 8 48) i)
    else
      dstK (w.extractLsb' 12 7) fun d => selK (x.extractLsb' 0 7) fun i => .ok (.ioldExt am c b d la (x.extractLsb' 8 48) i)

/-- The FLAGS of the copy commands (R155). -/
def copyFlagsK (x : Word) (k : CopyFlags → Decoded) : Decoded :=
  rmK (x.extractLsb' 42 3) fun rm => fmtK (x.extractLsb' 34 6) fun df => fmtK (x.extractLsb' 28 6) fun sf =>
  k { sat := x.getLsbD 45, rm := rm, dsp := x.getLsbD 41, ssp := x.getLsbD 40, dfmt := df, sfmt := sf }

/-- Whether a copy format field is a grouped code (bits 5:4 are 0b10), which gives P4 its use (R156). -/
def fmtGrouped (c : BitVec 6) : Bool := c.extractLsb' 4 2 == 2

/-- Major 0x2C (R154 to R162). -/
def decCopy (w : CodeWord) (x : Word) : Decoded :=
  let f := (w.extractLsb' 26 6).toNat
  let la := w.extractLsb' 8 4
  let t := w.extractLsb' 12 7
  let p1 := w.extractLsb' 19 7
  let p2 := x.extractLsb' 0 7
  let p3 := x.extractLsb' 7 7
  let p4 := x.extractLsb' 14 7
  let p5 := x.extractLsb' 21 7
  let p4ok := fmtGrouped (x.extractLsb' 34 6) || fmtGrouped (x.extractLsb' 28 6) || p4 == 0
  need (f < 8) 3 <|
  match f with
  | 0 => need (x.extractLsb' 46 18 == 0 && p4ok && p5 == 0) 4 <| copyFlagsK x fun fl => gK t fun t =>
    selK p1 fun a => selK p2 fun b => selK p3 fun c => selK p4 fun e => .ok (.cpy t la a b c e fl)
  | 1 => need (x.extractLsb' 46 18 == 0 && p4ok) 4 <| copyFlagsK x fun fl => gK t fun t =>
    selK p1 fun a => selK p2 fun b => selK p3 fun c => selK p4 fun e => selK p5 fun m => .ok (.cpym t la a b c e m fl)
  | 2 => need (x.extractLsb' 46 18 == 0 && p4ok && p5 == 0) 4 <| copyFlagsK x fun fl => need fl.dfmt.isReduce 5 <|
    gK t fun t => selK p1 fun a => selK p2 fun b => selK p3 fun c => selK p4 fun e => .ok (.cpyr t la a b c e fl)
  | 3 => need (x.extractLsb' 46 18 == 0 && p4ok && !x.getLsbD 41) 4 <| copyFlagsK x fun fl => gK t fun t =>
    selK p2 fun b => selK p3 fun c => selK p4 fun e => selK p5 fun o => .ok (.cpys t la p1 b c e o fl)
  | 4 => need (x.extractLsb' 47 17 == 0 && x.extractLsb' 42 4 == 0 && x.extractLsb' 28 12 == 0 && p5 == 0) 4 <|
    gK t fun t => selK p1 fun a => selK p2 fun b => selK p3 fun c => selK p4 fun e =>
    .ok (.cpyc t la a b c e (x.getLsbD 41) (x.getLsbD 40) (x.getLsbD 46))
  | 5 => need (x.extractLsb' 47 17 == 0 && x.extractLsb' 42 4 == 0 && x.extractLsb' 28 12 == 0 && p5 == 0) 4 <|
    gK t fun t => selK p1 fun a => selK p2 fun b => selK p3 fun c => selK p4 fun e =>
    .ok (.cpyz t la a b c e (x.getLsbD 41) (x.getLsbD 40) (x.getLsbD 46))
  | 6 => need (x == 0) 4 <| dstK t fun d => gK p1 fun g => .ok (.tpoll d g la)
  | _ => need (x.extractLsb' 29 35 == 0 && x.extractLsb' 0 28 == 0) 4 <|
    dstK t fun d => selK p1 fun m => .ok (.twaita d m (x.getLsbD 28) la)

/-- Major 0x2D (R150). -/
def decFence (w : CodeWord) : Decoded :=
  let f := (w.extractLsb' 22 6).toNat
  need (f < 4) 3 <|
  need (w.extractLsb' 28 4 == 0 && w.extractLsb' 8 14 == 0) 4 <|
  match f with
  | 0 => .ok .fence
  | 1 => .ok .fencep
  | 2 => .ok .fenceio
  | _ => .ok .drain

/-- Bits of the first word of format V that an instruction may set, besides major and LEN (R167). -/
def vT : CodeWord := 0x7C000000
def vK : CodeWord := 0x03800000
def vB : CodeWord := 0x007C0000
def vA : CodeWord := 0x0003E000
def vD : CodeWord := 0x00001F00
def vDm : CodeWord := 0x00000700
def vAm : CodeWord := 0x0000E000
def vBm : CodeWord := 0x001C0000

/-- Bits of the extension word of format V that an instruction may set, besides FN8 (R167). -/
def xC : Word := 0x00000000007C0000
def xT2 : Word := 0x000000000003E000
def xSat : Word := 0x0000000000001800
def xRm : Word := 0x0000000000000700
def xLane : Word := 0x0007FF0000000000
def xSsel : Word := 0x0000007F00000000
def xOp : Word := 0x0078000000000000
def xGrp : Word := 0x0180000000000000
def xTbl : Word := 0x0600000000000000

/-- Every bit outside the given ones, the major, LEN and FN8 is zero (R167). -/
def vZero (w : CodeWord) (x : Word) (mw : CodeWord) (mx : Word) : Bool :=
  w &&& ~~~(mw ||| 0xFF) == 0 && x &&& ~~~(mx ||| 0xFF) == 0

/-- Whether a type code is an integer type's, 0 to 13. -/
def tyInt (c : BitVec 5) : Bool := c.toNat ≤ 13

/-- Whether a type code is a type's at all. -/
def tyKnown (c : BitVec 5) : Bool := c.toNat ≤ 18

/-- Format V: the fields the functions share. -/
structure VFields where
  t : BitVec 5
  k : MReg
  b : VReg
  a : VReg
  d : VReg
  c : VReg
  t2 : BitVec 5
  sat : BitVec 2
  rm : BitVec 3
  lane : BitVec 11
  ssel : BitVec 7
  deriving DecidableEq, Repr

/-- Reads the fields of format V (R55, R57, R167). -/
def vFields (w : CodeWord) (x : Word) : VFields where
  t := w.extractLsb' 26 5
  k := w.extractLsb' 23 3
  b := w.extractLsb' 18 5
  a := w.extractLsb' 13 5
  d := w.extractLsb' 8 5
  c := x.extractLsb' 18 5
  t2 := x.extractLsb' 13 5
  sat := x.extractLsb' 11 2
  rm := x.extractLsb' 8 3
  lane := x.extractLsb' 40 11
  ssel := x.extractLsb' 32 7

/-- RM is used only by floating types (R171). -/
def vRmOk (f : VFields) : Bool := !tyInt f.t || f.rm == 0

/-- SAT is used only by integer types (R171). -/
def vSatOk (f : VFields) : Bool := tyInt f.t || !tyKnown f.t || f.sat == 0

/-- SAT for integer pairs, RM for pairs with a floating type (R176). -/
def vConvOk (f : VFields) : Bool :=
  !(tyKnown f.t && tyKnown f.t2) || (if tyInt f.t && tyInt f.t2 then f.rm == 0 else f.sat == 0)

/-- Major 0x30 (R171). -/
def decVArith (w : CodeWord) (x : Word) : Decoded :=
  let f := vFields w x
  let fn := (x.extractLsb' 0 8).toNat
  need (fn < 14) 3 <|
  if fn < 3 then
    need (vZero w x (vT ||| vK ||| vB ||| vA ||| vD) xRm && vRmOk f) 4 <|
    tyK f.t fun t => need t.hasLanes 5 <| rmK f.rm fun rm =>
    match fn with
    | 0 => .ok (.vadd t f.k f.d f.a f.b rm)
    | 1 => .ok (.vsub t f.k f.d f.a f.b rm)
    | _ => .ok (.vmul t f.k f.d f.a f.b rm)
  else if fn < 5 then
    need (vZero w x (vT ||| vK ||| vB ||| vA ||| vD) (xRm ||| xC) && vRmOk f) 4 <|
    tyK f.t fun t => need t.hasLanes 5 <| rmK f.rm fun rm =>
    if fn = 3 then .ok (.vfma t f.k f.d f.a f.b f.c rm) else .ok (.vfms t f.k f.d f.a f.b f.c rm)
  else if fn = 9 || fn = 10 then
    need (vZero w x (vT ||| vK ||| vA ||| vD) xSat && vSatOk f) 4 <|
    tyK f.t fun t => need t.hasLanes 5 <| satK f.sat fun sat =>
    if fn = 9 then .ok (.vabs t f.k f.d f.a sat) else .ok (.vneg t f.k f.d f.a sat)
  else
    need (vZero w x (vT ||| vK ||| vB ||| vA ||| vD) 0) 4 <|
    tyK f.t fun t => need (if fn < 7 then t.hasLanes else if fn < 9 then t.isVFloat else t.isInt) 5 <|
    match fn with
    | 5 => .ok (.vmin t f.k f.d f.a f.b)
    | 6 => .ok (.vmax t f.k f.d f.a f.b)
    | 7 => .ok (.vminn t f.k f.d f.a f.b)
    | 8 => .ok (.vmaxn t f.k f.d f.a f.b)
    | 11 => .ok (.vadds t f.k f.d f.a f.b)
    | 12 => .ok (.vsubs t f.k f.d f.a f.b)
    | _ => .ok (.vmulh t f.k f.d f.a f.b)

/-- Major 0x31 (R173). -/
noncomputable def decVLogic (w : CodeWord) (x : Word) : Decoded :=
  let f := vFields w x
  let fn := (x.extractLsb' 0 8).toNat
  let imm := x.getLsbD 63
  need (fn < 8) 3 <|
  if fn < 5 then
    need (vZero w x (vT ||| vK ||| (if fn = 4 then 0 else vB) ||| vA ||| vD) 0) 4 <|
    tyK f.t fun t => need t.isInt 5 <|
    match fn with
    | 0 => .ok (.vand t f.k f.d f.a f.b)
    | 1 => .ok (.vor t f.k f.d f.a f.b)
    | 2 => .ok (.vxor t f.k f.d f.a f.b)
    | 3 => .ok (.vandn t f.k f.d f.a f.b)
    | _ => .ok (.vnot t f.k f.d f.a)
  else
    need (if imm then vZero w x (vT ||| vK ||| vA ||| vD) 0x80007F0000000000
      else vZero w x (vT ||| vK ||| vB ||| vA ||| vD) 0) 4 <|
    tyK f.t fun t => need t.isInt 5 <|
    let amt : VAmt := if imm then .imm (x.extractLsb' 40 7) else .reg f.b
    match fn with
    | 5 => .ok (.vshl t f.k f.d f.a amt)
    | 6 => .ok (.vshr t f.k f.d f.a amt)
    | _ => .ok (.vshra t f.k f.d f.a amt)

/-- Major 0x32 (R174). -/
noncomputable def decVCompare (w : CodeWord) (x : Word) : Decoded :=
  let f := vFields w x
  let fn := (x.extractLsb' 0 8).toNat
  let md := f.d.extractLsb' 0 3
  need (fn < 6) 3 <|
  if fn < 4 then
    need (vZero w x (vT ||| vK ||| vB ||| vA ||| vDm) 0) 4 <|
    tyK f.t fun t => need t.hasLanes 5 <|
    match fn with
    | 0 => .ok (.vcmpeq t f.k md f.a f.b)
    | 1 => .ok (.vcmpne t f.k md f.a f.b)
    | 2 => .ok (.vcmplt t f.k md f.a f.b)
    | _ => .ok (.vcmple t f.k md f.a f.b)
  else if fn = 4 then
    need (vZero w x (vT ||| vK ||| vB ||| vA ||| vD) 0) 4 <|
    tyK f.t fun t => need t.hasLanes 5 <| .ok (.vsel t f.k f.d f.a f.b)
  else
    need (vZero w x (vT ||| vK ||| vA ||| vD) 0) 4 <|
    tyK f.t fun t => need t.isVFloat 5 <| .ok (.vclass t f.k f.d f.a)

/-- A limit on LANE that depends on a type: it has reason 4 when the type is known and has lanes (R175, R176). -/
def laneBelow (c : BitVec 5) (n : BitVec 11) (lim : Ty → Nat) : Bool :=
  match Ty.ofCode c with
  | some t => !t.hasLanes || n.toNat < lim t
  | none => true

/-- Major 0x33 (R175, R176). -/
noncomputable def decVMove (w : CodeWord) (x : Word) : Decoded :=
  let f := vFields w x
  let fn := (x.extractLsb' 0 8).toNat
  need (fn < 8) 3 <|
  match fn with
  | 0 => need (vZero w x (vT ||| vK ||| vB ||| vA ||| vD) xT2) 4 <|
    tyK f.t fun t => tyK f.t2 fun t2 =>
    need (t.hasLanes && 8 ≤ t.bits && (t2 == .n8 || t2 == .n16) && t.lanes ≤ t2.lanes) 5 <|
    .ok (.vshuf t t2 f.k f.d f.a f.b)
  | 1 => need (vZero w x (vT ||| vK ||| vD) xSsel) 4 <|
    tyK f.t fun t => need t.hasLanes 5 <| selK f.ssel fun s => .ok (.vbcast t f.k f.d s)
  | 2 => need (vZero w x (vT ||| vK ||| vB ||| vA ||| vD) xLane && laneBelow f.t f.lane (fun t => t.lanes + 1)) 4 <|
    tyK f.t fun t => need t.hasLanes 5 <| .ok (.vslide t f.k f.d f.a f.b f.lane)
  | 3 => need (vZero w x (vT ||| vK ||| vD) xSsel) 4 <|
    tyK f.t fun t => need t.isInt 5 <| selK f.ssel fun s => .ok (.vidx t f.k f.d s)
  | 4 => need (vZero w x (vT ||| vA) (xSsel ||| xLane) && laneBelow f.t f.lane Ty.lanes) 4 <|
    tyK f.t fun t => need t.hasLanes 5 <| dstK f.ssel fun d => .ok (.vmovs t d f.a f.lane)
  | 5 => need (vZero w x (vT ||| vD) (xSsel ||| xLane) && laneBelow f.t f.lane Ty.lanes) 4 <|
    tyK f.t fun t => need t.hasLanes 5 <| selK f.ssel fun s => .ok (.vmovv t f.d s f.lane)
  | 6 => need (vZero w x (vT ||| vK ||| vA ||| vD) (xT2 ||| xSat ||| xRm ||| xLane) && vConvOk f
      && laneBelow f.t f.lane Ty.lanes) 4 <|
    tyK f.t fun t => tyK f.t2 fun t2 => need (t.isInt && t2.isInt && t.bits < t2.bits) 5 <| satK f.sat fun sat =>
    .ok (.vpack t t2 f.k f.d f.a f.lane sat)
  | _ => need (vZero w x (vT ||| vK ||| vA ||| vD) (xT2 ||| xSat ||| xRm ||| xLane) && vConvOk f
      && laneBelow f.t2 f.lane Ty.lanes) 4 <|
    tyK f.t fun t => tyK f.t2 fun t2 => need (t.isInt && t2.isInt && t2.bits < t.bits) 5 <| satK f.sat fun sat =>
    .ok (.vunpk t t2 f.k f.d f.a f.lane sat)

/-- `VRED` (R177): SAT only for an integer add, RM only for a floating add. -/
noncomputable def decVRed (w : CodeWord) (x : Word) : Decoded :=
  let f := vFields w x
  let op := x.extractLsb' 51 4
  need (op.toNat < 8) 3 <|
  need (vZero w x (vT ||| vK ||| vA) (xOp ||| xSsel ||| xSat ||| xRm)
    && (if op == 0 then vRmOk f && vSatOk f else f.rm == 0 && f.sat == 0)) 4 <|
  tyK f.t fun t => rmK f.rm fun rm => satK f.sat fun sat => need (vredOk op t rm sat) 5 <|
  dstK f.ssel fun d => .ok (.vred t f.k op d f.a rm sat)

/-- `VQNT`, `VDQNT` and `VQDIV` (R179). -/
noncomputable def decVQuant (w : CodeWord) (x : Word) (fn : Nat) : Decoded :=
  let f := vFields w x
  need (vZero w x (vT ||| vK ||| vB ||| vA ||| vD) (xT2 ||| xRm ||| xLane ||| xGrp)
    && laneBelow (if fn = 3 then f.t2 else f.t) f.lane Ty.lanes) 4 <|
  tyK f.t fun t => tyK f.t2 fun t2 =>
  need (if fn = 3 then t.isVFloat && t2.isCode else t.isCode && t2.isVFloat) 5 <|
  rmK f.rm fun rm =>
  match Grp.ofCode (x.extractLsb' 55 2) with
  | none => .error (.reason 5)
  | some g =>
    match fn with
    | 2 => .ok (.vqnt t t2 f.k f.d f.a f.b g f.lane rm)
    | 3 => .ok (.vdqnt t t2 f.k f.d f.a f.b g f.lane rm)
    | _ => .ok (.vqdiv t t2 f.k f.d f.a f.b g f.lane rm)

/-- Major 0x34 (R176 to R180). -/
noncomputable def decVConv (w : CodeWord) (x : Word) : Decoded :=
  let f := vFields w x
  let fn := (x.extractLsb' 0 8).toNat
  need (fn < 6) 3 <|
  match fn with
  | 0 => decVRed w x
  | 1 => need (vZero w x (vT ||| vK ||| vB ||| vA ||| vD) (xT2 ||| xSat ||| xRm ||| xLane) && vConvOk f
      && laneBelow f.t2 f.lane (fun t => 2 * t.lanes)) 4 <|
    tyK f.t fun t => tyK f.t2 fun t2 => need (t.hasLanes && t2.hasLanes) 5 <|
    rmK f.rm fun rm => satK f.sat fun sat => .ok (.vcvt t t2 f.k f.d f.a f.b f.lane rm sat)
  | 5 =>
    let c := x.extractLsb' 40 5
    need (vZero w x vA (0x00001F0000000000 ||| (if c.getLsbD 2 then 0xFF00000000 else 0)) && c != 0) 4 <|
    selK f.ssel fun s => .ok (.vsend f.a c (x.getLsbD 39) s)
  | _ => decVQuant w x fn

/-- Major 0x35 (R185, R186). -/
noncomputable def decVItp (w : CodeWord) (x : Word) : Decoded :=
  let f := vFields w x
  let fn := (x.extractLsb' 0 8).toNat
  let tbl := x.extractLsb' 57 2
  let qin := x.getLsbD 59
  need (fn < 2) 3 <|
  if fn = 0 then
    need (vZero w x (vT ||| vK ||| (if qin then 0 else vA) ||| vD) (xT2 ||| xRm ||| xTbl ||| 0x0800000000000000)) 4 <|
    tyK f.t fun t => tyK f.t2 fun t2 =>
    need (t.isVFloat && t2.isVFloat && ((t == .f32) == (t2 == .f32))) 5 <|
    rmK f.rm fun rm => .ok (.vitp t t2 f.k f.d (if qin then .vin else .reg f.a) tbl rm)
  else
    need (vZero w x 0 (xSsel ||| xTbl)) 4 <| selK f.ssel fun s => .ok (.tload tbl s)

/-- Major 0x36 (R188). -/
noncomputable def decMask (w : CodeWord) (x : Word) : Decoded :=
  let f := vFields w x
  let fn := (x.extractLsb' 0 8).toNat
  let d := f.d.extractLsb' 0 3
  let a := f.a.extractLsb' 0 3
  let b := f.b.extractLsb' 0 3
  need (fn < 8) 3 <|
  match fn with
  | 0 => need (vZero w x (vBm ||| vAm ||| vDm) 0) 4 <| .ok (.mand d a b)
  | 1 => need (vZero w x (vBm ||| vAm ||| vDm) 0) 4 <| .ok (.mor d a b)
  | 2 => need (vZero w x (vBm ||| vAm ||| vDm) 0) 4 <| .ok (.mxor d a b)
  | 3 => need (vZero w x (vAm ||| vDm) 0) 4 <| .ok (.mnot d a)
  | 4 => need (vZero w x (vT ||| vAm) xSsel) 4 <| tyK f.t fun t => need t.hasLanes 5 <|
    dstK f.ssel fun d => .ok (.mcnt t d a)
  | 5 => need (vZero w x (vT ||| vAm) xSsel) 4 <| tyK f.t fun t => need t.hasLanes 5 <|
    dstK f.ssel fun d => .ok (.mfirst t d a)
  | 6 => if x.getLsbD 63 then
      need (vZero w x vDm (xSsel ||| 0x8000000000000000)) 4 <| selK f.ssel fun s => .ok (.msetgPre d s)
    else
      need (vZero w x vDm (xSsel ||| 0x00000F0000000000)) 4 <| selK f.ssel fun s => .ok (.msetg d s (x.extractLsb' 40 4))
  | _ => need (vZero w x vAm (xSsel ||| 0x00000F0000000000)) 4 <| dstK f.ssel fun d => .ok (.mgetg d a (x.extractLsb' 40 4))

/-- Major 0x38 (R195). -/
noncomputable def decMatrix (w : CodeWord) (x : Word) : Decoded :=
  let f := (w.extractLsb' 26 6).toNat
  let la := w.extractLsb' 8 4
  let t := w.extractLsb' 12 7
  let p1 := w.extractLsb' 19 7
  let p2 := x.extractLsb' 0 7
  let p3 := x.extractLsb' 7 7
  let p4 := x.extractLsb' 14 7
  need (f < 8) 3 <|
  match f with
  | 0 => need (x.extractLsb' 29 35 == 0 && x.extractLsb' 0 28 == 0) 4 <|
    gK t fun t => selK p1 fun m => .ok (.slresv t m (x.getLsbD 28) la)
  | 1 => need (x == 0) 4 <| gK t fun t => selK p1 fun m => .ok (.slfree t m la)
  | 2 => need (x.extractLsb' 35 29 == 0 && x.extractLsb' 21 7 == 0) 4 <|
    fmtK (x.extractLsb' 28 6) fun wf => need wf.isWeight 5 <| gK t fun t =>
    selK p2 fun o => selK p3 fun k => selK (x.extractLsb' 14 7) fun n => .ok (.mwld t la p1 o k n wf (x.getLsbD 34))
  | 3 => need (x.extractLsb' 36 28 == 0 && x.extractLsb' 21 7 == 0) 4 <|
    fmtK (x.extractLsb' 28 6) fun af => need af.isActivation 5 <| gK t fun t =>
    selK p2 fun o => selK p3 fun m => selK p4 fun s => .ok (.mstrm t la p1 o m s af (x.getLsbD 34) (x.getLsbD 35))
  | 4 => need (x.extractLsb' 41 23 == 0 && x.extractLsb' 21 7 == 0) 4 <|
    fmtK (x.extractLsb' 28 6) fun af => fmtK (x.extractLsb' 34 6) fun wf => need (af.isActivation && wf.isWeight) 5 <|
    gK t fun t => selK p2 fun m => selK p3 fun c => selK p4 fun s => .ok (.mgrp t la p1 m c s af wf (x.getLsbD 40))
  | 5 => need (x.extractLsb' 41 23 == 0 && x.extractLsb' 14 14 == 0 && (x.getLsbD 40 || p3 == 0)) 4 <|
    fmtK (x.extractLsb' 28 6) fun df => rmK (x.extractLsb' 34 3) fun rm => need (!df.isGrouped) 5 <| gK t fun t =>
    selK p1 fun d => selK p2 fun r => selK p3 fun e =>
    .ok (.mdrn t la d r e df rm (x.getLsbD 37) (x.getLsbD 38) (x.getLsbD 39) (x.getLsbD 40))
  | 6 => need (x.extractLsb' 29 35 == 0 && x.extractLsb' 0 28 == 0) 4 <|
    gK t fun t => selK p1 fun e => .ok (.mclr t la e (x.getLsbD 28))
  | _ => need (x == 0) 4 <| gK t fun t => selK p1 fun c => .ok (.mcfg t la c)

/-- Major 0x39 (R195). -/
noncomputable def decMatrix2 (w : CodeWord) (x : Word) : Decoded :=
  let f := (w.extractLsb' 26 6).toNat
  let la := w.extractLsb' 8 4
  let t := w.extractLsb' 12 7
  let p1 := w.extractLsb' 19 7
  let p2 := x.extractLsb' 0 7
  let p3 := x.extractLsb' 7 7
  need (f < 5) 3 <|
  match f with
  | 0 => need (x.extractLsb' 5 59 == 0) 4 <| gK t fun t => selK p1 fun c => .ok (.mrmt t la c (x.extractLsb' 0 5))
  | 1 => need (x.extractLsb' 31 33 == 0 && x.extractLsb' 7 21 == 0) 4 <|
    gK t fun t => selK p1 fun c => selK p2 fun m => .ok (.mcap t la c m (x.extractLsb' 28 3))
  | 2 => need (x.extractLsb' 34 30 == 0 && x.extractLsb' 14 14 == 0) 4 <|
    fmtK (x.extractLsb' 28 6) fun sf => need sf.isWindow 5 <| gK t fun t =>
    selK p1 fun a => selK p2 fun b => selK p3 fun n => .ok (.addw t la a b n sf)
  | 3 => need (x.extractLsb' 37 27 == 0 && x.extractLsb' 14 14 == 0) 4 <|
    fmtK (x.extractLsb' 28 6) fun df => rmK (x.extractLsb' 34 3) fun rm => need df.isWindow 5 <| gK t fun t =>
    selK p1 fun a => selK p2 fun b => selK p3 fun n => .ok (.wnorm t la a b n df rm)
  | _ => need (x.extractLsb' 7 57 == 0) 4 <| gK t fun t => selK p1 fun a => selK p2 fun n => .ok (.wzero t la a n)

/-- Major 0x3C (R216, R217). -/
noncomputable def decAtomic (w : CodeWord) (x : Word) : Decoded :=
  let am := w.extractLsb' 30 2
  let la := w.extractLsb' 8 4
  let kind := (x.extractLsb' 56 2).toNat
  let op := x.extractLsb' 59 4
  let g := x.getLsbD 58
  let off := x.extractLsb' 8 48
  let ds := w.extractLsb' 12 7
  need (kind < 3) 3 <|
  match AOp.ofCode op with
  | none => .error (.reason 3)
  | some o =>
    need (!x.getLsbD 63 && extZero am x true && (kind != 1 || ds == 74) && (kind != 2 || op == 0)) 4 <|
    clsK (w.extractLsb' 26 4) fun c => need (o.accepts c) 5 <|
    selK (w.extractLsb' 19 7) fun b =>
    match kind with
    | 0 => dstK ds fun d => selK (x.extractLsb' 0 7) fun v => .ok (.amo am c b d la g o off v)
    | 1 => selK (x.extractLsb' 0 7) fun v => noLa w (.red am c b g o off v)
    | _ => dstK ds fun d => selK (x.extractLsb' 0 7) fun v => .ok (.cas am c b d la g off v)

/-- Major 0x3D (R224). -/
noncomputable def decBarrier (w : CodeWord) (x : Word) : Decoded :=
  let f := (w.extractLsb' 26 6).toNat
  let la := w.extractLsb' 8 4
  let t := w.extractLsb' 12 7
  let p1 := w.extractLsb' 19 7
  let p2 := x.extractLsb' 0 7
  let v := p1.extractLsb' 0 5
  let vOk := p1.extractLsb' 5 2 == 0
  need (f < 9) 3 <|
  match f with
  | 0 => need (x.extractLsb' 7 57 == 0) 4 <| dstK t fun d => selK p1 fun h => selK p2 fun n => .ok (.bari d h n la)
  | 1 => need (x == 0) 4 <| dstK t fun d => selK p1 fun h => .ok (.bara d h la)
  | 2 => need (x == 0) 4 <| dstK t fun d => selK p1 fun h => .ok (.barw d h la)
  | 3 => need (x.extractLsb' 7 57 == 0 && vOk) 4 <| dstK t fun d => dstK p2 fun hd => .ok (.claim d hd v la)
  | 4 => need (x.extractLsb' 7 57 == 0 && vOk) 4 <| dstK t fun d => dstK p2 fun hd => .ok (.cwait d hd v la)
  | 5 => need (x.extractLsb' 7 57 == 0 && vOk) 4 <| dstK t fun d => selK p2 fun hv => .ok (.fulfil d v hv la)
  | 6 => need (x == 0 && vOk) 4 <| dstK t fun d => .ok (.abandon d v la)
  | 7 => need (x == 0 && vOk) 4 <| dstK t fun d => .ok (.unpin d v la)
  | _ => need (x.extractLsb' 7 57 == 0 && vOk) 4 <| dstK t fun d => dstK p2 fun hd => .ok (.cpeek d hd v la)

/-- Major 0x3F (R304). -/
noncomputable def decPriv (w : CodeWord) (l : Word) : Decoded :=
  let f := (w.extractLsb' 22 6).toNat
  let lit := lenOf w == 2
  let a := w.extractLsb' 15 7
  let d := w.extractLsb' 8 7
  need (f < 9) 3 <|
  need (w.extractLsb' 28 4 == 0 && (!lit || a == 0) && ((f != 4 && f != 7) || d == 0)) 4 <|
  match f with
  | 0 => dstK d fun d => if lit then .ok (.csrrLit d l) else selK a fun n => .ok (.csrr d n)
  | 1 => selK d fun s => if lit then .ok (.csrwLit l s) else selK a fun n => .ok (.csrw n s)
  | 2 => selK d fun s => if lit then .ok (.csrsLit l s) else selK a fun n => .ok (.csrs n s)
  | 3 => selK d fun s => if lit then .ok (.csrcLit l s) else selK a fun n => .ok (.csrc n s)
  | 4 => if lit then .ok (.eretLit l) else selK a fun a => .ok (.eret a)
  | 5 => selK d fun s => if lit then .ok (.tlbwLit l s) else selK a fun n => .ok (.tlbw n s)
  | 6 => selK d fun s => if lit then .ok (.tlbiLit l s) else selK a fun n => .ok (.tlbi n s)
  | 7 => if lit then .ok (.wakeLit l) else selK a fun a => .ok (.wake a)
  | _ => dstK d fun d => if lit then .ok (.leaseqLit d l) else selK a fun n => .ok (.leaseq d n)

/-- The LEN values of R56, as a mask of the codes; none for major 0x00 and the reserved majors of R64. -/
def majorLens (m : Nat) : Option Nat :=
  match m with
  | 0x01 | 0x02 | 0x03 | 0x04 | 0x10 | 0x11 | 0x0B | 0x0C | 0x1A | 0x1F | 0x3F => some 0b0101
  | 0x05 | 0x06 | 0x07 | 0x08 | 0x09 | 0x0A | 0x18 | 0x1C | 0x1D | 0x1E | 0x2D => some 0b0001
  | 0x0D | 0x0E | 0x12 => some 0b1010
  | 0x19 => some 0b1111
  | 0x20 | 0x21 | 0x22 | 0x23 | 0x24 | 0x25 | 0x26 | 0x27 | 0x28 | 0x29 | 0x2A | 0x2B => some 0b0011
  | 0x1B | 0x2C | 0x30 | 0x31 | 0x32 | 0x33 | 0x34 | 0x35 | 0x36 | 0x38 | 0x39 | 0x3C | 0x3D => some 0b0010
  | _ => none

/-- Steps 4 to 7 and the late steps of R65 for a major whose LEN is permitted; `x` and `l` are the extension and literal. -/
noncomputable def decodeMajor (w : CodeWord) (x l : Word) : Decoded :=
  let m := (majorOf w).toNat
  match m with
  | 0x05 => decRI w .addi
  | 0x06 => decRI w .andi
  | 0x07 => decRI w .ori
  | 0x08 => decRI w .xori
  | 0x09 => decShift w
  | 0x0A => decRI w .setlti
  | 0x0B => decU w l
  | 0x0C => decI w l
  | 0x0D => decField w x l
  | 0x0E => decPtr w x l
  | 0x12 => decCvt w x l
  | 0x18 => .ok (.br (w.extractLsb' 8 24))
  | 0x19 => decBC w x l
  | 0x1A => decLoop w l
  | 0x1B => decWalk w x
  | 0x1C => noLa w (.calld (w.extractLsb' 12 20))
  | 0x1D => decCtl w
  | 0x1E => noLa w (.spawnd (w.extractLsb' 12 20))
  | 0x1F => decTask w l
  | 0x20 => decLoad w x .ldp .ldpExt
  | 0x21 => decStore w x .stp .stpExt
  | 0x22 => decLoad w x .ldg .ldgExt
  | 0x23 => decStore w x .stg .stgExt
  | 0x24 => decLoad w x .ldk .ldkExt
  | 0x25 => decVLoad w x .vldp .vldpExt
  | 0x26 => decVStore w x .vstp .vstpExt
  | 0x27 => decVLoad w x .vldg .vldgExt
  | 0x28 => decVStore w x .vstg .vstgExt
  | 0x29 => decVIndexed w x true
  | 0x2A => decVIndexed w x false
  | 0x2B => decIo w x
  | 0x2C => decCopy w x
  | 0x2D => decFence w
  | 0x30 => decVArith w x
  | 0x31 => decVLogic w x
  | 0x32 => decVCompare w x
  | 0x33 => decVMove w x
  | 0x34 => decVConv w x
  | 0x35 => decVItp w x
  | 0x36 => decMask w x
  | 0x38 => decMatrix w x
  | 0x39 => decMatrix2 w x
  | 0x3C => decAtomic w x
  | 0x3D => decBarrier w x
  | 0x3F => decPriv w l
  | _ =>
    let f := (w.extractLsb' 29 3).toNat
    if m = 0x11 && (f == 2 || f == 3 || f == 7) then
      decRR w (match f with | 2 => .fsqrt | 3 => .frcp | _ => .fclass)
    else
      match rrrOp (8 * m + f) with
      | some ops => decRRR w l ops
      | none => .error (.reason 3)

/-- Decodes an instruction from its first word, extension and literal, in the order of R65. -/
noncomputable def decodeParts (w : CodeWord) (x l : Word) : Decoded :=
  match majorLens (majorOf w).toNat with
  | none => .error (.reason 1)
  | some lens => need (lens.testBit (lenOf w).toNat) 2 (decodeMajor w x l)

/-- Two words as one 64-bit value, the lower word first (R52). -/
def join (lo hi : CodeWord) : Word := hi ++ lo

/-- Decodes the instruction at the head of a list of words. A LEN that R56 forbids is refused before its further words
are looked for. -/
noncomputable def decode (ws : List CodeWord) : Decoded :=
  match ws with
  | [] => .error .short
  | w :: rest =>
    match majorLens (majorOf w).toNat with
    | none => .error (.reason 1)
    | some lens =>
      if !lens.testBit (lenOf w).toNat then .error (.reason 2) else
      match (lenOf w).toNat, rest with
      | 0, _ => decodeMajor w 0 0
      | 1, a :: b :: _ => decodeMajor w (join a b) 0
      | 2, a :: b :: _ => decodeMajor w 0 (join a b)
      | 3, a :: b :: c :: d :: _ => decodeMajor w (join a b) (join c d)
      | _, _ => .error .short

/-- The words of a 64-bit extension or literal, lower word first (R52). -/
def two (v : Word) : List CodeWord := [v.extractLsb' 0 32, v.extractLsb' 32 32]

/-- Format RRR (R55). -/
def encRRR (major : BitVec 6) (f : BitVec 3) (d a : Sel) (b : BitVec 7) (len : BitVec 2) : CodeWord :=
  f ++ b ++ a.code ++ d.code ++ major ++ len

/-- Format RI (R55). -/
def encRI (major : BitVec 6) (d a : Sel) (imm : BitVec 10) : CodeWord := imm ++ a.code ++ d.code ++ major ++ 0#2

/-- Format U (R55). -/
def encU (major : BitVec 6) (fn : BitVec 6) (d a : BitVec 7) (x : BitVec 4) (len : BitVec 2) : CodeWord :=
  x ++ fn ++ a ++ d ++ major ++ len

/-- Format BC of major 0x19 (R55). -/
def encBC (cond : BitVec 3) (a b : BitVec 7) (off : BitVec 7) (len : BitVec 2) : CodeWord :=
  off ++ cond ++ b ++ a ++ 0x19#6 ++ len

/-- Format E (R55), LEN 0b01. -/
def encE (major : BitVec 6) (fn : BitVec 6) (tok p1 : BitVec 7) (la : BitVec 4) : CodeWord :=
  fn ++ p1 ++ tok ++ la ++ major ++ 1#2

/-- The extension of format E (R57). -/
def extE (flags : BitVec 36) (p2 p3 p4 p5 : BitVec 7) : Word := flags ++ p5 ++ p4 ++ p3 ++ p2

/-- Format M (R55). -/
def encM (major : BitVec 6) (am : BitVec 2) (w : Cls) (base ds : BitVec 7) (la : BitVec 4) (len : BitVec 2) : CodeWord :=
  am ++ w.code ++ base ++ ds ++ la ++ major ++ len

/-- The extension of format M (R57). -/
def extM (mopt : BitVec 8) (off : BitVec 48) (idx : BitVec 7) : Word := mopt ++ off ++ 0#1 ++ idx

/-- Format V (R55), LEN 0b01. -/
def encV (major : BitVec 6) (t : BitVec 5) (k : MReg) (b a d : BitVec 5) : CodeWord :=
  0#1 ++ t ++ k ++ b ++ a ++ d ++ major ++ 1#2

/-- The extension of format V (R57, R167), field by field; a field not given is zero. -/
structure VExt where
  flag : Bool := false
  qin : Bool := false
  tbl : BitVec 2 := 0
  grp : BitVec 2 := 0
  op : BitVec 4 := 0
  lane : BitVec 11 := 0
  sp : Bool := false
  ssel : BitVec 7 := 0
  c : BitVec 5 := 0
  t2 : BitVec 5 := 0
  sat : Bool := false
  rm : BitVec 3 := 0
  fn : BitVec 8

/-- The word of a VExt. -/
def VExt.word (e : VExt) : Word :=
  BitVec.ofBool e.flag ++ 0#3 ++ BitVec.ofBool e.qin ++ e.tbl ++ e.grp ++ e.op ++ e.lane ++ BitVec.ofBool e.sp ++ e.ssel
    ++ 0#9 ++ e.c ++ e.t2 ++ 0#1 ++ BitVec.ofBool e.sat ++ e.rm ++ e.fn

/-- A format V instruction. -/
def vIns (first : CodeWord) (e : VExt) : List CodeWord := first :: two e.word

/-- Three bits of a mask number in a 5-bit field (R167). -/
def m5 (m : MReg) : BitVec 5 := 0#2 ++ m

/-- A vector register number in a 7-bit field (R224). -/
def v7 (v : VReg) : BitVec 7 := 0#2 ++ v

/-- A general register number as a selector code. -/
def g7 (n : BitVec 6) : BitVec 7 := 0#1 ++ n

/-- A walk register number as a selector code. -/
def w7 (n : BitVec 3) : BitVec 7 := 10#4 ++ n

/-- The B field and literal of a source (R54). -/
def Src.field : Src → BitVec 7
  | .sel s => s.code
  | .lit _ => 0

/-- The words a source adds after the extension. -/
def Src.words : Src → List CodeWord
  | .sel _ => []
  | .lit v => two v

/-- LEN of a major that always has an extension: 0b01, or 0b11 with a literal. -/
def Src.len : Src → BitVec 2
  | .sel _ => 1
  | .lit _ => 3

/-- The FLAGS of the copy commands (R155). -/
def CopyFlags.code (f : CopyFlags) : BitVec 36 :=
  0#18 ++ BitVec.ofBool f.sat ++ f.rm.code ++ BitVec.ofBool f.dsp ++ BitVec.ofBool f.ssp ++ f.dfmt.code ++ f.sfmt.code

/-- The FLAGS of `CPYC` and `CPYZ` (R162). -/
def crcFlags (dsp ssp kind : Bool) : BitVec 36 :=
  0#17 ++ BitVec.ofBool kind ++ 0#4 ++ BitVec.ofBool dsp ++ BitVec.ofBool ssp ++ 0#12

/-- A shift amount's VB field and extension (R173). -/
def vShift (t : Ty) (k : MReg) (d a : VReg) (amt : VAmt) (fn : BitVec 8) : List CodeWord :=
  match amt with
  | .reg b => vIns (encV 0x31 t.code k b a d) { fn := fn }
  | .imm n => vIns (encV 0x31 t.code k 0 a d) { fn := fn, flag := true, lane := 0#4 ++ n }

/-- The words of an instruction (R51 to R57 and the encoding tables of the chapters); the steps of other agents have none. -/
def encode : Instr → List CodeWord
  | .add d a b => [encRRR 1 0 d a b.code 0]
  | .addLit d a b => encRRR 1 0 d a 0 2 :: two b
  | .sub d a b => [encRRR 1 1 d a b.code 0]
  | .subLit d a b => encRRR 1 1 d a 0 2 :: two b
  | .and d a b => [encRRR 1 2 d a b.code 0]
  | .andLit d a b => encRRR 1 2 d a 0 2 :: two b
  | .or d a b => [encRRR 1 3 d a b.code 0]
  | .orLit d a b => encRRR 1 3 d a 0 2 :: two b
  | .xor d a b => [encRRR 1 4 d a b.code 0]
  | .xorLit d a b => encRRR 1 4 d a 0 2 :: two b
  | .andn d a b => [encRRR 1 5 d a b.code 0]
  | .andnLit d a b => encRRR 1 5 d a 0 2 :: two b
  | .min d a b => [encRRR 1 6 d a b.code 0]
  | .minLit d a b => encRRR 1 6 d a 0 2 :: two b
  | .max d a b => [encRRR 1 7 d a b.code 0]
  | .maxLit d a b => encRRR 1 7 d a 0 2 :: two b
  | .minu d a b => [encRRR 2 0 d a b.code 0]
  | .minuLit d a b => encRRR 2 0 d a 0 2 :: two b
  | .maxu d a b => [encRRR 2 1 d a b.code 0]
  | .maxuLit d a b => encRRR 2 1 d a 0 2 :: two b
  | .shl d a b => [encRRR 2 2 d a b.code 0]
  | .shlLit d a b => encRRR 2 2 d a 0 2 :: two b
  | .shr d a b => [encRRR 2 3 d a b.code 0]
  | .shrLit d a b => encRRR 2 3 d a 0 2 :: two b
  | .shra d a b => [encRRR 2 4 d a b.code 0]
  | .shraLit d a b => encRRR 2 4 d a 0 2 :: two b
  | .rot d a b => [encRRR 2 5 d a b.code 0]
  | .rotLit d a b => encRRR 2 5 d a 0 2 :: two b
  | .mul d a b => [encRRR 2 6 d a b.code 0]
  | .mulLit d a b => encRRR 2 6 d a 0 2 :: two b
  | .mulh d a b => [encRRR 2 7 d a b.code 0]
  | .mulhLit d a b => encRRR 2 7 d a 0 2 :: two b
  | .mulhu d a b => [encRRR 3 0 d a b.code 0]
  | .mulhuLit d a b => encRRR 3 0 d a 0 2 :: two b
  | .div d a b => [encRRR 3 1 d a b.code 0]
  | .divLit d a b => encRRR 3 1 d a 0 2 :: two b
  | .divu d a b => [encRRR 3 2 d a b.code 0]
  | .divuLit d a b => encRRR 3 2 d a 0 2 :: two b
  | .rem d a b => [encRRR 3 3 d a b.code 0]
  | .remLit d a b => encRRR 3 3 d a 0 2 :: two b
  | .remu d a b => [encRRR 3 4 d a b.code 0]
  | .remuLit d a b => encRRR 3 4 d a 0 2 :: two b
  | .seteq d a b => [encRRR 3 5 d a b.code 0]
  | .seteqLit d a b => encRRR 3 5 d a 0 2 :: two b
  | .setlt d a b => [encRRR 3 6 d a b.code 0]
  | .setltLit d a b => encRRR 3 6 d a 0 2 :: two b
  | .setltu d a b => [encRRR 3 7 d a b.code 0]
  | .setltuLit d a b => encRRR 3 7 d a 0 2 :: two b
  | .setne d a b => [encRRR 4 0 d a b.code 0]
  | .setneLit d a b => encRRR 4 0 d a 0 2 :: two b
  | .setge d a b => [encRRR 4 1 d a b.code 0]
  | .setgeLit d a b => encRRR 4 1 d a 0 2 :: two b
  | .setgeu d a b => [encRRR 4 2 d a b.code 0]
  | .setgeuLit d a b => encRRR 4 2 d a 0 2 :: two b
  | .adds d a b => [encRRR 4 3 d a b.code 0]
  | .addsLit d a b => encRRR 4 3 d a 0 2 :: two b
  | .subs d a b => [encRRR 4 4 d a b.code 0]
  | .subsLit d a b => encRRR 4 4 d a 0 2 :: two b
  | .csel d a b => [encRRR 4 5 d a b.code 0]
  | .cselLit d a b => encRRR 4 5 d a 0 2 :: two b
  | .absd d a b => [encRRR 4 6 d a b.code 0]
  | .absdLit d a b => encRRR 4 6 d a 0 2 :: two b
  | .fadd d a b => [encRRR 16 0 d a b.code 0]
  | .faddLit d a b => encRRR 16 0 d a 0 2 :: two b
  | .fsub d a b => [encRRR 16 1 d a b.code 0]
  | .fsubLit d a b => encRRR 16 1 d a 0 2 :: two b
  | .fmul d a b => [encRRR 16 2 d a b.code 0]
  | .fmulLit d a b => encRRR 16 2 d a 0 2 :: two b
  | .fdiv d a b => [encRRR 16 3 d a b.code 0]
  | .fdivLit d a b => encRRR 16 3 d a 0 2 :: two b
  | .fmin d a b => [encRRR 16 4 d a b.code 0]
  | .fminLit d a b => encRRR 16 4 d a 0 2 :: two b
  | .fmax d a b => [encRRR 16 5 d a b.code 0]
  | .fmaxLit d a b => encRRR 16 5 d a 0 2 :: two b
  | .fminn d a b => [encRRR 16 6 d a b.code 0]
  | .fminnLit d a b => encRRR 16 6 d a 0 2 :: two b
  | .fmaxn d a b => [encRRR 16 7 d a b.code 0]
  | .fmaxnLit d a b => encRRR 16 7 d a 0 2 :: two b
  | .fma d a b => [encRRR 17 0 d a b.code 0]
  | .fmaLit d a b => encRRR 17 0 d a 0 2 :: two b
  | .fms d a b => [encRRR 17 1 d a b.code 0]
  | .fmsLit d a b => encRRR 17 1 d a 0 2 :: two b
  | .fcmpeq d a b => [encRRR 17 4 d a b.code 0]
  | .fcmpeqLit d a b => encRRR 17 4 d a 0 2 :: two b
  | .fcmplt d a b => [encRRR 17 5 d a b.code 0]
  | .fcmpltLit d a b => encRRR 17 5 d a 0 2 :: two b
  | .fcmple d a b => [encRRR 17 6 d a b.code 0]
  | .fcmpleLit d a b => encRRR 17 6 d a 0 2 :: two b
  | .mov d a => [encU 11 0 d.code a.code 0 0]
  | .movLit d a => encU 11 0 d.code 0 0 2 :: two a
  | .neg d a => [encU 11 1 d.code a.code 0 0]
  | .negLit d a => encU 11 1 d.code 0 0 2 :: two a
  | .not d a => [encU 11 2 d.code a.code 0 0]
  | .notLit d a => encU 11 2 d.code 0 0 2 :: two a
  | .clz d a => [encU 11 3 d.code a.code 0 0]
  | .clzLit d a => encU 11 3 d.code 0 0 2 :: two a
  | .ctz d a => [encU 11 4 d.code a.code 0 0]
  | .ctzLit d a => encU 11 4 d.code 0 0 2 :: two a
  | .popc d a => [encU 11 5 d.code a.code 0 0]
  | .popcLit d a => encU 11 5 d.code 0 0 2 :: two a
  | .brev d a => [encU 11 6 d.code a.code 0 0]
  | .brevLit d a => encU 11 6 d.code 0 0 2 :: two a
  | .sext d a => [encU 11 7 d.code a.code 0 0]
  | .sextLit d a => encU 11 7 d.code 0 0 2 :: two a
  | .zext d a => [encU 11 8 d.code a.code 0 0]
  | .zextLit d a => encU 11 8 d.code 0 0 2 :: two a
  | .beq a b off => [encBC 0 a.code b.code off 0]
  | .beqExt a b off => encBC 0 a.code b.code 0 1 :: two (off.setWidth 64)
  | .beqLit a b off => encBC 0 a.code 0 off 2 :: two b
  | .beqExtLit a b off => encBC 0 a.code 0 0 3 :: (two (off.setWidth 64) ++ two b)
  | .bne a b off => [encBC 1 a.code b.code off 0]
  | .bneExt a b off => encBC 1 a.code b.code 0 1 :: two (off.setWidth 64)
  | .bneLit a b off => encBC 1 a.code 0 off 2 :: two b
  | .bneExtLit a b off => encBC 1 a.code 0 0 3 :: (two (off.setWidth 64) ++ two b)
  | .blt a b off => [encBC 2 a.code b.code off 0]
  | .bltExt a b off => encBC 2 a.code b.code 0 1 :: two (off.setWidth 64)
  | .bltLit a b off => encBC 2 a.code 0 off 2 :: two b
  | .bltExtLit a b off => encBC 2 a.code 0 0 3 :: (two (off.setWidth 64) ++ two b)
  | .bge a b off => [encBC 3 a.code b.code off 0]
  | .bgeExt a b off => encBC 3 a.code b.code 0 1 :: two (off.setWidth 64)
  | .bgeLit a b off => encBC 3 a.code 0 off 2 :: two b
  | .bgeExtLit a b off => encBC 3 a.code 0 0 3 :: (two (off.setWidth 64) ++ two b)
  | .bltu a b off => [encBC 4 a.code b.code off 0]
  | .bltuExt a b off => encBC 4 a.code b.code 0 1 :: two (off.setWidth 64)
  | .bltuLit a b off => encBC 4 a.code 0 off 2 :: two b
  | .bltuExtLit a b off => encBC 4 a.code 0 0 3 :: (two (off.setWidth 64) ++ two b)
  | .bgeu a b off => [encBC 5 a.code b.code off 0]
  | .bgeuExt a b off => encBC 5 a.code b.code 0 1 :: two (off.setWidth 64)
  | .bgeuLit a b off => encBC 5 a.code 0 off 2 :: two b
  | .bgeuExtLit a b off => encBC 5 a.code 0 0 3 :: (two (off.setWidth 64) ++ two b)
  | .bwend a b off => [encBC 6 a.code b.code off 0]
  | .bwendExt a b off => encBC 6 a.code b.code 0 1 :: two (off.setWidth 64)
  | .bwendLit a b off => encBC 6 a.code 0 off 2 :: two b
  | .bwendExtLit a b off => encBC 6 a.code 0 0 3 :: (two (off.setWidth 64) ++ two b)
  | .fsqrt d a => [encRRR 17 2 d a 0 0]
  | .frcp d a => [encRRR 17 3 d a 0 0]
  | .fclass d a => [encRRR 17 7 d a 0 0]
  | .addi d a i => [encRI 5 d a i]
  | .andi d a i => [encRI 6 d a i]
  | .ori d a i => [encRI 7 d a i]
  | .xori d a i => [encRI 8 d a i]
  | .setlti d a i => [encRI 10 d a i]
  | .shli d a n => [encRI 9 d a (0#4 ++ n)]
  | .shri d a n => [encRI 9 d a (1#4 ++ n)]
  | .shrai d a n => [encRI 9 d a (2#4 ++ n)]
  | .roti d a n => [encRI 9 d a (3#4 ++ n)]
  | .movi d i => [i ++ d.code ++ 0x0C#6 ++ 0#2]
  | .moviLit d i => (0#17 ++ d.code ++ 0x0C#6 ++ 2#2 : CodeWord) :: two i
  | .extb d a b p w => encRRR 13 0 d a b.field b.len :: (two (0#51 ++ w ++ p) ++ b.words)
  | .extbs d a b p w => encRRR 13 1 d a b.field b.len :: (two (0#51 ++ w ++ p) ++ b.words)
  | .insb d a b p w => encRRR 13 2 d a b.field b.len :: (two (0#51 ++ w ++ p) ++ b.words)
  | .padd d a b c => encRRR 14 0 d a b.field b.len :: (two (0#60 ++ c.code) ++ b.words)
  | .psub d a b c => encRRR 14 1 d a b.field b.len :: (two (0#60 ++ c.code) ++ b.words)
  | .pdiff d a b c => encRRR 14 2 d a b.field b.len :: (two (0#60 ++ c.code) ++ b.words)
  | .paln d a c => encRRR 14 3 d a 0 1 :: two (0#60 ++ c.code)
  | .pchk d a b c => encRRR 14 4 d a b.field b.len :: (two (0#60 ++ c.code) ++ b.words)
  | .pwin d a b c => encRRR 14 5 d a b.field b.len :: (two (0#60 ++ c.code) ++ b.words)
  | .pcore d a => encRRR 14 6 d a 0 1 :: two 0
  | .fcvt d a td ts x => encU 18 0 d.code a.field x a.len :: (two (0#54 ++ td.code ++ ts.code) ++ a.words)
  | .fsx d a => encU 18 0 d.code a.code 0 1 :: two 429
  | .fsr d => encU 18 0 d.code 74 1 1 :: two 429
  | .br off => [off ++ 0x18#6 ++ 0#2]
  | .bnz a off => [encBC 7 a.code 0 off 0]
  | .bnzExt a off => encBC 7 a.code 0 0 1 :: two (off.setWidth 64)
  | .loop c n b => [b ++ c ++ n.code ++ 0x1A#6 ++ 0#2]
  | .loopLit c n b => (b ++ c ++ 0#7 ++ 0x1A#6 ++ 2#2 : CodeWord) :: two n
  | .wset1 w b s0 n0 => encE 27 0 (w7 w) b.code 0 :: two (extE 0 s0.code n0.code 0 0)
  | .wset2 w b s0 n0 s1 n1 => encE 27 1 (w7 w) b.code 0 :: two (extE 0 s0.code n0.code s1.code n1.code)
  | .wset3 w b s0 n0 s1 n1 s2 n2 =>
    encE 27 2 (w7 w) b.code 0 :: two (extE (0#22 ++ n2.code ++ s2.code) s0.code n0.code s1.code n1.code)
  | .wget d w i la => encE 27 3 d.code (w7 w) la :: two (extE 0 i 0 0 0)
  | .wclr w => encE 27 4 (w7 w) 0 0 :: two 0
  | .calld i => [i ++ 0#4 ++ 0x1C#6 ++ 0#2]
  | .spawnd i => [i ++ 0#4 ++ 0x1E#6 ++ 0#2]
  | .ret => [encU 29 0 0 0 0 0]
  | .callx a => [encU 29 1 0 a.code 0 0]
  | .region => [encU 29 2 0 0 0 0]
  | .yield => [encU 29 3 0 0 0 0]
  | .stop => [encU 29 4 0 0 0 0]
  | .trap a => [encU 29 5 0 a.code 0 0]
  | .brk => [encU 29 6 0 0 0 0]
  | .nop => [encU 29 7 0 0 0 0]
  | .sync => [encU 31 0 0 0 0 0]
  | .range a => [encU 31 1 0 a.code 0 0]
  | .rnext d => [encU 31 2 d.code 0 0 0]
  | .enq d a => [encU 31 3 d.code a.code 0 0]
  | .enqLit d a => encU 31 3 d.code 0 0 2 :: two a
  | .deq d a => [encU 31 4 d.code a.code 0 0]
  | .deqLit d a => encU 31 4 d.code 0 0 2 :: two a
  | .sendm t a => [encU 31 5 (g7 t) a.code 0 0]
  | .sendmLit t a => encU 31 5 (g7 t) 0 0 2 :: two a
  | .ldp am w b d la => [encM 0x20 am w b.code d.code la 0]
  | .ldpExt am w b d la o i sx => encM 0x20 am w b.code d.code la 1 :: two (extM (0#7 ++ BitVec.ofBool sx) o i.code)
  | .stp am w b s => [encM 0x21 am w b.code s.code 0 0]
  | .stpExt am w b s o i => encM 0x21 am w b.code s.code 0 1 :: two (extM 0 o i.code)
  | .ldg am w b d la => [encM 0x22 am w b.code d.code la 0]
  | .ldgExt am w b d la o i sx => encM 0x22 am w b.code d.code la 1 :: two (extM (0#7 ++ BitVec.ofBool sx) o i.code)
  | .stg am w b s => [encM 0x23 am w b.code s.code 0 0]
  | .stgExt am w b s o i => encM 0x23 am w b.code s.code 0 1 :: two (extM 0 o i.code)
  | .ldk am w b d la => [encM 0x24 am w b.code d.code la 0]
  | .ldkExt am w b d la o i sx => encM 0x24 am w b.code d.code la 1 :: two (extM (0#7 ++ BitVec.ofBool sx) o i.code)
  | .vldp am w b v la => [encM 0x25 am w b.code (v7 v) la 0]
  | .vldpExt am w b v la o => encM 0x25 am w b.code (v7 v) la 1 :: two (extM 0 o 0)
  | .vstp am w b v => [encM 0x26 am w b.code (v7 v) 0 0]
  | .vstpExt am w b v o i => encM 0x26 am w b.code (v7 v) 0 1 :: two (extM 0 o i.code)
  | .vldg am w b v la => [encM 0x27 am w b.code (v7 v) la 0]
  | .vldgExt am w b v la o => encM 0x27 am w b.code (v7 v) la 1 :: two (extM 0 o 0)
  | .vstg am w b v => [encM 0x28 am w b.code (v7 v) 0 0]
  | .vstgExt am w b v o i => encM 0x28 am w b.code (v7 v) 0 1 :: two (extM 0 o i.code)
  | .vgath w b v la o i => encM 0x29 0 w b.code (v7 v) la 1 :: two (extM 0 o i.code)
  | .vscat w b v o i => encM 0x2A 0 w b.code (v7 v) 0 1 :: two (extM 0 o i.code)
  | .iold am w b d la => [encM 0x2B am w b.code d.code la 0]
  | .ioldExt am w b d la o i => encM 0x2B am w b.code d.code la 1 :: two (extM 0 o i.code)
  | .iost am w b s o i => encM 0x2B am w b.code s.code 0 1 :: two (extM 1 o i.code)
  | .fence => [encU 45 0 0 0 0 0]
  | .fencep => [encU 45 1 0 0 0 0]
  | .fenceio => [encU 45 2 0 0 0 0]
  | .drain => [encU 45 3 0 0 0 0]
  | .cpy t la a b c e f => encE 44 0 (g7 t) a.code la :: two (extE f.code b.code c.code e.code 0)
  | .cpym t la a b c e m f => encE 44 1 (g7 t) a.code la :: two (extE f.code b.code c.code e.code m.code)
  | .cpyr t la a b c e f => encE 44 2 (g7 t) a.code la :: two (extE f.code b.code c.code e.code 0)
  | .cpys t la s b c e o f => encE 44 3 (g7 t) s la :: two (extE f.code b.code c.code e.code o.code)
  | .cpyc t la a b c e dsp ssp kind =>
    encE 44 4 (g7 t) a.code la :: two (extE (crcFlags dsp ssp kind) b.code c.code e.code 0)
  | .cpyz t la a b c e dsp ssp kind =>
    encE 44 5 (g7 t) a.code la :: two (extE (crcFlags dsp ssp kind) b.code c.code e.code 0)
  | .tpoll d t la => encE 44 6 d.code (g7 t) la :: two 0
  | .twaita d m any la => encE 44 7 d.code m.code la :: two (extE (0#35 ++ BitVec.ofBool any) 0 0 0 0)
  | .vadd t k d a b rm => vIns (encV 0x30 t.code k b a d) { fn := 0, rm := rm.code }
  | .vsub t k d a b rm => vIns (encV 0x30 t.code k b a d) { fn := 1, rm := rm.code }
  | .vmul t k d a b rm => vIns (encV 0x30 t.code k b a d) { fn := 2, rm := rm.code }
  | .vfma t k d a b c rm => vIns (encV 0x30 t.code k b a d) { fn := 3, rm := rm.code, c := c }
  | .vfms t k d a b c rm => vIns (encV 0x30 t.code k b a d) { fn := 4, rm := rm.code, c := c }
  | .vmin t k d a b => vIns (encV 0x30 t.code k b a d) { fn := 5 }
  | .vmax t k d a b => vIns (encV 0x30 t.code k b a d) { fn := 6 }
  | .vminn t k d a b => vIns (encV 0x30 t.code k b a d) { fn := 7 }
  | .vmaxn t k d a b => vIns (encV 0x30 t.code k b a d) { fn := 8 }
  | .vabs t k d a sat => vIns (encV 0x30 t.code k 0 a d) { fn := 9, sat := sat }
  | .vneg t k d a sat => vIns (encV 0x30 t.code k 0 a d) { fn := 10, sat := sat }
  | .vadds t k d a b => vIns (encV 0x30 t.code k b a d) { fn := 11 }
  | .vsubs t k d a b => vIns (encV 0x30 t.code k b a d) { fn := 12 }
  | .vmulh t k d a b => vIns (encV 0x30 t.code k b a d) { fn := 13 }
  | .vand t k d a b => vIns (encV 0x31 t.code k b a d) { fn := 0 }
  | .vor t k d a b => vIns (encV 0x31 t.code k b a d) { fn := 1 }
  | .vxor t k d a b => vIns (encV 0x31 t.code k b a d) { fn := 2 }
  | .vandn t k d a b => vIns (encV 0x31 t.code k b a d) { fn := 3 }
  | .vnot t k d a => vIns (encV 0x31 t.code k 0 a d) { fn := 4 }
  | .vshl t k d a amt => vShift t k d a amt 5
  | .vshr t k d a amt => vShift t k d a amt 6
  | .vshra t k d a amt => vShift t k d a amt 7
  | .vcmpeq t k m a b => vIns (encV 0x32 t.code k b a (m5 m)) { fn := 0 }
  | .vcmpne t k m a b => vIns (encV 0x32 t.code k b a (m5 m)) { fn := 1 }
  | .vcmplt t k m a b => vIns (encV 0x32 t.code k b a (m5 m)) { fn := 2 }
  | .vcmple t k m a b => vIns (encV 0x32 t.code k b a (m5 m)) { fn := 3 }
  | .vsel t k d a b => vIns (encV 0x32 t.code k b a d) { fn := 4 }
  | .vclass t k d a => vIns (encV 0x32 t.code k 0 a d) { fn := 5 }
  | .vshuf t t2 k d a b => vIns (encV 0x33 t.code k b a d) { fn := 0, t2 := t2.code }
  | .vbcast t k d s => vIns (encV 0x33 t.code k 0 0 d) { fn := 1, ssel := s.code }
  | .vslide t k d a b n => vIns (encV 0x33 t.code k b a d) { fn := 2, lane := n }
  | .vidx t k d s => vIns (encV 0x33 t.code k 0 0 d) { fn := 3, ssel := s.code }
  | .vmovs t d a n => vIns (encV 0x33 t.code 0 0 a 0) { fn := 4, ssel := d.code, lane := n }
  | .vmovv t d s n => vIns (encV 0x33 t.code 0 0 0 d) { fn := 5, ssel := s.code, lane := n }
  | .vpack t t2 k d a n sat => vIns (encV 0x33 t.code k 0 a d) { fn := 6, t2 := t2.code, lane := n, sat := sat }
  | .vunpk t t2 k d a n sat => vIns (encV 0x33 t.code k 0 a d) { fn := 7, t2 := t2.code, lane := n, sat := sat }
  | .vred t k op d a rm sat =>
    vIns (encV 0x34 t.code k 0 a 0) { fn := 0, op := op, ssel := d.code, rm := rm.code, sat := sat }
  | .vcvt t t2 k d a b n rm sat =>
    vIns (encV 0x34 t.code k b a d) { fn := 1, t2 := t2.code, lane := n, rm := rm.code, sat := sat }
  | .vqnt t t2 k d a b g n rm =>
    vIns (encV 0x34 t.code k b a d) { fn := 2, t2 := t2.code, grp := g.code, lane := n, rm := rm.code }
  | .vdqnt t t2 k d a b g n rm =>
    vIns (encV 0x34 t.code k b a d) { fn := 3, t2 := t2.code, grp := g.code, lane := n, rm := rm.code }
  | .vqdiv t t2 k d a b g n rm =>
    vIns (encV 0x34 t.code k b a d) { fn := 4, t2 := t2.code, grp := g.code, lane := n, rm := rm.code }
  | .vsend a cons sp s => vIns (encV 0x34 0 0 0 a 0) { fn := 5, lane := 0#6 ++ cons, sp := sp, ssel := s.code }
  | .vitp t t2 k d x tbl rm =>
    match x with
    | .reg a => vIns (encV 0x35 t.code k 0 a d) { fn := 0, t2 := t2.code, tbl := tbl, rm := rm.code }
    | .vin => vIns (encV 0x35 t.code k 0 0 d) { fn := 0, t2 := t2.code, tbl := tbl, rm := rm.code, qin := true }
  | .tload tbl s => vIns (encV 0x35 0 0 0 0 0) { fn := 1, tbl := tbl, ssel := s.code }
  | .mand d a b => vIns (encV 0x36 0 0 (m5 b) (m5 a) (m5 d)) { fn := 0 }
  | .mor d a b => vIns (encV 0x36 0 0 (m5 b) (m5 a) (m5 d)) { fn := 1 }
  | .mxor d a b => vIns (encV 0x36 0 0 (m5 b) (m5 a) (m5 d)) { fn := 2 }
  | .mnot d a => vIns (encV 0x36 0 0 0 (m5 a) (m5 d)) { fn := 3 }
  | .mcnt t d a => vIns (encV 0x36 t.code 0 0 (m5 a) 0) { fn := 4, ssel := d.code }
  | .mfirst t d a => vIns (encV 0x36 t.code 0 0 (m5 a) 0) { fn := 5, ssel := d.code }
  | .msetg d s p => vIns (encV 0x36 0 0 0 0 (m5 d)) { fn := 6, ssel := s.code, lane := 0#7 ++ p }
  | .msetgPre d s => vIns (encV 0x36 0 0 0 0 (m5 d)) { fn := 6, ssel := s.code, flag := true }
  | .mgetg d a p => vIns (encV 0x36 0 0 0 (m5 a) 0) { fn := 7, ssel := d.code, lane := 0#7 ++ p }
  | .slresv d m any la => encE 56 0 (g7 d) m.code la :: two (extE (0#35 ++ BitVec.ofBool any) 0 0 0 0)
  | .slfree d m la => encE 56 1 (g7 d) m.code la :: two 0
  | .mwld t la s o k n wf h =>
    encE 56 2 (g7 t) s la :: two (extE (0#29 ++ BitVec.ofBool h ++ wf.code) o.code k.code n.code 0)
  | .mstrm t la s o m sc af acc tr =>
    encE 56 3 (g7 t) s la :: two (extE (0#28 ++ BitVec.ofBool tr ++ BitVec.ofBool acc ++ af.code) o.code m.code sc.code 0)
  | .mgrp t la s m c sc af wf acc =>
    encE 56 4 (g7 t) s la :: two (extE (0#23 ++ BitVec.ofBool acc ++ wf.code ++ af.code) m.code c.code sc.code 0)
  | .mdrn t la d r e df rm sat dsp acc clr =>
    encE 56 5 (g7 t) d.code la :: two (extE (0#23 ++ BitVec.ofBool clr ++ BitVec.ofBool acc ++ BitVec.ofBool dsp
      ++ BitVec.ofBool sat ++ rm.code ++ df.code) r.code e.code 0 0)
  | .mclr t la e acc => encE 56 6 (g7 t) e.code la :: two (extE (0#35 ++ BitVec.ofBool acc) 0 0 0 0)
  | .mcfg t la c => encE 56 7 (g7 t) c.code la :: two 0
  | .mrmt t la c v => encE 57 0 (g7 t) c.code la :: two (extE 0 (v7 v) 0 0 0)
  | .mcap d la c m r => encE 57 1 (g7 d) c.code la :: two (extE (0#33 ++ r) m.code 0 0 0)
  | .addw t la a b n sf => encE 57 2 (g7 t) a.code la :: two (extE (0#30 ++ sf.code) b.code n.code 0 0)
  | .wnorm t la a b n df rm => encE 57 3 (g7 t) a.code la :: two (extE (0#27 ++ rm.code ++ df.code) b.code n.code 0 0)
  | .wzero t la a n => encE 57 4 (g7 t) a.code la :: two (extE 0 n.code 0 0 0)
  | .amo am w b d la g op o v =>
    encM 0x3C am w b.code d.code la 1 :: two (extM (0#1 ++ op.code ++ BitVec.ofBool g ++ 0#2) o v.code)
  | .red am w b g op o v =>
    encM 0x3C am w b.code 74 0 1 :: two (extM (0#1 ++ op.code ++ BitVec.ofBool g ++ 1#2) o v.code)
  | .cas am w b d la g o v => encM 0x3C am w b.code d.code la 1 :: two (extM (0#5 ++ BitVec.ofBool g ++ 2#2) o v.code)
  | .bari d h n la => encE 61 0 d.code h.code la :: two (extE 0 n.code 0 0 0)
  | .bara d h la => encE 61 1 d.code h.code la :: two 0
  | .barw d h la => encE 61 2 d.code h.code la :: two 0
  | .claim d hd v la => encE 61 3 d.code (v7 v) la :: two (extE 0 hd.code 0 0 0)
  | .cwait d hd v la => encE 61 4 d.code (v7 v) la :: two (extE 0 hd.code 0 0 0)
  | .fulfil d v hv la => encE 61 5 d.code (v7 v) la :: two (extE 0 hv.code 0 0 0)
  | .abandon d v la => encE 61 6 d.code (v7 v) la :: two 0
  | .unpin d v la => encE 61 7 d.code (v7 v) la :: two 0
  | .cpeek d hd v la => encE 61 8 d.code (v7 v) la :: two (extE 0 hd.code 0 0 0)
  | .csrr d n => [encU 63 0 d.code n.code 0 0]
  | .csrrLit d n => encU 63 0 d.code 0 0 2 :: two n
  | .csrw n s => [encU 63 1 s.code n.code 0 0]
  | .csrwLit n s => encU 63 1 s.code 0 0 2 :: two n
  | .csrs n s => [encU 63 2 s.code n.code 0 0]
  | .csrsLit n s => encU 63 2 s.code 0 0 2 :: two n
  | .csrc n s => [encU 63 3 s.code n.code 0 0]
  | .csrcLit n s => encU 63 3 s.code 0 0 2 :: two n
  | .eret a => [encU 63 4 0 a.code 0 0]
  | .eretLit a => encU 63 4 0 0 0 2 :: two a
  | .tlbw a s => [encU 63 5 s.code a.code 0 0]
  | .tlbwLit a s => encU 63 5 s.code 0 0 2 :: two a
  | .tlbi a s => [encU 63 6 s.code a.code 0 0]
  | .tlbiLit a s => encU 63 6 s.code 0 0 2 :: two a
  | .wake a => [encU 63 7 0 a.code 0 0]
  | .wakeLit a => encU 63 7 0 0 0 2 :: two a
  | .leaseq d a => [encU 63 8 d.code a.code 0 0]
  | .leaseqLit d a => encU 63 8 d.code 0 0 2 :: two a
  | _ => []

/-- The words of a table word: word n is bits 32n + 31 to 32n, and every bit above `nbits` is zero. -/
def tableWords (nbits w : Nat) : List CodeWord :=
  let v : BitVec 160 := BitVec.ofNat 160 (w % 2 ^ nbits)
  [v.extractLsb' 0 32, v.extractLsb' 32 32, v.extractLsb' 64 32, v.extractLsb' 96 32, v.extractLsb' 128 32]

/-- The instruction that the decoder reads from the words of a table word, none where it refuses. -/
noncomputable def decodeTableWord (nbits w : Nat) : Option Instr :=
  match decode (tableWords nbits w) with
  | .ok i => some i
  | .error _ => none

end Sys2Proof
end

