-- ==== Sys2Proof/Config.lean ====
section
/-! DEFINITION. The free values: constants with no body, of which nothing can be proved, for what the spec leaves open. -/

namespace Sys2Proof

/-- Which of the steps that are due comes next: a free choice for each step (the spec gives concurrent agents no order). -/
opaque Config.freeChoice : Nat → Nat

/-- How many cycles of `clk` a step takes: free for each step (R8, R19; cycle counts are left out of the model). -/
opaque Config.freeTicks : Nat → Nat

/-- What HBM holds after a checkpoint whose image fails its checks (R385: undefined), by step. -/
opaque Config.undefinedHbm : Nat → List (Nat × Byte)

/-- Which of the values that a container of a scratchpad held since the chunk began a racing load of its owner returns, by step
and container (R264: either the value before a racing write or the value after it). -/
opaque Config.freeRace : Nat → Nat → Nat

/-- A free value for each step. -/
opaque Config.freeValue : Nat → Word

/-- What an engine reads at another package: step, package and bit (other packages are not modelled). -/
opaque Config.farMemory : Nat → Nat → Nat → Nat

/-- Whether what an engine reads at another package is poisoned: step, package and bit. -/
opaque Config.farPoison : Nat → Nat → Nat → Bool

/-- Whether a frame of another package lies in HBM of a partition with a pod partition identifier there: step, package, bit,
identifier. -/
opaque Config.farOwner : Nat → Nat → Nat → Nat → Bool

/-- Whether the home of a window of another package would deny an access at its issue (R28: both checks precede any read or write): step,
package, core, and the bit at which the run ends in the scratchpad, 0 for a mailbox. -/
opaque Config.farDenied : Nat → Nat → Nat → Nat → Bool

/-- Whether the home of another package refuses a read of an engine in its HBM (R329): step, package and bit. -/
opaque Config.farRefuses : Nat → Nat → Nat → Bool

/-- CHECK of a capability: a keyed function of its bits 39:0, of the owner core and of the key (R211). -/
opaque Config.capCheck : Nat → Nat → Word → BitVec 24

/-- How many of the bytes decoded before a failure of `CPYZ` are written (R162 states no number), by KIND and compressed bytes. -/
opaque Config.unpackWritten : Bool → List Byte → Nat

/-- Whether bytes behind the end of a compressed frame make it malformed (R162 does not say), by KIND and compressed bytes. -/
opaque Config.unpackTail : Bool → List Byte → Bool

/-- The private package code key of a drawing (R363). -/
opaque Config.codePrivate : Nat → Nat

/-- The nonce of a signature made in a step (the standard draws it at random). -/
opaque Config.sm2Nonce : Nat → Nat

/-- The identity of the `damud-xl` build in the firmware (R363). -/
opaque Config.translatorId : Digest

/-- What `damud-xl` makes of a portable container at budgets g and v: a native record, whose header the package completes, or a refusal
(R286, R363, R369; the spec does not give the text it emits). -/
opaque Config.translate : List Byte → Nat → Nat → Option (List Byte)

/-- Where a lantern thread starts after a restart, code-object handle and word offset: Lomesh firmware defines it (R314). -/
opaque Config.lanternEntry : Nat → BitVec 24 × BitVec 24

/-- The wear estimate of a unit at a time (R323; the spec gives its inputs and not the model). -/
opaque Config.wear : Nat → Word → Word

/-- Temperature and power as a tile or the package reads them at a time (R324). -/
opaque Config.sensor : Nat → Word → Word

end Sys2Proof
end

