-- ==== Sys2Proof/Machine/Bits.lean ====
section
/-! DEFINITION. The plain helpers under the machine: sparse maps in one canonical form, memory as bytes, bit fields,
and readings of patterns as integers. -/

namespace Sys2Proof

/-- The signed reading of the low `w` bits of a pattern. -/
def signed (w v : Nat) : Int :=
  let u := v % 2 ^ w
  if u < 2 ^ (w - 1) then (u : Int) else (u : Int) - (2 ^ w : Nat)

/-- `Lo(T)` of R69. -/
def Ty.lo (t : Ty) : Int := if t.isSigned then -((2 ^ (t.bits - 1) : Nat) : Int) else 0

/-- `Hi(T)` of R69. -/
def Ty.hi (t : Ty) : Int := if t.isSigned then ((2 ^ (t.bits - 1) : Nat) : Int) - 1 else ((2 ^ t.bits : Nat) : Int) - 1

/-- The integer that a pattern of an integer type denotes (R69). -/
def Ty.int (t : Ty) (v : Nat) : Int := if t.isSigned then signed t.bits v else ((v % 2 ^ t.bits : Nat) : Int)

/-- The number of elements of a packed container, and of a container of any class (R32). -/
def Cls.packed (c : Cls) : Bool := c == .w3 || c == .w6

/-- `N(c)`: elements per 64-bit container of a packed class (R32). -/
def Cls.perContainer (c : Cls) : Nat := if c == .w3 then 21 else 10

end Sys2Proof

namespace Sys2Proof.Machine

/-- A sparse map: pairs with strictly rising keys, none equal to what an unlisted key reads as. -/
abbrev SMap (α : Type) := List (Nat × α)

/-- What a key reads as; `d` is what an unlisted key reads as. -/
def SMap.look {α : Type} (d : α) : SMap α → Nat → α
  | [], _ => d
  | (a, v) :: m, k => if k = a then v else SMap.look d m k

/-- Removes a key. -/
def SMap.drop {α : Type} : SMap α → Nat → SMap α
  | [], _ => []
  | (a, v) :: m, k => if k = a then SMap.drop m k else (a, v) :: SMap.drop m k

/-- Lists a value under a key, which is not the value an unlisted key reads as. -/
def SMap.list {α : Type} : SMap α → Nat → α → SMap α
  | [], k, v => [(k, v)]
  | (a, w) :: m, k, v => if k < a then (k, v) :: (a, w) :: m else if k = a then (k, v) :: m else (a, w) :: SMap.list m k v

/-- Writes a key, in canonical form: writing what an unlisted key reads as removes the entry. -/
def SMap.put {α : Type} [DecidableEq α] (d : α) (m : SMap α) (k : Nat) (v : α) : SMap α :=
  if v = d then SMap.drop m k else SMap.list m k v

/-- Every listed value changed, in canonical form; the function leaves the default as it is. -/
def SMap.each {α : Type} [DecidableEq α] (d : α) (f : α → α) : SMap α → SMap α
  | [] => []
  | (a, v) :: m => if f v = d then SMap.drop (SMap.each d f m) a else (a, f v) :: SMap.each d f m

/-- Every key of a map is above a bound, strictly rising, and no value is the default. -/
def SMap.above {α : Type} [DecidableEq α] (d : α) (lo : Nat) : SMap α → Bool
  | [] => true
  | (a, v) :: m => lo ≤ a && v != d && SMap.above d (a + 1) m

/-- The canonical form: keys strictly rising, no entry equal to the default. -/
def SMap.wf {α : Type} [DecidableEq α] (d : α) (m : SMap α) : Bool := SMap.above d 0 m

/-- Memory: one entry for each byte that is not zero, by byte number. -/
abbrev Memory := List Host.Cell

/-- What a byte of memory that nothing has written reads as. DESIGN CHOICE: the spec gives none (log 1). -/
def Memory.unlisted : Byte := 0

/-- The canonical form of memory. -/
def Memory.wf (m : Memory) : Bool := SMap.wf Memory.unlisted m

/-- One byte of memory. -/
def Memory.byte (m : Memory) (a : Nat) : Byte := SMap.look Memory.unlisted m a

/-- Writes one byte of memory. -/
def Memory.setByte (m : Memory) (a : Nat) (v : Byte) : Memory := SMap.put Memory.unlisted m a v

/-- The `n` bytes from byte number `a`, the lowest address in the lowest bits (R68). -/
def Memory.span (m : Memory) (a : Nat) : Nat → Nat
  | 0 => 0
  | n + 1 => (m.byte a).toNat + 256 * Memory.span m (a + 1) n

/-- Writes `n` bytes of `v` from byte number `a`, the lowest bits at the lowest address (R68). -/
def Memory.setSpan (m : Memory) (a : Nat) : Nat → Nat → Memory
  | 0, _ => m
  | n + 1, v => Memory.setSpan (m.setByte a (BitVec.ofNat 8 v)) (a + 1) n (v / 256)

/-- The number of bytes that hold the bits [bit, bit + n). -/
def byteCount (bit n : Nat) : Nat := (bit % 8 + n + 7) / 8

/-- The `n` bits of memory at bit address `bit` (R68). -/
def Memory.bits (m : Memory) (bit n : Nat) : Nat :=
  (m.span (bit / 8) (byteCount bit n)) / 2 ^ (bit % 8) % 2 ^ n

/-- Writes the low `n` bits of `v` at bit address `bit`, leaving every other bit (R36, R68). -/
def Memory.setBits (m : Memory) (bit n v : Nat) : Memory :=
  let cnt := byteCount bit n
  let old := m.span (bit / 8) cnt
  let lo := old % 2 ^ (bit % 8)
  let hi := old / 2 ^ (bit % 8 + n)
  m.setSpan (bit / 8) cnt (lo + 2 ^ (bit % 8) * (v % 2 ^ n) + 2 ^ (bit % 8 + n) * hi)

/-- `old` with the bits of a mask taken from `v`. -/
def blend (mask old v : Nat) : Nat := old ^^^ ((old ^^^ v) &&& mask)

/-- Writes those of `n` bits at bit address `bit` that a mask names, leaving every other bit (R36). -/
def Memory.blend (m : Memory) (bit n mask v : Nat) : Memory := m.setBits bit n (Machine.blend mask (m.bits bit n) v)

/-- Bits `hi` down to `lo` of a number. -/
def bitsOf (v lo n : Nat) : Nat := v / 2 ^ lo % 2 ^ n

/-- `v` with bits [lo, lo + n) replaced by the low bits of `x`. -/
def setBitsOf (v lo n x : Nat) : Nat :=
  v % 2 ^ lo + 2 ^ lo * (x % 2 ^ n) + 2 ^ (lo + n) * (v / 2 ^ (lo + n))

/-- The `w`-bit two's complement pattern of an integer. -/
def wrapTo (w : Nat) (x : Int) : Nat := (x % (2 ^ w : Nat)).toNat

/-- `Clamp` of R83. -/
def clampInt (x lo hi : Int) : Int := if x < lo then lo else if hi < x then hi else x

/-- `Legal(a, c)` of R33. -/
def legal (a : Nat) (c : Cls) : Bool :=
  if c.packed then a % 64 % c.bits == 0 && a % 64 < c.bits * c.perContainer else a % c.bits == 0

/-- `Index(a, c)` of R33, for a legal address. -/
def index (a : Nat) (c : Cls) : Nat :=
  if c.packed then c.perContainer * (a / 64) + a % 64 / c.bits else a / c.bits

/-- `Addr(i, c)` of R33, floor division. -/
def addrOf (i : Int) (c : Cls) : Int :=
  if c.packed then 64 * (i / (c.perContainer : Int)) + c.bits * (i % (c.perContainer : Int)) else i * c.bits

/-- The greatest legal address at or below `a` (`PALN`, R40). -/
def alignDown (a : Nat) (c : Cls) : Nat :=
  if c.packed then
    a / 64 * 64 + c.bits * (if a % 64 / c.bits < c.perContainer then a % 64 / c.bits else c.perContainer - 1)
  else a / c.bits * c.bits

/-- The bits of a container of the classes: the last bit of a run's last element, which for a packed class is the last bit
of its container (R39). -/
def lastBit (a : Nat) (c : Cls) : Nat := if c.packed then a / 64 * 64 + 63 else a + c.bits - 1

/-- How many elements of a list, counted from 0, satisfy a test: a bounded search used for bit counts. -/
def countBits (v : Nat) : Nat → Nat
  | 0 => 0
  | n + 1 => (v / 2 ^ n % 2) + countBits v n

/-- The lowest set bit below `n`, or `n`. -/
def lowestBit (v : Nat) : Nat → Nat → Nat
  | i, 0 => i
  | i, n + 1 => if v.testBit i then i else lowestBit v (i + 1) n

/-- Bits [0, n) of `v` in reverse order. -/
def reverseBits (v : Nat) : Nat → Nat
  | 0 => 0
  | n + 1 => (v / 2 ^ n % 2) + 2 * reverseBits (v % 2 ^ n) n

/-- The floor of the square root, one bit at a time. -/
def sqrtBits (n : Nat) : Nat → Nat → Nat
  | 0, r => r
  | b + 1, r => if (r + 2 ^ b) * (r + 2 ^ b) ≤ n then sqrtBits n b (r + 2 ^ b) else sqrtBits n b r

/-- Numbers below `n`, in rising order, from `i`. -/
def upFrom (i : Nat) : Nat → List Nat
  | 0 => []
  | n + 1 => i :: upFrom (i + 1) n

/-- The bits of a list of chunks of `w` bits, the first lowest. -/
def packBits (w : Nat) : List Nat → Nat
  | [] => 0
  | v :: vs => v % 2 ^ w + 2 ^ w * packBits w vs

end Sys2Proof.Machine
end

