-- ==== Sys2Proof/Machine/Event.lean ====
section
/-! DEFINITION. The steps of the other agents as the agenda of the state holds them: one constructor for each row of the
table that is no instruction, with the same name and arguments as its constructor of Instr. -/

namespace Sys2Proof.Machine

/-- A step of another agent that is due, or an input from outside the package (see Instr for what each is). -/
inductive Event where
  | vsendPlacement (n : Nat)
  | chunkCommit (n : Nat)
  | soloCommitGrant (n : Nat)
  | chunkInstructionLimit (n : Nat)
  | storeBufferFull (n : Nat)
  | loadReply (n : Nat) (data : Reply)
  | atomicApplication (pkg : BitVec 10) (who : Issuer) (tag : Nat) (bit : Nat) (w : Cls) (op : Option AOp) (v e : Word)
  | atomicReply (n : Nat) (data : Reply)
  | copyCommandAcceptance (core : Nat)
  | copySectorWrite (core : Nat)
  | copyCommandCompletion (core : Nat)
  | matrixCommandAcceptance (core : Nat)
  | matrixCommandStart (core : Nat)
  | matrixCommandCompletion (core : Nat)
  | remoteCommandArrival (owner sender : Nat) (ctx : BitVec 8) (cap : Word) (image : BitVec 1024)
  | steal (thief : Nat)
  | spanSplit (thief : Nat)
  | taskEnd (n : Nat)
  | workSearchRetry (n : Nat)
  | messageFrameArrival (f : Frame)
  | inboxSpill (core : Nat)
  | inboxReplay (core : Nat)
  | sendmAcceptTimeout (n : Nat) (tok : BitVec 6)
  | stageGovernorEvaluation (launch : Nat)
  | stageCoreMove (core : Nat)
  | tailwindBinChange (tile : Nat)
  | codeWaitExpiry (n : Nat)
  | codeSourceAnswer (req : Nat) (a : SourceAnswer)
  | codeSourceTimeLimit (req : Nat)
  | codeTranslationEnd (req : Nat)
  | codeInstall (req : Nat)
  | coldTextFetch (handle : Nat)
  | codePoisonRefetch (n : Nat) (clean : Bool)
  | codeShelfRead (req : Nat) (bucket : BitVec 512) (item : List Byte)
  | codeRequestFlit (req : Nat) (a : CodeFlit)
  | tlbMiss (n : Nat)
  | tlbProbe (w : WalkId) (size : BitVec 2)
  | tlbProbeReply (w : WalkId) (size : BitVec 2) (entry : Option (BitVec 128))
  | tlbFill (w : WalkId) (entry : BitVec 128)
  | tlbFail (w : WalkId)
  | queueNotify (q : Nat) (port : Option Nat)
  | queuePeriodicScan (q : Nat)
  | partitionServiceRound
  | leaseResident (launch : Nat)
  | launchBind (launch : Nat)
  | launchForward (q : Nat) (record : LaunchMsg) (args : List Word)
  | memberReport (launch : Nat) (pkg : BitVec 10) (status cause : BitVec 8) (field : BitVec 16) (addr extra : Word)
  | launchEnd (launch : Nat)
  | leaseDrained (launch : Nat)
  | launchPreemption (part : Nat)
  | lanternFrameStart (tile thr : Nat)
  | lanternSlotBoundary (tile thr : Nat)
  | trapDelivery (n : Nat) (cause : BitVec 8) (addr extra : Word)
  | trapHandlerStart (tile : Nat)
  | lanternThreadFault (n : Nat) (cause : BitVec 8) (addr extra : Word)
  | preemptionRequest (ctx : BitVec 8)
  | strandPreemption (n : Nat)
  | contextSave (ctx : BitVec 8)
  | contextRestore (ctx : BitVec 8)
  | ctxResident (ctx : BitVec 8)
  | ctxSuspend (ctx : BitVec 8)
  | ctxResume (ctx : BitVec 8)
  | ctxSwapOut (ctx : BitVec 8)
  | ctxTeardown (ctx : BitVec 8)
  | ctxTeardownComplete (ctx : BitVec 8)
  | ctxdescWrite (ctx : BitVec 8) (v : Word)
  | icwaysWrite (tile : Nat) (ctx : BitVec 8) (v : Word)
  | hstatWrite (unit : Nat) (v : Word)
  | lfstatWrite (thread : Nat) (v : Word)
  | hwinWrite (v : Word)
  | ptbitsWrite (v : Word)
  | claimbaseWrite (ctx : BitVec 8) (v : Word)
  | claimlenWrite (ctx : BitVec 8) (v : Word)
  | registerWrite (num scope : Nat) (v : Word)
  | hleaseRenew (port : Nat)
  | hleasePeriodWrite (port : Nat) (v : Word)
  | hostLeaseExpiry
  | dualEnable
  | dualClear
  | portLinkDown (port : Nat)
  | portEnumeration (port : Nat) (found : List (BitVec 256))
  | bar2Write (port : Nat) (off : BarAt) (data : Tlp)
  | bar2Read (port : Nat) (off : BarAt) (len : Nat)
  | inboundWrite (port fn addr : Nat) (data : List Byte) (poisoned : Bool)
  | inboundRead (port fn addr len : Nat)
  | iostAcceptance (port : Nat)
  | ioldCompletion (n : Nat) (data : Word) (error : Bool)
  | ioldTimeout (n : Nat)
  | remoteAccessArrival (pkg : BitVec 10) (who : Issuer) (tag : Nat) (bit : Nat) (w : Cls) (store : Option FarData)
  | remoteReplyTimeout (n : Nat)
  | flitRetry (link : Nat)
  | podLinkDown (link : Nat)
  | flitForward (dest : BitVec 10) (hops : Nat) (body : Nat)
  | routeFailover (dest : BitVec 10)
  | ckptStart
  | checkpointQuiesced
  | checkpointQuiesceTimeout
  | checkpointWritten
  | checkpointWriteError
  | checkpointFlushed
  | ckptRestore
  | restoreComplete (image : Option (List (Nat × Byte)))
  | attestationNonceWrite (i : BitVec 3) (v : Word)
  | attreq (v : Word)
  | attestationReportReady
  | powerOn (p : PowerUp)
  | thermalHalt
  | thermalLimit (tile : Nat)
  | throttleBinStep (core : Nat)
  | correctedError (unit addr : Nat)
  | uncorrectableError (unit bit : Nat) (src : ErrSource)
  | strandStateError (n : Nat) (recoverable : Bool)
  | patrolScrub (bit : Nat)
  | barometerDecay (tile : Nat)
  | wearUpdate (unit : Nat)
  | trustListChange (part : Nat)
  | powerFailure
  | thermalLimitCleared (tile : Nat)
  | iostFailedBeyondPort (port : Nat) (ctx : BitVec 8) (addr : Word)
  | claimRequestArrival (r : ClaimReq)
  | inboundAtomicop (port fn addr : Nat) (wide : Bool) (op : HostAtomic) (v e : Word)
  | ioQueuePairCreation (port fn : Nat) (depth : Nat) (sq cq : Word)
  | rollbackFuseBlow (count : Nat)
  deriving DecidableEq, Repr

/-- The step of an event as an instruction of the table. -/
noncomputable def eventInstr (e : Event) : Instr :=
  match e with
  | .vsendPlacement n => .vsendPlacement n
  | .chunkCommit n => .chunkCommit n
  | .soloCommitGrant n => .soloCommitGrant n
  | .chunkInstructionLimit n => .chunkInstructionLimit n
  | .storeBufferFull n => .storeBufferFull n
  | .loadReply n data => .loadReply n data
  | .atomicApplication pkg who tag bit w op v e => .atomicApplication pkg who tag bit w op v e
  | .atomicReply n data => .atomicReply n data
  | .copyCommandAcceptance core => .copyCommandAcceptance core
  | .copySectorWrite core => .copySectorWrite core
  | .copyCommandCompletion core => .copyCommandCompletion core
  | .matrixCommandAcceptance core => .matrixCommandAcceptance core
  | .matrixCommandStart core => .matrixCommandStart core
  | .matrixCommandCompletion core => .matrixCommandCompletion core
  | .remoteCommandArrival owner sender ctx cap image => .remoteCommandArrival owner sender ctx cap image
  | .steal thief => .steal thief
  | .spanSplit thief => .spanSplit thief
  | .taskEnd n => .taskEnd n
  | .workSearchRetry n => .workSearchRetry n
  | .messageFrameArrival f => .messageFrameArrival f
  | .inboxSpill core => .inboxSpill core
  | .inboxReplay core => .inboxReplay core
  | .sendmAcceptTimeout n tok => .sendmAcceptTimeout n tok
  | .stageGovernorEvaluation launch => .stageGovernorEvaluation launch
  | .stageCoreMove core => .stageCoreMove core
  | .tailwindBinChange tile => .tailwindBinChange tile
  | .codeWaitExpiry n => .codeWaitExpiry n
  | .codeSourceAnswer req a => .codeSourceAnswer req a
  | .codeSourceTimeLimit req => .codeSourceTimeLimit req
  | .codeTranslationEnd req => .codeTranslationEnd req
  | .codeInstall req => .codeInstall req
  | .coldTextFetch handle => .coldTextFetch handle
  | .codePoisonRefetch n clean => .codePoisonRefetch n clean
  | .codeShelfRead req bucket item => .codeShelfRead req bucket item
  | .codeRequestFlit req a => .codeRequestFlit req a
  | .tlbMiss n => .tlbMiss n
  | .tlbProbe n size => .tlbProbe n size
  | .tlbProbeReply n size entry => .tlbProbeReply n size entry
  | .tlbFill n entry => .tlbFill n entry
  | .tlbFail n => .tlbFail n
  | .queueNotify q port => .queueNotify q port
  | .queuePeriodicScan q => .queuePeriodicScan q
  | .partitionServiceRound => .partitionServiceRound
  | .leaseResident launch => .leaseResident launch
  | .launchBind launch => .launchBind launch
  | .launchForward q record args => .launchForward q record args
  | .memberReport launch pkg status cause field addr extra => .memberReport launch pkg status cause field addr extra
  | .launchEnd launch => .launchEnd launch
  | .leaseDrained launch => .leaseDrained launch
  | .launchPreemption part => .launchPreemption part
  | .lanternFrameStart tile thr => .lanternFrameStart tile thr
  | .lanternSlotBoundary tile thr => .lanternSlotBoundary tile thr
  | .trapDelivery n cause addr extra => .trapDelivery n cause addr extra
  | .trapHandlerStart tile => .trapHandlerStart tile
  | .lanternThreadFault n cause addr extra => .lanternThreadFault n cause addr extra
  | .preemptionRequest ctx => .preemptionRequest ctx
  | .strandPreemption n => .strandPreemption n
  | .contextSave ctx => .contextSave ctx
  | .contextRestore ctx => .contextRestore ctx
  | .ctxResident ctx => .ctxResident ctx
  | .ctxSuspend ctx => .ctxSuspend ctx
  | .ctxResume ctx => .ctxResume ctx
  | .ctxSwapOut ctx => .ctxSwapOut ctx
  | .ctxTeardown ctx => .ctxTeardown ctx
  | .ctxTeardownComplete ctx => .ctxTeardownComplete ctx
  | .ctxdescWrite ctx v => .ctxdescWrite ctx v
  | .icwaysWrite tile ctx v => .icwaysWrite tile ctx v
  | .hstatWrite unit v => .hstatWrite unit v
  | .lfstatWrite thread v => .lfstatWrite thread v
  | .hwinWrite v => .hwinWrite v
  | .ptbitsWrite v => .ptbitsWrite v
  | .claimbaseWrite ctx v => .claimbaseWrite ctx v
  | .claimlenWrite ctx v => .claimlenWrite ctx v
  | .registerWrite num scope v => .registerWrite num scope v
  | .hleaseRenew port => .hleaseRenew port
  | .hleasePeriodWrite port v => .hleasePeriodWrite port v
  | .hostLeaseExpiry => .hostLeaseExpiry
  | .dualEnable => .dualEnable
  | .dualClear => .dualClear
  | .portLinkDown port => .portLinkDown port
  | .portEnumeration port found => .portEnumeration port found
  | .bar2Write port off data => .bar2Write port off data
  | .bar2Read port off len => .bar2Read port off len
  | .inboundWrite port fn addr data poisoned => .inboundWrite port fn addr data poisoned
  | .inboundRead port fn addr len => .inboundRead port fn addr len
  | .iostAcceptance port => .iostAcceptance port
  | .ioldCompletion n data error => .ioldCompletion n data error
  | .ioldTimeout n => .ioldTimeout n
  | .remoteAccessArrival pkg who tag bit w store => .remoteAccessArrival pkg who tag bit w store
  | .remoteReplyTimeout n => .remoteReplyTimeout n
  | .flitRetry link => .flitRetry link
  | .podLinkDown link => .podLinkDown link
  | .flitForward dest hops body => .flitForward dest hops body
  | .routeFailover dest => .routeFailover dest
  | .ckptStart => .ckptStart
  | .checkpointQuiesced => .checkpointQuiesced
  | .checkpointQuiesceTimeout => .checkpointQuiesceTimeout
  | .checkpointWritten => .checkpointWritten
  | .checkpointWriteError => .checkpointWriteError
  | .checkpointFlushed => .checkpointFlushed
  | .ckptRestore => .ckptRestore
  | .restoreComplete image => .restoreComplete image
  | .attestationNonceWrite i v => .attestationNonceWrite i v
  | .attreq v => .attreq v
  | .attestationReportReady => .attestationReportReady
  | .powerOn p => .powerOn p
  | .thermalHalt => .thermalHalt
  | .thermalLimit tile => .thermalLimit tile
  | .throttleBinStep core => .throttleBinStep core
  | .correctedError unit addr => .correctedError unit addr
  | .uncorrectableError unit bit src => .uncorrectableError unit bit src
  | .strandStateError n recoverable => .strandStateError n recoverable
  | .patrolScrub bit => .patrolScrub bit
  | .barometerDecay tile => .barometerDecay tile
  | .wearUpdate unit => .wearUpdate unit
  | .trustListChange part => .trustListChange part
  | .powerFailure => .powerFailure
  | .thermalLimitCleared tile => .thermalLimitCleared tile
  | .iostFailedBeyondPort port ctx addr => .iostFailedBeyondPort port ctx addr
  | .claimRequestArrival r => .claimRequestArrival r
  | .inboundAtomicop port fn addr wide op v e => .inboundAtomicop port fn addr wide op v e
  | .ioQueuePairCreation port fn depth sq cq => .ioQueuePairCreation port fn depth sq cq
  | .rollbackFuseBlow count => .rollbackFuseBlow count

/-- Whether a step delivers a trap to strand `n`. -/
def Event.delivers (e : Event) (n : Nat) : Bool :=
  match e with
  | .trapDelivery m _ _ _ | .lanternThreadFault m _ _ _ => m == n
  | _ => false

end Sys2Proof.Machine
end

