-- ==== Sys2Proof/Machine/Fp.lean ====
section
/-! DEFINITION. Number formats and exact arithmetic (R68 to R83): floating-point patterns as exact values, one rounding,
the status flags, conversions and quantisation. -/

namespace Sys2Proof.Machine

/-- The FP status flags in the places of the FP status register (R77). -/
abbrev Flags := BitVec 8

def fNV : Flags := 0x01
def fDZ : Flags := 0x02
def fOF : Flags := 0x04
def fUF : Flags := 0x08
def fNX : Flags := 0x10
def fSA : Flags := 0x20

/-- The sticky flags of a status register: bits 5 to 0 (R77). -/
def stickyBits : Flags := 0x3F

/-- What a floating-point pattern denotes (R70): a NaN, quiet or signalling, an infinity, or an exact value
± num / den; zero keeps its sign. -/
inductive FV where
  | nan (signalling : Bool)
  | inf (neg : Bool)
  | fin (neg : Bool) (num den : Nat)
  deriving DecidableEq, Repr

/-- The layout of a floating-point type (R70, R71): significand precision, fraction bits, exponent bias, exponent of all
ones, largest finite value as `maxSig × 2 ^ maxExp`. -/
structure FFmt where
  prec : Nat
  bias : Nat
  expMax : Nat
  maxSig : Nat
  maxExp : Int
  deriving DecidableEq, Repr

/-- The layouts of R70. -/
def ffmt (t : Ty) : FFmt :=
  match t with
  | .f16 => { prec := 11, bias := 15, expMax := 31, maxSig := 2047, maxExp := 5 }
  | .bf16 => { prec := 8, bias := 127, expMax := 255, maxSig := 255, maxExp := 120 }
  | .e4m3 => { prec := 4, bias := 7, expMax := 15, maxSig := 14, maxExp := 5 }
  | .e5m2 => { prec := 3, bias := 15, expMax := 31, maxSig := 7, maxExp := 13 }
  | _ => { prec := 24, bias := 127, expMax := 255, maxSig := 16777215, maxExp := 104 }

/-- The canonical NaN (R71). -/
def canonNan (t : Ty) : Nat :=
  match t with
  | .f16 => 0x7E00 | .bf16 => 0x7FC0 | .e4m3 => 0x7F | .e5m2 => 0x7E | _ => 0x7FC00000

/-- +∞ of the types that have infinities (R71). -/
def posInf (t : Ty) : Nat :=
  match t with
  | .f16 => 0x7C00 | .bf16 => 0x7F80 | .e5m2 => 0x7C | _ => 0x7F800000

/-- The largest finite pattern (R71). -/
def maxFinite (t : Ty) : Nat :=
  match t with
  | .f16 => 0x7BFF | .bf16 => 0x7F7F | .e4m3 => 0x7E | .e5m2 => 0x7B | _ => 0x7F7FFFFF

/-- A pattern with its sign bit. -/
def withSign (t : Ty) (neg : Bool) (v : Nat) : Nat := if neg then v + 2 ^ (t.bits - 1) else v

/-- `x × 2 ^ e` as a fraction. -/
def scaleFrac (num den : Nat) (e : Int) : Nat × Nat :=
  match e with
  | .ofNat n => (num * 2 ^ n, den)
  | .negSucc n => (num, den * 2 ^ (n + 1))

/-- The value of a pattern (R70). -/
def unpack (t : Ty) (p : Nat) : FV :=
  let f := ffmt t
  let fb := f.prec - 1
  let neg := p.testBit (t.bits - 1)
  let e := bitsOf p fb (t.bits - 1 - fb)
  let frac := p % 2 ^ fb
  let isSpecial := if t == .e4m3 then e == 15 && frac == 7 else e == f.expMax
  if isSpecial then
    if t == .e4m3 then .nan false else if frac = 0 then .inf neg else .nan (!frac.testBit (fb - 1))
  else
    let m := if e = 0 then frac else frac + 2 ^ fb
    let s := scaleFrac m 1 (((if e = 0 then 1 else e) : Nat) - (f.bias : Int) - fb)
    .fin neg s.1 s.2

/-- The magnitude `num / den` rounded to an integer under a mode (R59), and whether it was inexact. -/
def roundMag (rm : Rm) (neg : Bool) (num den : Nat) : Nat × Bool :=
  let q := num / den
  let r := num % den
  let up := match rm with
    | .ne => den < 2 * r || (2 * r == den && q % 2 == 1)
    | .tz => false
    | .dn => neg && r != 0
    | .up => !neg && r != 0
    | .na => den ≤ 2 * r
  (if up then q + 1 else q, r != 0)

/-- Floor of the binary logarithm of `num / den`, for positive operands. -/
def logFrac (num den : Nat) : Int :=
  let k : Int := (Nat.log2 num : Int) - Nat.log2 den
  let s := scaleFrac den 1 k
  if num * s.2 < s.1 then k - 1 else k

/-- Rounds the magnitude to a multiple of 2 ^ e: how many, and whether inexact. -/
def roundAt (rm : Rm) (neg : Bool) (num den : Nat) (e : Int) : Nat × Bool :=
  let s := scaleFrac num den (-e)
  roundMag rm neg s.1 s.2

/-- The result of an overflow, with the flags an engine or a strand sees (R75). -/
def overflow (t : Ty) (rm : Rm) (sat neg : Bool) : Nat × Flags :=
  let flags := fOF ||| fNX
  match t with
  | .e4m3 => if sat then (withSign t neg (maxFinite t), flags ||| fSA) else (canonNan t, flags ||| fNV)
  | _ =>
    if t == .e5m2 && sat then (withSign t neg (maxFinite t), flags ||| fSA)
    else
      let toInf := match rm with
        | .ne | .na => true
        | .tz => false
        | .dn => neg
        | .up => !neg
      (withSign t neg (if toInf then posInf t else maxFinite t), flags)

/-- `RoundTo(x, t, rm)` into a floating-point type (R75, R76, R78): the pattern and the flags. -/
def roundTo (t : Ty) (rm : Rm) (sat : Bool) (x : FV) : Nat × Flags :=
  match x with
  | .nan sig => (canonNan t, if sig then fNV else 0)
  | .inf neg =>
    if t == .e4m3 then (if sat then (withSign t neg (maxFinite t), fSA) else (canonNan t, fNV))
    else (withSign t neg (posInf t), 0)
  | .fin neg num den =>
    if num = 0 then (withSign t neg 0, 0) else
    let f := ffmt t
    let p : Int := f.prec
    let eMin : Int := 1 - (f.bias : Int)
    let e := logFrac num den
    let u := roundAt rm neg num den (e - p + 1)
    let a := scaleFrac u.1 1 (e - p + 1)
    let m := scaleFrac f.maxSig 1 f.maxExp
    if m.1 * a.2 < a.1 * m.2 then overflow t rm sat neg else
    let q := max e eMin - p + 1
    let r := roundAt rm neg num den q
    let least := scaleFrac 1 1 eMin
    let tiny := a.1 * least.2 < least.1 * a.2
    let pat := (q - (eMin - p + 1)).toNat * 2 ^ (f.prec - 1) + r.1
    (withSign t neg pat, if r.2 then (if tiny then fNX ||| fUF else fNX) else 0)

/-- Whether a value is a signalling NaN. -/
def FV.sNan : FV → Bool
  | .nan s => s
  | _ => false

/-- Whether a value is a NaN. -/
def FV.isNan : FV → Bool
  | .nan _ => true
  | _ => false

/-- NV for a signalling NaN operand (R76). -/
def sigFlag (x : FV) : Flags := if x.sNan then fNV else 0

/-- The exact value of an integer. -/
def FV.ofInt (x : Int) : FV := .fin (x < 0) x.natAbs 1

/-- −x. -/
def FV.neg : FV → FV
  | .nan s => .nan s
  | .inf n => .inf (!n)
  | .fin n a b => .fin (!n) a b

/-- The exact sum; a zero sum of opposite signs is +0, or −0 under rounding down (R75). A NaN operand's own NV is
`sigFlag`'s. -/
def FV.add (rm : Rm) : FV → FV → FV × Flags
  | .nan _, _ => (.nan false, 0)
  | _, .nan _ => (.nan false, 0)
  | .inf a, .inf b => if a = b then (.inf a, 0) else (.nan false, fNV)
  | .inf a, .fin _ _ _ => (.inf a, 0)
  | .fin _ _ _, .inf b => (.inf b, 0)
  | .fin na xa da, .fin nb xb db =>
    let l := xa * db
    let r := xb * da
    if na = nb then (.fin na (l + r) (da * db), 0)
    else if l = r then (.fin (rm == .dn) 0 1, 0)
    else if r < l then (.fin na (l - r) (da * db), 0)
    else (.fin nb (r - l) (da * db), 0)

/-- The exact product. -/
def FV.mul : FV → FV → FV × Flags
  | .nan _, _ => (.nan false, 0)
  | _, .nan _ => (.nan false, 0)
  | .inf a, .inf b => (.inf (a != b), 0)
  | .inf a, .fin b x _ => if x = 0 then (.nan false, fNV) else (.inf (a != b), 0)
  | .fin a x _, .inf b => if x = 0 then (.nan false, fNV) else (.inf (a != b), 0)
  | .fin a x d, .fin b y e => (.fin (a != b) (x * y) (d * e), 0)

/-- The exact quotient: a finite nonzero value by zero sets DZ (R106). -/
def FV.div : FV → FV → FV × Flags
  | .nan _, _ => (.nan false, 0)
  | _, .nan _ => (.nan false, 0)
  | .inf _, .inf _ => (.nan false, fNV)
  | .inf a, .fin b _ _ => (.inf (a != b), 0)
  | .fin a _ _, .inf b => (.fin (a != b) 0 1, 0)
  | .fin a x d, .fin b y e =>
    if y = 0 then (if x = 0 then (.nan false, fNV) else (.inf (a != b), fDZ))
    else (.fin (a != b) (x * e) (d * y), 0)

/-- The square root, to 110 fraction bits and a last bit that says whether anything lies below them: enough for one
correct rounding into f32 (R108). -/
def FV.sqrt : FV → FV × Flags
  | .nan _ => (.nan false, 0)
  | .inf n => if n then (.nan false, fNV) else (.inf false, 0)
  | .fin n x d =>
    if x = 0 then (.fin n 0 1, 0)
    else if n then (.nan false, fNV)
    else
      let q := x * 2 ^ 220 / d
      let s := sqrtBits q (Nat.log2 q / 2 + 1) 0
      let exact := s * s * d == x * 2 ^ 220
      (.fin false (2 * s + (if exact then 0 else 1)) (2 ^ 111), 0)

/-- Rounds an exact value's magnitude to an integer (`RoundInt` of R75), with its inexactness. -/
def roundInt (rm : Rm) (neg : Bool) (num den : Nat) : Int × Bool :=
  let r := roundMag rm neg num den
  (if neg then -(r.1 : Int) else r.1, r.2)

/-- A floating-point value to an integer type (R78, R82): 0 for NaN, else rounded and clamped. -/
def fvToInt (td : Ty) (rm : Rm) : FV → Int × Flags
  | .nan _ => (0, fNV)
  | .inf n => (if n then td.lo else td.hi, fNV)
  | .fin n a b =>
    let r := roundInt rm n a b
    if r.1 < td.lo || td.hi < r.1 then (clampInt r.1 td.lo td.hi, fNV) else (r.1, if r.2 then fNX else 0)

/-- A conversion of R82 between the scalar types: the target's pattern and the flags. -/
def convert (td ts : Ty) (rm : Rm) (sat : Bool) (p : Nat) : Nat × Flags :=
  if ts.isFloat then
    let x := unpack ts p
    if td.isFloat then roundTo td rm sat x
    else let r := fvToInt td rm x; (wrapTo td.bits r.1, r.2)
  else
    let v := ts.int p
    if td.isFloat then roundTo td rm sat (FV.ofInt v)
    else if sat then
      let c := clampInt v td.lo td.hi
      (wrapTo td.bits c, if c = v then 0 else fSA)
    else (wrapTo td.bits v, 0)

/-- The order of two values that are not NaNs, with −0 below +0 (R81): whether `x` comes strictly before `y`. -/
def FV.before : FV → FV → Bool
  | .inf true, .inf true => false
  | .inf true, _ => true
  | _, .inf true => false
  | .inf false, _ => false
  | .fin _ _ _, .inf false => true
  | .fin na a da, .fin nb b db =>
    match na, nb with
    | true, false => true
    | false, true => false
    | false, false => a * db < b * da
    | true, true => b * da < a * db
  | .nan _, _ => false
  | .fin _ _ _, .nan _ => false

/-- Numeric equality and order of two values that are not NaNs, with −0 equal to +0 (R109). -/
def FV.isZero : FV → Bool
  | .fin _ a _ => a == 0
  | _ => false

def FV.eqNum (x y : FV) : Bool := !x.isNan && !y.isNan && ((x.isZero && y.isZero) || (!x.before y && !y.before x))

def FV.ltNum (x y : FV) : Bool := !x.isNan && !y.isNan && !(x.isZero && y.isZero) && x.before y

/-- Minimum and maximum (R81) on patterns of one type: `num` selects minimumNumber and maximumNumber. -/
def minMax (t : Ty) (isMax num : Bool) (p q : Nat) : Nat × Flags :=
  let x := unpack t p
  let y := unpack t q
  let fl := sigFlag x ||| sigFlag y
  match x.isNan, y.isNan with
  | true, true => (canonNan t, fl)
  | true, false => (if num then q else canonNan t, fl)
  | false, true => (if num then p else canonNan t, fl)
  | false, false => (if (if isMax then x.before y else y.before x) then q else p, fl)

/-- The one-hot class of a pattern (R110). -/
def fclassBits (t : Ty) (p : Nat) : Nat :=
  let f := ffmt t
  match unpack t p with
  | .nan s => if s then 256 else 512
  | .inf n => if n then 1 else 128
  | .fin n a _ =>
    if a = 0 then (if n then 8 else 16)
    else if bitsOf p (f.prec - 1) (t.bits - f.prec) = 0 then (if n then 4 else 32)
    else (if n then 2 else 64)

/-- `QCode` of R83. -/
def qCode (y : FV) (z : Int) (td : Ty) (rm : Rm) : Nat × Flags :=
  match y with
  | .nan _ => (wrapTo td.bits z, fNV)
  | .inf n => (wrapTo td.bits (if n then td.lo else td.hi), fSA)
  | .fin n a b =>
    let r := roundInt rm n a b
    let v := r.1 + z
    let c := clampInt v td.lo td.hi
    (wrapTo td.bits c, (if r.2 then fNX else 0) ||| (if c = v then 0 else fSA))

/-- The value of a source pattern of any type. -/
def srcValue (ts : Ty) (p : Nat) : FV := if ts.isFloat then unpack ts p else FV.ofInt (ts.int p)

/-- `QuantRecip` of R83: the reciprocal of the scale is rounded once into f32. -/
def quantRecip (x : FV) (s : FV) (z : Int) (td : Ty) (rm : Rm) : Nat × Flags :=
  let rcp := unpack .f32 (roundTo .f32 .ne true (FV.div (.fin false 1 1) s).1).1
  qCode (x.mul rcp).1 z td rm

/-- `QuantDiv` of R83. -/
def quantDiv (x : FV) (s : FV) (z : Int) (td : Ty) (rm : Rm) : Nat × Flags := qCode (x.div s).1 z td rm

/-- The value s × (q − z) of a grouped code (R73), with NV for an invalid product or a signalling scale. DESIGN CHOICE (log 97): with
q = z the zero has the sign of s, since the difference is +0. -/
def groupValue (s : FV) (q z : Int) : FV × Flags :=
  let r := s.mul (FV.ofInt (q - z))
  (r.1, r.2 ||| sigFlag s)

/-- A grouped code to any type (R82's last rows): SA when an integer target is clamped. -/
def dequantise (td : Ty) (rm : Rm) (sat : Bool) (s : FV) (q z : Int) : Nat × Flags :=
  let v := groupValue s q z
  if td.isFloat then let r := roundTo td rm sat v.1; (r.1, r.2 ||| v.2)
  else
    match v.1 with
    | .nan _ => (0, fNV)
    | .inf n => (wrapTo td.bits (if n then td.lo else td.hi), fSA)
    | .fin n a b =>
      let r := roundInt rm n a b
      let c := clampInt r.1 td.lo td.hi
      (wrapTo td.bits c, if c = r.1 then (if r.2 then fNX else 0) else fSA)

/-- Two rounded operations of f32 in a row keep patterns: the flags accumulate. -/
def fpBin (t : Ty) (rm : Rm) (op : FV → FV → FV × Flags) (p q : Nat) : Nat × Flags :=
  let x := unpack t p
  let y := unpack t q
  let v := op x y
  let r := roundTo t rm true v.1
  (r.1, v.2 ||| r.2 ||| sigFlag x ||| sigFlag y)

/-- Fused multiply-add: c + x × y, or c − x × y, with one rounding (R107). -/
def fpFma (t : Ty) (rm : Rm) (sub : Bool) (p q c : Nat) : Nat × Flags :=
  let x := unpack t p
  let y := unpack t q
  let z := unpack t c
  let m := x.mul y
  let v := FV.add rm (if sub then m.1.neg else m.1) z
  let r := roundTo t rm true v.1
  (r.1, m.2 ||| v.2 ||| r.2 ||| sigFlag x ||| sigFlag y ||| sigFlag z)

end Sys2Proof.Machine
end

