-- ==== Sys2Proof/Machine/State.lean ====
section
/-! DEFINITION. The state of a TK96 package, as plain data: memory, strands, cores, tiles, contexts, partitions, launches,
code objects, claims, control registers, and what other agents are about to do. -/

namespace Sys2Proof.Machine

/-- Why the machine stops with a fault. -/
inductive Fault where
  /-- Raised by every step but POWER_ON after a thermal halt or a loss of supply (R402, R267): the package does nothing until
  power-on. Safe: the spec gives no step of a halted package. -/
  | halted
  deriving DecidableEq, Repr

/-- Why an instruction has no meaning. -/
inductive Refusal where
  /-- Raised by an arm of exec that has no meaning yet. Safe: nothing can be proved of what it does. -/
  | notModelled (mnemonic : String)
  deriving DecidableEq, Repr

/-- A walk register (R121): the current address is computed from it. -/
structure Walk where
  bound : Bool
  base : Word
  s0 : Word
  s1 : Word
  s2 : Word
  n0 : Nat
  n1 : Nat
  n2 : Nat
  i0 : Nat
  i1 : Nat
  i2 : Nat
  ends : BitVec 3
  deriving DecidableEq, Repr

/-- An unbound walk register: every item reads 0 (R121, R122). -/
def Walk.unbound : Walk :=
  { bound := false, base := 0, s0 := 0, s1 := 0, s2 := 0, n0 := 0, n1 := 0, n2 := 0, i0 := 0, i1 := 0, i2 := 0, ends := 0 }

/-- An active loop (R117 to R119). -/
structure Loop where
  ctr : BitVec 2
  start : Nat
  stop : Nat
  walk : Option (BitVec 3)
  finished : Bool
  deriving DecidableEq, Repr

/-- Whether a range is active, as its owner or as a thief (R248, R251). -/
inductive RangeRole where
  | off | owner | thief
  deriving DecidableEq, Repr

/-- The registers of a strand that its register checkpoint holds (R44, R126, R262): the operand file by selector code,
vectors, masks, walk registers, FP status, PC, active loops (innermost first), the bit spillNext (R130), the range state
(R248), the region count and entry (R125, R126), whether that entry has the full live-in mask whatever the region table says
(R125), the continuation blocks, newest first, each with the address of the frame record below it (R242), and the
walk-terminated loops that the strand's frame records hold, each by the address of its record (R119): a walk can finish them
while they wait there. -/
structure Regs where
  x : SMap Word
  v : SMap Vec
  m : SMap Vec
  w : SMap Walk
  fps : Flags
  handle : Nat
  off : Nat
  loops : List Loop
  spillNext : Bool
  role : RangeRole
  grain : Word
  block : Nat
  bodyHandle : Nat
  bodyOff : Nat
  count : Nat
  entryHandle : Nat
  entryOff : Nat
  entryFull : Bool
  wicks : List (Nat × Nat)
  waiting : List (Nat × Loop)
  deriving DecidableEq, Repr

/-- Registers before any task. -/
def Regs.zero : Regs :=
  { x := [], v := [], m := [], w := [], fps := 0, handle := 0, off := 0, loops := [], spillNext := false, role := .off,
    grain := 0, block := 0, bodyHandle := 0, bodyOff := 0, count := 0, entryHandle := 0, entryOff := 0, entryFull := false,
    wicks := [], waiting := [] }

/-- A lookahead shadow (R60): the register's name, that of a claim's handle register (R224), how many instructions remain and
how many there were, and the PC that opened it. A register's name is its selector code, or 128 + n for vector register n. -/
structure Shadow where
  reg : Nat
  also : Option Nat
  left : Nat
  size : Nat
  handle : Nat
  off : Nat
  deriving DecidableEq, Repr

/-- No shadow. -/
def Shadow.none : Shadow := { reg := 0, also := Option.none, left := 0, size := 0, handle := 0, off := 0 }

/-- What will write a pending destination (R60, R142, R152, R218, R149); `frame` is the token of a `SENDM`, which no engine
writes (R150, R255), and `peek` is the reply of a `CPEEK` in this package, past which the strand issues on (R231, R234). -/
inductive PendKind where
  | load | atomic | io | token | frame | claim | peek | ring
  deriving DecidableEq, Repr

/-- One buffered store (R143): where its run goes in this package's numbering of memory, or at another package, its bits, its
value, which bits of the run it writes (R36), and for a store to another package the address and extra word of a trap that its
home answers (R329). -/
structure Store where
  pkg : Option (BitVec 10)
  bit : Nat
  bits : Nat
  val : Nat
  mask : Nat := 2 ^ bits - 1
  site : Word × Word := (0, 0)
  deriving DecidableEq, Repr

/-- A pending destination of a strand (R60): the register, what writes it, how a narrow value is extended, and for an
access to another package the place and the registers before the instruction, to which a trap at it goes back (R310, R318). `part` is the first bit that the value takes in a vector
register of which it is one lane (R147); `old` says that it is of a committed chunk, so that it is written into the
register checkpoint too, and `site` is the address and extra word of a trap that its home answers (R266, R316), the
address and port of an I/O read (R149), or the time at which a `SENDM` asked for its frame to be sent (R318). `ring` is the
place of HEAD or TAIL of the ring entry, which rises when an item of another package has been taken or placed (R253); of an `ENQ`, `sx`
says that the item is its `VSEND` entry. -/
structure Pend where
  reg : Nat
  kind : PendKind
  sx : Bool
  bits : Nat
  far : Option (BitVec 10 × Nat)
  snap : Option Regs
  part : Option Nat
  old : Bool
  site : Option (Word × Word) := none
  ring : Option Nat := none
  deriving DecidableEq, Repr

/-- A store to another package that its home has not acknowledged (R150, R153, R266, R329): the tag of its sender, the sender's
task and launch, the place, and the address and extra word of a refusal. A write of an engine has the strand and the token of its
command, and its destination among those of `CPYM`. -/
structure FarStore where
  tag : Nat
  inst : Nat
  strand : Nat
  tok : Nat
  part : Nat
  launch : Option Nat
  pkg : BitVec 10
  bit : Nat
  site : Word × Word
  deriving DecidableEq, Repr

/-- The open chunk of a strand (R261, R262): instructions issued, buffered stores (oldest first), lines read, the line that a
write since then has met, aborts in a row, the register checkpoint, the stores of a frame record with which it began (R130), and
what containers of the core's scratchpad held before window writes that entered the order since it began (R264). `waits` says that an
atomic on another package, which the chunk follows, has not been performed: until then it does not commit (R219). `taken` are the entries
of the interpolation input that the chunk's `VITP`s have taken, oldest first. -/
structure Chunk where
  count : Nat
  stores : List Store
  reads : List Nat
  conflict : Option Nat
  aborts : Nat
  ckpt : Regs
  kept : List Store := []
  raced : List (Nat × Nat) := []
  waits : Bool := false
  taken : List Vec := []
  deriving DecidableEq, Repr

/-- An empty chunk at some registers. -/
def Chunk.start (r : Regs) : Chunk :=
  { count := 0, stores := [], reads := [], conflict := none, aborts := 0, ckpt := r }

/-- The states of R297, with two of the model's own for the way out of READY: `ending`, a task that has ended and waits for
the drain of R151, and `trapping`, a strand whose trap waits for the pending destinations of R298. -/
inductive Status where
  | free | ready | sleep | codeWait | joinWait | migrated | held | ending | trapping
  deriving DecidableEq, Repr

/-- A wait record (R136, R227, R245, R301): a sleeper in `BARW` with its destination, which it writes when it wakes (R235); a claim
function's name and destinations, 127 for none, held from its issue to its reply. -/
inductive Wait where
  | none
  | barrier (h gen d : Nat)
  | claim (name : Digest) (d hd : Nat)
  | join (fp : Nat)
  | code (digest : Digest)
  | cold (handle : Nat)
  deriving DecidableEq, Repr

/-- Why a READY strand does not issue now (R17): its instruction has had no effect and issues again when the reason is
gone. -/
inductive Hold where
  | none
  /-- A register is pending (R60, R152). -/
  | pending (reg : Nat)
  /-- `TWAITA`: registers of the mask (R154). -/
  | tokens (mask : Nat) (any : Bool)
  /-- The chunk that the instruction ends has not committed (R261). -/
  | commit
  | copyQueue
  | matrixQueue
  /-- `DRAIN` (R150). -/
  | engines
  /-- `FENCEIO`, and `IOLD` behind earlier `IOST`s (R149, R150). -/
  | io
  /-- `FENCEP` (R150). -/
  | remote
  /-- A join cell that must hold 0 (R247, R250). -/
  | cell (bit : Nat)
  /-- A ring entry, at a bit, of which an operation on an item of another package is under way (R253). -/
  | ring (bit : Nat)
  /-- `SENDM` at a full outbound port (R255). -/
  | port
  /-- `SLFREE`: commands that use the slots (R193). -/
  | slots (mask : Nat)
  /-- `VSEND`: consumers that cannot accept (R181). -/
  | vsend (cons : Nat)
  /-- `YIELD`: strands that have yet to issue (R138). -/
  | turn (others : List Nat)
  /-- A translation miss (R333). -/
  | translate (va : Nat) (extra : Word)
  /-- An I/O access that has not been accepted or has not returned (R149). -/
  | ioReply
  /-- A reply that the strand needs before it goes on: a remote atomic's, a claim's (R219, R231). -/
  | reply
  /-- A pre-emption has stopped the strand (R300). -/
  | stopped
  /-- A poisoned line of code is being fetched again (R137). -/
  | refetch
  /-- The divide unit, the vector unit or the interpolation engine is occupied (R94, R170). -/
  | unit (u : Nat)
  /-- After eight aborts, the solo-commit grant under which the chunk executes again (R263). -/
  | grant
  /-- A write that meets a line which the chunk under the solo-commit grant of strand `g` has read (R263). -/
  | granted (g : Nat)
  deriving DecidableEq, Repr

/-- A fault record (R309). -/
structure FaultRec where
  cause : Nat
  handle : Nat
  off : Nat
  addr : Word
  extra : Word
  deriving DecidableEq, Repr

/-- How a task began (R239, R240). -/
inductive TaskKind where
  | launch | continuation | span | stage | message
  deriving DecidableEq, Repr

/-- What binds a strand slot to a launch (R348) with what dispatch applies to it: budgets (R45), declared scratchpad size
(R25), slot quota (R192), initial sp and stack span (R343), strands per core group (R22). -/
structure Binding where
  valid : Bool
  start : Bool
  ctx : Nat
  stage : Nat
  launch : Nat
  kcopy : Nat
  gbud : Nat
  vbud : Nat
  spSize : Nat
  quota : Nat
  sp0 : Nat
  stk : Nat
  scg : Nat
  deriving DecidableEq, Repr

/-- A slot of no launch. -/
def Binding.none : Binding :=
  { valid := false, start := false, ctx := 0, stage := 0, launch := 0, kcopy := 0, gbud := 64, vbud := 32, spSize := 0,
    quota := 0, sp0 := 0, stk := 0, scg := 0 }

/-- Where an access goes (R26, R329): a bit of this package's memory, a bit address of another package, or an I/O page. -/
inductive Place where
  | here (bit : Nat)
  | far (pkg : BitVec 10) (bit : Nat)
  | io (port : Nat) (byte : Nat)
  deriving DecidableEq, Repr

/-- A `VSEND` that waits for its consumers (R181): the value, the consumer mask, and the address of bit 2 with its place. -/
structure Sending where
  data : Vec
  cons : BitVec 5
  va : Nat
  place : Option Place
  deriving DecidableEq, Repr

/-- One strand, or one hardware thread of a lantern core (R44, R297). `entryClean` says that no chunk of the region has
committed, so that the checkpoint is its entry (R270); `task` numbers the task for claims (R230, R290), `inst` the task itself,
`victim` the one that its work was taken from, and `origin` the one that a hand-back wakes (R243); `frames` counts the frames
sent (R255); `ioLeft` counts I/O stores that their ports have not accepted (R149); `byStop` says that the task ends by `STOP`, a
fault or a kill (R246, R366), `handback` that it hands back to its original strand (R246); `start` is the digest of the call
that begins the task, until that call has been made (R240); `doomed` lists the frames whose stolen continuation has ended by
other means (R291), and `handed` what was handed back to a strand that is away; `frameErr` says that the write of its trap frame
meets an uncorrectable error (R298); `found` are the entries that walks have brought for the instruction that waits (R333), which uses
them even when the TLBs have replaced them meanwhile. -/
structure Strand where
  status : Status
  regs : Regs
  shadow : Shadow
  pend : List Pend
  chunk : Chunk
  wait : Wait
  since : Word
  hold : Hold
  vItp : List Vec
  vMat : List Vec
  vMsg : List Vec
  vRing : List Vec
  frames : BitVec 24
  ioLeft : Nat
  kind : TaskKind
  task : Nat
  entryClean : Bool
  killed : Bool
  stopReq : Bool
  byStop : Bool
  handback : Bool
  inst : Nat
  victim : Nat
  origin : Nat
  start : Option Digest
  doomed : List Nat
  handed : Option (List Word)
  fault : Option FaultRec
  frameErr : Bool
  sending : Option Sending
  found : List (BitVec 128)
  bind : Binding
  deriving DecidableEq, Repr

/-- A strand slot after reset (R297: FREE). -/
def Strand.reset : Strand :=
  { status := .free, regs := Regs.zero, shadow := Shadow.none, pend := [], chunk := Chunk.start Regs.zero, wait := .none,
    since := 0, hold := .none, vItp := [], vMat := [], vMsg := [], vRing := [], frames := 0, ioLeft := 0,
    kind := .launch, task := 0, entryClean := true, killed := false, stopReq := false, byStop := false, handback := false,
    inst := 0, victim := 0, origin := 0, start := none, doomed := [], handed := none, fault := none, frameErr := false, sending := none,
    found := [], bind := Binding.none }

/-- A run of memory that a command may touch: virtual start, bits, and the place of the start (R157, step 3). -/
structure Seg where
  va : Nat
  bits : Nat
  place : Place
  deriving DecidableEq, Repr

/-- A side of a copy command (R156): space G or P, the row starts, and whether a walk gave them. -/
structure Side where
  g : Bool
  walked : Bool
  starts : List Nat
  segs : List Seg
  deriving DecidableEq, Repr

/-- No side. -/
def Side.none : Side := { g := false, walked := false, starts := [], segs := [] }

/-- The functions of the copy engine (R155, R182). -/
inductive CopyFn where
  | cpy | cpym | cpyr | cpys | cpyc | cpyz | vsend
  deriving DecidableEq, Repr

/-- A copy command (R155 to R162): accepted once its chunk has committed, with its progress in elements, the bytes read so far
(R162), whether a source sector was poisoned, the source sectors as it has read them, by place, with a bit above that says so and
the poison of their four containers above that (R158), how many destinations of a `CPYM` have its current sector (R159), and what its
token will report. -/
structure CopyCmd where
  fn : CopyFn
  strand : Nat
  tok : Nat
  accepted : Bool
  flags : CopyFlags
  len : Nat
  rows : Nat
  dst : Side
  src : Side
  hdr : Side
  mask : Nat
  slot : Nat
  off : Nat
  seed : Nat
  kind : Bool
  cap : Nat
  data : Vec
  bytes : List Byte
  bad : Bool
  done : Nat
  held : SMap Nat
  sent : Nat
  result : Nat
  status : Nat
  nv : Bool
  sa : Bool
  deriving DecidableEq, Repr

/-- One plane of weights with its latch (R190, R200): codes by k + 64 b, headers by j + 64 b. -/
structure Plane where
  w : SMap Nat
  h : SMap Nat
  fmt : Fmt
  half : Bool
  kdim : Nat
  ndim : Nat
  poisoned : Bool
  deriving DecidableEq, Repr

/-- The plane of R191. -/
def Plane.reset : Plane := { w := [], h := [], fmt := .ty .s8, half := false, kdim := 64, ndim := 64, poisoned := false }

/-- The carry of an accumulator (R204): exact sums by b + 64 a. -/
structure Carry where
  p : SMap Int
  m : Nat
  ndim : Nat
  deriving DecidableEq, Repr

/-- An accumulator (R84, R190): mantissas and NaN bits by b + 64 a, exponent, overflow, clear exponent, carry. -/
structure Acc where
  m : SMap Int
  nan : SMap Bool
  e : Int
  ovf : Bool
  clearE : Int
  carry : Option Carry
  deriving DecidableEq, Repr

/-- A cleared accumulator (R84, R206). -/
def Acc.clear (e : Int) : Acc := { m := [], nan := [], e := e, ovf := false, clearE := e, carry := none }

/-- What a matrix command does, with its operand values (R195). -/
inductive MatOp where
  | mwld (slot off kdim ndim : Nat) (wf : Fmt) (half : Bool)
  | mstrm (src off m : Nat) (scale : Nat) (af : Fmt) (acc tr : Bool)
  | mgrp (slot mask counts : Nat) (scale : Nat) (af wf : Fmt) (acc : Bool)
  | mdrn (dst : Side) (row0 col0 rows cols : Nat) (e : Int) (df : Fmt) (rm : Rm) (sat acc clr : Bool)
  | mclr (e : Int) (acc : Bool)
  | mcfg (cfg : Word)
  | mrmt (owner : Nat) (cap : Word) (image : Vec)
  | addw (win src n : Nat) (sf : Fmt)
  | wnorm (dst win n : Nat) (df : Fmt) (rm : Rm)
  | wzero (win n : Nat)
  deriving DecidableEq, Repr

/-- A write that a started matrix command has yet to make visible (R198, R208): one sector of stores, in a window region of G or
not, poisoned or not; one long-mode transfer of m × 2 ^ e into the window at a bit, none for an element whose NaN bit is set; or the
containers of one sector of a window with their new contents, `rest` saying that another sector of the window is written already. -/
inductive MatWrite where
  | sector (g bad : Bool) (sts : List Store)
  | window (bit : Nat) (v : Option (Int × Int))
  | part (rest : Bool) (sts : List (Nat × Nat))
  deriving DecidableEq, Repr

/-- A matrix command in a unit's queue or port (R196, R212): the strand whose token it writes, whether it came through the remote
port, the step of its acceptance once it is accepted, whether it has started, whether it still takes rows or waits for a
port, how many rows it took, the writes to come, and what its token will report. -/
structure MatCmd where
  op : MatOp
  strand : Nat
  tok : Nat
  remote : Bool
  accepted : Option Nat
  started : Bool
  busy : Bool
  rowsTaken : Nat
  todo : List MatWrite
  status : Nat
  nv : Bool
  sa : Bool
  deriving DecidableEq, Repr

/-- The matrix unit of a core (R190): `slots` gives the strand number plus one that holds a slot. -/
structure Matrix where
  active : Plane
  shadow : Plane
  newer : Bool
  acc0 : Acc
  acc1 : Acc
  cfg : Word
  slots : SMap Nat
  deriving DecidableEq, Repr

/-- The unit of R191. -/
def Matrix.reset : Matrix :=
  { active := Plane.reset, shadow := Plane.reset, newer := false, acc0 := Acc.clear 0, acc1 := Acc.clear 0, cfg := 0,
    slots := [] }

/-- A core (R18): copy queue, matrix unit with its queue and remote port, interpolation tables as images (R184), inbox and
outbound port (R255, R256), capability key epoch and the capabilities made in it, each with its maker (R211), last slot issued
(R17; 4 for the service strand), since when and for how many cycles its divide unit, vector unit and interpolation engine are
occupied (R94, R170), tailwind bins (R228), clock bins dropped by throttling (R324), TLB (R333), stage and the stage it is
marked to move to (R254), launch it is held by, out of service (R322), and whether the service strand is active (R16). -/
structure Core where
  copyQ : List CopyCmd
  matQ : List MatCmd
  port : List MatCmd
  mat : Matrix
  tables : SMap (Option Nat)
  inbox : List Frame
  outPort : List Frame
  key : Nat
  caps : List (Word × Nat)
  last : Nat
  busy : SMap (Word × Nat)
  bins : Nat
  throttle : Nat
  tlb : List (BitVec 128)
  stage : Nat
  moveTo : Option Nat
  held : Option Nat
  outOfService : Bool
  service : Bool
  deriving DecidableEq, Repr

/-- A core after reset. -/
def Core.reset : Core :=
  { copyQ := [], matQ := [], port := [], mat := Matrix.reset, tables := [], inbox := [], outPort := [], key := 0, caps := [], last := 3,
    busy := [], bins := 0, throttle := 0, tlb := [], stage := 15, moveTo := none, held := none, outOfService := false,
    service := false }

/-- A walk in flight (R334): the 2^19-bit page, the strands joined to it, the replies to its probes, and whether a `TLBI` has dropped what
it finds (R336). -/
structure WalkReq where
  ctx : Nat
  page : Nat
  strands : List Nat
  replies : List (Nat × Option (BitVec 128))
  stale : Bool
  deriving DecidableEq, Repr

/-- The frame of slots of a lantern thread (R353): the partitions of the slots to come, and the one served now. -/
structure Slots where
  todo : List Nat
  now : Option Nat
  deriving DecidableEq, Repr

/-- No frame. -/
def Slots.none : Slots := { todo := [], now := Option.none }

/-- A service of thread 1 that a slot boundary has interrupted (R353): the strand served, unless it has been killed since, the thread's
state, and its registers of per-thread scope by number. -/
structure Service where
  strand : Option Nat
  thread : Strand
  regs : List (Nat × Word)
  deriving DecidableEq, Repr

/-- A call-cache entry (R357). -/
structure CallEntry where
  digest : Digest
  part : Nat
  handle : Nat
  deriving DecidableEq, Repr

/-- A tile: TLB, barometer, owned lines (R221), call cache and its misses, walks in flight and completed, strands queued to
thread 1 and the one it serves (R298), the interrupted services by partition and the frames of the four threads (R353), limits met
(R324), out of service (R322). TLBs and call cache stand with what was used last first (R333, R357). -/
structure Tile where
  tlb : List (BitVec 128)
  baro : SMap Nat
  owned : List Nat
  calls : List CallEntry
  callMisses : Nat
  walks : List WalkReq
  walksDone : Nat
  trapQ : List Nat
  serving : Option Nat
  shelved : List (Nat × Service)
  slots : SMap Slots
  limiting : Bool
  outOfService : Bool
  owner : Option Nat
  deriving DecidableEq, Repr

/-- A tile after reset. -/
def Tile.reset : Tile :=
  { tlb := [], baro := [], owned := [], calls := [], callMisses := 0, walks := [], walksDone := 0, trapQ := [],
    serving := none, shelved := [], slots := [], limiting := false, outOfService := false, owner := none }

/-- The states of a context (R299). -/
inductive CtxState where
  | free | resident | suspended | swappedOut | teardown
  deriving DecidableEq, Repr

/-- A context (R295, R296): its state, partition, the descriptor as last read, the frames of its in-memory mailbox and
overflow heap (R356), each with the launch for which it is held, if that launch is off its cores, and whether a switch is under way. What
its save area holds stands with each launch (R301). -/
structure Ctx where
  state : CtxState
  part : Nat
  desc : List Word
  frames : List (Option Nat × Frame)
  leaving : Bool
  deriving DecidableEq, Repr

/-- A context after reset (R299: FREE). -/
def Ctx.reset : Ctx :=
  { state := .free, part := 0, desc := [], frames := [], leaving := false }

/-- A partition (R294, R350, R351): its HBM granules, deficit, launches waiting by priority (lowest first), pre-emptions. -/
structure Part where
  granules : List Nat
  deficit : Nat
  wait0 : List Nat
  wait1 : List Nat
  wait2 : List Nat
  wait3 : List Nat
  preempts : Nat
  deriving DecidableEq, Repr

/-- A partition after reset. -/
def Part.reset : Part := { granules := [], deficit := 0, wait0 := [], wait1 := [], wait2 := [], wait3 := [], preempts := 0 }

/-- The states of a lease (R337), with the packet's wait before validation. -/
inductive Lease where
  | waiting | pending | making | held | ending | released
  deriving DecidableEq, Repr

/-- What a member package reported of a pod launch (R347). -/
structure Report where
  pkg : BitVec 10
  status : Nat
  cause : Nat
  field : Nat
  addr : Word
  extra : Word
  deriving DecidableEq, Repr

/-- A launch (R340, R343, R347, R349): packet, record, argument data, lease, cores, first cause, reports of members. When it
is pre-empted or its context switched out, `away` says that it has left its cores, and its strands, by core and slot within it,
its cores and the bits of its operand slots and mailboxes are held here (R301, R352). `costed` says that its cost has been
counted (R351). -/
structure Launch where
  queue : Nat
  ctx : Nat
  part : Nat
  prio : Nat
  packet : List Word
  record : List Word
  args : List Word
  lease : Lease
  cores : List Nat
  cause : Option FaultRec
  since : Word
  boundAt : Nat
  preempted : Bool
  away : Bool
  costed : Bool
  saved : List (Nat × Strand)
  savedCores : List (Nat × Core)
  savedBits : List (Nat × Nat × Nat)
  killed : Bool
  forwarded : Bool
  reports : List Report
  ended : Bool
  arena : List Nat
  deriving DecidableEq, Repr

/-- An installed code object (R359, R364, R366). `base` and `coldBase` are the physical bit addresses of its hot and cold
text, `hotBits` and `coldBits` what each takes of the code store; `cold` is the cold text as it was written to the cold area, and
`coldAt` its G address there; `order` is the step of its last call, and `bytes` is its record, which answers a neighbour (R388). -/
structure Obj where
  digest : Digest
  gneed : Nat
  vneed : Nat
  entry : Nat
  hotLen : Nat
  coldLen : Nat
  base : Nat
  coldBase : Nat
  coldHere : Bool
  coldHash : Digest
  hotBits : Nat
  coldBits : Nat
  cold : List Byte
  coldAt : Word
  imports : List Digest
  regions : List (Nat × BitVec 128)
  signer : Digest
  translator : Digest
  live : Nat
  verified : BitVec 16
  retired : Bool
  order : Nat
  bytes : List Byte
  deriving DecidableEq, Repr

/-- The states of a code request (R369); a request that has closed keeps its number. -/
inductive ReqState where
  | ask | translate | install | failed | closed
  deriving DecidableEq, Repr

/-- A code request (R368): its key, state, the number of the source asked (0 to 7 the table, 8 the host, 9 the shelf, 10
none left), the number of its entry in the host code ring (R391), the bucket of the code shelf as read (R391), the container kept, the
record to install, the tile and context that opened it, the strands joined, whether thread 2 has asked the source yet, and what that has
answered and thread 2 has yet to check (R353, R362). -/
structure CodeReq where
  digest : Digest
  part : Nat
  gbud : Nat
  vbud : Nat
  state : ReqState
  source : Nat
  askedAt : Word
  seq : Nat
  bucket : Option Nat
  kept : Option (List Byte)
  record : Option (List Byte)
  tile : Nat
  ctx : Nat
  strands : List Nat
  asked : Bool
  answer : Option Answer
  deriving DecidableEq, Repr

/-- Whose a claim is (R230): package and task. -/
structure Claimant where
  pkg : BitVec 10
  ctx : BitVec 8
  task : Nat
  strand : Nat
  deriving DecidableEq, Repr

/-- A waiter record (R230): resolved once the entry is MADE; the strands of the task that sleep in `CWAIT` on it (R290). -/
structure WaitRec where
  who : Claimant
  resolved : Bool
  asleep : List Claimant
  deriving DecidableEq, Repr

/-- A claim entry (R229, R230) that is not FREE: MAKING by `maker`, or MADE with a handle. `owed` says that the maker was a
waiter and has yet to learn that it is the maker (R231). -/
structure Claim where
  name : Digest
  ppid : BitVec 16
  domain : BitVec 16
  made : Bool
  owed : Bool
  maker : Claimant
  handle : Word
  pins : Nat
  used : Nat
  recs : List WaitRec
  deriving DecidableEq, Repr

/-- A unit whose errors are counted (R321, R323). -/
structure ErrUnit where
  total : Nat
  times : List Word
  lasting : Bool
  logged : Bool
  uncorr : Bool
  wear : Word
  alerted : Bool
  deriving DecidableEq, Repr

/-- A unit after reset (R321). -/
def ErrUnit.reset : ErrUnit :=
  { total := 0, times := [], lasting := false, logged := false, uncorr := false, wear := 0, alerted := false }

/-- What the package has sent out (R149, R266, R346, R364, R365, R374, R379, R388): the model's own record, newest last. -/
inductive Out where
  | ioWrite (port byte bytes : Nat) (value : Nat) (poisoned : Bool)
  | ioRead (strand port byte bytes : Nat)
  | ioAtomic (port byte bits : Nat) (op : HostAtomic) (v e : Word)
  | remoteLoad (strand : Nat) (pkg : BitVec 10) (bit bits : Nat)
  | remoteStore (tag : Nat) (pkg : BitVec 10) (bit bits mask value poison : Nat)
  | remoteAdd (tag : Nat) (pkg : BitVec 10) (bit : Nat) (a : FarAdd)
  | remoteAtomic (strand : Nat) (pkg : BitVec 10) (bit : Nat) (op : Option AOp) (w : Cls) (v e : Word)
  | reply (pkg : BitVec 10) (tag : Nat) (r : Reply)
  | claim (pkg : BitVec 10) (r : ClaimReq)
  | claimReply (who : Claimant) (r : Reply)
  | frame (f : Frame)
  | frameReply (f : Frame) (status : Nat)
  | code (pkg : BitVec 10) (digest : Digest) (cls ppid gneed vneed : Nat)
  | codeAnswer (pkg : BitVec 10) (digest : Digest) (a : Answer)
  | shelf (shelf : Word) (byte bytes : Nat)
  | shelfItem (shelf lba : Word) (bytes : Nat)
  | coldWrite (addr : Word) (bytes : List Byte)
  | coldRead (addr : Word) (bytes : Nat)
  | launch (pkg : BitVec 10) (m : LaunchMsg) (args : List Word)
  | report (r : Report)
  | msix (port vector : Nat)
  | data (port : Nat) (bytes : List Byte) (poisoned : Bool)
  | unsupported (port : Nat)
  | flush (target : Nat) (persistent : Bool)
  | stripe (target : Nat) (place : Word) (index : Nat) (crc : Word)
  | flit (link : Nat) (dest : BitVec 10) (hops body : Nat)
  | adminQueue (port fn depth : Nat) (sq cq : Word)
  | signature (r s : Digest)
  deriving DecidableEq, Repr

/-- A posted I/O write that its port has not accepted (R149). -/
structure Posted where
  strand : Nat
  byte : Nat
  bytes : Nat
  value : Nat
  deriving DecidableEq, Repr

/-- The flit under way on a pod link (R386, R387): one passed on for another package, or a message of this package's own. -/
structure LinkFlit where
  dest : BitVec 10
  hops : Nat
  body : Nat
  own : Option Out
  retries : Nat
  deriving DecidableEq, Repr

/-- The image of a whole-memory checkpoint (R384, R385): the bytes of HBM that are not zero and the poisoned containers, and what HBM
holds in forms that are the package's own: of each context its state, descriptor address and launches, the launches that wait in each
partition, the code objects, the claims, and the number of tasks begun. -/
structure Image where
  hbm : List (Nat × Byte)
  poison : List (Nat × Bool)
  ctxs : SMap Ctx
  descs : List (Nat × Word)
  launches : List Launch
  parts : SMap Part
  objs : List (Nat × Obj)
  claims : List (Nat × Claim)
  tasks : Nat
  deriving DecidableEq, Repr

/-- The whole package. `checkpoint` is the last image that reached STATUS 4, `writing` the one being written. `cur` is the
strand whose instruction is acting and `ir` its first word; `agenda` holds the steps of the other agents that are due, and what
arrives from outside; `steps` counts steps and feeds the free values; `csr` holds the control registers that have no home of
their own, by number times 2^20 plus scope; `looked` says when each queue was last scanned (R341); `heldOut` are messages held while
their routes fail over (R387). -/
structure State where
  mem : Memory
  poison : SMap Bool
  clk : Word
  pkg : BitVec 10
  strands : SMap Strand
  cores : SMap Core
  tiles : SMap Tile
  ctxs : SMap Ctx
  parts : SMap Part
  launches : List Launch
  objs : List (Nat × Obj)
  reqs : List CodeReq
  claims : List (Nat × Claim)
  units : SMap ErrUnit
  posted : SMap (List Posted)
  farStores : List FarStore
  csr : SMap Word
  granted : Option Nat
  grantQ : List Nat
  fenced : BitVec 2
  leaseStart : Word
  checkpoint : Option Image
  writing : Option Image
  ckptStart : Word
  fuses : BitVec 512
  power : PowerUp
  codeKey : Nat
  links : SMap LinkFlit
  failover : List (BitVec 10)
  heldOut : List (BitVec 10 × Out)
  looked : SMap Word
  tasks : Nat
  agenda : List Event
  cur : Nat
  ir : CodeWord
  steps : Nat
  out : List Out
  halted : Bool
  pkgLog : List (Word × Word × Word × Word)
  deriving DecidableEq, Repr

/-- No firmware image. -/
def noImage : FwImage := { key := (0, 0), body := [], sig := (0, 0), version := 0 }

/-- What the boot ROM found, before any power-on: nothing. -/
def noPower : PowerUp :=
  { fusesOk := false, fuses := 0, strap := false, imageA := noImage, imageB := noImage, hbms := 0, ports := 0, links := 0, tiles := 0 }

/-- The package right after reset: memory with nothing listed, every strand FREE (R297), every context FREE (R299), every
register at its reset value; what the spec leaves open reads 0 (log 2). -/
def State.reset : State :=
  { mem := [], poison := [], clk := 0, pkg := 0, strands := [], cores := [], tiles := [], ctxs := [], parts := [],
    launches := [], objs := [], reqs := [], claims := [], units := [], posted := [], farStores := [], csr := [], granted := none, grantQ := [],
    fenced := 0, leaseStart := 0, checkpoint := none, writing := none, ckptStart := 0, fuses := 0, power := noPower, codeKey := 0,
    links := [], failover := [], heldOut := [], looked := [], tasks := 0, agenda := [], cur := 0, ir := 0, steps := 0, out := [],
    halted := false, pkgLog := [] }

end Sys2Proof.Machine
end

