-- ==== Sys2Proof/Machine/Ops.lean ====
section
/-! DEFINITION. The named operations over the machine: strands, registers, control registers, memory and its order,
addresses and their checks, translation, chunks, traps and the return from one, the end of an instruction. -/

namespace Sys2Proof.Machine

/-! Where things are. -/

/-- The core number of a strand (R15, R16). -/
def coreOf (n : Nat) : Nat := n / 4

/-- The tile of a strand. -/
def tileOf (n : Nat) : Nat := n / 128

/-- Whether a strand is a hardware thread of a lantern core, position 31 (R15, R293). -/
def isLantern (n : Nat) : Bool := n / 4 % 32 == 31

/-- Whether a core number names a taper core of the package (R14, R15). -/
def isTaper (c : Nat) : Bool := c < 3072 && c % 32 != 31

/-- A strand. -/
def State.strand (s : State) (n : Nat) : Strand := SMap.look Strand.reset s.strands n

/-- Replaces a strand. -/
def State.setStrand (s : State) (n : Nat) (t : Strand) : State := { s with strands := SMap.put Strand.reset s.strands n t }

/-- Changes a strand. -/
def State.onStrand (s : State) (n : Nat) (f : Strand → Strand) : State := s.setStrand n (f (s.strand n))

/-- The strand whose instruction acts. -/
def State.me (s : State) : Strand := s.strand s.cur

/-- Changes the acting strand. -/
def State.onMe (s : State) (f : Strand → Strand) : State := s.onStrand s.cur f

/-- Changes the acting strand's registers. -/
def State.onRegs (s : State) (f : Regs → Regs) : State := s.onMe fun t => { t with regs := f t.regs }

/-- A core. -/
def State.core (s : State) (c : Nat) : Core := SMap.look Core.reset s.cores c

/-- Changes a core. -/
def State.onCore (s : State) (c : Nat) (f : Core → Core) : State :=
  { s with cores := SMap.put Core.reset s.cores c (f (s.core c)) }

/-- Whether the copy engine's two-entry queue has a free entry: commands that have begun are out of it (R18). -/
def Core.copyRoom (k : Core) : Bool := (k.copyQ.filter fun c => c.done == 0).length < 2

/-- Whether the matrix unit's two-entry queue has a free entry (R18): a started command is out of it, but a remote one that its
owner's port has not taken (R212). -/
def Core.matRoom (k : Core) : Bool :=
  (k.matQ.filter fun c => !c.started || (match c.op with | .mrmt _ _ _ => true | _ => false)).length < 2

/-- A tile. -/
def State.tile (s : State) (t : Nat) : Tile := SMap.look Tile.reset s.tiles t

/-- Changes a tile. -/
def State.onTile (s : State) (t : Nat) (f : Tile → Tile) : State :=
  { s with tiles := SMap.put Tile.reset s.tiles t (f (s.tile t)) }

/-- Changes every tile: the function leaves a tile at reset as it is. -/
def State.onTiles (s : State) (f : Tile → Tile) : State := { s with tiles := SMap.each Tile.reset f s.tiles }

/-- A context. -/
def State.ctx (s : State) (c : Nat) : Ctx := SMap.look Ctx.reset s.ctxs c

/-- Changes a context. -/
def State.onCtx (s : State) (c : Nat) (f : Ctx → Ctx) : State :=
  { s with ctxs := SMap.put Ctx.reset s.ctxs c (f (s.ctx c)) }

/-- Changes every strand, those that a switch has saved among them (R301). -/
def State.onEvery (s : State) (f : Strand → Strand) : State :=
  { s with strands := s.strands.map (fun p => (p.1, f p.2)),
           launches := s.launches.map fun l => { l with saved := l.saved.map fun p => (p.1, f p.2) } }

/-- A partition. -/
def State.part (s : State) (p : Nat) : Part := SMap.look Part.reset s.parts p

/-- Changes a partition. -/
def State.onPart (s : State) (p : Nat) (f : Part → Part) : State :=
  { s with parts := SMap.put Part.reset s.parts p (f (s.part p)) }

/-- Adds steps that are now due. -/
def State.due (s : State) (es : List Event) : State := { s with agenda := s.agenda ++ es }

/-- Adds a step that is now due, unless it is due already. -/
def State.dueOnce (s : State) (e : Event) : State := if s.agenda.contains e then s else s.due [e]

/-- Adds what leaves the package. -/
def State.send (s : State) (o : Out) : State := { s with out := s.out ++ [o] }

/-- Whether a number of cycles has gone by since a time (R19). -/
def State.past (s : State) (since : Word) (cycles : Nat) : Bool := cycles ≤ (s.clk - since).toNat

/-- A unit of a core is occupied from now, for a number of cycles (R94, R170). -/
def State.occupy (s : State) (c u cycles : Nat) : State :=
  s.onCore c fun k => { k with busy := SMap.put (0, 0) k.busy u (s.clk, cycles) }

/-- Whether a unit of a core is free (R94). -/
def State.unitFree (s : State) (c u : Nat) : Bool :=
  let b := SMap.look (0, 0) (s.core c).busy u
  s.past b.1 b.2

/-- A fresh free value (R1: what the spec leaves open). -/
def State.free (s : State) : Word := Config.freeValue s.steps

/-- The severity of a log entry for which the spec names none (R319). -/
def State.freeSev (s : State) : Nat := s.free.toNat / 2 ^ 32 % 3

/-- An installed code object (R364). -/
def State.obj (s : State) (h : Nat) : Option Obj := s.objs.lookup h

/-- Changes a code object. -/
def State.onObj (s : State) (h : Nat) (f : Obj → Obj) : State :=
  { s with objs := s.objs.map fun p => if p.1 = h then (h, f p.2) else p }

/-- A launch. -/
def State.launch (s : State) (i : Nat) : Option Launch := s.launches[i]?

/-- Changes a launch. -/
def State.onLaunch (s : State) (i : Nat) (f : Launch → Launch) : State :=
  match s.launches[i]? with
  | some l => { s with launches := s.launches.set i (f l) }
  | none => s

/-! Control registers (R303, R314, R319, R321, R338, R342, R354, R372, R377, R383, R387, R389, R394). -/

/-- The reset value of a control register. -/
def csrReset (num : Nat) : Word :=
  if num = 0x1001 then 10 else if num = 0x1823 then 10 else if num = 0x1111 then 0x0101
  else if num = 0x1300 then 0x3E80000 else if num = 0x1000A then 2000 else 0

/-- A control register kept by number and scope. -/
def State.csrAt (s : State) (num scope : Nat) : Word := SMap.look (csrReset num) s.csr (num * 2 ^ 20 + scope)

/-- Sets a control register. -/
def State.csrPut (s : State) (num scope : Nat) (v : Word) : State :=
  { s with csr := SMap.put (csrReset num) s.csr (num * 2 ^ 20 + scope) v }

/-- The context of a strand: its launch's, or on a lantern thread the one that CTXSEL names (R412, R303). -/
def State.ctxOf (s : State) (n : Nat) : Nat :=
  if isLantern n then (s.csrAt 1 n).toNat % 256 else (s.strand n).bind.ctx

/-- The partition of a strand: its context's (R295). -/
def State.partOf (s : State) (n : Nat) : Nat := (s.ctx (s.ctxOf n)).part

/-- Whether a package is a member of the pod: this one, or one whose route entry is valid (R28, R387). -/
def State.isMember (s : State) (p : BitVec 10) : Bool := p == s.pkg || (s.csrAt 0x1311 p.toNat).getLsbD 15

/-! The one numbering of this package's memory: HBM from 0, scratchpads, mailboxes, K images, operand slots. -/

/-- Where a core's scratchpad begins (R24). -/
def padBase (c : Nat) : Nat := 2 ^ 44 + c * 2 ^ 21

/-- Where a core's mailboxes begin (R29). -/
def boxBase (c : Nat) : Nat := 2 ^ 45 + c * 2 ^ 9

/-- Where a core's launch constants begin (R24, R348). -/
def constBase (c : Nat) : Nat := 2 ^ 46 + c * 2 ^ 16

/-- Where an operand slot begins (R192). -/
def slotBase (c i : Nat) : Nat := 2 ^ 47 + c * 2 ^ 20 + i * 2 ^ 16

/-- The granules of HBM, of 2^33 bits each (R14). -/
def hbmGranules : Nat := 1536

/-- Whether a bit of the numbering lies in HBM. -/
def inHbm (bit : Nat) : Bool := bit < hbmGranules * 2 ^ 33

/-- The numbers of the units of `size` bits that [bit, bit + len) meets. -/
def unitsOf (size bit len : Nat) : List Nat :=
  if len = 0 then [] else upFrom (bit / size) ((bit + len - 1) / size - bit / size + 1)

/-- The 512-bit lines that a run meets (R37). -/
def linesOf (bit len : Nat) : List Nat := unitsOf 512 bit len

/-- Whether a run meets a list of lines. -/
def meets (lines : List Nat) (bit len : Nat) : Bool := (linesOf bit len).any fun l => lines.contains l

/-- Whether [bit, bit + len) covers a container. -/
def covers (bit len k : Nat) : Bool := bit ≤ 64 * k && 64 * k + 64 ≤ bit + len

/-- Whether the bits of a run that a mask names cover a container. -/
def coversBy (mask bit len k : Nat) : Bool := covers bit len k && bitsOf mask (64 * k - bit) 64 == 2 ^ 64 - 1

/-- Whether a mask names a bit of a run that lies in unit `k` of `size` bits. -/
def touchesUnit (size mask bit len k : Nat) : Bool :=
  let lo := max bit (size * k)
  lo < bit + len && bitsOf mask (lo - bit) (min (bit + len) (size * k + size) - lo) != 0

/-- The first poisoned container of a run, by its first bit (R316). -/
def State.poisonIn (s : State) (bit len : Nat) : Option Nat :=
  ((unitsOf 64 bit len).find? fun k => SMap.look false s.poison k).map (64 * ·)

/-- Marks every container of a run poisoned (R315). -/
def State.setPoison (s : State) (bit len : Nat) : State :=
  { s with poison := (unitsOf 64 bit len).foldl (fun m k => SMap.put false m k true) s.poison }

/-- `n` bits of memory. -/
def State.bits (s : State) (bit len : Nat) : Nat := s.mem.bits bit len

/-! The page table (R329 to R331). -/

/-- The shift of a size code. -/
def pageShift (size : Nat) : Nat := if size = 0 then 19 else if size = 1 then 24 else 33

/-- A field of a page-table entry. -/
def pte (e : BitVec 128) (lo n : Nat) : Nat := bitsOf e.toNat lo n

/-- Whether an entry maps an address of a context at its own size (R331). -/
def entryHits (e : BitVec 128) (ctx va : Nat) : Bool :=
  e.getLsbD 63 && pte e 61 2 != 3 && pte e 38 8 == ctx &&
  pte e 0 38 == va / 2 ^ pageShift (pte e 61 2) * 2 ^ (pageShift (pte e 61 2) - 19) % 2 ^ 38

/-- XOR of the pieces of a key (R331). -/
def foldKey (b : Nat) : Nat → Nat → Nat
  | 0, _ => 0
  | n + 1, k => (k % 2 ^ b) ^^^ foldKey b n (k / 2 ^ b)

/-- The bucket of a probe (R331). -/
def State.bucketOf (s : State) (ctx va size : Nat) : Nat :=
  let b := (s.csrAt 0x1001 0).toNat % 32
  foldKey b 50 (va / 2 ^ pageShift size % 2 ^ 40 + 2 ^ 40 * size + 2 ^ 42 * ctx)

/-- The first matching entry of a bucket and of the buckets linked to it, at most `fuel` of them (R330, R331). -/
def State.bucketFind (s : State) (ctx va size : Nat) : Nat → Nat → Option (BitVec 128)
  | _, 0 => none
  | bit, fuel + 1 =>
    let ent (j : Nat) : BitVec 128 := BitVec.ofNat 128 (s.bits (bit + 128 * j) 128)
    let ok (e : BitVec 128) : Bool := pte e 61 2 == size && entryHits e ctx va
    match [ent 0, ent 1, ent 2, ent 3].find? ok with
    | some e => some e
    | none =>
      if (ent 3).getLsbD 63 && pte (ent 3) 61 2 == 3 then
        State.bucketFind s ctx va size (pte (ent 3) 64 44 / 512 * 512) fuel
      else none

/-- One probe of the page table, with at most 8 links (R330, R331): a memory of zeros holds no entry. -/
def State.probe (s : State) (ctx va size : Nat) : Option (BitVec 128) :=
  if s.mem.isEmpty then none
  else s.bucketFind ctx va size ((s.csrAt 0x1000 0).toNat % 2 ^ 44 + 512 * s.bucketOf ctx va size) 9

/-- A whole walk: the largest page wins (R331). -/
def State.walk (s : State) (ctx va : Nat) : Option (BitVec 128) :=
  match s.probe ctx va 2 with
  | some e => some e
  | none =>
    match s.probe ctx va 1 with
    | some e => some e
    | none => s.probe ctx va 0

/-- Where an entry puts an address (R329). -/
def State.framePlace (s : State) (e : BitVec 128) (va : Nat) : Place :=
  if e.getLsbD 60 then .io (pte e 57 3) (2 ^ 16 * pte e 64 48 + va % 2 ^ 19 / 8)
  else
    let bit := 2 ^ 19 * (pte e 64 25) + va % 2 ^ pageShift (pte e 61 2)
    if pte e 112 10 = s.pkg.toNat then .here bit else .far (BitVec.ofNat 10 (pte e 112 10)) bit

/-- Whether a partition owns the granule of a physical bit (R294). -/
def State.ownsBit (s : State) (p bit : Nat) : Bool := (s.part p).granules.contains (bit / 2 ^ 33)

/-- Whether a partition of this package has a pod partition identifier (R389). -/
def State.hasPpid (s : State) (ppid : BitVec 16) (p : Nat) : Bool :=
  (s.csrAt 0x1330 p).getLsbD 16 && (s.csrAt 0x1330 p).setWidth 16 == ppid

/-- Whether the home admits an access of another package to a bit of HBM (R329): owned by a partition with the issuing partition's
pod partition identifier. -/
def State.homeOk (s : State) (ppid : BitVec 16) (bit : Nat) : Bool :=
  inHbm bit && (upFrom 0 16).any fun p => s.hasPpid ppid p && s.ownsBit p bit

/-- The physical bit of a G address of a context, through its page table, when the page is an HBM page of this package in
a granule of the context's partition (R296). -/
def State.ctxBit (s : State) (ctx va : Nat) : Option Nat :=
  match s.walk ctx va with
  | some e =>
    match s.framePlace e va with
    | .here b => if s.ownsBit (s.ctx ctx).part b then some b else none
    | _ => none
  | none => none

/-! Writes that enter the package order (R262, R264, R265). -/

/-- Marks a strand whose open chunk has read a line of the run (R262). -/
def Strand.meet (bit len : Nat) (t : Strand) : Strand :=
  if meets t.chunk.reads bit len && t.chunk.conflict.isNone then
    { t with chunk := { t.chunk with conflict := some (bit / 512) } }
  else t

/-- Marks the chunks that a write conflicts with. -/
def State.markReaders (s : State) (bit len : Nat) : State :=
  { s with strands := s.strands.map fun p => (p.1, p.2.meet bit len) }

/-- Queues whose device notify container a write meets: each is scanned (R341). -/
def State.notified (s : State) (bit len : Nat) : List Event :=
  s.csr.filterMap fun p =>
    if p.1 / 2 ^ 20 = 0x1104 then
      match s.walk (((s.csrAt 0x1102 (p.1 % 2 ^ 20)).toNat / 2 ^ 16) % 256) p.2.toNat with
      | some e =>
        if s.framePlace e p.2.toNat = .here (bit / 64 * 64) ||
            (unitsOf 64 bit len).any (fun k => s.framePlace e p.2.toNat == .here (64 * k)) then
          some (.queueNotify (p.1 % 2 ^ 20) none)
        else none
      | none => none
    else none

/-- One write of `len` bits: memory, the poison of containers it covers (R316), the chunks that read its lines, and
notify containers. Every write to memory goes through here. -/
def State.poke (s : State) (bit len v : Nat) : State :=
  let s1 := { s with
    mem := s.mem.setBits bit len v
    poison := (unitsOf 64 bit len).foldl (fun m k => if covers bit len k then SMap.put false m k false else m) s.poison }
  (s1.markReaders bit len).due (s1.notified bit len)

/-- The partitions that own a context, a tile or the granule of a physical address (R319). -/
def State.logParts (s : State) (ctx : Option Nat) (tile : Option Nat) (phys : Option Nat) : List Nat :=
  (upFrom 0 16).filter fun p =>
    (match ctx with | some c => (s.ctx c).part == p && (s.ctx c).state != .free | none => false) ||
    (match tile with | some t => (s.tile t).owner == some p | none => false) ||
    (match phys with | some b => s.ownsBit p b | none => false)

/-- Writes a log entry to the ring of one partition (R319). Until firmware gives ERRSIZE a value that it may hold, 6 to 16, the
partition has no ring (log 12). -/
def State.logRing (s : State) (e : Nat) (p : Nat) : State :=
  let lg := (s.csrAt 0x1811 p).toNat % 32
  let size := 2 ^ lg
  let tail := (s.csrAt 0x1813 p).toNat
  if lg < 6 || 16 < lg then s
  else if size ≤ tail - (s.csrAt 0x1812 p).toNat then s.csrPut 0x1814 p 1
  else (s.poke ((s.csrAt 0x1810 p).toNat + 256 * (tail % size)) 256 e).csrPut 0x1813 p (BitVec.ofNat 64 (tail + 1))

/-- Logs an error (R319): kind, severity, unit, context, the address word and, when it is physical, its bit, and DETAIL. -/
def State.logError (s : State) (kind sev unit : Nat) (ctx : Option Nat) (tile : Option Nat) (addr : Word)
    (phys : Option Nat) (detail : Nat) : State :=
  let c0 := kind + 2 ^ 8 * sev + 2 ^ 36 * unit + 2 ^ 56 * (ctx.getD 255)
  let e := packBits 64 [c0, s.clk.toNat, addr.toNat, detail]
  let s1 := (s.logParts ctx tile phys).foldl (fun a p => a.logRing e p) s
  { s1 with pkgLog := s1.pkgLog ++ [(BitVec.ofNat 64 c0, s.clk, addr, BitVec.ofNat 64 detail)] }

/-- The address word of a physical bit (R319). -/
def physWord (bit : Nat) : Word := BitVec.ofNat 64 (2 ^ 63 + bit % 2 ^ 44)

/-- The core whose private memory a bit of the numbering is: scratchpad, mailbox, launch constants or operand slot. -/
def coreOfBit (bit : Nat) : Nat :=
  if bit < 2 ^ 45 then (bit - 2 ^ 44) / 2 ^ 21
  else if bit < 2 ^ 46 then (bit - 2 ^ 45) / 2 ^ 9
  else if bit < 2 ^ 47 then (bit - 2 ^ 46) / 2 ^ 16
  else (bit - 2 ^ 47) / 2 ^ 20

/-- The G address at which a bit of a scratchpad or mailbox shows (R27); other memory of a core has none and reads 0. -/
def windowWord (pkg : BitVec 10) (bit : Nat) : Word :=
  if bit < 2 ^ 45 then BitVec.ofNat 64 (0x1FFF80000000000 + pkg.toNat * 2 ^ 33 + (bit - 2 ^ 44))
  else if bit < 2 ^ 46 then BitVec.ofNat 64 (0x1FFF00000000000 + pkg.toNat * 2 ^ 21 + (bit - 2 ^ 45))
  else 0

/-- The unit whose memory a bit is (R320): an HBM pseudo-channel, or a scratchpad bank, or operand memory. The spec does
not say which bits a channel or a bank holds: a free value chooses within the stack or core. -/
def State.unitOfBit (s : State) (bit : Nat) : Nat :=
  if inHbm bit then bit / 2 ^ 33 / 96 * 64 + s.free.toNat % 64
  else if bit < 2 ^ 45 then 2 ^ 16 + (bit - 2 ^ 44) / 2 ^ 21 * 16 + s.free.toNat % 16
  else 2 * 2 ^ 16 + coreOfBit bit % 2 ^ 12

/-- Logs that a merge has read a poisoned container: a deferred error (R38, R319), with its physical address in HBM, and
otherwise the address of its window, and the tile whose memory it is. -/
def State.logMerge (s : State) (k : Nat) : State :=
  if inHbm (64 * k) then s.logError 1 1 (s.unitOfBit (64 * k)) none none (physWord (64 * k)) (some (64 * k)) 0
  else s.logError 1 1 (s.unitOfBit (64 * k)) none (some (coreOfBit (64 * k) / 32)) (windowWord s.pkg (64 * k)) none 0

/-- A write that merges: a container that it covers in part and that is poisoned stays poisoned, and that is logged
(R36, R38). -/
def State.merge (s : State) (bit len v : Nat) : State :=
  let bad := (unitsOf 64 bit len).filter fun k => SMap.look false s.poison k && !covers bit len k
  bad.foldl State.logMerge (s.poke bit len v)

/-- A write of the bits of a run that a mask names: one indivisible merge of each container that it touches (R36), with the
poison of the containers that it covers, the chunks that read its lines and the notify containers as for every write. -/
def State.mergeMask (s : State) (bit len mask v : Nat) : State :=
  let touched := (unitsOf 64 bit len).filter (touchesUnit 64 mask bit len)
  let bad := touched.filter fun k => SMap.look false s.poison k && !coversBy mask bit len k
  let s1 := { s with
    mem := s.mem.blend bit len mask v
    poison := touched.foldl (fun m k => if coversBy mask bit len k then SMap.put false m k false else m) s.poison }
  let s2 := ((linesOf bit len).filter (touchesUnit 512 mask bit len)).foldl (fun a l => a.markReaders (512 * l) 512) s1
  bad.foldl State.logMerge (touched.foldl (fun a k => a.due (a.notified (64 * k) 64)) s2)

/-- One store enters memory: a run written whole, or the bits of it that its mask names. -/
def State.put (s : State) (st : Store) : State :=
  if st.mask = 2 ^ st.bits - 1 then s.merge st.bit st.bits st.val else s.mergeMask st.bit st.bits st.mask st.val

/-- The bits of one sector that stores to it write, as mask and value, and its containers that they poison (R159, R315). -/
def sectorBits (base : Nat) (sts : List (Store × Bool)) : Nat × Nat × Nat :=
  sts.foldl (fun a p =>
    let off := p.1.bit - base
    (a.1 ||| p.1.mask * 2 ^ off, blend (p.1.mask * 2 ^ off) a.2.1 (p.1.val * 2 ^ off),
     if p.2 then a.2.2 ||| 2 ^ (off / 64) else a.2.2)) (0, 0, 0)

/-- Marks poisoned the containers of a run that a mask names. -/
def State.poisonMask (s : State) (bit mask : Nat) : State :=
  ((upFrom 0 17).filter fun i => mask.testBit i).foldl (fun a i => a.setPoison (bit / 64 * 64 + 64 * i) 64) s

/-- Whether a solo-commit grant of another strand forbids a write (R263). -/
def State.barred (s : State) (n : Option Nat) (bit len : Nat) : Bool :=
  match s.granted with
  | some g => some g != n && meets (s.strand g).chunk.reads bit len
  | none => false

/-! Stops of an instruction. -/

/-- Why an instruction does not complete: a trap with its address and extra words (R309), a reason not to issue (R17), or
a store buffer with no entry left (R143). -/
inductive Stop where
  | trap (cause : Nat) (addr extra : Word)
  | hold (h : Hold)
  | full
  deriving DecidableEq, Repr

/-- What an operation that can stop answers. -/
abbrev Res (α : Type) := Except Stop α

/-- A trap whose address word is the first word of the instruction (R309). -/
def State.trap (s : State) (cause : Nat) (extra : Nat) : Stop := .trap cause (s.ir.setWidth 64) (BitVec.ofNat 64 extra)

/-- `ILLEGAL_INSTRUCTION` with a reason (R66). -/
def State.illegal (s : State) (r : Nat) : Stop := s.trap 0x01 r

/-- Goes on when a condition holds. -/
def ensure (b : Bool) (e : Stop) : Res Unit := if b then .ok () else .error e

/-- Delivers a trap to strand `n` (R298, R314): it issues nothing further, its shadow ends, and the delivery is due. -/
def State.raise (s : State) (n cause : Nat) (addr extra : Word) : State :=
  (s.onStrand n fun t => { t with status := .trapping, shadow := Shadow.none, hold := .none, wait := .none, found := [] }).due
    [if isLantern n then .lanternThreadFault n (BitVec.ofNat 8 cause) addr extra
     else .trapDelivery n (BitVec.ofNat 8 cause) addr extra]

/-- The strand does not issue now. Its chunk is put to the arbiter when that is what it waits for (R261), and a translation
miss goes to thread 0 (R333). -/
def State.holdFor (s : State) (h : Hold) : State :=
  (s.onMe fun t => { t with hold := h }).due
    (match h with
     | .commit => [.chunkCommit s.cur]
     | .translate _ _ => [.tlbMiss s.cur]
     | _ => [])

/-- The state after an instruction of the acting strand stops. -/
def State.stop (s : State) (e : Stop) : State :=
  match e with
  | .trap c a x => s.raise s.cur c a x
  | .hold h => s.holdFor h
  | .full => (s.onMe fun t => { t with hold := .commit }).due [.storeBufferFull s.cur]

/-- What an instruction answers: always a next state. -/
def State.answer (s : State) (r : Res State) : Host.Outcome State Fault Refusal :=
  .next (match r with
    | .ok t => t
    | .error e => s.stop e)

/-! Registers. -/

/-- The address of a walk register (R121). -/
def Walk.addr (w : Walk) : Word :=
  w.base + BitVec.ofNat 64 w.i0 * w.s0 + BitVec.ofNat 64 w.i1 * w.s1 + BitVec.ofNat 64 w.i2 * w.s2

/-- A walk register. -/
def Regs.walk (r : Regs) (n : Nat) : Walk := SMap.look Walk.unbound r.w n

/-- A value of the operand file by selector code. -/
def Regs.get (r : Regs) (code : Nat) : Word := SMap.look 0 r.x code

/-- Sets a value of the operand file. -/
def Regs.set (r : Regs) (code : Nat) (v : Word) : Regs := { r with x := SMap.put 0 r.x code v }

/-- A vector register. -/
def Regs.vec (r : Regs) (n : Nat) : Vec := SMap.look 0 r.v n

/-- Sets a vector register. -/
def Regs.setVec (r : Regs) (n : Nat) (v : Vec) : Regs := { r with v := SMap.put 0 r.v n v }

/-- A mask register. -/
def Regs.mask (r : Regs) (n : Nat) : Vec := SMap.look 0 r.m n

/-- Sets a mask register. -/
def Regs.setMask (r : Regs) (n : Nat) (v : Vec) : Regs := { r with m := SMap.put 0 r.m n v }

/-- The stack top (R50). -/
def Regs.sp (r : Regs) : Nat := (r.get 100).toNat

/-- The frame (R50). -/
def Regs.fp (r : Regs) : Nat := (r.get 101).toNat

/-- Reads an operand of strand `n` (R50). -/
def State.read (s : State) (n : Nat) (x : Sel) : Word :=
  match x with
  | .nil => 0
  | .sid => BitVec.ofNat 64 (n % 4)
  | .cid => BitVec.ofNat 64 (coreOf n)
  | .clk => s.clk
  | .w k => ((s.strand n).regs.walk k.toNat).addr
  | .mb k => BitVec.ofNat 64 (s.bits (boxBase (coreOf n) + 64 * k.toNat) 64)
  | .lp => 0
  | y => (s.strand n).regs.get y.code.toNat

/-- Reads an operand of the acting strand. -/
def State.rd (s : State) (x : Sel) : Word := s.read s.cur x

/-- Reads an operand that may be the literal (R54). -/
def State.rdSrc (s : State) : Src → Word
  | .sel x => s.rd x
  | .lit v => v

/-- Writes an operand: nil discards, and a read-only operand is never a destination (R50). -/
def Regs.wr (r : Regs) (x : Sel) (v : Word) : Regs := if x.writable && x != .nil then r.set x.code.toNat v else r

/-- Writes an operand of the acting strand. -/
def State.wr (s : State) (x : Sel) (v : Word) : State := s.onRegs fun r => r.wr x v

/-- A vector register of the acting strand. -/
def State.vec (s : State) (v : VReg) : Vec := s.me.regs.vec v.toNat

/-- Shifts the last-result file and fills z0 (R46). -/
def Regs.pushZ (r : Regs) (v : Word) : Regs := (r.set 73 (r.get 72)).set 72 v

/-- Sets z0 and z1 to zero (R47). -/
def Regs.zeroZ (r : Regs) : Regs := (r.set 72 0).set 73 0

/-! The end of an instruction: PC, loops, counts (R116 to R119, R125, R60). -/

/-- The value of the selector of a loop counter. -/
def ctrCode (c : BitVec 2) : Nat := 88 + c.toNat

/-- A pass end of the innermost loop of a list, at its end (R118): the loops left, the registers, and where execution goes. -/
def passEnd : List Loop → Regs → Regs
  | [], r => r
  | l :: rest, r =>
    let c := r.get (ctrCode l.ctr) - 1
    if c = 0 || (l.walk.isSome && l.finished) then
      let r1 := { (r.set (ctrCode l.ctr) 0) with loops := rest, off := l.stop }
      match rest with
      | [] => r1
      | o :: _ => if o.stop = l.stop then passEnd rest r1 else r1
    else { (r.set (ctrCode l.ctr) c) with loops := { l with finished := false } :: rest, off := l.start }

/-- A taken branch to word `t`, from the innermost loop outward (R118). -/
def leaveLoops (t : Nat) : List Loop → Regs → Regs
  | [], r => { r with loops := [], off := t }
  | l :: rest, r =>
    if t = l.stop then passEnd (l :: rest) r
    else if t < l.start || l.stop ≤ t then leaveLoops t rest (r.set (ctrCode l.ctr) 0)
    else { r with loops := l :: rest, off := t }

/-- Sequential execution to the word after the instruction (R52, R118). -/
def Regs.advance (r : Regs) (len : Nat) : Regs :=
  match r.loops with
  | [] => { r with off := r.off + len }
  | l :: rest => if l.stop = r.off + len then passEnd (l :: rest) r else { r with off := r.off + len }

/-- A taken branch (R118). -/
def Regs.jump (r : Regs) (t : Nat) : Regs := leaveLoops t r.loops r

/-- The counts that an issued instruction raises: region and chunk (R125, R261), and the shadow it uses up (R60). What walks found for it has
been used (R333). -/
def Strand.counted (t : Strand) : Strand :=
  { t with
    found := []
    regs := { t.regs with count := t.regs.count + 1 }
    chunk := { t.chunk with count := t.chunk.count + 1 }
    shadow := if t.shadow.left = 0 then Shadow.none else { t.shadow with left := t.shadow.left - 1 } }

/-- A strand that waits for others to issue waits no longer for strand `n` (R138). -/
def Strand.turned (n : Nat) (t : Strand) : Strand :=
  match t.hold with
  | .turn os => { t with hold := .turn (os.erase n) }
  | _ => t

/-- The slot issued (R17), and no `YIELD` of the core's other strands waits for it any more (R138). -/
def State.issued (s : State) : State :=
  let s1 := s.onCore (coreOf s.cur) fun c => { c with last := s.cur % 4 }
  { s1 with strands := s1.strands.map fun p => (p.1, if coreOf p.1 = coreOf s.cur then p.2.turned s.cur else p.2) }

/-- The instruction has had its effect: it is counted, and execution goes on at the word after it. -/
def State.done (s : State) (len : Nat) : State :=
  (s.onMe fun t => let u := t.counted; { u with regs := u.regs.advance len }).issued

/-- The instruction is counted, and execution goes on at word `t` of the text, as a taken branch. -/
def State.doneAt (s : State) (t : Nat) : State :=
  (s.onMe fun u => let v := u.counted; { v with regs := v.regs.jump t }).issued

/-- Opens the lookahead shadow of a long-latency instruction at `pc` (R60, rule 6): nothing for LA 0. -/
def State.openShadow (s : State) (reg : Nat) (la : BitVec 4) (handle off : Nat) : State :=
  if la = 0 then s
  else s.onMe fun t => { t with shadow := { reg := reg, also := none, left := la.toNat, size := la.toNat, handle := handle, off := off } }

/-- The shadow that a claim function has just opened guards its handle register too (R224): one with LA 0 opens none, and an older shadow
stays as it is. -/
def State.guardToo (s : State) (la : BitVec 4) (hd : Option Sel) : State :=
  if la = 0 then s
  else s.onMe fun t => { t with shadow := { t.shadow with also := if t.shadow.left = 0 then none else hd.map fun h => h.code.toNat } }

/-- Adds a pending destination to the acting strand (R60). -/
def State.addPend (s : State) (p : Pend) : State := s.onMe fun t => { t with pend := t.pend ++ [p] }

/-- Writes a pending destination by its name: an operand, or 128 + n for a vector register (R60). -/
def Regs.wrName (r : Regs) (name : Nat) (v : Nat) : Regs :=
  if name < 128 then
    match Sel.ofCode (BitVec.ofNat 7 name) with
    | some x => r.wr x (BitVec.ofNat 64 v)
    | none => r
  else r.setVec (name - 128) (BitVec.ofNat 1024 v)

/-- Whether a name is pending. -/
def Strand.pending (t : Strand) (name : Nat) : Bool := t.pend.any fun p => p.reg == name

/-- The word of text at which the acting strand stands, as R61 and R116 write a place: handle and offset. -/
def pcWord (handle off : Nat) : Word := BitVec.ofNat 64 (handle * 2 ^ 24 + off)

/-! Code objects (R116, R130, R364). -/

/-- The words of an object's text. -/
def Obj.textLen (o : Obj) : Nat := o.hotLen + o.coldLen

/-- The bit at which a word of an object's text stands. -/
def Obj.wordBit (o : Obj) (off : Nat) : Nat :=
  if off < o.hotLen then o.base + 32 * off else o.coldBase + 32 * (off - o.hotLen)

/-- The length of the text that a strand runs. -/
def State.textLen (s : State) (handle : Nat) : Nat :=
  match s.obj handle with
  | some o => o.textLen
  | none => 0

/-- The target of a taken branch must lie in the text (R116). -/
def State.inText (s : State) (t : Int) : Res Nat :=
  let r := s.me.regs
  if 0 ≤ t && t < (s.textLen r.handle : Int) then .ok t.toNat
  else .error (.trap 0x43 (BitVec.ofInt 64 ((r.handle * 2 ^ 24 : Nat) + t)) 0)

/-! Addresses (R24 to R43). -/

/-- The three spaces (R24). -/
inductive Space where
  | p | g | k
  deriving DecidableEq, Repr

/-- The code of a space in an extra word (R42). -/
def Space.code : Space → Nat
  | .p => 0
  | .g => 1
  | .k => 2

/-- The extra word of an address fault (R42), with what the instruction adds in the bits above. -/
def addrExtra (sp : Space) (c : Cls) (hi : Nat) : Word := BitVec.ofNat 64 (c.code.toNat + 2 ^ 4 * sp.code + 2 ^ 8 * hi)

/-- Where the window region begins (R26). -/
def winStart : Nat := 0x1FFF00000000000

/-- Where the reserved range begins. -/
def resStart : Nat := 0x1FFF00080000000

/-- Where the scratchpad windows begin. -/
def padStart : Nat := 0x1FFF80000000000

/-- The package and core that a window address names (R27). -/
def winPkg (a : Nat) : BitVec 10 := if padStart ≤ a then BitVec.ofNat 10 (a / 2 ^ 33) else BitVec.ofNat 10 (a / 2 ^ 21)

/-- The core of a window address (R27). -/
def winCore (a : Nat) : Nat := if padStart ≤ a then a / 2 ^ 21 % 2 ^ 12 else a / 2 ^ 9 % 2 ^ 12

/-- The window of an address, by its first bit: a scratchpad's, a mailbox's, or the whole reserved range. -/
def winBase (a : Nat) : Nat :=
  if padStart ≤ a then a / 2 ^ 21 * 2 ^ 21 else if resStart ≤ a then resStart else a / 64 * 64

/-- Whether the first and last bits of a run lie in one window, or both below the windows (R39). -/
def oneWindow (first last : Nat) : Bool :=
  if first < winStart then last < winStart else winStart ≤ last && winBase first == winBase last

/-- The bit that a window address of this numbering names. -/
def winBit (a : Nat) : Nat :=
  if padStart ≤ a then padBase (winCore a) + a % 2 ^ 21 else boxBase (winCore a) + a % 2 ^ 9

/-- Whether a core holds strands of a context: a slot of it is bound to a launch of the context (R28, R191, R211). -/
def State.coreHolds (s : State) (c ctx : Nat) : Bool :=
  (upFrom (4 * c) 4).any fun n => (s.strand n).bind.valid && (s.strand n).bind.ctx == ctx

/-- The scratchpad size that a core's launch declared (R25). -/
def State.padSize (s : State) (c : Nat) : Nat :=
  match (upFrom (4 * c) 4).find? fun n => (s.strand n).bind.valid with
  | some n => (s.strand n).bind.spSize
  | none => 0

/-- Whether a window is absent (R28). -/
def State.winAbsent (s : State) (a : Nat) : Bool :=
  (resStart ≤ a && a < padStart) || !s.isMember (winPkg a) || !isTaper (winCore a)

/-- Whether a window is denied to a context for a run of `len` bits in it (R28). What another package's core holds and what its launch
declared is that package's: a free value (log 44). -/
def State.winDenied (s : State) (ctx a len : Nat) : Bool :=
  if winPkg a = s.pkg then
    !s.coreHolds (winCore a) ctx || (padStart ≤ a && s.padSize (winCore a) < a % 2 ^ 21 + len)
  else Config.farDenied s.steps (winPkg a).toNat (winCore a) (if padStart ≤ a then a % 2 ^ 21 + len else 0)

/-- What the home answers an access of another package to a run in its memory: nothing where it admits it, else the cause
(R28, R329). A scratchpad or mailbox must be of a core that holds strands of the accessing context, in a partition with the
issuer's identifier, and the run must lie in what the core's launch declared. -/
def State.homeFails (s : State) (who : Issuer) (bit len : Nat) : Option (BitVec 8) :=
  if bit < 2 ^ 44 then (if s.homeOk who.ppid bit then none else some 0x2A)
  else if bit < 2 ^ 46 && s.coreHolds (coreOfBit bit) who.ctx.toNat && s.hasPpid who.ppid (s.ctx who.ctx.toNat).part &&
      (2 ^ 45 ≤ bit || (bit - 2 ^ 44) % 2 ^ 21 + len ≤ s.padSize (coreOfBit bit)) then none
  else some 0x25

/-- The checks of R43, in its order, for one access of class `c` in a space; `hi` goes above the fields of R42. -/
def State.checkAddr (s : State) (n : Nat) (sp : Space) (a : Nat) (c : Cls) (hi : Nat) : Res Unit := do
  let fail (cause : Nat) : Stop := .trap cause (BitVec.ofNat 64 a) (addrExtra sp c hi)
  ensure (sp != .g || a < 2 ^ 57) (fail 0x22)
  ensure (legal a c && !(sp == .g && winStart ≤ a && a < resStart && (c != .w64 || a % 64 != 0))) (fail 0x20)
  ensure (sp != .p || a + c.bits ≤ (s.strand n).bind.spSize) (fail 0x21)
  ensure (sp != .k || a + c.bits ≤ 2 ^ 16) (fail 0x26)
  ensure (sp != .g || a < winStart || !s.winAbsent a) (fail 0x24)
  ensure (sp != .g || a < winStart || !s.winDenied (s.ctxOf n) a c.bits) (fail 0x25)

/-! Leases and translation (R325 to R334, R412). -/

/-- Rights: bit 0 read, 1 write, 2 atomic, 3 task arena (R326). -/
abbrev Rights := Nat

/-- Whether rights include those needed. -/
def hasRights (have_ need : Rights) : Bool := have_ &&& need == need

/-- The lease ranges of a launch: base, length, rights (R326, R343). -/
def Launch.ranges (l : Launch) : List (Nat × Nat × Rights) :=
  (upFrom 0 ((l.record.getD 0 0).toNat / 2 ^ 8 % 32)).map fun i =>
    let c0 := (l.record.getD (32 + 2 * i) 0).toNat
    let c1 := (l.record.getD (33 + 2 * i) 0).toNat
    (c0 % 2 ^ 57, c1 % 2 ^ 58, c1 / 2 ^ 60)

/-- The claim arena of a context, if it has one (R326, R338). -/
def State.arena (s : State) (ctx : Nat) : Option (Nat × Nat × Rights) :=
  let len := (s.csrAt 0x1003 ctx).toNat
  if len = 0 then none else some ((s.csrAt 0x1002 ctx).toNat, len, 7)

/-- The ranges that an access of a strand may use (R326). -/
def State.rangesOf (s : State) (n : Nat) : List (Nat × Nat × Rights) :=
  (match s.launch (s.strand n).bind.launch with
   | some l => if (s.strand n).bind.valid then l.ranges else []
   | none => []) ++ (s.arena (s.ctxOf n)).toList

/-- Whether a run lies in a range. -/
def inRange (a len : Nat) (r : Nat × Nat × Rights) : Bool := r.1 ≤ a && a + len ≤ r.1 + r.2.1

/-- The lease check (R327, R328): a lantern thread holds no lease and is not checked (R412). -/
def State.checkLease (s : State) (n a len : Nat) (need : Rights) (sp : Space) (c : Cls) (hi : Nat) : Res Unit :=
  if isLantern n then .ok ()
  else if (s.rangesOf n).any (fun r => inRange a len r && hasRights r.2.2 need) then .ok ()
  else
    let bad := (s.rangesOf n).any fun r => inRange a len r
    .error (.trap 0x29 (BitVec.ofNat 64 a)
      (addrExtra sp c hi ||| (if bad then (256 : Word) else 0)))

/-- The entry that the TLBs give for an address: the core's first, then the tile's (R333), or the one that a walk has brought for the
instruction: an instruction over more pages than the TLBs hold issues all the same (R157, R333). -/
def State.tlbFind (s : State) (n ctx va : Nat) : Option (BitVec 128) :=
  match (s.core (coreOf n)).tlb.find? fun e => entryHits e ctx va with
  | some e => some e
  | none =>
    match (s.tile (tileOf n)).tlb.find? fun e => entryHits e ctx va with
    | some e => some e
    | none => (s.strand n).found.find? fun e => entryHits e ctx va

/-- An entry moves to the front of a list. -/
def toFront {α : Type} [DecidableEq α] (e : α) (l : List α) : List α := e :: l.erase e

/-- An access of strand `n` to an ordinary G address makes its entry the last used of the TLB that gave it (R333, log 31). -/
def State.hit (s : State) (n : Nat) (sp : Space) (a : Nat) : State :=
  if sp != .g || winStart ≤ a then s
  else
    match (s.core (coreOf n)).tlb.find? fun e => entryHits e (s.ctxOf n) a with
    | some e => s.onCore (coreOf n) fun k => { k with tlb := toFront e k.tlb }
    | none =>
      match (s.tile (tileOf n)).tlb.find? fun e => entryHits e (s.ctxOf n) a with
      | some e => s.onTile (tileOf n) fun t => { t with tlb := toFront e t.tlb }
      | none => s

/-- The rights of an entry that an access needs: 1 read, 2 write (R329). -/
def entryRights (need : Rights) : Nat := need % 4

/-- Translates an ordinary G address and checks the page (R328, R329, R148): `io` says that the access is `IOLD` or
`IOST`. -/
def State.translate (s : State) (n a : Nat) (need : Rights) (io : Bool) (c : Cls) (hi : Nat) : Res Place :=
  match s.tlbFind n (s.ctxOf n) a with
  | none => .error (.hold (.translate a (addrExtra .g c hi)))
  | some e =>
    if !hasRights (pte e 55 2) (entryRights need) then .error (.trap 0x2A (BitVec.ofNat 64 a) (addrExtra .g c hi))
    else if e.getLsbD 60 != io then .error (.trap 0x28 (BitVec.ofNat 64 a) (addrExtra .g c hi))
    else .ok (s.framePlace e a)

/-- Lease and translation of a G run that does not leave its page or window (R325, R26). An I/O access to a window names no
page (R148). -/
def State.resolve (s : State) (n a len : Nat) (need : Rights) (io : Bool) (c : Cls) (hi : Nat) : Res Place :=
  if winStart ≤ a then
    if io then .error (.trap 0x28 (BitVec.ofNat 64 a) (addrExtra .g c hi))
    else if winPkg a = s.pkg then .ok (.here (winBit a)) else .ok (.far (winPkg a) (winBit a))
  else do
    s.checkLease n a len need .g c hi
    s.translate n a need io c hi

/-- Where an access of a space stands, after the checks of R43. -/
def State.place (s : State) (n : Nat) (sp : Space) (a : Nat) (c : Cls) (need : Rights) (hi : Nat) : Res Place :=
  match sp with
  | .p => .ok (.here (padBase (coreOf n) + a))
  | .k => .ok (.here (constBase (coreOf n) + a))
  | .g => s.resolve n a c.bits need false c hi

/-- All the checks of one access: R43, then lease and translation. -/
def State.access (s : State) (n : Nat) (sp : Space) (a : Nat) (c : Cls) (need : Rights) (hi : Nat) : Res Place := do
  s.checkAddr n sp a c hi
  s.place n sp a c need hi

/-! Reading and buffering (R142, R143, R262, R264). -/

/-- Memory as a strand's own buffered stores leave it (R142). -/
def overlay (stores : List Store) (m : Memory) : Memory :=
  stores.foldl (fun a st =>
    if st.pkg.isNone then
      (if st.mask = 2 ^ st.bits - 1 then a.setBits st.bit st.bits st.val else a.blend st.bit st.bits st.mask st.val)
    else a) m

/-- Whether a strand's own buffered store covers a container (R142). -/
def ownCovers (stores : List Store) (k : Nat) : Bool := stores.any fun st => st.pkg.isNone && coversBy st.mask st.bit st.bits k

/-- Memory as an owner's load of its own scratchpad finds it (R264): each container that window writes have met since the
strand's chunk began holds either what it holds now or what it held before one of them, by a free choice. DESIGN CHOICE (log 15). -/
def State.racedMem (s : State) (n : Nat) (bit len : Nat) : Memory :=
  let c := (s.strand n).chunk
  if c.raced.isEmpty then s.mem
  else (unitsOf 64 bit len).foldl (fun m k =>
    match (c.raced.filter fun p => p.1 == k).map Prod.snd with
    | [] => m
    | vs => m.setBits (64 * k) 64 ((s.mem.bits (64 * k) 64 :: vs).getD (Config.freeRace s.steps k % (vs.length + 1)) 0)) s.mem

/-- What an owner's load of its own scratchpad returns (R142, R264). -/
def State.ownPeek (s : State) (n bit len : Nat) : Nat :=
  (overlay (s.strand n).chunk.stores (s.racedMem n bit len)).bits bit len

/-- What strand `n` reads at a place of this package (R142). -/
def State.peek (s : State) (n bit len : Nat) : Nat := (overlay (s.strand n).chunk.stores s.mem).bits bit len

/-- The first container of a run that reads as poisoned to a strand (R316). -/
def State.poisonFor (s : State) (n bit len : Nat) : Option Nat :=
  ((unitsOf 64 bit len).find? fun k =>
    SMap.look false s.poison k && !ownCovers (s.strand n).chunk.stores k).map (64 * ·)

/-- The lines of a run enter the read signature of the acting strand's chunk (R262). -/
def State.noteRead (s : State) (bit len : Nat) : State :=
  s.onMe fun t => { t with chunk := { t.chunk with
    reads := t.chunk.reads ++ (linesOf bit len).filter fun l => !t.chunk.reads.contains l } }

/-- The entries of the store buffer that a store takes: its package and 512-bit lines (R143). -/
def Store.entries (st : Store) : List Nat :=
  (linesOf st.bit st.bits).map fun l => (match st.pkg with | some p => p.toNat + 1 | none => 0) * 2 ^ 60 + l

/-- How many entries a list of stores uses (R143). -/
def entriesUsed (stores : List Store) : Nat := (stores.flatMap Store.entries).eraseDups.length

/-- The store of one element: its bits, and for a packed class with them the spare bits of its container as zero (R33), in one
merge (R36). -/
def elemStores (pkg : Option (BitVec 10)) (bit : Nat) (c : Cls) (v : Nat) (site : Word × Word := (0, 0)) : List Store :=
  if c.packed then
    let used := c.bits * c.perContainer
    [{ pkg := pkg, bit := bit / 64 * 64, bits := 64, val := v % 2 ^ c.bits * 2 ^ (bit % 64),
       mask := (2 ^ c.bits - 1) * 2 ^ (bit % 64) + (2 ^ 64 - 2 ^ used), site := site }]
  else [{ pkg := pkg, bit := bit, bits := c.bits, val := v % 2 ^ c.bits, site := site }]

/-- Buffers stores of the acting strand (R143): no entry left ends the chunk first. -/
def State.buffer (s : State) (sts : List Store) : Res State :=
  let all := s.me.chunk.stores ++ sts
  if 64 < entriesUsed all && !s.me.chunk.stores.isEmpty then .error .full
  else .ok (s.onMe fun t => { t with chunk := { t.chunk with stores := all } })

/-- A chunk that begins with the stores of a frame record (R130): an abort leaves them, since the call that made them is its
first act. -/
def Strand.begins (t : Strand) (sts : List Store) : Strand := { t with chunk := { t.chunk with stores := sts, kept := sts } }

/-- The open chunk of a strand is discarded for good: its registers go back to the checkpoint, and of its stores only the frame record
stays, whose call has been made (R130, R311). -/
def Strand.discards (t : Strand) : Strand :=
  { t with regs := t.chunk.ckpt, chunk := { Chunk.start t.chunk.ckpt with stores := t.chunk.kept, kept := t.chunk.kept } }

/-- Whether a chunk has done nothing since it began. -/
def Chunk.untouched (c : Chunk) : Bool := c.count == 0 && c.reads.isEmpty && c.stores == c.kept

/-- Whether a chunk is at its start, with every earlier access of the strand performed (R219). -/
def Chunk.fresh (c : Chunk) : Bool := c.count == 0 && c.stores.isEmpty && c.reads.isEmpty && !c.waits

/-- An instruction that ends the current chunk acts once that chunk has committed (R261). -/
def State.endChunk (s : State) : Res Unit := ensure s.me.chunk.fresh (.hold .commit)

/-- An acquire of a strand orders every write so far before its later loads (R264): none of them races with them. -/
def Strand.acquires (t : Strand) : Strand := { t with chunk := { t.chunk with raced := [] } }

/-- A new chunk at the strand's registers: what is pending belongs to the chunks before it. -/
def Strand.newChunk (t : Strand) : Strand :=
  { t with chunk := Chunk.start t.regs, pend := t.pend.map fun p => { p with old := true } }

/-- The chunk of an instruction that is performed once begins after it: a replay does not perform it again (R149, R158,
R181, R219). -/
def State.once (s : State) : State := s.onMe fun t => { t.newChunk with entryClean := false }

/-! The arbiter: commit and abort (R262, R263). -/

/-- Lowers the live-frame count of an object, and frees a retired one at zero (R364, R366). -/
def State.lower (s : State) (h : Nat) : State :=
  let s1 := s.onObj h fun o => { o with live := o.live - 1 }
  { s1 with objs := s1.objs.filter fun p => !(p.1 == h && p.2.retired && p.2.live == 0) }

/-- Raises the live-frame count of an object (R366). -/
def State.lift (s : State) (h : Nat) : State := s.onObj h fun o => { o with live := o.live + 1 }

/-- A call raises the live-frame count of an object, which is now the latest called (R366). -/
def State.liftCall (s : State) (h : Nat) : State := s.onObj h fun o => { o with live := o.live + 1, order := s.steps }

/-- Whether a link is up. -/
def State.linkUp (s : State) (link : Nat) : Bool := link < 24 && (s.csrAt 0x1312 0).getLsbD link

/-- The link that traffic to a package leaves on (R387): PRIMARY while it is up, else ALT. -/
def State.routeTo (s : State) (p : BitVec 10) : Option Nat :=
  let e := (s.csrAt 0x1311 p.toNat).toNat
  if !e.testBit 15 then none
  else if s.linkUp (e % 2 ^ 5) then some (e % 2 ^ 5)
  else if s.linkUp (bitsOf e 8 5) then some (bitsOf e 8 5)
  else none

/-- A window write is about to enter the order: the open chunks of the core's strands keep what its containers hold, for their
loads that race with it (R264). -/
def State.noteRace (s : State) (st : Store) : State :=
  if st.bit < 2 ^ 44 || 2 ^ 45 ≤ st.bit then s
  else
    let olds := (unitsOf 64 st.bit st.bits).map fun k => (k, s.bits (64 * k) 64)
    { s with strands := s.strands.map fun p =>
        (p.1, if coreOf p.1 = coreOfBit st.bit then { p.2 with chunk := { p.2.chunk with raced := p.2.chunk.raced ++ olds } } else p.2) }

/-- The tag under which the copy engine of a core writes to another package; a strand's is its number. -/
def copyTag (c : Nat) : Nat := 2 ^ 20 + c

/-- The tag of the `VSEND` writes of a core's copy engine, which report to no strand (R182). -/
def vsendTag (c : Nat) : Nat := 2 ^ 20 + 2 ^ 16 + c

/-- The tag of the matrix unit of a core. -/
def matTag (c : Nat) : Nat := 2 ^ 21 + c

/-- The tag of writes of the package itself: the command processor, the services and the ports. -/
def pkgTag : Nat := 2 ^ 22

/-- A message of this package leaves for another (R387): while its route fails over it is held, and else it is the flit under way on the
link of its route (R386). With no route nothing leaves. -/
def State.sendTo (s : State) (p : BitVec 10) (o : Out) : State :=
  if s.failover.contains p then { s with heldOut := s.heldOut ++ [(p, o)] }
  else
    match s.routeTo p with
    | some k => { s.send o with links := SMap.list s.links k { dest := p, hops := 1, body := 0, own := some o, retries := 0 } }
    | none => s

/-- Logs a write for another package that cannot be delivered (R318): kind 6, for a context, with its address and the package. -/
def State.logLost (s : State) (ctx : Nat) (p : BitVec 10) (va : Word) : State :=
  s.logError 6 1 (6 * 2 ^ 16 + s.free.toNat % 24) (if ctx < 255 then some ctx else none) none va none p.toNat

/-- Whether a message to a package can leave, now or when its route has failed over (R387). -/
def State.hasRoute (s : State) (p : BitVec 10) : Bool := s.failover.contains p || (s.routeTo p).isSome

/-- A write leaves for another package, which will acknowledge it (R266). One that no route takes there is logged with kind 6
(R318). -/
def State.sendFar (s : State) (ctx : Nat) (f : FarStore) (o : Out) : State :=
  if s.hasRoute f.pkg then ({ s with farStores := s.farStores ++ [f] }).sendTo f.pkg o else s.logLost ctx f.pkg f.site.1

/-- The launch of a strand, if it is bound to one. -/
def Strand.launchOf (t : Strand) : Option Nat := if t.bind.valid then some t.bind.launch else none

/-- One store of strand `n` leaves for another package. -/
def State.sendStore (s : State) (n : Nat) (p : BitVec 10) (st : Store) : State :=
  let t := s.strand n
  s.sendFar (s.ctxOf n)
    { tag := n, inst := t.inst, strand := n, tok := 0, part := 0, launch := t.launchOf, pkg := p, bit := st.bit, site := st.site }
    (.remoteStore n p st.bit st.bits st.mask st.val 0)

/-- One 256-bit sector of an engine's command leaves for another package: `tag` is the engine's, `n` and `tok` the command's strand and
token, `part` its destination, `va` the address. -/
def State.sendSector (s : State) (tag n tok part : Nat) (p : BitVec 10) (va bit mask val poison : Nat) : State :=
  s.sendFar (s.ctxOf n)
    { tag := tag, inst := (s.strand n).inst, strand := n, tok := tok, part := part, launch := (s.strand n).launchOf, pkg := p, bit := bit,
      site := (BitVec.ofNat 64 va, 0) }
    (.remoteStore tag p bit 256 mask val poison)

/-- One sector of a `CPYR` leaves for another package (R160). -/
def State.sendAdd (s : State) (tag n tok : Nat) (p : BitVec 10) (va bit : Nat) (a : FarAdd) : State :=
  s.sendFar (s.ctxOf n)
    { tag := tag, inst := (s.strand n).inst, strand := n, tok := tok, part := 0, launch := (s.strand n).launchOf, pkg := p, bit := bit,
      site := (BitVec.ofNat 64 va, 0) }
    (.remoteAdd tag p bit a)

/-- One write of the package itself leaves for another package, for a context. -/
def State.sendOwn (s : State) (ctx : Nat) (p : BitVec 10) (va bit bits val poison : Nat) : State :=
  s.sendFar ctx
    { tag := pkgTag, inst := 0, strand := 0, tok := 0, part := 0, launch := none, pkg := p, bit := bit, site := (BitVec.ofNat 64 va, 0) }
    (.remoteStore pkgTag p bit bits (2 ^ bits - 1) val poison)

/-- An atomic of the package itself leaves for another package, for a context: `tag` says what its reply is for. -/
def State.sendAtomic (s : State) (tag ctx : Nat) (p : BitVec 10) (va bit : Nat) (op : Option AOp) (w : Cls) (v e : Word) : State :=
  if s.hasRoute p then s.sendTo p (.remoteAtomic tag p bit op w v e) else s.logLost ctx p (BitVec.ofNat 64 va)

/-- The tag of an AtomicOp that a host makes through a port on memory of another package, of 64 bits or 32 (R374). -/
def hostTag (port : Nat) (wide : Bool) : Nat := pkgTag + 2 + 2 * port + wide.toNat

/-- Whether a sender's writes to other packages are all acknowledged. -/
def State.farDone (s : State) (tag : Nat) : Bool := s.farStores.all fun f => f.tag != tag

/-- Whether every access of a strand to another package is complete and acknowledged (R150). -/
def State.farSettled (s : State) (n : Nat) : Bool :=
  (s.farStores.all fun f => f.tag != n || f.inst != (s.strand n).inst) && (s.strand n).pend.all fun p => p.far.isNone

/-- One buffered store of strand `n` enters the package order, or leaves for another package (R264, R266). One that no route takes there is
logged with kind 6 (R318). -/
def State.enter (s : State) (n : Nat) (st : Store) : State :=
  match st.pkg with
  | none => (s.noteRace st).put st
  | some p => s.sendStore n p st

/-- Whether a chunk must wait to commit: for an atomic that it follows (R219), or under another's grant (R263). -/
def State.chunkBarred (s : State) (n : Nat) : Bool :=
  (s.strand n).chunk.waits || (s.strand n).chunk.stores.any fun st => st.pkg.isNone && s.barred (some n) st.bit st.bits

/-- A strand is given the solo-commit grant, under which its chunk executes again (R263). -/
def State.grant (s : State) (n : Nat) : State :=
  ({ s with granted := some n } : State).onStrand n fun t => { t with hold := if t.hold = .grant then .none else t.hold }

/-- A strand's chunk is over: its solo-commit grant passes to the next in order of request, and it waits for none (R263). -/
def State.ungrant (s : State) (n : Nat) : State :=
  let q := s.grantQ.filter fun m => m != n
  if s.granted = some n then
    match q with
    | [] => { s with granted := none, grantQ := [] }
    | m :: rest => ({ s with grantQ := rest } : State).grant m
  else { s with grantQ := q }

/-- The chunk of a strand commits: its stores enter the order in program order, and the next chunk begins (R262). DEDUCED (log 13):
where each cell of a litmus table of 12_ordering.md is one chunk, the outcomes with loads on both sides of another chunk's commit (lines 114,
124 and 161) do not occur. -/
def State.commit (s : State) (n : Nat) : State :=
  let c := (s.strand n).chunk
  let s1 := c.stores.foldl (fun a st => a.enter n st) s
  (s1.onStrand n fun t =>
    { t.newChunk with entryClean := t.entryClean && c.untouched, hold := if t.hold = .commit then .none else t.hold }).ungrant n

/-- The barometer of a tile counts an abort on a line of G (R221). -/
def State.baroAbort (s : State) (tile line : Nat) : State :=
  s.onTile tile fun t =>
    let i := line % 256
    let v := SMap.look 0 t.baro i
    { t with baro := SMap.put 0 t.baro i (min 7 (v + 1)) }

/-- The agenda without the load replies that a strand no longer waits for: the first `keep` stay, the `gone` after them
go. -/
def dropReplies (n : Nat) : Nat → Nat → List Event → List Event
  | _, _, [] => []
  | keep, gone, e :: es =>
    match e with
    | .loadReply m d =>
      if m = n then
        match keep, gone with
        | k + 1, g => .loadReply m d :: dropReplies n k g es
        | 0, g + 1 => dropReplies n 0 g es
        | 0, 0 => .loadReply m d :: dropReplies n 0 0 es
      else .loadReply m d :: dropReplies n keep gone es
    | e => e :: dropReplies n keep gone es

/-- The agenda without the replies to loads of strand `n` that a change of the state no longer waits for: those of its open chunk,
which come after the ones that it keeps. -/
def State.dropLoads (s old : State) (n : Nat) : State :=
  let gone := (old.strand n).pend.countP (fun p => p.kind == .load) - (s.strand n).pend.countP fun p => p.kind == .load
  { s with agenda := dropReplies n ((s.strand n).pend.countP fun p => p.kind == .load) gone s.agenda }

/-- The chunk of a strand aborts: its stores are discarded, its registers go back to the checkpoint, `shi` excepted, and it
executes again (R262, R248), with the frame record that it began with in its store buffer again (R130) and the `VSEND` entries that it
took in their queue; after eight aborts in a row it waits for a grant (R263). A strand that a pre-emption has stopped stays stopped
(R300). -/
def State.abort (s : State) (n : Nat) : State :=
  let c := (s.strand n).chunk
  let s1 := s.onStrand n fun t =>
    let r := c.ckpt.set 105 (t.regs.get 105)
    { t with
      regs := r
      chunk := { Chunk.start r with aborts := c.aborts + 1, stores := c.kept, kept := c.kept, waits := c.waits }
      shadow := Shadow.none
      hold := if t.hold = .stopped then .stopped else .none
      found := []
      vItp := c.taken ++ t.vItp
      pend := t.pend.filter fun p => p.old }
  let s3 := match c.conflict with
    | some l => s1.baroAbort (tileOf n) l
    | none => s1
  let s4 := s3.dropLoads s n
  if 8 ≤ c.aborts + 1 && s.granted != some n then
    (s4.onStrand n fun t => { t with hold := if t.hold = .stopped then .stopped else .grant }).dueOnce (.soloCommitGrant n)
  else s4

/-- The chunk of a strand aborts and is replayed (R262, R317, R336): a trap that an instruction of it has raised is not delivered. -/
def State.replay (s : State) (n : Nat) : State :=
  let s1 := s.abort n
  if (s1.strand n).status = .trapping then
    { s1.onStrand n fun t => { t with status := .ready } with agenda := s1.agenda.filter fun e => !e.delivers n }
  else s1

end Sys2Proof.Machine
end

