-- ==== Sys2Proof/Machine/Flags.lean ====
section
/-! DEFINITION. The FP status register: sticky flags, and the traps of ENV and EDZ (R77 to R79). -/

namespace Sys2Proof.Machine

/-- The status register after flags are raised: they are sticky (R78). -/
def Regs.raiseFlags (r : Regs) (fl : Flags) : Regs := { r with fps := r.fps ||| fl }

/-- Raises flags in the acting strand's status register. -/
def State.raiseFlags (s : State) (fl : Flags) : State := s.onRegs fun r => r.raiseFlags fl

/-- The cause that an enabled condition raises, if one does: `FP_INVALID` for NV under ENV, `FP_DIVZERO` for DZ under EDZ
(R77, R79). -/
def enabledCause (status fl : Flags) : Option Nat :=
  if status &&& 0x40 != 0 && fl &&& fNV != 0 then some 0x08
  else if status &&& 0x80 != 0 && fl &&& fDZ != 0 then some 0x09
  else none

/-- The sticky flag of an enabled condition's cause (R79). -/
def causeFlag (c : Nat) : Flags := if c = 0x08 then fNV else fDZ

/-- Ends an operation that raised flags: an enabled condition traps with its own sticky flag set and nothing else changed, the
extra word the updated status (R79); otherwise `k` goes on from the raised status. -/
def State.withFlags (s : State) (fl : Flags) (k : State → State) : State :=
  match enabledCause s.me.regs.fps fl with
  | some c =>
    let t := s.raiseFlags (causeFlag c)
    t.stop (t.trap c t.me.regs.fps.toNat)
  | none => k (s.raiseFlags fl)

end Sys2Proof.Machine
end

