-- ==== Sys2Proof/Machine/Operands.lean ====
section
/-! DEFINITION. The operand forms of memory instructions: effective addresses (R58), walks (R121 to R123), and one load or
store of any space through all its checks (R141, R142). -/

namespace Sys2Proof.Machine

/-- The advance of a walk register (R123). -/
def Walk.advance (w : Walk) : Walk :=
  let i0 := w.i0 + 1
  let e0 := i0 == w.n0
  let i1 := if e0 then w.i1 + 1 else w.i1
  let e1 := i1 == w.n1
  let i2 := if e1 then w.i2 + 1 else w.i2
  let e2 := i2 == w.n2
  { w with
    i0 := if e0 then 0 else i0
    i1 := if e1 then 0 else i1
    i2 := if e2 then 0 else i2
    ends := BitVec.ofBool e2 ++ BitVec.ofBool e1 ++ BitVec.ofBool e0 }

/-- A loop that walk register `n` governs is finished when end flag 2 is set (R119). -/
def Loop.stepped (n : BitVec 3) (w : Walk) (l : Loop) : Loop :=
  if l.walk = some n && w.ends.getLsbD 2 then { l with finished := true } else l

/-- Advances a walk register (R123), with the loops that it governs, those that frame records hold among them (R119). -/
def Regs.stepWalk (r : Regs) (n : BitVec 3) : Regs :=
  let w := (r.walk n.toNat).advance
  { r with
    w := SMap.put Walk.unbound r.w n.toNat w
    loops := r.loops.map (Loop.stepped n w)
    waiting := r.waiting.map fun p => (p.1, p.2.stepped n w) }

/-- The number of elements of a walk (R117). -/
def Walk.elements (w : Walk) : Nat := w.n0 * w.n1 * w.n2

/-- The starts of a walk, in walk order from all indices zero (R156). -/
def Walk.starts (w : Walk) : List Nat :=
  (upFrom 0 w.n2).flatMap fun i2 => (upFrom 0 w.n1).flatMap fun i1 => (upFrom 0 w.n0).map fun i0 =>
    ({ w with i0 := i0, i1 := i1, i2 := i2 } : Walk).addr.toNat

/-- The walk register that a selector names, if it is bound; `WALK_STATE` when it is not (R121). -/
def State.boundWalk (s : State) (n : BitVec 3) : Res Walk :=
  let w := s.me.regs.walk n.toNat
  if w.bound then .ok w else .error (s.trap 0x05 0)

/-- The effective address of format M (R58), modulo 2^64. -/
def State.effAddr (s : State) (sp : Space) (am : BitVec 2) (w : Cls) (base : Sel) (off : BitVec 48) (idx : Sel) :
    Res Nat := do
  let b := s.rd base
  if am = 0 then
    .ok (b + off.signExtend 64).toNat
  else if am = 1 then
    .ok b.toNat
  else if am = 2 then do
    ensure (legal b.toNat w) (.trap 0x20 (b) (addrExtra sp w 0))
    .ok (wrapTo 64 (addrOf ((index b.toNat w : Int) + (s.rd idx).toInt) w))
  else
    match base with
    | .w n => do
      let v ← s.boundWalk n
      .ok v.addr.toNat
    | _ => .error (s.illegal 8)

/-- The range check of a post-increment, after R43 and before translation (R58). -/
def checkNext (sp : Space) (am : BitVec 2) (w : Cls) (a : Nat) : Res Unit :=
  ensure (am != 1 || addrOf ((index a w : Int) + 1) w < (2 ^ 57 : Nat)) (.trap 0x27 (BitVec.ofNat 64 a) (addrExtra sp w 0))

/-- The update of the base at issue: post-increment (R58) or walk advance (R123). -/
def State.updateBase (s : State) (am : BitVec 2) (w : Cls) (base : Sel) : State :=
  if am = 1 then s.wr base (BitVec.ofNat 64 (wrapTo 64 (addrOf ((index (s.rd base).toNat w : Int) + 1) w)))
  else if am = 3 then
    match base with
    | .w n => s.onRegs fun r => r.stepWalk n
    | _ => s
  else s

/-- The address of an access after its checks, and where it stands. -/
def State.operand (s : State) (sp : Space) (am : BitVec 2) (w : Cls) (base : Sel) (off : BitVec 48) (idx : Sel)
    (need : Rights) : Res (Nat × Place) := do
  let a ← s.effAddr sp am w base off idx
  s.checkAddr s.cur sp a w 0
  checkNext sp am w a
  let p ← s.place s.cur sp a w need 0
  .ok (a, p)

/-- `DATA_POISON` for a poisoned container of the run at `a`, which stands at `bit` (R316). -/
def State.checkPoison (s : State) (sp : Space) (c : Cls) (hi a bit len : Nat) : Res Unit :=
  match s.poisonFor s.cur bit len with
  | none => .ok ()
  | some k => .error (.trap 0xC0 (BitVec.ofNat 64 (a / 64 * 64 + k - bit / 64 * 64)) (addrExtra sp c hi))

/-- What a load from another package waits for (R219, R266): an atomic of the strand on another package that has not been performed, and
a buffered store of its own chunk to a container that the load reads, which leaves when the chunk commits. DEDUCED (log 92). -/
def State.farOrder (s : State) (p : BitVec 10) (bit len : Nat) : Res Unit := do
  ensure (!s.me.chunk.waits) (.hold .remote)
  ensure (!s.me.chunk.stores.any fun st => st.pkg == some p && (unitsOf 64 st.bit st.bits).any fun k => (unitsOf 64 bit len).contains k)
    (.hold .commit)

/-- A load of a name (R141, R145): checked and performed now; the value returns by LOAD_REPLY. A load of the own scratchpad that
races with a window write finds the value before or after it, by a free choice (R264; DESIGN CHOICE, log 15). A load from
another package reads there, and the strand goes on when the reply comes (R266, R318). -/
def State.load (s : State) (sp : Space) (am : BitVec 2) (w : Cls) (base : Sel) (off : BitVec 48) (idx : Sel)
    (name : Nat) (sx : Bool) (la : BitVec 4) (len : Nat) : Res State := do
  let (a, p) ← s.operand sp am w base off idx 1
  let r := s.me.regs
  match p with
  | .here bit => do
    s.checkPoison sp w 0 a bit w.bits
    let v := if sp = .p then s.ownPeek s.cur bit w.bits else s.peek s.cur bit w.bits
    let s1 := (if sp = .g then s.noteRead bit w.bits else s).hit s.cur sp a
    let s2 := (s1.updateBase am w base).done len
    let s3 := s2.addPend { reg := name, kind := .load, sx := sx, bits := w.bits, far := none, snap := none, part := none, old := false }
    .ok ((s3.openShadow name la r.handle r.off).due [.loadReply s.cur (.value (BitVec.ofNat 1024 v))])
  | .far pkg bit => do
    s.farOrder pkg bit w.bits
    let s2 := ((s.hit s.cur sp a).updateBase am w base).done len
    let s3 := s2.addPend { reg := name, kind := .load, sx := sx, bits := w.bits, far := some (pkg, bit),
                           snap := some r, part := none, old := false,
                           site := some (BitVec.ofNat 64 a, addrExtra sp w 0) }
    let s4 := s3.onMe fun t => { t with hold := .reply, since := s.clk }
    .ok (((s4.openShadow name la r.handle r.off).sendTo pkg (.remoteLoad s.cur pkg bit w.bits)).due [.remoteReplyTimeout s.cur])
  | .io _ _ => .error (.trap 0x28 (BitVec.ofNat 64 a) (addrExtra sp w 0))

/-- A scalar store (R141): checked, and buffered until its chunk commits (R143). -/
def State.store (s : State) (sp : Space) (am : BitVec 2) (w : Cls) (base src : Sel) (off : BitVec 48) (idx : Sel)
    (len : Nat) : Res State := do
  let (a, p) ← s.operand sp am w base off idx 2
  let v := (s.rd src).toNat
  let sts ← (match p with
    | .here bit => .ok (elemStores none bit w v)
    | .far pkg bit => .ok (elemStores (some pkg) bit w v (BitVec.ofNat 64 a, addrExtra sp w 0))
    | .io _ _ => .error (.trap 0x28 (BitVec.ofNat 64 a) (addrExtra sp w 0)) : Res (List Store))
  let s1 ← s.buffer sts
  .ok (((s1.hit s.cur sp a).updateBase am w base).done len)

/-- The bits of a value as a register takes them: sign- or zero-extended to 64 bits (R141). -/
def extend (sx : Bool) (bits v : Nat) : Nat := if sx then wrapTo 64 (signed bits v) else v % 2 ^ bits

/-- The registers with a pending destination written: the whole register, or one lane of a vector register. -/
def Regs.take (r : Regs) (p : Pend) (v : Nat) : Regs :=
  match p.part with
  | none => r.wrName p.reg v
  | some b => r.wrName p.reg (setBitsOf (r.vec (p.reg - 128)).toNat b p.bits v)

/-- Writes a pending destination of a strand, in the checkpoint too when it is of a committed chunk, and in the registers
to which a lost access goes back, and forgets it. -/
def Strand.settled (t : Strand) (p : Pend) (v : Nat) : Strand :=
  { t with
    regs := t.regs.take p v
    chunk := if p.old then { t.chunk with ckpt := t.chunk.ckpt.take p v } else t.chunk
    pend := (t.pend.erase p).map fun q => if p.snap.isNone then { q with snap := q.snap.map fun r => r.take p v } else q }

/-- Writes a pending destination of strand `n`. -/
def State.settle (s : State) (n : Nat) (p : Pend) (v : Nat) : State := s.onStrand n fun t => t.settled p v

end Sys2Proof.Machine
end

