-- ==== Sys2Proof/Machine/Scalar.lean ====
section
/-! DEFINITION. Scalar integer instructions: majors 0x01 to 0x0D (R95 to R103). -/

namespace Sys2Proof.Machine

/-- The common body of R95: the value to the destination, then the last-result file. -/
def State.result (s : State) (d : Sel) (v : Word) (len : Nat) : State :=
  (s.onRegs fun r => (r.wr d v).pushZ v).done len

/-- A function of two operands: reads both, writes its value (R95). -/
def binary (op : Word → Word → Word) (d a : Sel) (b : Word) (len : Nat) (s : State) : Host.Outcome State Fault Refusal :=
  .next (s.result d (op (s.rd a) b) len)

/-- A function of one value (R101, R102). -/
def unary (v : Word) (d : Sel) (len : Nat) (s : State) : Host.Outcome State Fault Refusal := .next (s.result d v len)

/-- 1 or 0. -/
def ofBit (b : Bool) : Word := if b then 1 else 0

/-- `SHL`: bits 63:6 of the amount are ignored (R95). -/
def aluShl (a b : Word) : Word := a <<< (b.toNat % 64)

/-- `SHR`. -/
def aluShr (a b : Word) : Word := a >>> (b.toNat % 64)

/-- `SHRA`. -/
def aluShra (a b : Word) : Word := a.sshiftRight (b.toNat % 64)

/-- `ROT`: to the right. -/
def aluRot (a b : Word) : Word := a.rotateRight (b.toNat % 64)

/-- `MULH`: the high half of the signed product, rounded down. -/
def aluMulh (a b : Word) : Word := BitVec.ofInt 64 (a.toInt * b.toInt / (2 ^ 64 : Nat))

/-- `MULHU`. -/
def aluMulhu (a b : Word) : Word := BitVec.ofNat 64 (a.toNat * b.toNat / 2 ^ 64)

/-- `DIV` with the cases of R96. -/
def aluDiv (a b : Word) : Word :=
  if b = 0 then BitVec.allOnes 64 else BitVec.ofInt 64 (Int.tdiv a.toInt b.toInt)

/-- `REM` with the cases of R96. -/
def aluRem (a b : Word) : Word := if b = 0 then a else BitVec.ofInt 64 (Int.tmod a.toInt b.toInt)

/-- `DIVU` with the cases of R96. -/
def aluDivu (a b : Word) : Word := if b = 0 then BitVec.allOnes 64 else BitVec.ofNat 64 (a.toNat / b.toNat)

/-- `REMU` with the cases of R96. -/
def aluRemu (a b : Word) : Word := if b = 0 then a else BitVec.ofNat 64 (a.toNat % b.toNat)

/-- `MIN`, `MAX`, `MINU`, `MAXU` (R95): b unless the comparison holds. -/
def aluPick (c : Bool) (a b : Word) : Word := if c then a else b

/-- `ABSD`: the exact difference lies below 2^64 (R95). -/
def aluAbsd (a b : Word) : Word := BitVec.ofNat 64 (a.toInt - b.toInt).natAbs

/-- A saturating sum or difference: the value and whether the clamp acted (R97). -/
def saturate (x : Int) : Word × Bool :=
  let c := clampInt x (-(2 ^ 63 : Nat) : Int) ((2 ^ 63 : Nat) - 1 : Int)
  (BitVec.ofInt 64 c, c != x)

/-- `ADDS` and `SUBS`: SA when the clamp acts, and never a trap (R97). -/
def saturating (x : Int) (d : Sel) (len : Nat) (s : State) : Host.Outcome State Fault Refusal :=
  .next ((if (saturate x).2 then s.raiseFlags fSA else s).result d (saturate x).1 len)

/-- `CSEL`: by the value that D held before (R98). -/
def selects (d a : Sel) (b : Word) (len : Nat) (s : State) : Host.Outcome State Fault Refusal :=
  .next (s.result d (aluPick (s.rd d != 0) (s.rd a) b) len)

/-- `CLZ`: 64 when there is no one bit (R101). -/
def leadingZeros (a : Word) : Word := BitVec.ofNat 64 (lowestBit (reverseBits a.toNat 64) 0 64)

/-- `CTZ`: 64 when there is no one bit. -/
def trailingZeros (a : Word) : Word := BitVec.ofNat 64 (lowestBit a.toNat 0 64)

/-- `POPC`. -/
def onesCount (a : Word) : Word := BitVec.ofNat 64 (countBits a.toNat 64)

/-- `BREV`: bit i to bit 63 − i. -/
def bitReverse (a : Word) : Word := BitVec.ofNat 64 (reverseBits a.toNat 64)

/-- `SEXT` of bits 31:0. -/
def signExtend32 (a : Word) : Word := (a.extractLsb' 0 32).signExtend 64

/-- `ZEXT` of bits 31:0. -/
def zeroExtend32 (a : Word) : Word := (a.extractLsb' 0 32).setWidth 64

/-- The dynamic position of a bit field (R103). -/
def fieldPos (pos : BitVec 6) (b : Word) : Nat := pos.toNat + b.toNat % 64

/-- The field of R103: bits beyond 63 read as zero. -/
def fieldOf (a : Word) (p wid : Nat) : Nat := a.toNat / 2 ^ p % 2 ^ wid

/-- `EXTBS`: the field, sign-extended from its top bit. -/
def fieldSigned (a : Word) (p wid : Nat) : Word := BitVec.ofInt 64 (signed wid (fieldOf a p wid))

/-- `INSB`: bits of the field beyond 63 are dropped. -/
def fieldInsert (old a : Word) (p wid : Nat) : Word := BitVec.ofNat 64 (setBitsOf old.toNat p wid a.toNat)

/-- The length of a bit-field or pointer instruction: 3 words, or 5 with a literal (R51). -/
def srcWords : Src → Nat
  | .sel _ => 3
  | .lit _ => 5

/-- `ADD`. R95: Adds two 64-bit registers, wrapping modulo 2^64. -/
def execAdd (d : Sel) (a : Sel) (b : Sel) (s : State) : Host.Outcome State Fault Refusal :=
  binary (fun a b => a + b) d a (s.rd b) 1 s

/-- `ADD_LIT`. R95: ADD with the b operand supplied as a 64-bit literal word. -/
def execAddLit (d : Sel) (a : Sel) (b : Word) (s : State) : Host.Outcome State Fault Refusal :=
  binary (fun a b => a + b) d a b 3 s

/-- `SUB`. R95: Subtracts b from a, wrapping modulo 2^64. -/
def execSub (d : Sel) (a : Sel) (b : Sel) (s : State) : Host.Outcome State Fault Refusal :=
  binary (fun a b => a - b) d a (s.rd b) 1 s

/-- `SUB_LIT`. R95: SUB with a literal b. -/
def execSubLit (d : Sel) (a : Sel) (b : Word) (s : State) : Host.Outcome State Fault Refusal :=
  binary (fun a b => a - b) d a b 3 s

/-- `AND`. R95: Bitwise AND of two registers. -/
def execAnd (d : Sel) (a : Sel) (b : Sel) (s : State) : Host.Outcome State Fault Refusal :=
  binary (fun a b => a &&& b) d a (s.rd b) 1 s

/-- `AND_LIT`. R95: AND with a literal b. -/
def execAndLit (d : Sel) (a : Sel) (b : Word) (s : State) : Host.Outcome State Fault Refusal :=
  binary (fun a b => a &&& b) d a b 3 s

/-- `OR`. R95: Bitwise OR of two registers. -/
def execOr (d : Sel) (a : Sel) (b : Sel) (s : State) : Host.Outcome State Fault Refusal :=
  binary (fun a b => a ||| b) d a (s.rd b) 1 s

/-- `OR_LIT`. R95: OR with a literal b. -/
def execOrLit (d : Sel) (a : Sel) (b : Word) (s : State) : Host.Outcome State Fault Refusal :=
  binary (fun a b => a ||| b) d a b 3 s

/-- `XOR`. R95: Bitwise XOR of two registers. -/
def execXor (d : Sel) (a : Sel) (b : Sel) (s : State) : Host.Outcome State Fault Refusal :=
  binary (fun a b => a ^^^ b) d a (s.rd b) 1 s

/-- `XOR_LIT`. R95: XOR with a literal b. -/
def execXorLit (d : Sel) (a : Sel) (b : Word) (s : State) : Host.Outcome State Fault Refusal :=
  binary (fun a b => a ^^^ b) d a b 3 s

/-- `ANDN`. R95: a AND NOT b. -/
def execAndn (d : Sel) (a : Sel) (b : Sel) (s : State) : Host.Outcome State Fault Refusal :=
  binary (fun a b => a &&& ~~~b) d a (s.rd b) 1 s

/-- `ANDN_LIT`. R95: ANDN with a literal b. -/
def execAndnLit (d : Sel) (a : Sel) (b : Word) (s : State) : Host.Outcome State Fault Refusal :=
  binary (fun a b => a &&& ~~~b) d a b 3 s

/-- `MIN`. R95: Signed minimum of two registers. -/
def execMin (d : Sel) (a : Sel) (b : Sel) (s : State) : Host.Outcome State Fault Refusal :=
  binary (fun a b => aluPick (a.slt b) a b) d a (s.rd b) 1 s

/-- `MIN_LIT`. R95: MIN with a literal b. -/
def execMinLit (d : Sel) (a : Sel) (b : Word) (s : State) : Host.Outcome State Fault Refusal :=
  binary (fun a b => aluPick (a.slt b) a b) d a b 3 s

/-- `MAX`. R95: Signed maximum of two registers. -/
def execMax (d : Sel) (a : Sel) (b : Sel) (s : State) : Host.Outcome State Fault Refusal :=
  binary (fun a b => aluPick (b.slt a) a b) d a (s.rd b) 1 s

/-- `MAX_LIT`. R95: MAX with a literal b. -/
def execMaxLit (d : Sel) (a : Sel) (b : Word) (s : State) : Host.Outcome State Fault Refusal :=
  binary (fun a b => aluPick (b.slt a) a b) d a b 3 s

/-- `MINU`. R95: Unsigned minimum. -/
def execMinu (d : Sel) (a : Sel) (b : Sel) (s : State) : Host.Outcome State Fault Refusal :=
  binary (fun a b => aluPick (a.ult b) a b) d a (s.rd b) 1 s

/-- `MINU_LIT`. R95: MINU with a literal b. -/
def execMinuLit (d : Sel) (a : Sel) (b : Word) (s : State) : Host.Outcome State Fault Refusal :=
  binary (fun a b => aluPick (a.ult b) a b) d a b 3 s

/-- `MAXU`. R95: Unsigned maximum. -/
def execMaxu (d : Sel) (a : Sel) (b : Sel) (s : State) : Host.Outcome State Fault Refusal :=
  binary (fun a b => aluPick (b.ult a) a b) d a (s.rd b) 1 s

/-- `MAXU_LIT`. R95: MAXU with a literal b. -/
def execMaxuLit (d : Sel) (a : Sel) (b : Word) (s : State) : Host.Outcome State Fault Refusal :=
  binary (fun a b => aluPick (b.ult a) a b) d a b 3 s

/-- `SHL`. R95: Shift left by b[5:0]. -/
def execShl (d : Sel) (a : Sel) (b : Sel) (s : State) : Host.Outcome State Fault Refusal :=
  binary aluShl d a (s.rd b) 1 s

/-- `SHL_LIT`. R95: SHL with a literal b. -/
def execShlLit (d : Sel) (a : Sel) (b : Word) (s : State) : Host.Outcome State Fault Refusal :=
  binary aluShl d a b 3 s

/-- `SHR`. R95: Logical shift right by b[5:0]. -/
def execShr (d : Sel) (a : Sel) (b : Sel) (s : State) : Host.Outcome State Fault Refusal :=
  binary aluShr d a (s.rd b) 1 s

/-- `SHR_LIT`. R95: SHR with a literal b. -/
def execShrLit (d : Sel) (a : Sel) (b : Word) (s : State) : Host.Outcome State Fault Refusal :=
  binary aluShr d a b 3 s

/-- `SHRA`. R95: Arithmetic shift right by b[5:0]. -/
def execShra (d : Sel) (a : Sel) (b : Sel) (s : State) : Host.Outcome State Fault Refusal :=
  binary aluShra d a (s.rd b) 1 s

/-- `SHRA_LIT`. R95: SHRA with a literal b. -/
def execShraLit (d : Sel) (a : Sel) (b : Word) (s : State) : Host.Outcome State Fault Refusal :=
  binary aluShra d a b 3 s

/-- `ROT`. R95: Rotate right by b[5:0]. -/
def execRot (d : Sel) (a : Sel) (b : Sel) (s : State) : Host.Outcome State Fault Refusal :=
  binary aluRot d a (s.rd b) 1 s

/-- `ROT_LIT`. R95: ROT with a literal b. -/
def execRotLit (d : Sel) (a : Sel) (b : Word) (s : State) : Host.Outcome State Fault Refusal :=
  binary aluRot d a b 3 s

/-- `MUL`. R95: Low 64 bits of the signed product. -/
def execMul (d : Sel) (a : Sel) (b : Sel) (s : State) : Host.Outcome State Fault Refusal :=
  binary (fun a b => a * b) d a (s.rd b) 1 s

/-- `MUL_LIT`. R95: MUL with a literal b. -/
def execMulLit (d : Sel) (a : Sel) (b : Word) (s : State) : Host.Outcome State Fault Refusal :=
  binary (fun a b => a * b) d a b 3 s

/-- `MULH`. R95: High 64 bits of the signed product. -/
def execMulh (d : Sel) (a : Sel) (b : Sel) (s : State) : Host.Outcome State Fault Refusal :=
  binary aluMulh d a (s.rd b) 1 s

/-- `MULH_LIT`. R95: MULH with a literal b. -/
def execMulhLit (d : Sel) (a : Sel) (b : Word) (s : State) : Host.Outcome State Fault Refusal :=
  binary aluMulh d a b 3 s

/-- `MULHU`. R95: High 64 bits of the unsigned product. -/
def execMulhu (d : Sel) (a : Sel) (b : Sel) (s : State) : Host.Outcome State Fault Refusal :=
  binary aluMulhu d a (s.rd b) 1 s

/-- `MULHU_LIT`. R95: MULHU with a literal b. -/
def execMulhuLit (d : Sel) (a : Sel) (b : Word) (s : State) : Host.Outcome State Fault Refusal :=
  binary aluMulhu d a b 3 s

/-- `DIV`. R96: Signed division on the shared divide unit. -/
def execDiv (d : Sel) (a : Sel) (b : Sel) (s : State) : Host.Outcome State Fault Refusal :=
  binary aluDiv d a (s.rd b) 1 s

/-- `DIV_LIT`. R96: DIV with a literal b. -/
def execDivLit (d : Sel) (a : Sel) (b : Word) (s : State) : Host.Outcome State Fault Refusal :=
  binary aluDiv d a b 3 s

/-- `DIVU`. R96: Unsigned division. -/
def execDivu (d : Sel) (a : Sel) (b : Sel) (s : State) : Host.Outcome State Fault Refusal :=
  binary aluDivu d a (s.rd b) 1 s

/-- `DIVU_LIT`. R96: DIVU with a literal b. -/
def execDivuLit (d : Sel) (a : Sel) (b : Word) (s : State) : Host.Outcome State Fault Refusal :=
  binary aluDivu d a b 3 s

/-- `REM`. R96: Signed remainder. -/
def execRem (d : Sel) (a : Sel) (b : Sel) (s : State) : Host.Outcome State Fault Refusal :=
  binary aluRem d a (s.rd b) 1 s

/-- `REM_LIT`. R96: REM with a literal b. -/
def execRemLit (d : Sel) (a : Sel) (b : Word) (s : State) : Host.Outcome State Fault Refusal :=
  binary aluRem d a b 3 s

/-- `REMU`. R96: Unsigned remainder. -/
def execRemu (d : Sel) (a : Sel) (b : Sel) (s : State) : Host.Outcome State Fault Refusal :=
  binary aluRemu d a (s.rd b) 1 s

/-- `REMU_LIT`. R96: REMU with a literal b. -/
def execRemuLit (d : Sel) (a : Sel) (b : Word) (s : State) : Host.Outcome State Fault Refusal :=
  binary aluRemu d a b 3 s

/-- `SETEQ`. R95: 1 if a equals b, else 0. -/
def execSeteq (d : Sel) (a : Sel) (b : Sel) (s : State) : Host.Outcome State Fault Refusal :=
  binary (fun a b => ofBit (a == b)) d a (s.rd b) 1 s

/-- `SETEQ_LIT`. R95: SETEQ with a literal b. -/
def execSeteqLit (d : Sel) (a : Sel) (b : Word) (s : State) : Host.Outcome State Fault Refusal :=
  binary (fun a b => ofBit (a == b)) d a b 3 s

/-- `SETLT`. R95: 1 if a < b signed. -/
def execSetlt (d : Sel) (a : Sel) (b : Sel) (s : State) : Host.Outcome State Fault Refusal :=
  binary (fun a b => ofBit (a.slt b)) d a (s.rd b) 1 s

/-- `SETLT_LIT`. R95: SETLT with a literal b. -/
def execSetltLit (d : Sel) (a : Sel) (b : Word) (s : State) : Host.Outcome State Fault Refusal :=
  binary (fun a b => ofBit (a.slt b)) d a b 3 s

/-- `SETLTU`. R95: 1 if a < b unsigned. -/
def execSetltu (d : Sel) (a : Sel) (b : Sel) (s : State) : Host.Outcome State Fault Refusal :=
  binary (fun a b => ofBit (a.ult b)) d a (s.rd b) 1 s

/-- `SETLTU_LIT`. R95: SETLTU with a literal b. -/
def execSetltuLit (d : Sel) (a : Sel) (b : Word) (s : State) : Host.Outcome State Fault Refusal :=
  binary (fun a b => ofBit (a.ult b)) d a b 3 s

/-- `SETNE`. R95: 1 if a differs from b. -/
def execSetne (d : Sel) (a : Sel) (b : Sel) (s : State) : Host.Outcome State Fault Refusal :=
  binary (fun a b => ofBit (a != b)) d a (s.rd b) 1 s

/-- `SETNE_LIT`. R95: SETNE with a literal b. -/
def execSetneLit (d : Sel) (a : Sel) (b : Word) (s : State) : Host.Outcome State Fault Refusal :=
  binary (fun a b => ofBit (a != b)) d a b 3 s

/-- `SETGE`. R95: 1 if a >= b signed. -/
def execSetge (d : Sel) (a : Sel) (b : Sel) (s : State) : Host.Outcome State Fault Refusal :=
  binary (fun a b => ofBit (b.sle a)) d a (s.rd b) 1 s

/-- `SETGE_LIT`. R95: SETGE with a literal b. -/
def execSetgeLit (d : Sel) (a : Sel) (b : Word) (s : State) : Host.Outcome State Fault Refusal :=
  binary (fun a b => ofBit (b.sle a)) d a b 3 s

/-- `SETGEU`. R95: 1 if a >= b unsigned. -/
def execSetgeu (d : Sel) (a : Sel) (b : Sel) (s : State) : Host.Outcome State Fault Refusal :=
  binary (fun a b => ofBit (b.ule a)) d a (s.rd b) 1 s

/-- `SETGEU_LIT`. R95: SETGEU with a literal b. -/
def execSetgeuLit (d : Sel) (a : Sel) (b : Word) (s : State) : Host.Outcome State Fault Refusal :=
  binary (fun a b => ofBit (b.ule a)) d a b 3 s

/-- `ABSD`. R95: Absolute signed difference as n64. -/
def execAbsd (d : Sel) (a : Sel) (b : Sel) (s : State) : Host.Outcome State Fault Refusal :=
  binary aluAbsd d a (s.rd b) 1 s

/-- `ABSD_LIT`. R95: ABSD with a literal b. -/
def execAbsdLit (d : Sel) (a : Sel) (b : Word) (s : State) : Host.Outcome State Fault Refusal :=
  binary aluAbsd d a b 3 s

/-- `ADDS`. R97: Saturating signed add, setting SA on clamp. -/
def execAdds (d : Sel) (a : Sel) (b : Sel) (s : State) : Host.Outcome State Fault Refusal :=
  saturating ((s.rd a).toInt + (s.rd b).toInt) d 1 s

/-- `ADDS_LIT`. R97: ADDS with a literal b. -/
def execAddsLit (d : Sel) (a : Sel) (b : Word) (s : State) : Host.Outcome State Fault Refusal :=
  saturating ((s.rd a).toInt + b.toInt) d 3 s

/-- `SUBS`. R97: Saturating signed subtract, setting SA on clamp. -/
def execSubs (d : Sel) (a : Sel) (b : Sel) (s : State) : Host.Outcome State Fault Refusal :=
  saturating ((s.rd a).toInt - (s.rd b).toInt) d 1 s

/-- `SUBS_LIT`. R97: SUBS with a literal b. -/
def execSubsLit (d : Sel) (a : Sel) (b : Word) (s : State) : Host.Outcome State Fault Refusal :=
  saturating ((s.rd a).toInt - b.toInt) d 3 s

/-- `CSEL`. R98: Selects a or b by the prior value of D. -/
def execCsel (d : Sel) (a : Sel) (b : Sel) (s : State) : Host.Outcome State Fault Refusal :=
  selects d a (s.rd b) 1 s

/-- `CSEL_LIT`. R98: CSEL with a literal b. -/
def execCselLit (d : Sel) (a : Sel) (b : Word) (s : State) : Host.Outcome State Fault Refusal :=
  selects d a b 3 s

/-- `ADDI`. R99: Adds a sign-extended 10-bit immediate. -/
def execAddi (d : Sel) (a : Sel) (imm : BitVec 10) (s : State) : Host.Outcome State Fault Refusal :=
  binary (fun a b => a + b) d a (imm.signExtend 64) 1 s

/-- `ANDI`. R99: ANDs a sign-extended immediate. -/
def execAndi (d : Sel) (a : Sel) (imm : BitVec 10) (s : State) : Host.Outcome State Fault Refusal :=
  binary (fun a b => a &&& b) d a (imm.signExtend 64) 1 s

/-- `ORI`. R99: ORs a sign-extended immediate. -/
def execOri (d : Sel) (a : Sel) (imm : BitVec 10) (s : State) : Host.Outcome State Fault Refusal :=
  binary (fun a b => a ||| b) d a (imm.signExtend 64) 1 s

/-- `XORI`. R99: XORs a sign-extended immediate. -/
def execXori (d : Sel) (a : Sel) (imm : BitVec 10) (s : State) : Host.Outcome State Fault Refusal :=
  binary (fun a b => a ^^^ b) d a (imm.signExtend 64) 1 s

/-- `SETLTI`. R99: 1 if a < sign-extended immediate. -/
def execSetlti (d : Sel) (a : Sel) (imm : BitVec 10) (s : State) : Host.Outcome State Fault Refusal :=
  binary (fun a b => ofBit (a.slt b)) d a (imm.signExtend 64) 1 s

/-- `SHLI`. R100: Shift left by an immediate amount. -/
def execShli (d : Sel) (a : Sel) (amt : BitVec 6) (s : State) : Host.Outcome State Fault Refusal :=
  binary aluShl d a (amt.setWidth 64) 1 s

/-- `SHRI`. R100: Logical shift right by an immediate amount. -/
def execShri (d : Sel) (a : Sel) (amt : BitVec 6) (s : State) : Host.Outcome State Fault Refusal :=
  binary aluShr d a (amt.setWidth 64) 1 s

/-- `SHRAI`. R100: Arithmetic shift right by an immediate amount. -/
def execShrai (d : Sel) (a : Sel) (amt : BitVec 6) (s : State) : Host.Outcome State Fault Refusal :=
  binary aluShra d a (amt.setWidth 64) 1 s

/-- `ROTI`. R100: Rotate right by an immediate amount. -/
def execRoti (d : Sel) (a : Sel) (amt : BitVec 6) (s : State) : Host.Outcome State Fault Refusal :=
  binary aluRot d a (amt.setWidth 64) 1 s

/-- `MOV`. R101: Copies a register. -/
def execMov (d : Sel) (a : Sel) (s : State) : Host.Outcome State Fault Refusal :=
  unary ((s.rd a)) d 1 s

/-- `MOV_LIT`. R101: MOV of a 64-bit literal. -/
def execMovLit (d : Sel) (a : Word) (s : State) : Host.Outcome State Fault Refusal :=
  unary (a) d 3 s

/-- `NEG`. R101: Two's complement negation. -/
def execNeg (d : Sel) (a : Sel) (s : State) : Host.Outcome State Fault Refusal :=
  unary (-(s.rd a)) d 1 s

/-- `NEG_LIT`. R101: NEG of a literal. -/
def execNegLit (d : Sel) (a : Word) (s : State) : Host.Outcome State Fault Refusal :=
  unary (-a) d 3 s

/-- `NOT`. R101: Bitwise NOT. -/
def execNot (d : Sel) (a : Sel) (s : State) : Host.Outcome State Fault Refusal :=
  unary (~~~(s.rd a)) d 1 s

/-- `NOT_LIT`. R101: NOT of a literal. -/
def execNotLit (d : Sel) (a : Word) (s : State) : Host.Outcome State Fault Refusal :=
  unary (~~~a) d 3 s

/-- `CLZ`. R101: Counts leading zero bits. -/
def execClz (d : Sel) (a : Sel) (s : State) : Host.Outcome State Fault Refusal :=
  unary (leadingZeros (s.rd a)) d 1 s

/-- `CLZ_LIT`. R101: CLZ of a literal. -/
def execClzLit (d : Sel) (a : Word) (s : State) : Host.Outcome State Fault Refusal :=
  unary (leadingZeros a) d 3 s

/-- `CTZ`. R101: Counts trailing zero bits. -/
def execCtz (d : Sel) (a : Sel) (s : State) : Host.Outcome State Fault Refusal :=
  unary (trailingZeros (s.rd a)) d 1 s

/-- `CTZ_LIT`. R101: CTZ of a literal. -/
def execCtzLit (d : Sel) (a : Word) (s : State) : Host.Outcome State Fault Refusal :=
  unary (trailingZeros a) d 3 s

/-- `POPC`. R101: Counts one bits. -/
def execPopc (d : Sel) (a : Sel) (s : State) : Host.Outcome State Fault Refusal :=
  unary (onesCount (s.rd a)) d 1 s

/-- `POPC_LIT`. R101: POPC of a literal. -/
def execPopcLit (d : Sel) (a : Word) (s : State) : Host.Outcome State Fault Refusal :=
  unary (onesCount a) d 3 s

/-- `BREV`. R101: Reverses bit order. -/
def execBrev (d : Sel) (a : Sel) (s : State) : Host.Outcome State Fault Refusal :=
  unary (bitReverse (s.rd a)) d 1 s

/-- `BREV_LIT`. R101: BREV of a literal. -/
def execBrevLit (d : Sel) (a : Word) (s : State) : Host.Outcome State Fault Refusal :=
  unary (bitReverse a) d 3 s

/-- `SEXT`. R101: Sign-extends bits 31:0. -/
def execSext (d : Sel) (a : Sel) (s : State) : Host.Outcome State Fault Refusal :=
  unary (signExtend32 (s.rd a)) d 1 s

/-- `SEXT_LIT`. R101: SEXT of a literal. -/
def execSextLit (d : Sel) (a : Word) (s : State) : Host.Outcome State Fault Refusal :=
  unary (signExtend32 a) d 3 s

/-- `ZEXT`. R101: Zero-extends bits 31:0. -/
def execZext (d : Sel) (a : Sel) (s : State) : Host.Outcome State Fault Refusal :=
  unary (zeroExtend32 (s.rd a)) d 1 s

/-- `ZEXT_LIT`. R101: ZEXT of a literal. -/
def execZextLit (d : Sel) (a : Word) (s : State) : Host.Outcome State Fault Refusal :=
  unary (zeroExtend32 a) d 3 s

/-- `MOVI`. R102: Loads a sign-extended 17-bit immediate. -/
def execMovi (d : Sel) (imm : BitVec 17) (s : State) : Host.Outcome State Fault Refusal :=
  unary (imm.signExtend 64) d 1 s

/-- `MOVI_LIT`. R102: Loads a 64-bit literal. -/
def execMoviLit (d : Sel) (imm : Word) (s : State) : Host.Outcome State Fault Refusal :=
  unary imm d 3 s

/-- `EXTB`. R103: Extracts an unsigned bit field at a dynamic position. -/
def execExtb (d : Sel) (a : Sel) (b : Src) (pos : BitVec 6) (wid : BitVec 7) (s : State) : Host.Outcome State Fault Refusal :=
  unary (BitVec.ofNat 64 (fieldOf (s.rd a) (fieldPos pos (s.rdSrc b)) wid.toNat)) d (srcWords b) s

/-- `EXTBS`. R103: Extracts a sign-extended bit field. -/
def execExtbs (d : Sel) (a : Sel) (b : Src) (pos : BitVec 6) (wid : BitVec 7) (s : State) : Host.Outcome State Fault Refusal :=
  unary (fieldSigned (s.rd a) (fieldPos pos (s.rdSrc b)) wid.toNat) d (srcWords b) s

/-- `INSB`. R103: Inserts a bit field into the destination. -/
def execInsb (d : Sel) (a : Sel) (b : Src) (pos : BitVec 6) (wid : BitVec 7) (s : State) : Host.Outcome State Fault Refusal :=
  unary (fieldInsert (s.rd d) (s.rd a) (fieldPos pos (s.rdSrc b)) wid.toNat) d (srcWords b) s

end Sys2Proof.Machine
end

