-- ==== Sys2Proof/Machine/Float.lean ====
section
/-! DEFINITION. Scalar floating point: majors 0x10 to 0x12 (R80, R81, R105 to R112). -/

namespace Sys2Proof.Machine

/-- The common body of R105: flags, the traps of R79, then the result. -/
def floating (r : Nat × Flags) (d : Sel) (len : Nat) (s : State) : Host.Outcome State Fault Refusal :=
  .next (s.withFlags r.2 fun t => t.result d (BitVec.ofNat 64 r.1) len)

/-- The f32 pattern of an operand (R92). -/
def f32Of (v : Word) : Nat := v.toNat % 2 ^ 32

/-- A comparison of R109: NV for a signalling NaN, and in the ordered ones for every NaN. -/
def fCompare (test : FV → FV → Bool) (quiet : Bool) (p q : Nat) : Nat × Flags :=
  let x := unpack .f32 p
  let y := unpack .f32 q
  (if test x y then 1 else 0,
    if x.sNan || y.sNan || (!quiet && (x.isNan || y.isNan)) then fNV else 0)

/-- The bits of a source of type `t`, and a result of type `t` as a register takes it (R92). -/
def widen (t : Ty) (v : Nat) : Nat := if t.isInt && t.isSigned then wrapTo 64 (signed t.bits v) else v % 2 ^ t.bits

/-- The rounding mode that a code of X names (R59). -/
def xMode (x : BitVec 4) : Rm := (Rm.ofCode (x.setWidth 3)).getD .ne

/-- `FCVT` (R112): X is SAT for a pair of integer types and a rounding mode otherwise (R111). -/
def scalarConvert (td ts : Ty) (x : BitVec 4) (a : Word) : Nat × Flags :=
  let r := convert td ts (xMode x) (x == 1) (a.toNat % 2 ^ ts.bits)
  (widen td r.1, r.2)

/-- `FADD`. R106: f32 addition rounded to nearest even. -/
def execFadd (d : Sel) (a : Sel) (b : Sel) (s : State) : Host.Outcome State Fault Refusal :=
  floating (fpBin .f32 .ne (FV.add .ne) (f32Of (s.rd a)) (f32Of (s.rd b))) d 1 s

/-- `FADD_LIT`. R106: FADD with a literal b. -/
def execFaddLit (d : Sel) (a : Sel) (b : Word) (s : State) : Host.Outcome State Fault Refusal :=
  floating (fpBin .f32 .ne (FV.add .ne) (f32Of (s.rd a)) (f32Of b)) d 3 s

/-- `FSUB`. R106: f32 subtraction. -/
def execFsub (d : Sel) (a : Sel) (b : Sel) (s : State) : Host.Outcome State Fault Refusal :=
  floating (fpBin .f32 .ne (fun x y => FV.add .ne x y.neg) (f32Of (s.rd a)) (f32Of (s.rd b))) d 1 s

/-- `FSUB_LIT`. R106: FSUB with a literal b. -/
def execFsubLit (d : Sel) (a : Sel) (b : Word) (s : State) : Host.Outcome State Fault Refusal :=
  floating (fpBin .f32 .ne (fun x y => FV.add .ne x y.neg) (f32Of (s.rd a)) (f32Of b)) d 3 s

/-- `FMUL`. R106: f32 multiplication. -/
def execFmul (d : Sel) (a : Sel) (b : Sel) (s : State) : Host.Outcome State Fault Refusal :=
  floating (fpBin .f32 .ne FV.mul (f32Of (s.rd a)) (f32Of (s.rd b))) d 1 s

/-- `FMUL_LIT`. R106: FMUL with a literal b. -/
def execFmulLit (d : Sel) (a : Sel) (b : Word) (s : State) : Host.Outcome State Fault Refusal :=
  floating (fpBin .f32 .ne FV.mul (f32Of (s.rd a)) (f32Of b)) d 3 s

/-- `FDIV`. R106: f32 division on the divide unit. -/
def execFdiv (d : Sel) (a : Sel) (b : Sel) (s : State) : Host.Outcome State Fault Refusal :=
  floating (fpBin .f32 .ne FV.div (f32Of (s.rd a)) (f32Of (s.rd b))) d 1 s

/-- `FDIV_LIT`. R106: FDIV with a literal b. -/
def execFdivLit (d : Sel) (a : Sel) (b : Word) (s : State) : Host.Outcome State Fault Refusal :=
  floating (fpBin .f32 .ne FV.div (f32Of (s.rd a)) (f32Of b)) d 3 s

/-- `FMIN`. R81: IEEE minimum of f32. -/
def execFmin (d : Sel) (a : Sel) (b : Sel) (s : State) : Host.Outcome State Fault Refusal :=
  floating (minMax .f32 false false (f32Of (s.rd a)) (f32Of (s.rd b))) d 1 s

/-- `FMIN_LIT`. R81: FMIN with a literal b. -/
def execFminLit (d : Sel) (a : Sel) (b : Word) (s : State) : Host.Outcome State Fault Refusal :=
  floating (minMax .f32 false false (f32Of (s.rd a)) (f32Of b)) d 3 s

/-- `FMAX`. R81: IEEE maximum of f32. -/
def execFmax (d : Sel) (a : Sel) (b : Sel) (s : State) : Host.Outcome State Fault Refusal :=
  floating (minMax .f32 true false (f32Of (s.rd a)) (f32Of (s.rd b))) d 1 s

/-- `FMAX_LIT`. R81: FMAX with a literal b. -/
def execFmaxLit (d : Sel) (a : Sel) (b : Word) (s : State) : Host.Outcome State Fault Refusal :=
  floating (minMax .f32 true false (f32Of (s.rd a)) (f32Of b)) d 3 s

/-- `FMINN`. R81: minimumNumber of f32. -/
def execFminn (d : Sel) (a : Sel) (b : Sel) (s : State) : Host.Outcome State Fault Refusal :=
  floating (minMax .f32 false true (f32Of (s.rd a)) (f32Of (s.rd b))) d 1 s

/-- `FMINN_LIT`. R81: FMINN with a literal b. -/
def execFminnLit (d : Sel) (a : Sel) (b : Word) (s : State) : Host.Outcome State Fault Refusal :=
  floating (minMax .f32 false true (f32Of (s.rd a)) (f32Of b)) d 3 s

/-- `FMAXN`. R81: maximumNumber of f32. -/
def execFmaxn (d : Sel) (a : Sel) (b : Sel) (s : State) : Host.Outcome State Fault Refusal :=
  floating (minMax .f32 true true (f32Of (s.rd a)) (f32Of (s.rd b))) d 1 s

/-- `FMAXN_LIT`. R81: FMAXN with a literal b. -/
def execFmaxnLit (d : Sel) (a : Sel) (b : Word) (s : State) : Host.Outcome State Fault Refusal :=
  floating (minMax .f32 true true (f32Of (s.rd a)) (f32Of b)) d 3 s

/-- `FMA`. R107: Fused multiply-add into the destination, one rounding. -/
def execFma (d : Sel) (a : Sel) (b : Sel) (s : State) : Host.Outcome State Fault Refusal :=
  floating (fpFma .f32 .ne false (f32Of (s.rd a)) (f32Of (s.rd b)) (f32Of (s.rd d))) d 1 s

/-- `FMA_LIT`. R107: FMA with a literal b. -/
def execFmaLit (d : Sel) (a : Sel) (b : Word) (s : State) : Host.Outcome State Fault Refusal :=
  floating (fpFma .f32 .ne false (f32Of (s.rd a)) (f32Of b) (f32Of (s.rd d))) d 3 s

/-- `FMS`. R107: Fused c minus a times b, one rounding. -/
def execFms (d : Sel) (a : Sel) (b : Sel) (s : State) : Host.Outcome State Fault Refusal :=
  floating (fpFma .f32 .ne true (f32Of (s.rd a)) (f32Of (s.rd b)) (f32Of (s.rd d))) d 1 s

/-- `FMS_LIT`. R107: FMS with a literal b. -/
def execFmsLit (d : Sel) (a : Sel) (b : Word) (s : State) : Host.Outcome State Fault Refusal :=
  floating (fpFma .f32 .ne true (f32Of (s.rd a)) (f32Of b) (f32Of (s.rd d))) d 3 s

/-- `FCMPEQ`. R109: f32 equality compare. -/
def execFcmpeq (d : Sel) (a : Sel) (b : Sel) (s : State) : Host.Outcome State Fault Refusal :=
  floating (fCompare FV.eqNum true (f32Of (s.rd a)) (f32Of (s.rd b))) d 1 s

/-- `FCMPEQ_LIT`. R109: FCMPEQ with a literal b. -/
def execFcmpeqLit (d : Sel) (a : Sel) (b : Word) (s : State) : Host.Outcome State Fault Refusal :=
  floating (fCompare FV.eqNum true (f32Of (s.rd a)) (f32Of b)) d 3 s

/-- `FCMPLT`. R109: f32 less-than compare. -/
def execFcmplt (d : Sel) (a : Sel) (b : Sel) (s : State) : Host.Outcome State Fault Refusal :=
  floating (fCompare FV.ltNum false (f32Of (s.rd a)) (f32Of (s.rd b))) d 1 s

/-- `FCMPLT_LIT`. R109: FCMPLT with a literal b. -/
def execFcmpltLit (d : Sel) (a : Sel) (b : Word) (s : State) : Host.Outcome State Fault Refusal :=
  floating (fCompare FV.ltNum false (f32Of (s.rd a)) (f32Of b)) d 3 s

/-- `FCMPLE`. R109: f32 less-or-equal compare. -/
def execFcmple (d : Sel) (a : Sel) (b : Sel) (s : State) : Host.Outcome State Fault Refusal :=
  floating (fCompare (fun x y => FV.ltNum x y || FV.eqNum x y) false (f32Of (s.rd a)) (f32Of (s.rd b))) d 1 s

/-- `FCMPLE_LIT`. R109: FCMPLE with a literal b. -/
def execFcmpleLit (d : Sel) (a : Sel) (b : Word) (s : State) : Host.Outcome State Fault Refusal :=
  floating (fCompare (fun x y => FV.ltNum x y || FV.eqNum x y) false (f32Of (s.rd a)) (f32Of b)) d 3 s

/-- `FSQRT`. R108: Correctly rounded f32 square root. -/
def execFsqrt (d : Sel) (a : Sel) (s : State) : Host.Outcome State Fault Refusal :=
  floating (fpBin .f32 .ne (fun x _ => FV.sqrt x) (f32Of (s.rd a)) 0) d 1 s

/-- `FRCP`. R108: Correctly rounded f32 reciprocal. -/
def execFrcp (d : Sel) (a : Sel) (s : State) : Host.Outcome State Fault Refusal :=
  floating (fpBin .f32 .ne (fun x _ => FV.div (.fin false 1 1) x) (f32Of (s.rd a)) 0) d 1 s

/-- `FCLASS`. R110: One-hot class of an f32 value. -/
def execFclass (d : Sel) (a : Sel) (s : State) : Host.Outcome State Fault Refusal :=
  floating (fclassBits .f32 (f32Of (s.rd a)), 0) d 1 s

/-- `FCVT`. R112: Converts between scalar types under rounding or saturation. -/
def execFcvt (d : Sel) (a : Src) (td : Ty) (ts : Ty) (x : BitVec 4) (s : State) : Host.Outcome State Fault Refusal :=
  floating (scalarConvert td ts x (s.rdSrc a)) d (srcWords a) s

/-- `FSX`. R80: Exchanges the FP status register. -/
def execFsx (d : Sel) (a : Sel) (s : State) : Host.Outcome State Fault Refusal :=
  .next ((s.onRegs fun r => { r with fps := (s.rd a).setWidth 8 }).result d (s.me.regs.fps.setWidth 64) 3)

/-- `FSR`. R80: Reads the FP status register. -/
def execFsr (d : Sel) (s : State) : Host.Outcome State Fault Refusal :=
  .next (s.result d (s.me.regs.fps.setWidth 64) 3)

end Sys2Proof.Machine
end

