-- ==== Sys2Proof/Machine/Sm3.lean ====
section
/-! DEFINITION. SM3, as GB/T 32905 publishes it (R274), with digests held as R413 gives. PRESUMED: the spec names the standard
and gives one test vector. -/

namespace Sys2Proof.Machine

/-- A word of SM3. -/
abbrev W32 := BitVec 32

/-- P0. -/
def sm3P0 (x : W32) : W32 := x ^^^ x.rotateLeft 9 ^^^ x.rotateLeft 17

/-- P1. -/
def sm3P1 (x : W32) : W32 := x ^^^ x.rotateLeft 15 ^^^ x.rotateLeft 23

/-- FF of round `j`. -/
def sm3FF (j : Nat) (x y z : W32) : W32 := if j < 16 then x ^^^ y ^^^ z else (x &&& y) ||| (x &&& z) ||| (y &&& z)

/-- GG of round `j`. -/
def sm3GG (j : Nat) (x y z : W32) : W32 := if j < 16 then x ^^^ y ^^^ z else (x &&& y) ||| (~~~x &&& z)

/-- The eight chaining words. -/
structure Sm3Regs where
  a : W32
  b : W32
  c : W32
  d : W32
  e : W32
  f : W32
  g : W32
  h : W32
  deriving DecidableEq, Repr

/-- The initial value. -/
def sm3Init : Sm3Regs :=
  { a := 0x7380166f, b := 0x4914b2b9, c := 0x172442d7, d := 0xda8a0600, e := 0xa96f30bc, f := 0x163138aa, g := 0xe38dee4d,
    h := 0xb0fb0e4e }

/-- The expanded words, newest first, `n` more than the list has. -/
def sm3Expand : Nat → List W32 → List W32
  | 0, l => l
  | n + 1, l =>
    let w (i : Nat) : W32 := l.getD i 0
    sm3Expand n ((sm3P1 (w 15 ^^^ w 8 ^^^ (w 2).rotateLeft 15) ^^^ (w 12).rotateLeft 7 ^^^ w 5) :: l)

/-- Round `j` with its words W and W'. -/
def sm3Round (j : Nat) (w w' : W32) (v : Sm3Regs) : Sm3Regs :=
  let t : W32 := if j < 16 then 0x79cc4519 else 0x7a879d8a
  let s1 := (v.a.rotateLeft 12 + v.e + t.rotateLeft (j % 32)).rotateLeft 7
  let s2 := s1 ^^^ v.a.rotateLeft 12
  let t1 := sm3FF j v.a v.b v.c + v.d + s2 + w'
  let t2 := sm3GG j v.e v.f v.g + v.h + s1 + w
  { a := t1, b := v.a, c := v.b.rotateLeft 9, d := v.c, e := sm3P0 t2, f := v.e, g := v.f.rotateLeft 19, h := v.g }

/-- The rounds from `j` over words in order: W of the round is the first, W' pairs it with the fourth after it. -/
def sm3Rounds : Nat → Nat → List W32 → Sm3Regs → Sm3Regs
  | 0, _, _, v => v
  | n + 1, j, l, v => sm3Rounds n (j + 1) (l.drop 1) (sm3Round j (l.getD 0 0) (l.getD 0 0 ^^^ l.getD 4 0) v)

/-- One block of 16 words. -/
def sm3Block (v : Sm3Regs) (ws : List W32) : Sm3Regs :=
  let r := sm3Rounds 64 0 (sm3Expand 52 ws.reverse).reverse v
  { a := r.a ^^^ v.a, b := r.b ^^^ v.b, c := r.c ^^^ v.c, d := r.d ^^^ v.d, e := r.e ^^^ v.e, f := r.f ^^^ v.f,
    g := r.g ^^^ v.g, h := r.h ^^^ v.h }

/-- Words from bytes, the first byte highest. -/
def sm3Words : List Byte → List W32
  | a :: b :: c :: d :: r => BitVec.ofNat 32 (a.toNat * 2 ^ 24 + b.toNat * 2 ^ 16 + c.toNat * 2 ^ 8 + d.toNat) :: sm3Words r
  | _ => []

/-- The blocks of a padded message. -/
def sm3Blocks : Nat → List W32 → Sm3Regs → Sm3Regs
  | 0, _, v => v
  | n + 1, ws, v => sm3Blocks n (ws.drop 16) (sm3Block v (ws.take 16))

/-- The padding after a message of `n` bytes. -/
def sm3Pad (n : Nat) : List Byte :=
  0x80 :: (List.replicate ((119 - n % 64) % 64) 0 ++ ((upFrom 0 8).reverse.map fun i => BitVec.ofNat 8 (8 * n / 2 ^ (8 * i))))

/-- The bytes of a word, the highest first. -/
def sm3Out (w : W32) : List Nat := [w.toNat / 2 ^ 24, w.toNat / 2 ^ 16 % 256, w.toNat / 2 ^ 8 % 256, w.toNat % 256]

/-- SM3 of a byte string; byte k of the output in bits 8k + 7 to 8k (R413). -/
def sm3 (m : List Byte) : Digest :=
  let n := m.length
  let ws := sm3Words (m ++ sm3Pad n)
  let v := sm3Blocks (ws.length / 16) ws sm3Init
  BitVec.ofNat 256 (packBits 8 ([v.a, v.b, v.c, v.d, v.e, v.f, v.g, v.h].flatMap sm3Out))

end Sys2Proof.Machine
end

