-- ==== Sys2Proof/Machine/Bolrad.lean ====
section
/-! DEFINITION. Bolrad containers: whether one is canonical, and its function digest (R271 to R274, R277, R278, R281, R282). -/

namespace Sys2Proof.Machine

/-- The little-endian number in `n` bytes from offset `i` of a byte string; bytes beyond its end read 0 (R271). -/
def le (b : List Byte) (i n : Nat) : Nat := packBits 8 (((b.drop i).take n).map BitVec.toNat)

/-- Whether all of [lo, hi) of a byte string is zero. -/
def zeros (b : List Byte) (lo hi : Nat) : Bool := ((b.drop lo).take (hi - lo)).all fun x => x == 0

/-- The first multiple of 8 at or after a number. -/
def align8 (n : Nat) : Nat := (n + 7) / 8 * 8

/-- The tables of a container that operands refer to: the types of the registers, constants, instructions, imports. -/
structure Tables where
  types : List Nat
  consts : Nat
  code : Nat
  imports : Nat
  deriving DecidableEq, Repr

/-- How many virtual registers there are. -/
def Tables.regs (t : Tables) : Nat := t.types.length

/-- The type byte of the register that an operand word names; a constant has none. -/
def Tables.typeOf (t : Tables) (w : Nat) : Option Nat := if w / 2 ^ 30 = 0 then t.types[w % 2 ^ 30]? else none

/-- Whether an operand word of kind `k` is within its table (R277). -/
def Tables.has (t : Tables) (k w : Nat) : Bool :=
  let v := w % 2 ^ 30
  w / 2 ^ 30 == k &&
  (if k = 0 then v < t.regs else if k = 1 then v < t.consts else if k = 2 then v < t.code else v < t.imports)

/-- Whether an operand word is a source: a register or a constant. -/
def Tables.source (t : Tables) (w : Nat) : Bool := t.has 0 w || t.has 1 w

/-- An integer type code (R278). -/
def isI (t : Nat) : Bool := t ≤ 13

/-- A floating type code. -/
def isF (t : Nat) : Bool := 16 ≤ t && t ≤ 18

/-- A pointer type byte (R272). -/
def isPtr (t : Nat) : Bool := t == 32 || t == 33

/-- Any type byte of R272. -/
def isType (t : Nat) : Bool := isI t || isF t || (32 ≤ t && t ≤ 35)

/-- `d` destinations, then sources only, `n` operands in all. -/
def destsSrc (t : Tables) (d n : Nat) (ws : List Nat) : Bool := ws.length == n && (ws.take d).all (t.has 0) && (ws.drop d).all t.source

/-- One destination, then sources only. -/
def destSrc (t : Tables) (n : Nat) (ws : List Nat) : Bool := destsSrc t 1 n ws

/-- Results, a callee that a test accepts, then arguments (R278): at most 8 results, 8 scalar and 4 d256 arguments. -/
def callShape (t : Tables) (res : Nat) (callee : Nat → Bool) (ws : List Nat) : Bool :=
  let args := ws.drop (res + 1)
  let wide := args.countP fun w => t.typeOf w == some 34
  res ≤ 8 && res < ws.length && (ws.take res).all (t.has 0) && callee (ws.getD res 0) && args.all t.source && wide ≤ 4 &&
  args.length ≤ wide + 8

/-- The destinations and the operands of `intr` (R278, MOD 0 to 16), in native order: BARI BARA BARW CLAIM CWAIT FULFIL ABANDON UNPIN
CPEEK FSR FSX SENDM ENQ DEQ YIELD STOP TRAP. -/
def intrShapes : List (Nat × Nat) :=
  [(1, 3), (1, 2), (1, 2), (2, 3), (2, 3), (1, 3), (1, 2), (1, 2), (2, 3), (1, 1), (1, 2), (1, 2), (1, 2), (1, 2), (0, 0), (0, 0), (0, 1)]

/-- Whether an operation of R217 accepts a type, by codes: integers for `add`, signed and natural ones for the minima and maxima, the
floating types that its row lists, and any for the rest. -/
def atomAllows (op ty : Nat) : Bool :=
  if op = 0 then isI ty
  else if op = 1 || op = 2 then isI ty && ty % 2 == 0
  else if op = 3 || op = 4 then isI ty && ty % 2 == 1
  else if op = 5 || op = 7 || op = 8 then ty == 16 || ty == 18
  else if op = 6 then ty == 17
  else op ≤ 12

/-- Whether operands give the runs of `dot`: pointers into one space, and an integer register for their length (R279). -/
def runsOk (t : Tables) (pa pb n : Nat) : Bool :=
  match t.typeOf pa, t.typeOf pb, t.typeOf n with
  | some a, some b, some k => isPtr a && a == b && isI k
  | _, _, _ => false

/-- Whether the table of R278 allows an operation. -/
def opAllowed (t : Tables) (opc ty md : Nat) (ws : List Nat) : Bool :=
  let n := ws.length
  let none_ := ty == 0xFF
  match opc with
  | 0x01 | 0x02 | 0x03 | 0x05 | 0x0D | 0x0E => (isI ty || isF ty) && md == 0 && destSrc t 3 ws
  | 0x04 | 0x06 | 0x07 | 0x08 | 0x09 | 0x0A | 0x0B | 0x0C => isI ty && md == 0 && destSrc t 3 ws
  | 0x0F | 0x10 => isF ty && md == 0 && destSrc t 3 ws
  | 0x11 | 0x12 | 0x13 => isI ty && md == 0 && destSrc t 2 ws
  | 0x14 => (isI ty || isF ty) && md ≤ 3 && destSrc t 3 ws
  | 0x15 => isType ty && md == 0 && destSrc t 4 ws
  | 0x16 => ty == 18 && md == 0 && destSrc t 4 ws
  | 0x17 => isF ty && md == 0 && destSrc t 2 ws
  | 0x18 => (isI ty || isF ty) && destSrc t 2 ws &&
      md ≤ (if isI ty && ((t.typeOf (ws.getD 1 0)).map isI).getD true then 1 else 4)
  | 0x19 => (isI ty || isF ty || isPtr ty) && md == 0 && n == 2 && t.has 0 (ws.getD 0 0) && t.has 1 (ws.getD 1 0)
  | 0x1A => (isI ty || isF ty || isPtr ty) && md % 4 ≤ 2 && md / 4 % 8 ≤ 1 && md / 32 ≤ 3 && destSrc t 2 ws
  | 0x1B => (isI ty || isF ty || isPtr ty) && md % 4 ≤ 1 && (md / 4 % 8 == 0 || md / 4 % 8 == 2) && md / 32 ≤ 3 && n == 2 &&
      ws.all t.source
  | 0x1C => (isI ty || isF ty) && atomAllows (md % 16) ty && md < 32 && ((n == 2 && ws.all t.source) || destSrc t 3 ws)
  | 0x1D => (isI ty || isF ty) && md == 0 && destSrc t 4 ws
  | 0x1E => isPtr ty && md ≤ 12 && destSrc t 3 ws
  | 0x1F => isI ty && md ≤ 12 && destSrc t 3 ws
  | 0x20 => none_ && md % 4 ≤ 2 && md / 4 % 8 == 0 && md / 32 ≤ 3 && n == 0
  | 0x21 => none_ && md == 0 && n == 1 && t.has 2 (ws.getD 0 0)
  | 0x22 => none_ && md == 0 && n == 2 && t.source (ws.getD 0 0) && t.has 2 (ws.getD 1 0)
  | 0x23 => none_ && callShape t md (t.has 3) ws
  | 0x24 => none_ && callShape t md (fun w => t.typeOf w == some 34) ws
  | 0x25 => none_ && md == 0 && n ≤ 8 && ws.all t.source
  | 0x26 => none_ && callShape t md (t.has 3) ws
  | 0x27 => none_ && md == 0 && n == 0
  | 0x28 => ty == 18 && 16 ≤ md && md ≤ 18 && destSrc t 5 ws && runsOk t (ws.getD 1 0) (ws.getD 2 0) (ws.getD 3 0)
  | 0x29 => none_ && md ≤ 16 && destsSrc t (intrShapes.getD md (0, 0)).1 (intrShapes.getD md (0, 0)).2 ws
  | 0x2A => isType ty && md == 0 && destSrc t 2 ws
  | _ => false

/-- Whether `n` instructions fill a byte string exactly, each allowed (R277). -/
def scalarOk (t : Tables) : Nat → List Byte → Bool
  | 0, b => b.isEmpty
  | n + 1, b =>
    let k := le b 3 1
    let ws := (upFrom 0 k).map fun i => le b (4 + 4 * i) 4
    4 + 4 * k ≤ b.length && opAllowed t (le b 0 1) (le b 1 1) (le b 2 1) ws && scalarOk t n (b.drop (4 + 4 * k))

/-- Whether `n` loop records fill a byte string exactly (R281). -/
def loopsOk (t : Tables) : Nat → List Byte → Bool
  | 0, b => b.isEmpty
  | n + 1, b =>
    let d := le b 8 1
    let level (i : Nat) : Bool := t.source (le b (16 + 12 * i) 4) && t.source (le b (20 + 12 * i) 4) && le b (24 + 12 * i) 4 != 0
    16 + 12 * d ≤ b.length && 1 ≤ d && d ≤ 4 && le b 0 4 ≤ le b 4 4 && le b 4 4 ≤ t.code && isType (le b 9 1) &&
    le b 10 1 ≤ 1 && zeros b 11 16 && (upFrom 0 d).all level && loopsOk t n (b.drop (16 + 12 * d))

/-- Whether a tensor descriptor stands in 48 bytes (R282): its format is a copy format of R155. -/
def tensorOk (t : Tables) (b : List Byte) : Bool :=
  t.source (le b 0 4) && le b 4 1 < 64 && (Fmt.ofCode (BitVec.ofNat 6 (le b 4 1))).isSome && 1 ≤ le b 5 1 && le b 5 1 ≤ 4 && zeros b 6 8

/-- Whether CLEAREXP is an exponent of R84: in [-512, 511], as a 32-bit two's complement value (R282). -/
def clearExpOk (v : Nat) : Bool := v < 512 || 2 ^ 32 - 512 ≤ v

/-- Whether `n` tile records fill a byte string exactly (R282). -/
def tilesOk (t : Tables) : Nat → List Byte → Bool
  | 0, b => b.isEmpty
  | n + 1, b =>
    let op := le b 0 2
    let k := le b 16 4
    20 + 48 * k ≤ b.length && 1 ≤ op && op ≤ 6 && zeros b 2 4 && le b 4 4 ≤ le b 8 4 && le b 8 4 ≤ t.code &&
    (if op ≤ 2 then clearExpOk (le b 12 4) else le b 12 4 == 0) && (upFrom 0 k).all (fun i => tensorOk t ((b.drop (20 + 48 * i)).take 48)) &&
    tilesOk t n (b.drop (20 + 48 * k))

/-- A directory entry: kind, offset, length (R271). -/
structure Section where
  kind : Nat
  off : Nat
  len : Nat
  deriving DecidableEq, Repr

/-- The bytes of a section. -/
def Section.bytes (s : Section) (b : List Byte) : List Byte := (b.drop s.off).take s.len

/-- The directory of a container. -/
def directoryOf (b : List Byte) : List Section :=
  (upFrom 0 (le b 16 4)).map fun i => { kind := le b (32 + 16 * i) 4, off := le b (40 + 16 * i) 4, len := le b (44 + 16 * i) 4 }

/-- The first count of the section of a kind, or 0 where there is none. -/
def countOf (dir : List Section) (b : List Byte) (kind : Nat) : Nat :=
  match dir.find? fun s => s.kind == kind with
  | some s => le b s.off 4
  | none => 0

/-- The section of a kind, without its count; no bytes where there is none. -/
def sectionOf (dir : List Section) (b : List Byte) (kind : Nat) : List Byte :=
  match dir.find? fun s => s.kind == kind with
  | some s => (s.bytes b).drop 4
  | none => []

/-- The tables of a container. -/
def tablesOf (b : List Byte) : Tables :=
  let dir := directoryOf b
  { types := (sectionOf dir b 4).map BitVec.toNat, consts := countOf dir b 3, code := countOf dir b 5, imports := countOf dir b 1 }

/-- The contents of a section (R272). -/
def sectionOk (t : Tables) (s : Section) (b0 : List Byte) : Bool :=
  let b := s.bytes b0
  let n := le b 0 4
  match s.kind with
  | 1 => n ≤ 2 ^ 20 && zeros b 4 8 && s.len == 8 + 32 * n
  | 2 => s.len == 8 + 4 * (n + le b 4 4) && (upFrom 0 (n + le b 4 4)).all fun i => le b (8 + 4 * i) 4 < t.regs
  | 3 => zeros b 4 8 && s.len == 8 + 8 * n
  | 4 => n ≤ 2 ^ 24 && s.len == 4 + n && (b.drop 4).all fun x => isType x.toNat
  | 5 => 4 ≤ s.len && scalarOk t n (b.drop 4)
  | 6 => 4 ≤ s.len && loopsOk t n (b.drop 4)
  | 7 => 4 ≤ s.len && tilesOk t n (b.drop 4)
  | 8 => s.len == 6 + 8 * n &&
      (upFrom 0 n).all (fun i => le b (4 + 8 * i) 4 ≤ le b (8 + 8 * i) 4 && le b (8 + 8 * i) 4 ≤ t.code) &&
      [0, 16, 32, 48, 64].contains (le b (4 + 8 * n) 1) && [0, 8, 16, 32].contains (le b (5 + 8 * n) 1)
  | _ => false

/-- Sections one after another from `pos`, in ascending kind, with zero gaps; the answer is where the last one ends (R273). -/
def layoutEnd (b : List Byte) : Nat → Nat → List Section → Option Nat
  | _, pos, [] => some pos
  | kind, pos, s :: r =>
    if kind < s.kind && s.off == align8 pos && zeros b pos s.off && s.off + s.len ≤ b.length then
      layoutEnd b s.kind (s.off + s.len) r
    else none

/-- Whether a container is canonical (R273). -/
def canonical (b : List Byte) : Bool :=
  let n := le b 16 4
  let dir := directoryOf b
  let body := le b 8 8
  let has (k : Nat) : Bool := dir.any fun s => s.kind == k
  let t := tablesOf b
  32 + 16 * n ≤ b.length && le b 0 4 == 0x44524C42 && le b 4 2 == 1 && le b 6 2 / 4 == 1 && zeros b 20 32 &&
  (upFrom 0 n).all (fun i => zeros b (36 + 16 * i) (40 + 16 * i)) && layoutEnd b 0 (32 + 16 * n) dir == some body &&
  has 2 && has 4 && has 5 && has 7 == (le b 6 2 % 2 == 1) && has 6 == (le b 6 2 / 2 % 2 == 1) &&
  dir.all (fun s => sectionOk t s b) &&
  (b.length == body || (b.length == align8 body + 64 && zeros b body (align8 body)))

/-- The function digest of a container (R274). -/
def functionDigest (b : List Byte) : Digest := sm3 (b.take (le b 8 8))

end Sys2Proof.Machine
end

