-- ==== Sys2Proof/Machine/Lantern.lean ====
section
/-! DEFINITION. The lantern threads and how partitions share them (R293, R353). -/

namespace Sys2Proof.Machine

/-! Lantern threads and their queues (R15, R353). -/

/-- The strand number of thread `thr` of a tile's lantern core, position 31 (R293). -/
def lanternStrand (tile thr : Nat) : Nat := 4 * (32 * tile + 31) + thr

/-- The service weight L of a partition: 0 is taken as 1 (R354). -/
def State.weightL (s : State) (p : Nat) : Nat := max 1 (bitsOf (s.csrAt 0x1111 p).toNat 8 8)

/-- The partition of a context's work on a lantern thread. -/
def State.ctxPart (s : State) (ctx : Nat) : Nat := (s.ctx ctx).part

/-- The home tile of a probe (R331). -/
def State.probeHome (s : State) (w : WalkId) (size : Nat) : Nat := s.bucketOf w.ctx (w.page * 2 ^ 19) size % 96

/-- The first strand that waits for an object's cold text (R365). -/
def State.coldWaiter (s : State) (h : Nat) : Option Nat :=
  (s.strands.find? fun p => p.2.status == .codeWait && p.2.wait == .cold h).map Prod.fst

/-- Whose work on a lantern thread an event is, if it is any (R353): misses and probes for thread 0, code requests and cold text for
thread 2, which asks sources, checks what they answer, translates and installs. A probe whose home is the serving tile is read in place
(R334). -/
def State.eventPart (s : State) (tile thr : Nat) (e : Event) : Option Nat :=
  let reqIf (i : Nat) (test : CodeReq → Bool) : Option Nat :=
    match s.reqs[i]? with
    | some r => if thr = 2 && r.tile == tile && r.state != .closed && test r then some r.part else none
    | none => none
  let req (i : Nat) : Option Nat := reqIf i fun _ => true
  match e with
  | .tlbMiss n => if thr = 0 && tileOf n == tile then some (s.partOf n) else none
  | .tlbProbe w size => if thr = 0 && w.tile != tile && s.probeHome w size.toNat == tile then some (s.ctxPart w.ctx) else none
  | .codeInstall i => req i
  | .codeTranslationEnd i => req i
  | .codeSourceAnswer i _ => reqIf i fun r => r.answer.isSome
  | .codeSourceTimeLimit i => reqIf i fun r => r.state == .ask && !r.asked
  | .coldTextFetch h =>
    match s.coldWaiter h with
    | some n => if thr = 2 && tileOf n == tile then some (s.partOf n) else none
    | none => none
  | _ => none

/-- The partitions with work queued on a lantern thread (R353); for thread 1 traps, with the services that are under way or
interrupted. -/
def State.queued (s : State) (tile thr : Nat) : List Nat :=
  let t := s.tile tile
  let ps : List Nat :=
    if thr = 1 then t.trapQ.map s.partOf ++ t.shelved.map Prod.fst ++ t.serving.toList.map s.partOf
    else s.agenda.filterMap (s.eventPart tile thr)
  (upFrom 0 16).filter fun p => ps.contains p

/-- The slots of one frame (R353): 1 + ⌊(16 - n) × L / ΣL⌋ for each partition with work, the rest in rotation. -/
def State.frameSlots (s : State) (tile thr : Nat) : List Nat :=
  let ps := s.queued tile thr
  let n := ps.length
  if n = 0 then []
  else
    let sum := (ps.map s.weightL).foldl (· + ·) 0
    let own := ps.flatMap fun p => List.replicate (1 + (16 - n) * s.weightL p / sum) p
    own ++ (upFrom 0 (16 - own.length)).map fun i => ps.getD (i % n) 0

/-- Whose a slot of partition `p` is, when these partitions have work: its own, or that of the next of them (R353). -/
def slotGoes (p : Nat) (ps : List Nat) : Option Nat := if ps.contains p then some p else (ps.find? fun q => p < q).or ps.head?

/-- The partition that a lantern thread serves now, if a frame is under way. -/
def State.slotOwner (s : State) (tile thr : Nat) : Option Nat :=
  (SMap.look Slots.none (s.tile tile).slots thr).now.bind fun p => slotGoes p (s.queued tile thr)

/-- Whether it is a partition's slot on a lantern thread, on which it has work. -/
def State.hasSlot (s : State) (tile thr p : Nat) : Bool :=
  (SMap.look Slots.none (s.tile tile).slots thr).now.any fun q =>
    slotGoes q ((upFrom 0 16).filter fun k => k == p || (s.queued tile thr).contains k) == some p

/-- A slot begins: thread 1 takes up the work of its partition. -/
def State.beginSlot (s : State) (tile thr : Nat) (l : List Nat) : State :=
  let s1 := s.onTile tile fun t => { t with slots := SMap.put Slots.none t.slots thr { todo := l.drop 1, now := l.head? } }
  if l.isEmpty then s1
  else
    let s2 := s1.due [.lanternSlotBoundary tile thr]
    if thr = 1 then s2.dueOnce (.trapHandlerStart tile) else s2

/-- A frame begins, with its first slot: what is left of the last one is dropped (R353). -/
def State.startSlots (s : State) (tile thr : Nat) : State := s.beginSlot tile thr (s.frameSlots tile thr)

/-- A slot boundary: the next slot, or the next frame; with no work left there is none (R353). -/
def State.nextSlot (s : State) (tile thr : Nat) : State :=
  match (SMap.look Slots.none (s.tile tile).slots thr).todo with
  | [] => if (s.queued tile thr).isEmpty then s.beginSlot tile thr [] else s.due [.lanternFrameStart tile thr]
  | l => s.beginSlot tile thr l

/-- Work has been queued on a lantern thread: frames go on, if none is under way. -/
def State.wakeLantern (s : State) (tile thr : Nat) : State :=
  if SMap.look Slots.none (s.tile tile).slots thr = Slots.none then s.dueOnce (.lanternFrameStart tile thr) else s

/-- `LANTERN_FRAME_START`. R353: A lantern thread assigns its 16 slots among partitions. -/
def execLanternFrameStart (tile : Nat) (thr : Nat) (s : State) : Host.Outcome State Fault Refusal :=
  .next (s.startSlots tile thr)

/-- `LANTERN_SLOT_BOUNDARY`. R353: At a slot boundary the thread changes partition. -/
def execLanternSlotBoundary (tile : Nat) (thr : Nat) (s : State) : Host.Outcome State Fault Refusal :=
  .next (s.nextSlot tile thr)

end Sys2Proof.Machine
end

