-- ==== Sys2Proof/Machine/Sm2.lean ====
section
/-! DEFINITION. SM2 signatures, as GB/T 32918 publishes them with its recommended curve, SM3 and the signer identity of R361 (R361,
R397, R399, R400). PRESUMED: the spec names the standard. -/

namespace Sys2Proof.Machine

/-- The prime of the field. -/
def sm2P : Nat := 0xFFFFFFFEFFFFFFFFFFFFFFFFFFFFFFFFFFFFFFFF00000000FFFFFFFFFFFFFFFF

/-- The curve is y² = x³ + a x + b. -/
def sm2A : Nat := 0xFFFFFFFEFFFFFFFFFFFFFFFFFFFFFFFFFFFFFFFF00000000FFFFFFFFFFFFFFFC

/-- b. -/
def sm2B : Nat := 0x28E9FA9E9D9F5E344D5A9E4BCF6509A7F39789F515AB8F92DDBCBD414D940E93

/-- The order of the base point. -/
def sm2N : Nat := 0xFFFFFFFEFFFFFFFFFFFFFFFFFFFFFFFF7203DF6B21C6052B53BBF40939D54123

/-- The base point. -/
def sm2Gx : Nat := 0x32C4AE2C1F1981195F9904466A39C9948FE30BBFF2660BE1715A4589334C74C7

/-- Its y. -/
def sm2Gy : Nat := 0xBC3736A2F4F6779C59BDCEE36B692153D0A9877CC62A474002DF32E52139F0A0

/-- A point in Jacobian coordinates: x / z², y / z³; z is 0 at infinity. -/
structure EcPoint where
  x : Nat
  y : Nat
  z : Nat
  deriving DecidableEq, Repr

/-- The point at infinity. -/
def EcPoint.zero : EcPoint := { x := 1, y := 1, z := 0 }

/-- The difference of two residues. -/
def subMod (m a b : Nat) : Nat := (a + (m - b % m)) % m

/-- A power, by the `n` low bits of the exponent. -/
def powMod (m : Nat) : Nat → Nat → Nat → Nat
  | 0, _, _ => 1
  | n + 1, b, e =>
    let h := powMod m n (b * b % m) (e / 2)
    if e % 2 = 1 then h * b % m else h

/-- The inverse of a residue of a prime. -/
def invMod (m a : Nat) : Nat := powMod m 256 a (m - 2)

/-- Twice a point. -/
def EcPoint.double (p : EcPoint) : EcPoint :=
  let yy := p.y * p.y % sm2P
  let s := 4 * p.x * yy % sm2P
  let zz := p.z * p.z % sm2P
  let m := (3 * p.x * p.x + sm2A * (zz * zz % sm2P)) % sm2P
  let x := subMod sm2P (m * m % sm2P) (2 * s)
  { x := x, y := subMod sm2P (m * subMod sm2P s x % sm2P) (8 * (yy * yy)), z := 2 * p.y * p.z % sm2P }

/-- The sum of two points. -/
def EcPoint.add (p q : EcPoint) : EcPoint :=
  if p.z = 0 then q
  else if q.z = 0 then p
  else
    let pz := p.z * p.z % sm2P
    let qz := q.z * q.z % sm2P
    let u1 := p.x * qz % sm2P
    let s1 := p.y * q.z % sm2P * qz % sm2P
    let h := subMod sm2P (q.x * pz % sm2P) u1
    let r := subMod sm2P (q.y * p.z % sm2P * pz % sm2P) s1
    if h = 0 then (if r = 0 then p.double else EcPoint.zero)
    else
      let hh := h * h % sm2P
      let hhh := h * hh % sm2P
      let v := u1 * hh % sm2P
      let x := subMod sm2P (r * r % sm2P) (hhh + 2 * v)
      { x := x, y := subMod sm2P (r * subMod sm2P v x % sm2P) (s1 * hhh), z := h * p.z % sm2P * q.z % sm2P }

/-- A multiple of a point, by the `n` low bits of the factor. -/
def EcPoint.mul (p : EcPoint) : Nat → Nat → EcPoint
  | 0, _ => EcPoint.zero
  | n + 1, k =>
    let h := (EcPoint.mul p n (k / 2)).double
    if k % 2 = 1 then h.add p else h

/-- The coordinates of a point. -/
def EcPoint.affine (p : EcPoint) : Nat × Nat :=
  let i := invMod sm2P p.z
  let ii := i * i % sm2P
  (p.x * ii % sm2P, p.y * (ii * i % sm2P) % sm2P)

/-- The base point. -/
def sm2G : EcPoint := { x := sm2Gx, y := sm2Gy, z := 1 }

/-- The 32 bytes of a number, the most significant first. -/
def be32 (v : Nat) : List Byte := (upFrom 0 32).reverse.map fun i => BitVec.ofNat 8 (v / 2 ^ (8 * i))

/-- A digest as the number that the standard takes it for: its first byte is the most significant. -/
def digestNat (d : Digest) : Nat := (upFrom 0 32).foldl (fun v i => 256 * v + bitsOf d.toNat (8 * i) 8) 0

/-- The signer identity of the device: "JALWELL" (R361). -/
def signerId : List Byte := [0x4A, 0x41, 0x4C, 0x57, 0x45, 0x4C, 0x4C]

/-- Z of an identity and a public key. -/
def sm2Z (id : List Byte) (x y : Nat) : List Byte :=
  let d := sm3 ([BitVec.ofNat 8 (8 * id.length / 256), BitVec.ofNat 8 (8 * id.length)] ++ id ++ be32 sm2A ++ be32 sm2B ++ be32 sm2Gx ++
    be32 sm2Gy ++ be32 x ++ be32 y)
  (upFrom 0 32).map fun i => d.extractLsb' (8 * i) 8

/-- The number that is signed for a message. -/
def sm2Hash (id : List Byte) (x y : Nat) (msg : List Byte) : Nat := digestNat (sm3 (sm2Z id x y ++ msg))

/-- Whether numbers are an identity's signature of a message under a public key. -/
def sm2Check (id : List Byte) (x y : Nat) (msg : List Byte) (r s : Nat) : Bool :=
  let t := (r + s) % sm2N
  let p := ((sm2G.mul 256 s).add (EcPoint.mul { x := x, y := y, z := 1 } 256 t)).affine
  1 ≤ r && r < sm2N && 1 ≤ s && s < sm2N && t != 0 && (sm2Hash id x y msg + p.1) % sm2N == r

/-- Whether a signature of the device's identity verifies: key x and y, message, r and s (R361, R397). -/
def sm2Verify (x y : Digest) (msg : List Byte) (r s : Digest) : Bool := sm2Check signerId x.toNat y.toNat msg r.toNat s.toNat

/-- The public key of a private one. -/
def sm2Public (d : Nat) : Digest × Digest :=
  let p := (sm2G.mul 256 d).affine
  (BitVec.ofNat 256 p.1, BitVec.ofNat 256 p.2)

/-- The signature of a message by a private key with a nonce. -/
def sm2SignAs (id : List Byte) (d k : Nat) (msg : List Byte) : Nat × Nat :=
  let q := sm2Public d
  let r := (sm2Hash id q.1.toNat q.2.toNat msg + (sm2G.mul 256 k).affine.1) % sm2N
  (r, invMod sm2N (1 + d) * subMod sm2N k (r * d) % sm2N)

/-- The device's signature of a message by a private key with a nonce (R361, R363, R400). -/
def sm2Sign (d k : Nat) (msg : List Byte) : Digest × Digest :=
  let r := sm2SignAs signerId d k msg
  (BitVec.ofNat 256 r.1, BitVec.ofNat 256 r.2)

end Sys2Proof.Machine
end

