-- ==== Sys2Proof/Machine/Trust.lean ====
section
/-! DEFINITION. Native records and their acceptance: fields, trust and revocation lists, the eight checks (R358 to R363, R370,
R373). -/

namespace Sys2Proof.Machine

/-- The chip-model class of the package (R358). -/
def State.chipClass (s : State) : Nat := bitsOf (s.csrAt 0x1200 0).toNat 8 24

/-- The 64 bytes of a public key, x then y, the most significant byte first (R373). -/
def keyBytes (x y : Digest) : List Byte :=
  let be (v : Digest) : List Byte := (upFrom 0 32).reverse.map fun i => v.extractLsb' (8 * i) 8
  be x ++ be y

/-- SM3 of a public key's bytes: a SIGNER (R359). -/
def keyDigest (k : Digest × Digest) : Digest := sm3 (keyBytes k.1 k.2)

/-- The keys of a partition's trust list (R370). -/
def State.trustList (s : State) (p : Nat) : List (Digest × Digest) :=
  let base := (s.csrAt 0x1201 p).toNat % 2 ^ 44
  (upFrom 0 32).filterMap fun i =>
    let e := s.bits (base + 1024 * i) 1024
    if e.testBit 512 then some (BitVec.ofNat 256 e, BitVec.ofNat 256 (e / 2 ^ 256)) else none

/-- The package code key (R363). -/
def State.packageKey (s : State) : Digest × Digest := sm2Public (Config.codePrivate s.codeKey)

/-- The key that a signer names for a partition: of its trust list, or the package code key (R362, check 2). -/
def State.keyOf (s : State) (p : Nat) (signer : Digest) : Option (Digest × Digest) :=
  (s.trustList p ++ [s.packageKey]).find? fun k => keyDigest k == signer

/-- Whether a translator is on a partition's revocation list (R370). -/
def State.revoked (s : State) (p : Nat) (translator : Digest) : Bool :=
  let base := (s.csrAt 0x1202 p).toNat % 2 ^ 44
  translator != 0 && (upFrom 0 64).any fun i => BitVec.ofNat 256 (s.bits (base + 256 * i) 256) == translator

/-! The native record (R359, R360). -/

/-- A digest field of a record. -/
def recDigest (b : List Byte) (i : Nat) : Digest := BitVec.ofNat 256 (le b i 32)

/-- Words of hot text. -/
def recHot (b : List Byte) : Nat := le b 180 4

/-- Words of cold text. -/
def recCold (b : List Byte) : Nat := le b 184 4

/-- Where the import table begins. -/
def recImportAt (b : List Byte) : Nat := align8 (264 + 4 * recHot b)

/-- Where the region table begins. -/
def recRegionAt (b : List Byte) : Nat := align8 (recImportAt b + 32 * le b 188 4)

/-- Where the region table ends. -/
def recHotEnd (b : List Byte) : Nat := recRegionAt b + 24 * le b 192 4

/-- Where the cold text begins. -/
def recColdAt (b : List Byte) : Nat := align8 (recHotEnd b)

/-- The hot part: from the start of the hot text to the end of the region table. -/
def recHotPart (b : List Byte) : List Byte := (b.drop 264).take (recHotEnd b - 264)

/-- The cold text. -/
def recColdPart (b : List Byte) : List Byte := (b.drop (recColdAt b)).take (4 * recCold b)

/-- The imports. -/
def recImports (b : List Byte) : List Digest := (upFrom 0 (le b 188 4)).map fun i => recDigest b (recImportAt b + 32 * i)

/-- The region table. -/
def recRegions (b : List Byte) : List (Nat × BitVec 128) :=
  (upFrom 0 (le b 192 4)).map fun i =>
    (le b (recRegionAt b + 24 * i) 4, BitVec.ofNat 128 (le b (recRegionAt b + 24 * i + 8) 16))

/-- Whether numbers rise strictly. -/
def rising : List Nat → Bool
  | a :: b :: r => a < b && rising (b :: r)
  | _ => true

/-- Check 1 of R362: the form of R359 and R360. -/
def recForm (b : List Byte) : Bool :=
  let end_ := recColdAt b + 4 * recCold b
  264 ≤ b.length && le b 0 4 == 0x43524E4A && le b 4 2 == 1 && zeros b 6 8 && zeros b 14 16 && zeros b 196 200 &&
  le b 188 4 ≤ 2 ^ 20 && le b 176 4 < recHot b && end_ ≤ b.length &&
  zeros b (264 + 4 * recHot b) (recImportAt b) && zeros b (recImportAt b + 32 * le b 188 4) (recRegionAt b) &&
  zeros b (recHotEnd b) (recColdAt b) &&
  (upFrom 0 (le b 192 4)).all (fun i => zeros b (recRegionAt b + 24 * i + 4) (recRegionAt b + 24 * i + 8)) &&
  rising ((recRegions b).map (·.1))

/-- The number of the first check of R362 that a record fails for a request, if one does; check 3 is of a key and the record. -/
def State.recordTests (s : State) (b : List Byte) (digest : Digest) (p g v : Nat) (signed : Digest × Digest → List Byte → Bool) :
    Option Nat :=
  let signer := recDigest b 112
  let gn := le b 12 1
  let vn := le b 13 1
  if !recForm b then some 1
  else
    match s.keyOf p signer with
    | none => some 2
    | some k =>
      if !signed k b then some 3
      else if s.revoked p (recDigest b 144) then some 4
      else if le b 8 4 / 2 ^ 8 != s.chipClass then some 5
      else if recDigest b 16 != digest then some 6
      else if sm3 (recHotPart b) != recDigest b 48 then some 7
      else if !([16, 32, 48, 64].contains gn && [8, 16, 32].contains vn && gn ≤ g && vn ≤ v) then some 8
      else none

/-- Whether the signature of a record verifies under a key (R361). -/
def recSigned (k : Digest × Digest) (b : List Byte) : Bool := sm2Verify k.1 k.2 (b.take 200) (recDigest b 200) (recDigest b 232)

/-- The check of R362 that a record from a source fails. -/
def State.recordFails (s : State) (b : List Byte) (digest : Digest) (p g v : Nat) : Option Nat := s.recordTests b digest p g v recSigned

/-- Whether an installed object still passes R362 for a partition's lists (R364, R367). -/
def State.stillTrusted (s : State) (p : Nat) (o : Obj) : Bool := (s.keyOf p o.signer).isSome && !s.revoked p o.translator

/-! Sources (R368, R371, R388, R391). -/

/-- Entry `i` of a partition's code-source table, if valid (R371, R372). -/
def State.neighbour (s : State) (p i : Nat) : Option (BitVec 10) :=
  let e := bitsOf (s.csrAt (if i < 4 then 0x1203 else 0x1204) p).toNat (16 * (i % 4)) 16
  if e.testBit 15 then some (BitVec.ofNat 10 e) else none

/-- The active host port (R377). -/
def State.activePort (s : State) : Nat := bitsOf (s.csrAt 0x1300 0).toNat 1 1

/-- Whether a source, by its number, can be asked for a partition: 0 to 7 the table, 8 the host, 9 the shelf (R368). -/
def State.hasSource (s : State) (p i : Nat) : Bool :=
  if i < 8 then (s.neighbour p i).isSome
  else if i = 8 then (s.csrAt 0x1205 p).getLsbD 0 && s.csrAt 0x1332 0 != 0
  else (s.csrAt 0x1205 p).getLsbD 1 && (s.csrAt 0x1335 p).getLsbD 63

/-- The time limit of a source in cycles of `clk` (R368). -/
def sourceLimit (i : Nat) : Nat := if i < 8 then 16000000 else if i = 8 then 32000000 else 48000000

/-- Where entry `seq` of the host code ring stands (R391). -/
def State.hostEntry (s : State) (seq : Nat) : Nat := (s.csrAt 0x1332 0).toNat % 2 ^ 44 + 512 * (seq % 64)

/-- STATE of an entry of the host code ring. -/
def State.hostState (s : State) (seq : Nat) : Nat := s.bits (s.hostEntry seq + 312) 8

/-- Changes a code request. -/
def State.onReq (s : State) (i : Nat) (f : CodeReq → CodeReq) : State :=
  match s.reqs[i]? with
  | some r => { s with reqs := s.reqs.set i (f r) }
  | none => s

/-- A request asks the host: an entry of the host code ring, STATE last, and vector 62 (R388, R391). The place and size of the
answer buffer are firmware's: free values. -/
def State.askHost (s : State) (i : Nat) (r : CodeReq) : State :=
  let seq := (s.csrAt 0x1336 0).toNat
  let e := r.digest.toNat + 2 ^ 256 * s.chipClass + 2 ^ 280 * ((s.csrAt 0x1330 r.part).toNat % 2 ^ 16) + 2 ^ 296 * r.gbud +
    2 ^ 304 * r.vbud + 2 ^ 312 + 2 ^ 320 * (seq % 2 ^ 32) + 2 ^ 352 * (s.free.toNat / 2 ^ 32) + 2 ^ 384 * (s.free.toNat % 2 ^ 34)
  let s1 := ((s.poke (s.hostEntry seq) 512 e).csrPut 0x1336 0 (BitVec.ofNat 64 (seq + 1))).send (.msix s.activePort 62)
  s1.onReq i fun q => { q with seq := seq }

/-- Whether the next entry of the host code ring is still in use within its limit (R391). -/
def State.hostBusy (s : State) : Bool :=
  let seq := (s.csrAt 0x1336 0).toNat
  s.hostState seq != 0 &&
    s.reqs.any fun r => r.state == .ask && r.source == 8 && r.seq % 64 == seq % 64 && !s.past r.askedAt (sourceLimit 8)

/-- Thread 2 asks a source (R368, R388, R391). -/
def State.askSource (s : State) (i j : Nat) (r : CodeReq) : State :=
  let s1 := (s.onReq i fun q => { q with source := j, asked := true, askedAt := s.clk, bucket := none, answer := none }).dueOnce
    (.codeSourceTimeLimit i)
  if j < 8 then
    let p := (s.neighbour r.part j).getD 0
    s1.sendTo p (.code p r.digest s.chipClass ((s.csrAt 0x1330 r.part).toNat % 2 ^ 16) r.gbud r.vbud)
  else if j = 8 then s1.askHost i r
  else s1.send (.shelf (s.csrAt 0x1335 r.part) (64 * (r.digest.toNat % 2 ^ 14)) 64)

/-- A request goes to the first source at or after a number, which is asked in a slot of the request's partition (R353), or is done with
its sources (R368, R369). -/
def State.askFrom (s : State) (i k : Nat) : State :=
  match s.reqs[i]? with
  | none => s
  | some r =>
    match (upFrom k (10 - k)).find? fun j => s.hasSource r.part j with
    | some j =>
      if !s.hasSlot r.tile 2 r.part || (j = 8 && s.hostBusy) then
        ((s.onReq i fun q => { q with source := j, asked := false, answer := none }).dueOnce (.codeSourceTimeLimit i)).wakeLantern r.tile 2
      else s.askSource i j r
    | none =>
      if r.kept.isSome then (s.onReq i fun q => { q with source := 10, asked := false, answer := none, state := .translate }).due [.codeTranslationEnd i]
      else s.onReq i fun q => { q with source := 10, asked := false, answer := none, state := if r.strands.isEmpty then .closed else .failed }

/-- An installed object that another partition's request could use, once verified for it (R364). -/
def State.verifiable (s : State) (d : Digest) (p g v : Nat) : Option Nat :=
  (s.objs.find? fun q => q.2.digest == d && !q.2.retired && q.2.gneed ≤ g && q.2.vneed ≤ v && s.stillTrusted p q.2).map (·.1)

/-- A new request: an installed record that passes for the partition ends it at once (R364); otherwise its first source is
asked (R369). -/
def State.openReq (s : State) (r : CodeReq) : State :=
  let i := s.reqs.length
  let s1 : State := { s with reqs := s.reqs ++ [r] }
  match s.verifiable r.digest r.part r.gbud r.vbud with
  | some _ => (s1.onReq i fun q => { q with state := .install }).due [.codeInstall i]
  | none => (s1.askFrom i 0).wakeLantern r.tile 2

end Sys2Proof.Machine
end

