-- ==== Sys2Proof/Machine/Code.lean ====
section
/-! DEFINITION. Code by digest: the directory and the call cache (R287, R357), code waits (R135, R369), the region table and
register images (R127, R237), frame records (R129), regions (R125). -/

namespace Sys2Proof.Machine

/-- The budgets of a strand (R45). -/
def State.gBudget (s : State) (n : Nat) : Nat := if isLantern n then 64 else (s.strand n).bind.gbud

/-- The v budget of a strand. -/
def State.vBudget (s : State) (n : Nat) : Nat := if isLantern n then 32 else (s.strand n).bind.vbud

/-- Whether an installed object answers a call by digest (R287, R364). -/
def Obj.answers (o : Obj) (d : Digest) (part g v : Nat) : Bool :=
  o.digest == d && !o.retired && o.verified.getLsbD part && o.gneed ≤ g && o.vneed ≤ v

/-- The object that the directory gives: the largest GNEED within budget (R287). -/
def State.directory (s : State) (d : Digest) (part g v : Nat) : Option (Nat × Obj) :=
  (s.objs.filter fun p => p.2.answers d part g v).foldl
    (fun best p => match best with
      | none => some p
      | some q => if q.2.gneed < p.2.gneed then some p else some q) none

/-- What `Resolve` finds in the package (R135, R287, R357): the record that the directory would give. The call cache hits when it holds
that record for the partition, and a lookup that misses it fills it, which CODESTAT counts; what was used last stands first, and the
last of 256 gives way (DEDUCED, log 60: a cached record of smaller GNEED is no hit). -/
def State.resolveCode (s : State) (n : Nat) (d : Digest) : State × Option (Nat × Obj) :=
  let part := s.partOf n
  let found := s.directory d part (s.gBudget n) (s.vBudget n)
  let hit := found.any fun o => (s.tile (tileOf n)).calls.any fun e => e.digest == d && e.part == part && e.handle == o.1
  (s.onTile (tileOf n) fun t =>
    { t with calls := match found with
               | some o => let e : CallEntry := { digest := d, part := part, handle := o.1 }; (toFront e t.calls).take 256
               | none => t.calls,
             callMisses := if hit then t.callMisses else (t.callMisses + 1) % 2 ^ 40 }, found)

/-- The key of a strand's code request (R368). -/
def CodeReq.isFor (r : CodeReq) (d : Digest) (part g v : Nat) : Bool :=
  r.state != .closed && r.digest == d && r.part == part && r.gbud == g && r.vbud == v

/-- A request without joined strands that has nothing more to do closes (R369). -/
def State.closeReq (s : State) (i : Nat) : State :=
  s.onReq i fun r => if r.strands.isEmpty && r.state == .failed then { r with state := .closed } else r

/-- A strand leaves the requests it joined. -/
def State.leaveReqs (s : State) (n : Nat) : State :=
  let s1 : State := { s with reqs := s.reqs.map fun r => { r with strands := r.strands.filter (· != n) } }
  (upFrom 0 s1.reqs.length).foldl State.closeReq s1

/-- Adds a strand to the first request that a test accepts. -/
def joinReq (test : CodeReq → Bool) (n : Nat) : List CodeReq → List CodeReq
  | [] => []
  | r :: rs => if test r then { r with strands := r.strands ++ [n] } :: rs else r :: joinReq test n rs

/-- A strand that has been asked to stop stops where it comes to wait or to begin a region (R270, R300), without its lookahead shadow (R60,
rule 7). -/
def Strand.rests (t : Strand) : Strand :=
  if t.stopReq then { t with hold := .stopped, shadow := Shadow.none } else { t with hold := .none }

/-- A strand is out of the walks that it had joined: the access that missed is not made again (R334). -/
def State.leaveWalks (s : State) (n : Nat) : State :=
  s.onTile (tileOf n) fun t => { t with walks := t.walks.map fun w => { w with strands := w.strands.filter (· != n) } }

/-- The strand enters code wait with its `CALLD` not executed (R135), and joins or opens a request (R369). -/
def State.codeMiss (s : State) (n : Nat) (d : Digest) : State :=
  let part := s.partOf n
  let g := s.gBudget n
  let v := s.vBudget n
  let s1 := s.onStrand n fun t =>
    Strand.rests { t with status := .codeWait, wait := .code d, since := s.clk, shadow := Shadow.none }
  let s2 := s1.dueOnce (.codeWaitExpiry n)
  if s.reqs.any fun r => r.isFor d part g v then
    { s2 with reqs := joinReq (fun r => r.isFor d part g v) n s.reqs }
  else
    s2.openReq { digest := d, part := part, gbud := g, vbud := v, state := .ask, source := 0, askedAt := s.clk, seq := 0, bucket := none,
                 kept := none, record := none, tile := tileOf n, ctx := s.ctxOf n, strands := [n], asked := false, answer := none }

/-- Entering absent cold text: code wait at the instruction there, and a request for the text (R137, R365). What the instruction that
led there did is kept, a lookahead shadow among it. -/
def State.coldMiss (s : State) (n h : Nat) : State :=
  ((s.onStrand n fun t =>
    Strand.rests { t with status := .codeWait, wait := .cold h, since := s.clk }).dueOnce
    (.codeWaitExpiry n)).dueOnce (.coldTextFetch h)

/-- The word of an installed object's text at an offset, absent cold text as the cold area holds it (R365); what lies outside the text
reads 0. -/
def State.textWord (s : State) (h off : Nat) : CodeWord :=
  match s.obj h with
  | some o =>
    if o.textLen ≤ off then 0
    else if o.hotLen ≤ off && !o.coldHere then
      BitVec.ofNat 32 (packBits 8 ((upFrom 0 4).map fun i => (o.cold.getD (4 * (off - o.hotLen) + i) 0).toNat))
    else BitVec.ofNat 32 (s.bits (o.wordBit off) 32)
  | none => 0

/-! Regions and images. -/

/-- The full live-in mask within a strand's budgets, in the bit order of R237 (R127). -/
def State.fullMask (s : State) (n : Nat) : Nat :=
  (2 ^ s.gBudget n - 1) + 2 ^ 64 * (2 ^ s.vBudget n - 1) + 2 ^ 96 * (2 ^ 28 - 1)

/-- The live-in mask of a region entry: the region table's, or the full mask (R127). -/
def State.regionMask (s : State) (n handle off : Nat) : Nat :=
  match s.obj handle with
  | some o =>
    match o.regions.lookup off with
    | some m => m.toNat &&& s.fullMask n
    | none => s.fullMask n
  | none => s.fullMask n

/-- Item 8 of a walk register (R122). -/
def Walk.item8 (w : Walk) : Word :=
  if w.bound then BitVec.ofNat 64 (w.i0 + 2 ^ 20 * w.i1 + 2 ^ 40 * w.i2 + 2 ^ 60 * w.ends.toNat + 2 ^ 63) else 0

/-- The items of a walk register, 0 to 8 (R122). -/
def Walk.items (w : Walk) : List Word :=
  [w.addr, w.base, w.s0, w.s1, w.s2, BitVec.ofNat 64 w.n0, BitVec.ofNat 64 w.n1, BitVec.ofNat 64 w.n2, w.item8]

/-- The walk register that nine items describe (R237). -/
def Walk.ofItems (v : List Word) : Walk :=
  let i8 := (v.getD 8 0).toNat
  if i8 < 2 ^ 63 then Walk.unbound
  else { bound := true, base := v.getD 1 0, s0 := v.getD 2 0, s1 := v.getD 3 0, s2 := v.getD 4 0,
         n0 := (v.getD 5 0).toNat, n1 := (v.getD 6 0).toNat, n2 := (v.getD 7 0).toNat,
         i0 := i8 % 2 ^ 20, i1 := i8 / 2 ^ 20 % 2 ^ 20, i2 := i8 / 2 ^ 40 % 2 ^ 20,
         ends := BitVec.ofNat 3 (i8 / 2 ^ 60) }

/-- The containers of a vector. -/
def vecWords (v : Vec) : List Word := (upFrom 0 16).map fun i => v.extractLsb' (64 * i) 64

/-- A vector from its containers. -/
def vecOf (ws : List Word) : Vec := BitVec.ofNat 1024 (packBits 64 ((ws.take 16).map BitVec.toNat))

/-- The register that bit `i` of an image mask names, as its containers (R237). -/
def Regs.imagePart (r : Regs) (i : Nat) : List Word :=
  if i < 64 then [r.get i]
  else if i < 96 then vecWords (r.vec (i - 64))
  else if i < 104 then [r.get (64 + (i - 96))]
  else if i < 112 then vecWords (r.mask (i - 104))
  else if i < 120 then (r.walk (i - 112)).items
  else [r.get (88 + (i - 120))]

/-- How many containers bit `i` of a mask stands for (R237). -/
def partLen (i : Nat) : Nat :=
  if i < 64 then 1 else if i < 96 then 16 else if i < 104 then 1 else if i < 112 then 16 else if i < 120 then 9 else 1

/-- The registers of a mask, by bit, in ascending order. -/
def maskBits (m : Nat) : List Nat := (upFrom 0 124).filter fun i => m.testBit i

/-- `ImageBits` of R237. -/
def imageBits (m : Nat) : Nat := 128 + 64 * ((maskBits m).map partLen).foldl (· + ·) 0

/-- A register image (R237): the mask, then each register. -/
def Regs.image (r : Regs) (m : Nat) : List Word :=
  [BitVec.ofNat 64 m, BitVec.ofNat 64 (m / 2 ^ 64)] ++ (maskBits m).flatMap r.imagePart

/-- Sets the register that bit `i` of a mask names from its containers. -/
def Regs.setPart (r : Regs) (i : Nat) (ws : List Word) : Regs :=
  if i < 64 then r.set i (ws.getD 0 0)
  else if i < 96 then r.setVec (i - 64) (vecOf ws)
  else if i < 104 then r.set (64 + (i - 96)) (ws.getD 0 0)
  else if i < 112 then r.setMask (i - 104) (vecOf ws)
  else if i < 120 then { r with w := SMap.put Walk.unbound r.w (i - 112) (Walk.ofItems ws) }
  else r.set (88 + (i - 120)) (ws.getD 0 0)

/-- Loads the registers of an image. -/
def loadParts : List Nat → List Word → Regs → Regs
  | [], _, r => r
  | i :: is, ws, r => loadParts is (ws.drop (partLen i)) (r.setPart i (ws.take (partLen i)))

/-- The mask that an image begins with. -/
def imageMask (ws : List Word) : Nat := ((ws.getD 0 0).toNat + 2 ^ 64 * (ws.getD 1 0).toNat) % 2 ^ 124

/-- The registers of an image, over a base. -/
def Regs.loadImage (r : Regs) (ws : List Word) : Regs := loadParts (maskBits (imageMask ws)) (ws.drop 2) r

/-- The two containers of a saved loop (R129). -/
def Loop.saved (l : Loop) (r : Regs) : List Word :=
  [r.get (ctrCode l.ctr),
   BitVec.ofNat 64 (l.start % 2 ^ 24 + 2 ^ 24 * (l.stop % 2 ^ 24) + 2 ^ 48 * l.ctr.toNat +
     (match l.walk with | some w => 2 ^ 50 + 2 ^ 51 * w.toNat | none => 0))]

/-- The active loops as a frame record holds them, outermost first (R129). -/
def Regs.savedLoops (r : Regs) : List Word := r.loops.reverse.flatMap fun l => l.saved r

/-- A loop from its second container (R129). -/
def Loop.ofWord (v : Nat) : Loop :=
  { ctr := BitVec.ofNat 2 (v / 2 ^ 48), start := v % 2 ^ 24, stop := v / 2 ^ 24 % 2 ^ 24,
    walk := if v.testBit 50 then some (BitVec.ofNat 3 (v / 2 ^ 51)) else none, finished := false }

/-- Pairs of containers. -/
def pairs : List Word → List (Word × Word)
  | a :: b :: r => (a, b) :: pairs r
  | _ => []

/-- `LoopsValid` of R132, for saved loops outermost first. -/
def loopsValid (ws : List Word) : Bool :=
  let ps := pairs ws
  let ls := ps.map fun p => Loop.ofWord p.2.toNat
  ps.all (fun p => p.2.toNat / 2 ^ 54 == 0 && (p.2.toNat.testBit 50 || p.2.toNat / 2 ^ 51 % 8 == 0)) &&
  ls.all (fun l => l.start < l.stop) && (ls.map Loop.ctr).Nodup &&
  (ls.zip (ls.drop 1)).all (fun p => p.1.start ≤ p.2.start && p.2.stop ≤ p.1.stop)

/-- Clears every loop counter and leaves no loop active. -/
def Regs.noLoops (r : Regs) : Regs := { ((((r.set 88 0).set 89 0).set 90 0).set 91 0) with loops := [] }

/-- A loop read back from a record: finished if the loop as it stood had been finished in its pass (R119). -/
def Loop.resumed (held : List Loop) (l : Loop) : Loop :=
  { l with finished := l.walk.isSome && held.any fun h => h.ctr == l.ctr && h.start == l.start && h.stop == l.stop && h.finished }

/-- `RestoreLoops` of R132: other counters read zero. `held` are the loops as they stood when they were saved, with what walks have
done to them since (R119). -/
def Regs.restoreLoops (r : Regs) (ws : List Word) (held : List Loop) : Regs :=
  (pairs ws).foldl (fun a p =>
    let l := (Loop.ofWord p.2.toNat).resumed held
    { (a.set (ctrCode l.ctr) p.1) with loops := l :: a.loops }) r.noLoops

/-- The walk-terminated loops that a record at `p` holds (R119). -/
def Regs.heldAt (r : Regs) (p : Nat) : List Loop := (r.waiting.filter fun w => w.1 == p).map Prod.snd

/-- The active walk-terminated loops, which a record at `p` is to hold. -/
def Regs.holds (r : Regs) (p : Nat) : List (Nat × Loop) := (r.loops.filter fun l => l.walk.isSome).map fun l => (p, l)

/-- Execution goes on at a return point: when that is the end of the innermost loop, the call was the last instruction of its
body and the pass ends (R118). DEDUCED (log 11). -/
def Regs.arrive (r : Regs) (off : Nat) : Regs :=
  match r.loops with
  | [] => { r with off := off }
  | l :: rest => if l.stop = off then passEnd (l :: rest) { r with off := off } else { r with off := off }

/-! Frames and scratchpad. -/

/-- The lowest P address of a strand's stack span (R343). -/
def Binding.floor (b : Binding) (slot : Nat) : Int := (b.sp0 : Int) - (slot + 1) * b.stk

/-- A return token (R129). -/
def token (handle off loops : Nat) (first spill spawn : Bool) : Word :=
  BitVec.ofNat 64 (off % 2 ^ 24 + 2 ^ 24 * (handle % 2 ^ 24) + (if spawn then 2 ^ 48 else 0) + (if spill then 2 ^ 49 else 0) +
    (if first then 2 ^ 50 else 0) + 2 ^ 51 * loops)

/-- Writes containers at a P address of strand `n`'s core. -/
def State.padWrite (s : State) (n p : Nat) : List Word → State
  | [] => s
  | w :: ws => State.padWrite (s.merge (padBase (coreOf n) + p) 64 w.toNat) n (p + 64) ws

/-- Reads a container at a P address of strand `n`'s core. -/
def State.padRead (s : State) (n p : Nat) : Word := BitVec.ofNat 64 (s.peek n (padBase (coreOf n) + p) 64)

/-- Reads `k` containers. -/
def State.padReads (s : State) (n p : Nat) : Nat → List Word
  | 0 => []
  | k + 1 => s.padRead n p :: State.padReads s n (p + 64) k

/-- A P-space read of the machine's own, under R43 and R316. -/
def State.checkPad (s : State) (p len : Nat) : Res Unit := do
  let fail (cause : Nat) : Stop := .trap cause (BitVec.ofNat 64 p) (addrExtra .p .w64 0)
  ensure (p % 64 == 0) (fail 0x20)
  ensure (p + len ≤ s.me.bind.spSize) (fail 0x21)
  s.checkPoison .p .w64 0 p (padBase (coreOf s.cur) + p) len

/-- The store of a run of containers at a P address of strand `n`'s core, as a chunk buffers it. -/
def padStore (n p : Nat) (ws : List Word) : Store :=
  { pkg := none, bit := padBase (coreOf n) + p, bits := 64 * ws.length, val := packBits 64 (ws.map BitVec.toNat) }

/-- The acting strand stands at a region entry (R125): the region count is zero, a chunk and a checkpoint begin, the shadow
ends, and `VSEND` entries of bits 0, 3 and 4 are discarded (R183). A strand asked to stop stops here (R270, R300). -/
def Strand.atEntry (t : Strand) : Strand :=
  let u := ({ t with regs := { t.regs with count := 0, entryHandle := t.regs.handle, entryOff := t.regs.off, entryFull := false },
                     shadow := Shadow.none, vItp := [], vMsg := [], vRing := [] } : Strand).newChunk
  Strand.rests { u with entryClean := true }

/-- A frame record for a call from the acting strand (R129, R130). -/
def Regs.record (r : Regs) (retOff : Nat) (spawn : Bool) : List Word :=
  [token r.handle retOff r.loops.length false r.spillNext spawn, BitVec.ofNat 64 r.fp] ++ r.savedLoops

/-- The registers after a call to an object: frame, no loops, z0 and z1 zero, PC at the entry (R130). The record holds the loops. -/
def Regs.called (r : Regs) (base handle entry : Nat) : Regs :=
  let r1 := ((r.noLoops.set 101 (BitVec.ofNat 64 base)).set 100 (BitVec.ofNat 64 base)).zeroZ
  { r1 with spillNext := false, handle := handle, off := entry, waiting := r.holds base ++ r.waiting }

/-- The checks of a call's frame (R130): `room` is the bits that stand between sp and the record. The rule's pseudocode tests sp, and
`MISALIGNED` and `P_BOUNDS` name sp. DESIGN CHOICE (log 94): the rule states no address word. -/
def State.checkFrame (s : State) (room : Nat) : Res Nat := do
  let r := s.me.regs
  let fail (cause : Nat) : Stop := .trap cause (BitVec.ofNat 64 r.sp) (addrExtra .p .w64 0)
  ensure (r.sp % 64 == 0) (fail 0x20)
  ensure (r.sp ≤ s.me.bind.spSize) (fail 0x21)
  let base : Int := (r.sp : Int) - room - 128 - 128 * r.loops.length
  ensure (s.me.bind.floor (s.cur % 4) ≤ base && 0 ≤ base) (s.trap 0x61 0)
  .ok base.toNat

/-- The digest of an import: 256 zero bits name the object itself (R359). -/
def Obj.importDigest (o : Obj) (i : Nat) : Digest := if o.imports.getD i 0 = 0 then o.digest else o.imports.getD i 0

/-- The digest that `CALLD` or `SPAWND` names (R130). -/
def State.importOf (s : State) (i : Nat) : Res Digest :=
  match s.obj s.me.regs.handle with
  | some o => if i < o.imports.length then .ok (o.importDigest i) else .error (s.trap 0x42 0)
  | none => .error (s.trap 0x42 0)

/-- A call by digest, whose chunk has ended and whose own checks have passed (R130): a miss enters code wait with nothing
written. The record's stores are of the new chunk. -/
def State.call (s : State) (d : Digest) (base : Nat) : State :=
  match s.resolveCode s.cur d with
  | (s1, none) => s1.codeMiss s.cur d
  | (s1, some (h, o)) =>
    let r := s1.me.regs
    ((s1.liftCall h).onMe fun t =>
      (Strand.atEntry { t with regs := t.regs.called base h o.entry }).begins [padStore s.cur base (r.record (r.off + 1) false)]).issued

end Sys2Proof.Machine
end

