-- ==== Sys2Proof/Machine/Memory.lean ====
section
/-! DEFINITION. Loads, stores, gathers and scatters, I/O windows, fences and token waits: majors 0x20 to 0x2B, 0x2D and two
functions of 0x2C (R141 to R154). -/

namespace Sys2Proof.Machine

/-- A vector register holds `n` bits of memory with zeros above (R145). The descriptor of a masked store gives the lane
class and the active lanes (R146). -/
def laneBit (c : Cls) (i : Nat) : Nat := (addrOf i c).toNat

/-- Lanes of a class within `n` bits (R34, R145). -/
def lanesIn (c : Cls) (n : Nat) : Nat := if c.packed then n / 64 * c.perContainer else n / c.bits

/-- Whether lane `i` is active under a mask code (R146). -/
def State.active (s : State) (k : Nat) (i : Nat) : Bool := k == 0 || (s.me.regs.mask k).getLsbD i

/-- `VMEM_OPERAND` unless a descriptor keeps the map of R146; `idx` says that it is a gather's or scatter's. -/
def State.checkDesc (s : State) (d : Word) (idx : Bool) : Res Unit :=
  let v := d.toNat
  ensure (v / 2 ^ 13 == 0 && !v.testBit 3 &&
    (if idx then bitsOf v 4 4 == 0 && bitsOf v 8 5 < s.vBudget s.cur else bitsOf v 8 5 == 0 && bitsOf v 4 4 ≤ 8)) (s.trap 0x0A 0)

/-- The bits of a vector register that a store of `n` bits writes (R145): all, or those of the active lanes. -/
def State.laneMask (s : State) (d : Word) (n : Nat) : Nat :=
  let k := bitsOf d.toNat 0 3
  let c := (Cls.ofCode (BitVec.ofNat 4 (bitsOf d.toNat 4 4))).getD .w1
  if k = 0 then 2 ^ n - 1
  else ((upFrom 0 (lanesIn c n)).filter fun i => s.active k i).foldl (fun m i => setBitsOf m (laneBit c i) c.bits (2 ^ c.bits - 1)) 0

/-- A vector store (R145): the low bits of the register at the address, restricted to the active lanes of the descriptor; in one
container a masked store writes all its active lanes together. -/
def State.storeVec (s : State) (sp : Space) (am : BitVec 2) (w : Cls) (base : Sel) (v : VReg) (off : BitVec 48) (d : Word)
    (len : Nat) : Res State := do
  let (a, p) ← s.operand sp am w base off .nil 2
  s.checkDesc d false
  let mask := s.laneMask d w.bits
  let run (pkg : Option (BitVec 10)) (bit : Nat) : Store :=
    { pkg := pkg, bit := bit, bits := w.bits, val := (s.vec v).toNat % 2 ^ w.bits, mask := mask,
      site := (BitVec.ofNat 64 a, addrExtra sp w 0) }
  let st ← (match p with
    | .here bit => .ok (run none bit)
    | .far pkg bit => .ok (run (some pkg) bit)
    | .io _ _ => .error (.trap 0x28 (BitVec.ofNat 64 a) (addrExtra sp w 0)) : Res Store)
  let s1 ← s.buffer (if mask = 0 then [] else [st])
  .ok (((s1.hit s.cur sp a).updateBase am w base).done len)

/-- The lanes of a gather or scatter with their addresses (R147). -/
def State.laneAddrs (s : State) (w : Cls) (b : Nat) (d : Word) : List (Nat × Nat) :=
  let iv := (s.me.regs.vec (bitsOf d.toNat 8 5)).toNat
  ((upFrom 0 (min 32 (lanesIn w 1024))).filter fun i => s.active (bitsOf d.toNat 0 3) i).map fun i =>
    (i, wrapTo 64 (addrOf ((index b w : Int) + signed 32 (bitsOf iv (32 * i) 32)) w))

/-- The checks of the lanes in ascending order: the first failure traps, with the lane in bits 15:8 (R147). -/
def State.laneChecks (s : State) (w : Cls) (need : Rights) : List (Nat × Nat) → Res (List (Nat × Nat × Place))
  | [] => .ok []
  | (i, a) :: r => do
    let p ← s.access s.cur .g a w need i
    let ps ← State.laneChecks s w need r
    .ok ((i, a, p) :: ps)

/-- The base of a gather or scatter, its descriptor and its lanes, checked (R147). -/
def State.lanes (s : State) (w : Cls) (base : Sel) (off : BitVec 48) (d : Word) (need : Rights) :
    Res (List (Nat × Nat × Place)) := do
  let b := s.rd base + off.signExtend 64
  ensure (legal b.toNat w) (.trap 0x20 b (addrExtra .g w 0))
  s.checkDesc d true
  s.laneChecks w need (s.laneAddrs w b.toNat d)

/-- `DATA_POISON` at the first poisoned lane of a gather (R316). -/
def State.lanePoison (s : State) (w : Cls) : List (Nat × Nat × Place) → Res Unit
  | [] => .ok ()
  | (i, a, .here bit) :: r => do
    s.checkPoison .g w i a bit w.bits
    State.lanePoison s w r
  | _ :: r => State.lanePoison s w r

/-- The value of a gather's lanes in this package (R147). -/
def State.gathered (s : State) (w : Cls) (ls : List (Nat × Nat × Place)) : Nat :=
  ls.foldl (fun v l => match l.2.2 with
    | .here bit => setBitsOf v (laneBit w l.1) w.bits (s.peek s.cur bit w.bits)
    | _ => v) 0

/-- One lane of a gather that lies in another package: the request, and what will take its reply. -/
def State.farLane (v : VReg) (w : Cls) (snap : Regs) (s : State) (l : Nat × Nat × Place) : State :=
  match l.2.2 with
  | .far pkg bit =>
    (s.addPend { reg := 128 + v.toNat, kind := .load, sx := false, bits := w.bits, far := some (pkg, bit),
                 snap := some snap, part := some (laneBit w l.1), old := false,
                 site := some (BitVec.ofNat 64 l.2.1, addrExtra .g w l.1) }).sendTo pkg (.remoteLoad s.cur pkg bit w.bits)
  | _ => s

/-- The order of the lanes of a gather that lie in other packages (R219, R266). -/
def State.lanesOrder (s : State) (w : Cls) : List (Nat × Nat × Place) → Res Unit
  | [] => .ok ()
  | (_, _, .far pkg bit) :: r => do
    s.farOrder pkg bit w.bits
    State.lanesOrder s w r
  | _ :: r => State.lanesOrder s w r

/-- `VGATH` (R147). Lanes of other packages come by their replies, and the strand goes on when all have come. -/
def State.gather (s : State) (w : Cls) (base : Sel) (v : VReg) (la : BitVec 4) (off : BitVec 48) (d : Word) : Res State := do
  let ls ← s.lanes w base off d 1
  s.lanePoison w ls
  s.lanesOrder w ls
  let r := s.me.regs
  let x := s.gathered w ls
  let s1 := ls.foldl (fun a l => (match l.2.2 with | .here bit => a.noteRead bit w.bits | _ => a).hit s.cur .g l.2.1) s
  let s2 := s1.done 3
  let far := ls.any fun l => match l.2.2 with | .far _ _ => true | _ => false
  if far then
    let s3 := ls.foldl (State.farLane v w r) (s2.onRegs fun q => q.setVec v.toNat (BitVec.ofNat 1024 x))
    .ok (((s3.onMe fun t => { t with hold := .reply, since := s.clk }).openShadow (128 + v.toNat) la r.handle r.off).due
      [.remoteReplyTimeout s.cur])
  else
    .ok (((s2.addPend { reg := 128 + v.toNat, kind := .load, sx := false, bits := 1024, far := none, snap := none,
                        part := none, old := false }).openShadow (128 + v.toNat) la r.handle r.off).due
      [.loadReply s.cur (.value (BitVec.ofNat 1024 x))])

/-- `VSCAT` (R147): the lanes in ascending order, so the higher lane's value remains. -/
def State.scatter (s : State) (w : Cls) (base : Sel) (v : VReg) (off : BitVec 48) (d : Word) : Res State := do
  let ls ← s.lanes w base off d 2
  let x := (s.vec v).toNat
  let s1 ← s.buffer (ls.flatMap fun l =>
    let e := bitsOf x (laneBit w l.1) w.bits
    match l.2.2 with
    | .here bit => elemStores none bit w e
    | .far pkg bit => elemStores (some pkg) bit w e (BitVec.ofNat 64 l.2.1, addrExtra .g w l.1)
    | .io _ _ => [])
  .ok ((ls.foldl (fun a l => a.hit s.cur .g l.2.1) s1).done 3)

/-- The address of an I/O access, and the port and byte that it meets (R148). -/
def State.ioOperand (s : State) (am : BitVec 2) (w : Cls) (base : Sel) (off : BitVec 48) (idx : Sel) (need : Rights) :
    Res (Nat × Nat × Nat) := do
  let a ← s.effAddr .g am w base off idx
  s.checkAddr s.cur .g a w 0
  checkNext .g am w a
  let p ← s.resolve s.cur a w.bits need true w 0
  match p with
  | .io port byte => .ok (a, port, byte)
  | _ => .error (.trap 0x28 (BitVec.ofNat 64 a) (addrExtra .g w 0))

/-- `IOLD` (R149): one read, after every earlier `IOST` of the strand has been accepted; the strand goes on when the
completion returns. -/
def State.ioLoad (s : State) (am : BitVec 2) (w : Cls) (base d : Sel) (la : BitVec 4) (off : BitVec 48) (idx : Sel)
    (len : Nat) : Res State := do
  s.endChunk
  let (a, port, byte) ← s.ioOperand am w base off idx 1
  ensure (s.me.ioLeft == 0) (.hold .io)
  let r := s.me.regs
  let s1 := (((s.hit s.cur .g a).updateBase am w base).done len).addPend
    { reg := d.code.toNat, kind := .io, sx := false, bits := w.bits, far := none, snap := none, part := none,
      old := true, site := some (BitVec.ofNat 64 a, BitVec.ofNat 64 port) }
  let s2 := s1.once.onMe fun t => { t with hold := .ioReply, since := s.clk }
  .ok (((s2.openShadow d.code.toNat la r.handle r.off).send (.ioRead s.cur port byte (w.bits / 8))).due [.ioldTimeout s.cur])

/-- `IOST` (R149): one posted write, which its port accepts later. -/
def State.ioStore (s : State) (am : BitVec 2) (w : Cls) (base src : Sel) (off : BitVec 48) (idx : Sel) : Res State := do
  s.endChunk
  let (a, port, byte) ← s.ioOperand am w base off idx 2
  let v := (s.rd src).toNat % 2 ^ w.bits
  let s1 := (((s.hit s.cur .g a).updateBase am w base).done 3).once
  let s2 := s1.onMe fun t => { t with ioLeft := t.ioLeft + 1 }
  let q := SMap.look [] s2.posted port
  let s3 : State := { s2 with
    posted := SMap.put [] s2.posted port (q ++ [{ strand := s.cur, byte := byte, bytes := w.bits / 8, value := v }]) }
  .ok (s3.due [.iostAcceptance port])

/-- Whether an engine command of a strand has not completed (R150, R151). -/
def State.engineBusy (s : State) (n : Nat) : Bool :=
  (s.core (coreOf n)).copyQ.any (fun c => c.strand == n) || (s.core (coreOf n)).matQ.any (fun c => c.strand == n && !c.remote) ||
  (s.strand n).pend.any fun p => p.kind == .token

/-- A fence (R150): ends the chunk, and waits on what its form names. -/
def fenceOp (ok : State → Bool) (h : Hold) (s : State) : Host.Outcome State Fault Refusal :=
  s.answer do
    s.endChunk
    ensure (ok s) (.hold h)
    .ok (s.done 1)

/-- The registers of a strand's token mask that are in its budget (R154). -/
def State.tokenMask (s : State) (n : Nat) (m : Word) : List Nat := (upFrom 0 (s.gBudget n)).filter fun i => m.getLsbD i

/-- Whether a general register is pending on an engine command (R152). -/
def Strand.token (t : Strand) (i : Nat) : Bool := t.pend.any fun p => p.reg == i && (p.kind == .token || p.kind == .frame)

/-- `LDP`. R141: Scalar load from the core's scratchpad. -/
def execLdp (am : BitVec 2) (w : Cls) (base : Sel) (d : Sel) (la : BitVec 4) (s : State) : Host.Outcome State Fault Refusal :=
  s.answer (s.load .p am w base 0 .nil d.code.toNat false la 1)

/-- `LDP_EXT`. R141: LDP with extension word (offset, index, SX). -/
def execLdpExt (am : BitVec 2) (w : Cls) (base : Sel) (d : Sel) (la : BitVec 4) (off : BitVec 48) (idx : Sel) (sx : Bool) (s : State) : Host.Outcome State Fault Refusal :=
  s.answer (s.load .p am w base off idx d.code.toNat sx la 3)

/-- `LDG`. R141: Scalar load from global memory. -/
def execLdg (am : BitVec 2) (w : Cls) (base : Sel) (d : Sel) (la : BitVec 4) (s : State) : Host.Outcome State Fault Refusal :=
  s.answer (s.load .g am w base 0 .nil d.code.toNat false la 1)

/-- `LDG_EXT`. R141: LDG with extension word. -/
def execLdgExt (am : BitVec 2) (w : Cls) (base : Sel) (d : Sel) (la : BitVec 4) (off : BitVec 48) (idx : Sel) (sx : Bool) (s : State) : Host.Outcome State Fault Refusal :=
  s.answer (s.load .g am w base off idx d.code.toNat sx la 3)

/-- `LDK`. R141: Scalar load from launch constant space. -/
def execLdk (am : BitVec 2) (w : Cls) (base : Sel) (d : Sel) (la : BitVec 4) (s : State) : Host.Outcome State Fault Refusal :=
  s.answer (s.load .k am w base 0 .nil d.code.toNat false la 1)

/-- `LDK_EXT`. R141: LDK with extension word. -/
def execLdkExt (am : BitVec 2) (w : Cls) (base : Sel) (d : Sel) (la : BitVec 4) (off : BitVec 48) (idx : Sel) (sx : Bool) (s : State) : Host.Outcome State Fault Refusal :=
  s.answer (s.load .k am w base off idx d.code.toNat sx la 3)

/-- `STP`. R141: Scalar store to the scratchpad. -/
def execStp (am : BitVec 2) (w : Cls) (base : Sel) (src : Sel) (s : State) : Host.Outcome State Fault Refusal :=
  s.answer (s.store .p am w base src 0 .nil 1)

/-- `STP_EXT`. R141: STP with extension word. -/
def execStpExt (am : BitVec 2) (w : Cls) (base : Sel) (src : Sel) (off : BitVec 48) (idx : Sel) (s : State) : Host.Outcome State Fault Refusal :=
  s.answer (s.store .p am w base src off idx 3)

/-- `STG`. R141: Scalar store to global memory. -/
def execStg (am : BitVec 2) (w : Cls) (base : Sel) (src : Sel) (s : State) : Host.Outcome State Fault Refusal :=
  s.answer (s.store .g am w base src 0 .nil 1)

/-- `STG_EXT`. R141: STG with extension word. -/
def execStgExt (am : BitVec 2) (w : Cls) (base : Sel) (src : Sel) (off : BitVec 48) (idx : Sel) (s : State) : Host.Outcome State Fault Refusal :=
  s.answer (s.store .g am w base src off idx 3)

/-- `VLDP`. R145: Vector load from scratchpad. -/
def execVldp (am : BitVec 2) (w : Cls) (base : Sel) (v : VReg) (la : BitVec 4) (s : State) : Host.Outcome State Fault Refusal :=
  s.answer (s.load .p am w base 0 .nil (128 + v.toNat) false la 1)

/-- `VLDP_EXT`. R145: VLDP with extension word. -/
def execVldpExt (am : BitVec 2) (w : Cls) (base : Sel) (v : VReg) (la : BitVec 4) (off : BitVec 48) (s : State) : Host.Outcome State Fault Refusal :=
  s.answer (s.load .p am w base off .nil (128 + v.toNat) false la 3)

/-- `VLDG`. R145: Vector load from global memory. -/
def execVldg (am : BitVec 2) (w : Cls) (base : Sel) (v : VReg) (la : BitVec 4) (s : State) : Host.Outcome State Fault Refusal :=
  s.answer (s.load .g am w base 0 .nil (128 + v.toNat) false la 1)

/-- `VLDG_EXT`. R145: VLDG with extension word. -/
def execVldgExt (am : BitVec 2) (w : Cls) (base : Sel) (v : VReg) (la : BitVec 4) (off : BitVec 48) (s : State) : Host.Outcome State Fault Refusal :=
  s.answer (s.load .g am w base off .nil (128 + v.toNat) false la 3)

/-- `VSTP`. R145: Unmasked vector store to scratchpad. -/
def execVstp (am : BitVec 2) (w : Cls) (base : Sel) (v : VReg) (s : State) : Host.Outcome State Fault Refusal :=
  s.answer (s.storeVec .p am w base v 0 0 1)

/-- `VSTP_EXT`. R145: VSTP with descriptor operand. -/
def execVstpExt (am : BitVec 2) (w : Cls) (base : Sel) (v : VReg) (off : BitVec 48) (desc : Sel) (s : State) : Host.Outcome State Fault Refusal :=
  s.answer (s.storeVec .p am w base v off (s.rd desc) 3)

/-- `VSTG`. R145: Unmasked vector store to global memory. -/
def execVstg (am : BitVec 2) (w : Cls) (base : Sel) (v : VReg) (s : State) : Host.Outcome State Fault Refusal :=
  s.answer (s.storeVec .g am w base v 0 0 1)

/-- `VSTG_EXT`. R145: VSTG with descriptor operand. -/
def execVstgExt (am : BitVec 2) (w : Cls) (base : Sel) (v : VReg) (off : BitVec 48) (desc : Sel) (s : State) : Host.Outcome State Fault Refusal :=
  s.answer (s.storeVec .g am w base v off (s.rd desc) 3)

/-- `VGATH`. R147: Gathers up to 32 elements from global memory. -/
def execVgath (w : Cls) (base : Sel) (v : VReg) (la : BitVec 4) (off : BitVec 48) (desc : Sel) (s : State) : Host.Outcome State Fault Refusal :=
  s.answer (s.gather w base v la off (s.rd desc))

/-- `VSCAT`. R147: Scatters up to 32 elements to global memory. -/
def execVscat (w : Cls) (base : Sel) (v : VReg) (off : BitVec 48) (desc : Sel) (s : State) : Host.Outcome State Fault Refusal :=
  s.answer (s.scatter w base v off (s.rd desc))

/-- `IOLD`. R149: Reads once from an I/O page after earlier I/O stores. -/
def execIold (am : BitVec 2) (w : Cls) (base : Sel) (d : Sel) (la : BitVec 4) (s : State) : Host.Outcome State Fault Refusal :=
  s.answer (s.ioLoad am w base d la 0 .nil 1)

/-- `IOLD_EXT`. R149: IOLD with extension word. -/
def execIoldExt (am : BitVec 2) (w : Cls) (base : Sel) (d : Sel) (la : BitVec 4) (off : BitVec 48) (idx : Sel) (s : State) : Host.Outcome State Fault Refusal :=
  s.answer (s.ioLoad am w base d la off idx 3)

/-- `IOST`. R149: Sends one posted write to an I/O page. -/
def execIost (am : BitVec 2) (w : Cls) (base : Sel) (src : Sel) (off : BitVec 48) (idx : Sel) (s : State) : Host.Outcome State Fault Refusal :=
  s.answer (s.ioStore am w base src off idx)

/-- `FENCE`. R150: Ends the chunk and waits for its commit. -/
def execFence (s : State) : Host.Outcome State Fault Refusal :=
  fenceOp (fun _ => true) .commit s

/-- `FENCEP`. R150: FENCE that also waits for remote accesses. -/
def execFencep (s : State) : Host.Outcome State Fault Refusal :=
  fenceOp (fun t => t.farSettled t.cur) .remote s

/-- `FENCEIO`. R150: FENCE that also waits for I/O accesses. -/
def execFenceio (s : State) : Host.Outcome State Fault Refusal :=
  fenceOp (fun t => t.me.ioLeft == 0 && t.me.pend.all fun p => p.kind != .io) .io s

/-- `DRAIN`. R150: FENCE that also waits for all engine commands. -/
def execDrain (s : State) : Host.Outcome State Fault Refusal :=
  fenceOp (fun t => !t.engineBusy t.cur) .engines s

/-- `TPOLL`. R154: Reads a token without waiting. -/
def execTpoll (d : Sel) (t : BitVec 6) (la : BitVec 4) (s : State) : Host.Outcome State Fault Refusal :=
  let r := s.me.regs
  .next (((s.wr d (if s.me.pending t.toNat then 0 else r.get t.toNat)).done 3).openShadow d.code.toNat la r.handle r.off)

/-- `TWAITA`. R154: Waits for all or any of several tokens. -/
def execTwaita (d : Sel) (m : Sel) (any : Bool) (la : BitVec 4) (s : State) : Host.Outcome State Fault Refusal :=
  let r := s.me.regs
  let named := s.tokenMask s.cur (s.rd m)
  let free := named.filter fun i => !s.me.pending i
  s.answer do
    ensure (named.isEmpty || (if any then !free.isEmpty else named.all fun i => !s.me.token i)) (.hold (.tokens (s.rd m).toNat any))
    .ok (((s.wr d (BitVec.ofNat 64 (free.foldl (fun a i => a + 2 ^ i) 0))).done 3).openShadow d.code.toNat la r.handle r.off)

end Sys2Proof.Machine
end

