-- ==== Sys2Proof/Machine/Vector.lean ====
section
/-! DEFINITION. The vector unit: majors 0x30 to 0x34 but `VSEND` (R165 to R179). -/

namespace Sys2Proof.Machine

/-- Lane `i` of a register of type `t` (R165). -/
def lane (x : Nat) (t : Ty) (i : Nat) : Nat := bitsOf x (laneBit t.cls i) t.bits

/-- A register with lane `i` written. -/
def setLane (x : Nat) (t : Ty) (i v : Nat) : Nat := setBitsOf x (laneBit t.cls i) t.bits v

/-- The bits of a register that lie in no lane become 0 (R168). -/
def clearSpare (t : Ty) (x : Nat) : Nat :=
  if t.cls.packed then
    packBits 64 ((upFrom 0 16).map fun c => bitsOf x (64 * c) (t.bits * t.cls.perContainer))
  else x

/-- Writes the lanes of a list, gathering flags (R168). -/
def writeLanes (t : Ty) (f : Nat → Nat × Flags) : List Nat → Nat × Flags → Nat × Flags
  | [], r => r
  | i :: is, r => writeLanes t f is (setLane r.1 t i (f i).1, r.2 ||| (f i).2)

/-- The active lanes below `n` (R166). -/
def State.lanesOn (s : State) (k : MReg) (n : Nat) : List Nat := (upFrom 0 n).filter fun i => s.active k.toNat i

/-- Writes the listed lanes of vd, with flags and the traps of R79; the other lanes keep their values (R166, R168, R169). -/
def laneOp (t : Ty) (d : VReg) (on : List Nat) (f : Nat → Nat × Flags) (s : State) : Host.Outcome State Fault Refusal :=
  let r := writeLanes t f on ((s.vec d).toNat, 0)
  .next (s.withFlags r.2 fun u =>
    (u.onRegs fun q => q.setVec d.toNat (BitVec.ofNat 1024 (clearSpare t r.1))).done 3)

/-- An element-wise function of a and b, read before any lane is written (R168). -/
def laneBinary (t : Ty) (k : MReg) (d a b : VReg) (f : Nat → Nat → Nat × Flags) (s : State) :
    Host.Outcome State Fault Refusal :=
  laneOp t d (s.lanesOn k t.lanes) (fun i => f (lane (s.vec a).toNat t i) (lane (s.vec b).toNat t i)) s

/-- An element-wise function of a. -/
def laneUnary (t : Ty) (k : MReg) (d a : VReg) (f : Nat → Nat × Flags) (s : State) : Host.Outcome State Fault Refusal :=
  laneOp t d (s.lanesOn k t.lanes) (fun i => f (lane (s.vec a).toNat t i)) s

/-- An exact integer result, wrapped or clamped to the type: SA when the clamp acts (R169, R171, R172). -/
def intLane (t : Ty) (sat : Bool) (x : Int) : Nat × Flags :=
  if sat then (wrapTo t.bits (clampInt x t.lo t.hi), if clampInt x t.lo t.hi = x then 0 else fSA) else (wrapTo t.bits x, 0)

/-- An arithmetic function: exact on integers, rounded once on floats (R169, R171). -/
def arith (t : Ty) (rm : Rm) (fi : Int → Int → Int) (ff : FV → FV → FV × Flags) (p q : Nat) : Nat × Flags :=
  if t.isFloat then fpBin t rm ff p q else intLane t false (fi (t.int p) (t.int q))

/-- `VFMA` and `VFMS` (R171, R172). -/
def laneFma (t : Ty) (k : MReg) (d a b c : VReg) (rm : Rm) (sub : Bool) (s : State) : Host.Outcome State Fault Refusal :=
  laneOp t d (s.lanesOn k t.lanes) (fun i =>
    let p := lane (s.vec a).toNat t i
    let q := lane (s.vec b).toNat t i
    let r := lane (s.vec c).toNat t i
    if t.isFloat then fpFma t rm sub p q r
    else intLane t false (if sub then t.int r - t.int p * t.int q else t.int p * t.int q + t.int r)) s

/-- The smaller or larger of two lanes (R81, R171). -/
def laneMinMax (t : Ty) (isMax num : Bool) (p q : Nat) : Nat × Flags :=
  if t.isFloat then minMax t isMax num p q
  else (if isMax then (if t.int q < t.int p then p else q) else (if t.int p < t.int q then p else q), 0)

/-- `VABS` and `VNEG` (R172): a float keeps its value with the sign cleared or flipped, and a NaN becomes canonical. -/
def laneSign (t : Ty) (neg sat : Bool) (p : Nat) : Nat × Flags :=
  if t.isFloat then
    let x := unpack t p
    if x.isNan then (canonNan t, sigFlag x)
    else
      let m := p % 2 ^ (t.bits - 1)
      (if neg && p < 2 ^ (t.bits - 1) then m + 2 ^ (t.bits - 1) else m, 0)
  else intLane t sat (if neg then -(t.int p) else ((t.int p).natAbs : Int))

/-- A bitwise function of lanes (R173). -/
def laneBits (f : Nat → Nat → Nat) (p q : Nat) : Nat × Flags := (f p q, 0)

/-- The shift amount of lane `i` (R173). -/
def State.laneAmt (s : State) (t : Ty) (amt : VAmt) (i : Nat) : Nat :=
  match amt with
  | .reg b => lane (s.vec b).toNat t i
  | .imm n => n.toNat

/-- A shift (R173): an amount of the width or more shifts everything out. -/
def laneShift (t : Ty) (k : MReg) (d a : VReg) (amt : VAmt) (f : Nat → Nat → Nat) (s : State) : Host.Outcome State Fault Refusal :=
  laneOp t d (s.lanesOn k t.lanes) (fun i => (f (lane (s.vec a).toNat t i) (min t.bits (s.laneAmt t amt i)), 0)) s

/-- A comparison of lanes (R174): the test, and whether a quiet NaN raises no NV. -/
def laneCompare (t : Ty) (fi : Int → Int → Bool) (ff : FV → FV → Bool) (quiet : Bool) (p q : Nat) : Bool × Flags :=
  if t.isFloat then
    let x := unpack t p
    let y := unpack t q
    (ff x y, if x.sNan || y.sNan || (!quiet && (x.isNan || y.isNan)) then fNV else 0)
  else (fi (t.int p) (t.int q), 0)

/-- Writes a mask register: active lanes give their bit, every other bit is 0 (R174). -/
def maskOp (t : Ty) (k : MReg) (m : MReg) (a b : VReg) (f : Nat → Nat → Bool × Flags) (s : State) :
    Host.Outcome State Fault Refusal :=
  let r := (s.lanesOn k t.lanes).foldl (fun (acc : Nat × Flags) i =>
    let v := f (lane (s.vec a).toNat t i) (lane (s.vec b).toNat t i)
    (acc.1 + (if v.1 then 2 ^ i else 0), acc.2 ||| v.2)) (0, 0)
  .next (s.withFlags r.2 fun u => (u.onRegs fun q => q.setMask m.toNat (BitVec.ofNat 1024 r.1)).done 3)

/-- One conversion of lanes (R82, R176). -/
def laneConv (t t2 : Ty) (rm : Rm) (sat : Bool) (p : Nat) : Nat × Flags := convert t t2 rm sat p

/-- One level of the tree of R178: an absent child passes the other unchanged. -/
def treeLevel (f : Nat → Nat → Nat × Flags) : List (Option Nat) → List (Option Nat) × Flags
  | l :: r :: rest =>
    let m := treeLevel f rest
    match l, r with
    | some x, some y => (some (f x y).1 :: m.1, (f x y).2 ||| m.2)
    | some x, none => (some x :: m.1, m.2)
    | none, y => (y :: m.1, m.2)
  | xs => (xs, 0)

/-- The fixed tree of R178, at most `fuel` levels. -/
def treeReduce (f : Nat → Nat → Nat × Flags) : Nat → List (Option Nat) → Flags → Option Nat × Flags
  | 0, xs, fl => (xs.headD none, fl)
  | n + 1, xs, fl =>
    let r := treeLevel f xs
    treeReduce f n r.1 (fl ||| r.2)

/-- The least power of two that is not below the lane count (R178). -/
def leafCount (n : Nat) : Nat := if n ≤ 16 then 16 else if n ≤ 32 then 32 else if n ≤ 64 then 64 else if n ≤ 128 then 128
  else if n ≤ 256 then 256 else 512

/-- The 64-bit integer type of a signedness. -/
def wide (t : Ty) : Ty := if t.isSigned then .s64 else .n64

/-- A node of `VRED` (R177). -/
def redNode (t : Ty) (op : Nat) (rm : Rm) (sat : Bool) (p q : Nat) : Nat × Flags :=
  if t.isFloat then
    if op = 0 then fpBin .f32 rm (FV.add rm) p q
    else minMax .f32 (op == 2 || op == 4) (op == 3 || op == 4) p q
  else
    let w := wide t
    if op = 0 then intLane w sat (w.int p + w.int q)
    else if op = 1 then laneMinMax w false false p q
    else if op = 2 then laneMinMax w true false p q
    else if op = 5 then (p &&& q, 0)
    else if op = 6 then (p ||| q, 0)
    else (p ^^^ q, 0)

/-- A leaf of `VRED`: an integer lane extended to 64 bits, a float converted to f32 (R177). -/
def redLeaf (t : Ty) (p : Nat) : Nat × Flags :=
  if t.isFloat then convert .f32 t .ne true p else (wrapTo 64 (t.int p), 0)

/-- The value of `VRED`: 0 when no lane is active (R178). -/
def reduce (s : State) (t : Ty) (k : MReg) (op : Nat) (a : VReg) (rm : Rm) (sat : Bool) : Nat × Flags :=
  let x := (s.vec a).toNat
  let leaves := (upFrom 0 (leafCount t.lanes)).map fun i =>
    if i < t.lanes && s.active k.toNat i then some (redLeaf t (lane x t i)).1 else none
  let fl := (s.lanesOn k t.lanes).foldl (fun f i => f ||| (redLeaf t (lane x t i)).2) 0
  let r := treeReduce (redNode t op rm sat) 9 leaves fl
  (r.1.getD 0, r.2)

/-- The header of group `g` in a register (R74, R179): the scale, and the zero point under the code type. -/
def header (x : Nat) (g : Nat) (q : Ty) : FV × Int :=
  (unpack .f16 (bitsOf x (32 * g) 16), q.int (bitsOf x (32 * g + 16) q.bits))

/-- `VQNT` and `VQDIV` (R179). -/
def quantOp (f : FV → FV → Int → Ty → Rm → Nat × Flags) (t t2 : Ty) (k : MReg) (d a b : VReg) (g : Grp) (n : Nat) (rm : Rm)
    (s : State) : Host.Outcome State Fault Refusal :=
  let on := ((upFrom n (min t2.lanes (t.lanes - n))).filter fun j => s.active k.toNat j)
  laneOp t d on (fun j =>
    let h := header (s.vec b).toNat (j / g.size) t
    f (unpack t2 (lane (s.vec a).toNat t2 (j - n))) h.1 h.2 t rm) s

/-- `VADD`. R171: Lane-wise add. -/
def execVadd (t : Ty) (k : MReg) (d : VReg) (a : VReg) (b : VReg) (rm : Rm) (s : State) : Host.Outcome State Fault Refusal :=
  laneBinary t k d a b (arith t rm (· + ·) (FV.add rm)) s

/-- `VSUB`. R171: Lane-wise subtract. -/
def execVsub (t : Ty) (k : MReg) (d : VReg) (a : VReg) (b : VReg) (rm : Rm) (s : State) : Host.Outcome State Fault Refusal :=
  laneBinary t k d a b (arith t rm (· - ·) (fun x y => FV.add rm x y.neg)) s

/-- `VMUL`. R171: Lane-wise multiply. -/
def execVmul (t : Ty) (k : MReg) (d : VReg) (a : VReg) (b : VReg) (rm : Rm) (s : State) : Host.Outcome State Fault Refusal :=
  laneBinary t k d a b (arith t rm (· * ·) FV.mul) s

/-- `VFMA`. R171: Lane-wise fused multiply-add. -/
def execVfma (t : Ty) (k : MReg) (d : VReg) (a : VReg) (b : VReg) (c : VReg) (rm : Rm) (s : State) : Host.Outcome State Fault Refusal :=
  laneFma t k d a b c rm false s

/-- `VFMS`. R171: Lane-wise fused c minus a times b. -/
def execVfms (t : Ty) (k : MReg) (d : VReg) (a : VReg) (b : VReg) (c : VReg) (rm : Rm) (s : State) : Host.Outcome State Fault Refusal :=
  laneFma t k d a b c rm true s

/-- `VMIN`. R171: Lane-wise minimum. -/
def execVmin (t : Ty) (k : MReg) (d : VReg) (a : VReg) (b : VReg) (s : State) : Host.Outcome State Fault Refusal :=
  laneBinary t k d a b (laneMinMax t false false) s

/-- `VMAX`. R171: Lane-wise maximum. -/
def execVmax (t : Ty) (k : MReg) (d : VReg) (a : VReg) (b : VReg) (s : State) : Host.Outcome State Fault Refusal :=
  laneBinary t k d a b (laneMinMax t true false) s

/-- `VMINN`. R171: Lane-wise minimumNumber. -/
def execVminn (t : Ty) (k : MReg) (d : VReg) (a : VReg) (b : VReg) (s : State) : Host.Outcome State Fault Refusal :=
  laneBinary t k d a b (laneMinMax t false true) s

/-- `VMAXN`. R171: Lane-wise maximumNumber. -/
def execVmaxn (t : Ty) (k : MReg) (d : VReg) (a : VReg) (b : VReg) (s : State) : Host.Outcome State Fault Refusal :=
  laneBinary t k d a b (laneMinMax t true true) s

/-- `VABS`. R172: Lane-wise absolute value. -/
def execVabs (t : Ty) (k : MReg) (d : VReg) (a : VReg) (sat : Bool) (s : State) : Host.Outcome State Fault Refusal :=
  laneUnary t k d a (laneSign t false sat) s

/-- `VNEG`. R172: Lane-wise negation. -/
def execVneg (t : Ty) (k : MReg) (d : VReg) (a : VReg) (sat : Bool) (s : State) : Host.Outcome State Fault Refusal :=
  laneUnary t k d a (laneSign t true sat) s

/-- `VADDS`. R171: Lane-wise saturating add. -/
def execVadds (t : Ty) (k : MReg) (d : VReg) (a : VReg) (b : VReg) (s : State) : Host.Outcome State Fault Refusal :=
  laneBinary t k d a b (fun p q => intLane t true (t.int p + t.int q)) s

/-- `VSUBS`. R171: Lane-wise saturating subtract. -/
def execVsubs (t : Ty) (k : MReg) (d : VReg) (a : VReg) (b : VReg) (s : State) : Host.Outcome State Fault Refusal :=
  laneBinary t k d a b (fun p q => intLane t true (t.int p - t.int q)) s

/-- `VMULH`. R171: Lane-wise high product. -/
def execVmulh (t : Ty) (k : MReg) (d : VReg) (a : VReg) (b : VReg) (s : State) : Host.Outcome State Fault Refusal :=
  laneBinary t k d a b (fun p q => intLane t false (t.int p * t.int q / (2 ^ t.bits : Nat))) s

/-- `VAND`. R173: Lane-wise AND. -/
def execVand (t : Ty) (k : MReg) (d : VReg) (a : VReg) (b : VReg) (s : State) : Host.Outcome State Fault Refusal :=
  laneBinary t k d a b (laneBits (· &&& ·)) s

/-- `VOR`. R173: Lane-wise OR. -/
def execVor (t : Ty) (k : MReg) (d : VReg) (a : VReg) (b : VReg) (s : State) : Host.Outcome State Fault Refusal :=
  laneBinary t k d a b (laneBits (· ||| ·)) s

/-- `VXOR`. R173: Lane-wise XOR. -/
def execVxor (t : Ty) (k : MReg) (d : VReg) (a : VReg) (b : VReg) (s : State) : Host.Outcome State Fault Refusal :=
  laneBinary t k d a b (laneBits (· ^^^ ·)) s

/-- `VANDN`. R173: Lane-wise a AND NOT b. -/
def execVandn (t : Ty) (k : MReg) (d : VReg) (a : VReg) (b : VReg) (s : State) : Host.Outcome State Fault Refusal :=
  laneBinary t k d a b (laneBits fun p q => p &&& (2 ^ t.bits - 1 - q)) s

/-- `VNOT`. R173: Lane-wise NOT. -/
def execVnot (t : Ty) (k : MReg) (d : VReg) (a : VReg) (s : State) : Host.Outcome State Fault Refusal :=
  laneUnary t k d a (fun p => (2 ^ t.bits - 1 - p, 0)) s

/-- `VSHL`. R173: Lane-wise shift left. -/
def execVshl (t : Ty) (k : MReg) (d : VReg) (a : VReg) (amt : VAmt) (s : State) : Host.Outcome State Fault Refusal :=
  laneShift t k d a amt (fun p n => p * 2 ^ n % 2 ^ t.bits) s

/-- `VSHR`. R173: Lane-wise logical shift right. -/
def execVshr (t : Ty) (k : MReg) (d : VReg) (a : VReg) (amt : VAmt) (s : State) : Host.Outcome State Fault Refusal :=
  laneShift t k d a amt (fun p n => p / 2 ^ n) s

/-- `VSHRA`. R173: Lane-wise arithmetic shift right. -/
def execVshra (t : Ty) (k : MReg) (d : VReg) (a : VReg) (amt : VAmt) (s : State) : Host.Outcome State Fault Refusal :=
  laneShift t k d a amt (fun p n => wrapTo t.bits (signed t.bits p / (2 ^ n : Nat))) s

/-- `VCMPEQ`. R174: Lane-wise equality into a mask. -/
def execVcmpeq (t : Ty) (k : MReg) (m : MReg) (a : VReg) (b : VReg) (s : State) : Host.Outcome State Fault Refusal :=
  maskOp t k m a b (laneCompare t (· == ·) FV.eqNum true) s

/-- `VCMPNE`. R174: Lane-wise inequality into a mask. -/
def execVcmpne (t : Ty) (k : MReg) (m : MReg) (a : VReg) (b : VReg) (s : State) : Host.Outcome State Fault Refusal :=
  maskOp t k m a b (laneCompare t (· != ·) (fun x y => !x.eqNum y) true) s

/-- `VCMPLT`. R174: Lane-wise less-than into a mask. -/
def execVcmplt (t : Ty) (k : MReg) (m : MReg) (a : VReg) (b : VReg) (s : State) : Host.Outcome State Fault Refusal :=
  maskOp t k m a b (laneCompare t (fun x y => x < y) FV.ltNum false) s

/-- `VCMPLE`. R174: Lane-wise less-or-equal into a mask. -/
def execVcmple (t : Ty) (k : MReg) (m : MReg) (a : VReg) (b : VReg) (s : State) : Host.Outcome State Fault Refusal :=
  maskOp t k m a b (laneCompare t (fun x y => x ≤ y) (fun x y => x.ltNum y || x.eqNum y) false) s

/-- `VSEL`. R174: Selects lanes of a or b by mask. -/
def execVsel (t : Ty) (k : MReg) (d : VReg) (a : VReg) (b : VReg) (s : State) : Host.Outcome State Fault Refusal :=
  laneOp t d (upFrom 0 t.lanes) (fun i => (lane (s.vec (if s.active k.toNat i then a else b)).toNat t i, 0)) s

/-- `VCLASS`. R174: Lane-wise floating class bits. -/
def execVclass (t : Ty) (k : MReg) (d : VReg) (a : VReg) (s : State) : Host.Outcome State Fault Refusal :=
  laneUnary t k d a (fun p => (fclassBits t p, 0)) s

/-- `VSHUF`. R175: Permutes lanes by an index vector. -/
def execVshuf (t : Ty) (t2 : Ty) (k : MReg) (d : VReg) (a : VReg) (b : VReg) (s : State) : Host.Outcome State Fault Refusal :=
  laneOp t d (s.lanesOn k t.lanes) (fun i =>
    let j := lane (s.vec b).toNat t2 i
    (if j < t.lanes then lane (s.vec a).toNat t j else 0, 0)) s

/-- `VBCAST`. R175: Broadcasts a scalar to all lanes. -/
def execVbcast (t : Ty) (k : MReg) (d : VReg) (s : Sel) (st : State) : Host.Outcome State Fault Refusal :=
  laneOp t d (st.lanesOn k t.lanes) (fun _ => ((st.rd s).toNat % 2 ^ t.bits, 0)) st

/-- `VSLIDE`. R175: Slides lanes across two sources. -/
def execVslide (t : Ty) (k : MReg) (d : VReg) (a : VReg) (b : VReg) (n : BitVec 11) (s : State) : Host.Outcome State Fault Refusal :=
  laneOp t d (s.lanesOn k t.lanes) (fun i =>
    let j := i + n.toNat
    (if j < t.lanes then lane (s.vec a).toNat t j else lane (s.vec b).toNat t (j - t.lanes), 0)) s

/-- `VIDX`. R175: Writes s + i into lane i. -/
def execVidx (t : Ty) (k : MReg) (d : VReg) (s : Sel) (st : State) : Host.Outcome State Fault Refusal :=
  laneOp t d (st.lanesOn k t.lanes) (fun i => (((st.rd s).toNat + i) % 2 ^ t.bits, 0)) st

/-- `VMOVS`. R175: Moves one lane to a scalar. -/
def execVmovs (t : Ty) (d : Sel) (a : VReg) (n : BitVec 11) (s : State) : Host.Outcome State Fault Refusal :=
  .next (s.result d (BitVec.ofNat 64 (widen t (lane (s.vec a).toNat t n.toNat))) 3)

/-- `VMOVV`. R175: Writes a scalar into one lane. -/
def execVmovv (t : Ty) (d : VReg) (s : Sel) (n : BitVec 11) (st : State) : Host.Outcome State Fault Refusal :=
  laneOp t d [n.toNat] (fun _ => ((st.rd s).toNat % 2 ^ t.bits, 0)) st

/-- `VPACK`. R176: Narrows integer lanes into part of the destination. -/
def execVpack (t : Ty) (t2 : Ty) (k : MReg) (d : VReg) (a : VReg) (n : BitVec 11) (sat : Bool) (s : State) : Host.Outcome State Fault Refusal :=
  laneOp t d ((upFrom n.toNat (min t2.lanes (t.lanes - n.toNat))).filter fun j => s.active k.toNat j)
    (fun j => laneConv t t2 .ne sat (lane (s.vec a).toNat t2 (j - n.toNat))) s

/-- `VUNPK`. R176: Widens integer lanes from part of the source. -/
def execVunpk (t : Ty) (t2 : Ty) (k : MReg) (d : VReg) (a : VReg) (n : BitVec 11) (sat : Bool) (s : State) : Host.Outcome State Fault Refusal :=
  laneOp t d (s.lanesOn k t.lanes) (fun i =>
    if n.toNat + i < t2.lanes then laneConv t t2 .ne sat (lane (s.vec a).toNat t2 (n.toNat + i)) else (0, 0)) s

/-- `VRED`. R177: Reduces active lanes by a fixed tree into a scalar. -/
def execVred (t : Ty) (k : MReg) (op : BitVec 4) (d : Sel) (a : VReg) (rm : Rm) (sat : Bool) (s : State) : Host.Outcome State Fault Refusal :=
  let r := reduce s t k op.toNat a rm sat
  .next (s.withFlags r.2 fun u => u.result d (BitVec.ofNat 64 r.1) 3)

/-- `VCVT`. R176: Converts lanes between any two lane types. -/
def execVcvt (t : Ty) (t2 : Ty) (k : MReg) (d : VReg) (a : VReg) (b : VReg) (n : BitVec 11) (rm : Rm) (sat : Bool) (s : State) : Host.Outcome State Fault Refusal :=
  laneOp t d (s.lanesOn k t.lanes) (fun i =>
    let j := n.toNat + i
    if j < t2.lanes then laneConv t t2 rm sat (lane (s.vec a).toNat t2 j)
    else if j < 2 * t2.lanes then laneConv t t2 rm sat (lane (s.vec b).toNat t2 (j - t2.lanes))
    else (0, 0)) s

/-- `VQNT`. R179: Quantises lanes by reciprocal with group headers. -/
def execVqnt (t : Ty) (t2 : Ty) (k : MReg) (d : VReg) (a : VReg) (b : VReg) (g : Grp) (n : BitVec 11) (rm : Rm) (s : State) : Host.Outcome State Fault Refusal :=
  quantOp quantRecip t t2 k d a b g n.toNat rm s

/-- `VQDIV`. R179: Quantises lanes by exact division. -/
def execVqdiv (t : Ty) (t2 : Ty) (k : MReg) (d : VReg) (a : VReg) (b : VReg) (g : Grp) (n : BitVec 11) (rm : Rm) (s : State) : Host.Outcome State Fault Refusal :=
  quantOp quantDiv t t2 k d a b g n.toNat rm s

/-- `VDQNT`. R179: Dequantises code lanes to floating. -/
def execVdqnt (t : Ty) (t2 : Ty) (k : MReg) (d : VReg) (a : VReg) (b : VReg) (g : Grp) (n : BitVec 11) (rm : Rm) (s : State) : Host.Outcome State Fault Refusal :=
  laneOp t d (s.lanesOn k t.lanes) (fun i =>
    let j := n.toNat + i
    let h := header (s.vec b).toNat (j / g.size) t2
    if j < t2.lanes then dequantise t rm true h.1 (t2.int (lane (s.vec a).toNat t2 j)) h.2 else (0, 0)) s

end Sys2Proof.Machine
end

