-- ==== Sys2Proof/Machine/Interp.lean ====
section
/-! DEFINITION. `VSEND`, the table-interpolation engine and the mask instructions: majors 0x34 FN8 5, 0x35, 0x36 (R180 to
R188). -/

namespace Sys2Proof.Machine

/-- Whether a queue among bits 0, 3 and 4 that a consumer mask names is full (R180, R181). -/
def Strand.queueFull (t : Strand) (cons : BitVec 5) : Bool :=
  (cons.getLsbD 0 && 2 ≤ t.vItp.length) || (cons.getLsbD 3 && 1 ≤ t.vMsg.length) || (cons.getLsbD 4 && 1 ≤ t.vRing.length)

/-- The checks of `VSEND` at issue (R181, R182): the bit-2 address, a destination under R157, then the queues that trap. -/
def State.vsendCheck (s : State) (a : VReg) (cons : BitVec 5) (sp : Bool) (x : Sel) : Res Sending := do
  let va := (s.rd x).toNat
  let space : Space := if sp then .g else .p
  let place ← (if cons.getLsbD 2 then (s.access s.cur space va .w1024 2 2).map some else .ok none : Res (Option Place))
  ensure (!s.me.queueFull cons) (s.trap 0x0C 1)
  .ok { data := s.vec a, cons := cons, va := va, place := place }

/-- The seven steps of R187 each round once into f32 and raise flags. -/
def step32 (op : FV → FV → FV × Flags) (x y : FV) : FV × Flags :=
  let v := op x y
  let r := roundTo .f32 .ne true v.1
  (unpack .f32 r.1, v.2 ||| r.2 ||| sigFlag x ||| sigFlag y)

/-- A 32-bit field of a table image, as f32. -/
def tableF (img bit : Nat) : FV := unpack .f32 (bitsOf img bit 32)

/-- The segments of a table image (R184). -/
def tableSegs (img : Nat) : Nat := bitsOf img 64 8 + 1

/-- The bits of a table image with `n` segments (R184). -/
def tableBits (n : Nat) : Nat := 128 + 128 * n

/-- The start of segment `k`. -/
def segStart (img k : Nat) : FV := tableF img (128 + 128 * k)

/-- The segment of x (R186). -/
def segmentOf (img : Nat) (x : FV) : Nat :=
  let n := tableSegs img
  if img.testBit 72 then
    (((upFrom 0 n).filter fun k => (segStart img k).ltNum x || (segStart img k).eqNum x).getLast?).getD 0
  else
    let t := (step32 FV.mul (step32 (FV.add .ne) x (tableF img 0).neg).1 (tableF img 32)).1
    match t with
    | .nan _ => 0
    | .inf neg => if neg then 0 else n - 1
    | .fin neg a b => (clampInt (roundInt .dn neg a b).1 0 (n - 1)).toNat

/-- One lane of `VITP` (R186, R187). -/
def interpolate (img : Nat) (t : Ty) (rm : Rm) (x : FV) : Nat × Flags :=
  let k := segmentOf img x
  let c0 := tableF img (128 + 128 * k + 32)
  let c1 := tableF img (192 + 128 * k)
  let c2 := tableF img (192 + 128 * k + 32)
  let u := step32 (FV.add .ne) x (segStart img k).neg
  let p1 := step32 FV.mul c1 u.1
  let u2 := step32 FV.mul u.1 u.1
  let p2 := step32 FV.mul c2 u2.1
  let s1 := step32 (FV.add .ne) c0 p1.1
  let r := step32 (FV.add .ne) s1.1 p2.1
  let o := roundTo t rm true r.1
  if x.isNan then (canonNan t, u.2 ||| p1.2 ||| u2.2 ||| p2.2 ||| s1.2 ||| r.2)
  else (o.1, u.2 ||| p1.2 ||| u2.2 ||| p2.2 ||| s1.2 ||| r.2 ||| o.2)

/-- The source of `VITP`: a register, or the next entry of the interpolation input (R180, R186), which the chunk gives back if it
aborts (log 84). -/
def State.vitpSource (s : State) (x : VIn) : Res (Nat × State) :=
  match x with
  | .reg a => .ok ((s.vec a).toNat, s)
  | .vin =>
    match s.me.vItp with
    | [] => .error (s.trap 0x0C 2)
    | v :: vs => .ok (v.toNat, s.onMe fun t => { t with vItp := vs, chunk := { t.chunk with taken := t.chunk.taken ++ [v] } })

/-- `VITP` (R186): an enabled trap leaves the queue as it stood (R189). With QIN = 1 an empty table traps before an empty queue
(log 84). -/
def State.vitp (s : State) (t t2 : Ty) (k : MReg) (d : VReg) (x : VIn) (tbl : BitVec 2) (rm : Rm) : Res State :=
  match SMap.look none (s.core (coreOf s.cur)).tables tbl.toNat with
  | none => .error (s.trap 0x0B 2)
  | some img => do
    let (v, s1) ← s.vitpSource x
    let r := writeLanes t (fun i => interpolate img t rm (unpack t2 (lane v t2 i))) (s.lanesOn k t.lanes) ((s.vec d).toNat, 0)
    match enabledCause s.me.regs.fps r.2 with
    | some _ => .ok (s.withFlags r.2 id)
    | none => .ok (((s1.raiseFlags r.2).onRegs fun q => q.setVec d.toNat (BitVec.ofNat 1024 (clearSpare t r.1))).done 3)

/-- The interpolation engine, among the units of a core that an instruction can find occupied (R170): the divide unit is 0, the vector
unit 1. -/
def interpUnit : Nat := 2

/-- `TLOAD` (R185): the header through the strand's own loads, which a window write can race (log 15), the segments by the engine from the
scratchpad, where a poisoned one empties the table and is logged (R316, R319). DESIGN CHOICE (log 84): the engine does not see what the
strand has stored and not committed, and the record of a fault names class w64 and the address s of the whole image. -/
def State.tload (s : State) (tbl : BitVec 2) (p : Nat) : Res State := do
  let fail (cause : Nat) : Stop := .trap cause (BitVec.ofNat 64 p) (addrExtra .p .w64 0)
  ensure (p % 64 == 0) (fail 0x20)
  s.checkPad p 128
  let bit := padBase (coreOf s.cur) + p
  let h := s.ownPeek s.cur bit 128
  let n := tableBits (tableSegs h)
  ensure (p + n ≤ s.me.bind.spSize) (fail 0x21)
  ensure (h / 2 ^ 73 == 0) (s.trap 0x0B 1)
  let img := setBitsOf (s.bits bit n) 0 128 h
  let bad := s.poisonIn (bit + 128) (n - 128)
  let s1 := s.onCore (coreOf s.cur) fun c =>
    { c with tables := SMap.put none c.tables tbl.toNat (if bad.isSome then none else some img) }
  let s2 := match bad with
    | some b => s1.logError 1 2 (s1.unitOfBit b) (some (s1.ctxOf s.cur)) (some (tileOf s.cur)) (windowWord s.pkg b) none 0
    | none => s1
  .ok ((s2.done 3).occupy (coreOf s.cur) interpUnit (2 + (tableSegs h + 3) / 4))

/-- A mask result (R188). -/
def maskResult (d : MReg) (v : Vec) (s : State) : Host.Outcome State Fault Refusal :=
  .next ((s.onRegs fun r => r.setMask d.toNat v).done 3)

/-- `VSEND`. R180: Sends a vector register to local consumers. -/
def execVsend (a : VReg) (cons : BitVec 5) (sp : Bool) (s : Sel) (st : State) : Host.Outcome State Fault Refusal :=
  st.answer do
    st.endChunk
    let v ← st.vsendCheck a cons sp s
    .ok (((if cons.getLsbD 2 then st.hit st.cur (if sp then .g else .p) v.va else st).onMe fun t => { t with sending := some v, hold := .vsend cons.toNat }).due [.vsendPlacement st.cur])

/-- `VITP`. R186: Evaluates a piecewise quadratic table per lane. -/
def execVitp (t : Ty) (t2 : Ty) (k : MReg) (d : VReg) (x : VIn) (tbl : BitVec 2) (rm : Rm) (s : State) : Host.Outcome State Fault Refusal :=
  s.answer (s.vitp t t2 k d x tbl rm)

/-- `TLOAD`. R185: Loads an interpolation table image. -/
def execTload (tbl : BitVec 2) (s : Sel) (st : State) : Host.Outcome State Fault Refusal :=
  st.answer (st.tload tbl (st.rd s).toNat)

/-- `MAND`. R188: Mask AND. -/
def execMand (d : MReg) (a : MReg) (b : MReg) (s : State) : Host.Outcome State Fault Refusal :=
  maskResult d ((s.me.regs.mask a.toNat) &&& (s.me.regs.mask b.toNat)) s

/-- `MOR`. R188: Mask OR. -/
def execMor (d : MReg) (a : MReg) (b : MReg) (s : State) : Host.Outcome State Fault Refusal :=
  maskResult d ((s.me.regs.mask a.toNat) ||| (s.me.regs.mask b.toNat)) s

/-- `MXOR`. R188: Mask XOR. -/
def execMxor (d : MReg) (a : MReg) (b : MReg) (s : State) : Host.Outcome State Fault Refusal :=
  maskResult d ((s.me.regs.mask a.toNat) ^^^ (s.me.regs.mask b.toNat)) s

/-- `MNOT`. R188: Mask NOT. -/
def execMnot (d : MReg) (a : MReg) (s : State) : Host.Outcome State Fault Refusal :=
  maskResult d (~~~(s.me.regs.mask a.toNat)) s

/-- `MCNT`. R188: Counts set mask bits below the lane count. -/
def execMcnt (t : Ty) (d : Sel) (a : MReg) (s : State) : Host.Outcome State Fault Refusal :=
  .next (s.result d (BitVec.ofNat 64 (countBits (s.me.regs.mask a.toNat).toNat t.lanes)) 3)

/-- `MFIRST`. R188: Finds the lowest set mask bit. -/
def execMfirst (t : Ty) (d : Sel) (a : MReg) (s : State) : Host.Outcome State Fault Refusal :=
  let i := lowestBit (s.me.regs.mask a.toNat).toNat 0 t.lanes
  .next (s.result d (if i < t.lanes then BitVec.ofNat 64 i else BitVec.allOnes 64) 3)

/-- `MSETG`. R188: Writes 64 bits of a mask from a scalar. -/
def execMsetg (d : MReg) (s : Sel) (p : BitVec 4) (st : State) : Host.Outcome State Fault Refusal :=
  maskResult d (BitVec.ofNat 1024 (setBitsOf (st.me.regs.mask d.toNat).toNat (64 * p.toNat) 64 (st.rd s).toNat)) st

/-- `MSETG_PRE`. R188: Writes a prefix mask of U(s) ones. -/
def execMsetgPre (d : MReg) (s : Sel) (st : State) : Host.Outcome State Fault Refusal :=
  maskResult d (BitVec.ofNat 1024 (2 ^ min (st.rd s).toNat 1024 - 1)) st

/-- `MGETG`. R188: Reads 64 bits of a mask. -/
def execMgetg (d : Sel) (a : MReg) (p : BitVec 4) (s : State) : Host.Outcome State Fault Refusal :=
  .next (s.result d ((s.me.regs.mask a.toNat).extractLsb' (64 * p.toNat) 64) 3)

end Sys2Proof.Machine
end

