-- ==== Sys2Proof/Machine/Order.lean ====
section
/-! DEFINITION. Chunks at the arbiter, and the replies of loads (R142, R143, R261 to R263). -/

namespace Sys2Proof.Machine

/-- The arbiter decides the chunk of a strand that waits for it (R262): an abort, a wait for the atomic that it follows (R219) or
under another's grant (R263), or the commit. -/
def State.arbitrate (s : State) (n : Nat) (again : Event) : State :=
  if (s.strand n).hold != .commit then s
  else if (s.strand n).chunk.conflict.isSome then s.abort n
  else if s.chunkBarred n then s.due [again]
  else s.commit n

/-- The value that a load's reply writes (R141). -/
def Pend.value (p : Pend) (v : Nat) : Nat := extend p.sx p.bits (v % 2 ^ p.bits)

/-- Gives up an access whose reply does not come, or is a trap (R318, R231, R310): the registers go back to those before the
instruction, what issued after an atomic is discarded with its uncommitted chunk, and the cause is delivered there, with the
access as its place where a memory or window fault names one. A trap of a later instruction that is under way is not taken. A task
that has ended waits for the access no longer. -/
def State.giveUp (s : State) (n cause : Nat) (extra : Word) : State :=
  match (s.strand n).pend.findSome? fun p => p.snap.map fun r => (r, p.site) with
  | some (r, site) =>
    if (s.strand n).status = .ending then s.onStrand n fun t => { t with pend := t.pend.filter fun p => p.snap.isNone }
    else
      let q := r.set 105 ((s.strand n).regs.get 105)
      let s1 := (s.onStrand n fun t =>
        { t with regs := q, chunk := if t.chunk.waits || t.chunk.fresh then Chunk.start q else t.chunk, hold := .none,
                 shadow := Shadow.none, wait := .none,
                 pend := t.pend.filter fun p => p.snap.isNone && (p.old || !t.chunk.waits) }).dropLoads s n
      let word := (s1.textWord r.handle r.off).setWidth 64
      let w := if cause = 0xC2 || cause = 0x63 then (word, extra) else site.getD (word, extra)
      State.raise { s1 with agenda := s1.agenda.filter fun e => !e.delivers n } n cause w.1 w.2
  | none => s

/-- Whether an operation on an item of another package is under way at a ring entry (R253). -/
def State.ringBusy (s : State) (bit : Nat) : Bool :=
  s.strands.any fun p => p.2.pend.any fun q => q.ring == some (bit + 128) || q.ring == some (bit + 192)

/-- A ring operation whose item lies in another package has been performed there (R253, R318): HEAD or TAIL rises, and the strand acquires
(R219). -/
def State.ringMoved (s : State) (n : Nat) (p : Pend) : State :=
  match p.ring with
  | none => s
  | some b => (s.merge b 64 ((s.bits b 64 + 1) % 2 ^ 64)).onStrand n Strand.acquires

/-- A pending access whose home has found a poisoned container, which begins at bit `k` there: its trap names that container (R316). -/
def Pend.poisonAt (k : Nat) (p : Pend) : Pend :=
  match p.far, p.site with
  | some f, some x => { p with site := some (BitVec.ofNat 64 (x.1.toNat / 64 * 64 + k - f.2 / 64 * 64), x.2) }
  | _, _ => p

/-- The home of an access of strand `n` has found poison (R316): `DATA_POISON`, with the container's first bit. -/
def State.poisoned (s : State) (n k : Nat) (p : Pend) : State :=
  (s.onStrand n fun t => { t with pend := t.pend.map fun q => if q = p then p.poisonAt k else q }).giveUp n 0xC0 0

/-- The reply of the oldest load of a strand (R142, R266). -/
def State.loadReply (s : State) (n : Nat) (r : Reply) : State :=
  match (s.strand n).pend.find? fun p => p.kind == .load with
  | some p =>
    match r with
    | .value v => (s.settle n p (p.value v.toNat)).ringMoved n p
    | .failed c => s.giveUp n c.toNat 0
    | .poisoned k => s.poisoned n k p
    | _ => s
  | none => s

/-- `CHUNK_COMMIT`. R262: The arbiter places a chunk in the package order or aborts it. -/
def execChunkCommit (n : Nat) (s : State) : Host.Outcome State Fault Refusal :=
  .next (s.arbitrate n (.chunkCommit n))

/-- `SOLO_COMMIT_GRANT`. R263: After eight aborts a chunk replays under an exclusive grant. -/
def execSoloCommitGrant (n : Nat) (s : State) : Host.Outcome State Fault Refusal :=
  if (s.strand n).hold != .grant then .next s
  else .next (match s.granted with
    | none => s.grant n
    | some _ => if s.grantQ.contains n then s else { s with grantQ := s.grantQ ++ [n] })

/-- `CHUNK_INSTRUCTION_LIMIT`. R261: The 256th instruction ends the chunk. -/
def execChunkInstructionLimit (n : Nat) (s : State) : Host.Outcome State Fault Refusal :=
  .next (s.arbitrate n (.chunkInstructionLimit n))

/-- `STORE_BUFFER_FULL`. R143: A store needing a 65th entry ends the chunk and waits for commit. -/
def execStoreBufferFull (n : Nat) (s : State) : Host.Outcome State Fault Refusal :=
  .next (s.arbitrate n (.storeBufferFull n))

/-- `LOAD_REPLY`. R142: Load data returns and writes the pending destination. -/
def execLoadReply (n : Nat) (data : Reply) (s : State) : Host.Outcome State Fault Refusal :=
  .next (s.loadReply n data)

end Sys2Proof.Machine
end

