-- ==== Sys2Proof/Machine/Task.lean ====
section
/-! DEFINITION. Tasks: their start and end, returns, lazy spawn, ranges, ring operations and messages, majors 0x1E and 0x1F
with `RET` and `STOP` (R237 to R257, R290, R291), and the search for work (R239). -/

namespace Sys2Proof.Machine

/-! Frames, cells and records. -/

/-- The initial sp of strand `n` (R343). -/
def State.stackTop (s : State) (n : Nat) : Nat := (s.strand n).bind.sp0 - n % 4 * (s.strand n).bind.stk

/-- The first frame of strand `n`'s task (R129). -/
def State.firstFp (s : State) (n : Nat) : Nat := s.stackTop n - Cls.w128.bits

/-- Writes the first frame record of strand `n` (R129). -/
def State.firstFrame (s : State) (n : Nat) : State := s.padWrite n (s.firstFp n) [token 0 0 0 true false false, 0]

/-- The window address of a P address of a core of this package (R27). -/
def State.winAddr (s : State) (c p : Nat) : Word := BitVec.ofNat 64 (padStart + s.pkg.toNat * 2 ^ 33 + c * 2 ^ 21 + p)

/-- A container of the task record at a G address of a context (R238). -/
def State.record (s : State) (ctx tp i : Nat) : Word :=
  match s.ctxBit ctx (tp + 64 * i) with
  | some b => BitVec.ofNat 64 (s.bits b 64)
  | none => 0

/-- A container of strand `n`'s own task record. -/
def State.myRecord (s : State) (n i : Nat) : Word := s.record (s.strand n).bind.ctx ((s.strand n).regs.get 102).toNat i

/-- The bit that a join cell's window address names (R241): a scratchpad window of this package. -/
def State.cellBit (s : State) (a : Word) : Option Nat :=
  if padStart ≤ a.toNat && a.toNat < 2 ^ 57 && winPkg a.toNat == s.pkg then some (winBit a.toNat) else none

/-- One addition to a join cell (R241, R249). -/
def State.addCell (s : State) (a : Word) (v : Word) : State :=
  match s.cellBit a with
  | some b => s.poke b 64 (BitVec.ofNat 64 (s.bits b 64) + v).toNat
  | none => s

/-- The value of a join cell. -/
def State.cell (s : State) (a : Word) : Nat :=
  match s.cellBit a with
  | some b => s.bits b 64
  | none => 0

/-- Whether the current frame of strand `n` is the first frame of a stolen continuation (R241). -/
def State.stolenFrame (s : State) (n : Nat) : Bool :=
  (s.strand n).kind == .continuation && (s.strand n).regs.fp == s.firstFp n

/-- The window address of the join cell of strand `n`'s current frame (R241). -/
def State.joinCell (s : State) (n : Nat) : Word :=
  if s.stolenFrame n then s.myRecord n 2
  else s.winAddr (coreOf n) (BitVec.ofNat 64 (s.strand n).regs.fp - 64).toNat

/-! Continuation blocks (R242). -/

/-- The P address that means none in a block's header. -/
def noBlock : Nat := 0x1FFFFF

/-- A header container (R242). -/
def wickHeader (lit stolen : Bool) (older newer : Nat) : Word :=
  BitVec.ofNat 64 ((if lit then 2 ^ 63 else 0) + (if stolen then 2 ^ 62 else 0) + 2 ^ 21 * (older % 2 ^ 21) + newer % 2 ^ 21)

/-- Replaces NEWER in the header of strand `n`'s block at `p`. -/
def State.setNewer (s : State) (n p newer : Nat) : State :=
  s.padWrite n p [BitVec.ofNat 64 (setBitsOf (s.padRead n p).toNat 0 21 newer)]

/-- Sets LIT and STOLEN in the header of strand `n`'s block at `p`. -/
def State.setLit (s : State) (n p : Nat) (lit stolen : Bool) : State :=
  s.merge (padBase (coreOf n) + p + 62) 2 ((if lit then 2 else 0) + (if stolen then 1 else 0))

/-- Whether the container at P address `p` of strand `n`'s core is still to come from the strand's open chunk. -/
def State.toCome (s : State) (n p : Nat) : Bool := ownCovers (s.strand n).chunk.stores ((padBase (coreOf n) + p) / 64)

/-- Forgets the block at `p`, so that the next older one is the newest (R244). -/
def State.unlink (s : State) (p : Nat) : State :=
  let rest := s.me.regs.wicks.filter fun w => w.1 != p
  let s1 := s.onRegs fun r => { r with wicks := rest }
  match rest.head? with
  | some w => s1.setNewer s.cur w.1 noBlock
  | none => s1

/-- Whether strand `n`'s block at `p` is lit, and not stolen: once the chunk of the block's stores has committed (R242). -/
def State.lit (s : State) (n p : Nat) : Bool := !s.toCome n p && bitsOf (s.bits (padBase (coreOf n) + p) 64) 62 2 == 2

/-- Extinguishes the lit wicks of strand `n` (R246). -/
def State.darken (s : State) (n : Nat) : State :=
  (s.strand n).regs.wicks.foldl (fun a w => if a.lit n w.1 then a.setLit n w.1 false false else a) s

/-! The end of a task (R21, R151, R246, R366). -/

/-- Strand `n`'s task ends: it becomes FREE once it has drained (R151). Queued `VSEND` entries are discarded (R183), and lit
wicks are extinguished (R246). A sleeper in `CWAIT` waits for no answer any more (R227); a claim function whose answer is under way gets it,
so that the task drains. It is out of the code requests and walks that it had joined (R369, R334). -/
def State.endTask (s : State) (n : Nat) (byStop hand : Bool) : State :=
  (((((s.darken n).ungrant n).leaveReqs n).leaveWalks n).onStrand n fun t =>
    { t with status := .ending
             pend := if t.status = .sleep then t.pend.filter (fun p => p.kind != .claim) else t.pend
             wait := if t.status != .sleep && t.pend.any (fun p => p.kind == .claim || p.kind == .peek) then t.wait else .none
             byStop := byStop, handback := hand, hold := .none, shadow := Shadow.none, found := []
             vItp := [], vMsg := [], vRing := [], sending := none, start := none }).due [.taskEnd n]

/-- The first cause among a launch's tasks enters its completion record (R313). -/
def State.recordCause (s : State) (n : Nat) (f : FaultRec) : State :=
  if (s.strand n).bind.valid then
    s.onLaunch (s.strand n).bind.launch fun l => { l with cause := if l.cause.isSome then l.cause else some f }
  else s

/-- A task ends by a cause that no handler takes (R313). -/
def State.faultEnd (s : State) (n : Nat) (f : FaultRec) : State := (s.recordCause n f).endTask n true false

/-- Thread 1 has no more to do with a strand: it is not queued, nor is a service of it. -/
def State.untrap (s : State) (n : Nat) : State :=
  let gone (o : Option Nat) : Option Nat := if o = some n then none else o
  s.onTiles fun t =>
    { t with trapQ := t.trapQ.filter (· != n), serving := gone t.serving,
             shelved := t.shelved.map fun p => (p.1, { p.2 with strand := gone p.2.strand }) }

/-- Where the spill region of strand `n` begins in G, and its length (R302). -/
def State.spillRegion (s : State) (n : Nat) : Nat × Nat :=
  let d := (s.ctx (s.strand n).bind.ctx).desc
  let q := (d.getD 4 0).toNat / 12288 / 512 * 512
  ((d.getD 3 0).toNat + n * q, q)

/-- A container of the spill region of strand `n`, at an offset. -/
def State.spillWord (s : State) (n off : Nat) : Nat := (s.record (s.strand n).bind.ctx (s.spillRegion n).1 (off / 64)).toNat

/-- The spill blocks of strand `n`, newest first: offset, LOW, HIGH (R302). Blocks stand one after another from offset 512 to
NEXT. -/
def State.spillBlocks (s : State) (n : Nat) : Nat → Nat → List (Nat × Nat × Nat) → List (Nat × Nat × Nat)
  | 0, _, acc => acc
  | k + 1, off, acc =>
    if s.spillWord n 0 ≤ off then acc
    else
      let lo := s.spillWord n off
      let hi := s.spillWord n (off + 64)
      State.spillBlocks s n k (off + (256 + (hi - lo) + 511) / 512 * 512) ((off, lo, hi) :: acc)

/-- The handles of the frames on a task's chain (R302, R366): `h` is the innermost frame's object, `fp` its record; `blk` is
the spill block that holds the record, if any, and `older` the blocks not yet used. -/
def State.chain (s : State) (n : Nat) : Nat → Nat → Nat → Option (Nat × Nat) → List (Nat × Nat × Nat) → List Nat
  | 0, _, _, _, _ => []
  | k + 1, h, fp, blk, older =>
    let word (i : Nat) : Nat :=
      match blk with
      | some (off, lo) => s.spillWord n (off + 256 + (fp + 64 * i - lo))
      | none => (s.padRead n (fp + 64 * i)).toNat
    let t := word 0
    if t.testBit 50 then [h]
    else if t.testBit 49 then
      match older with
      | (off, lo, _) :: r => h :: State.chain s n k (bitsOf t 24 24) (word 1) (some (off, lo)) r
      | [] => [h, bitsOf t 24 24]
    else h :: State.chain s n k (bitsOf t 24 24) (word 1) blk older

/-- Lowers the count of each frame still on strand `n`'s chain (R366), as many as scratchpad and spill region hold, and sets
NEXT of its spill region to 512 when blocks stand there (R302). -/
def State.lowerChain (s : State) (n : Nat) : State :=
  let r := (s.strand n).regs
  let most := (2 ^ 21 + (s.spillRegion n).2) / 64
  let blocks := s.spillBlocks n most 512 []
  let s1 := (s.chain n most r.handle r.fp none blocks).foldl State.lower s
  if blocks.isEmpty then s1
  else
    match s.ctxBit (s.strand n).bind.ctx (s.spillRegion n).1 with
    | some b => s1.poke b 64 512
    | none => s1

/-- An operation of strand `n`, which acts for the time of it. -/
def State.actAs (s : State) (n : Nat) (f : State → State) : State :=
  let t := f { s with cur := n, ir := s.textWord (s.strand n).regs.handle (s.strand n).regs.off }
  { t with cur := s.cur, ir := s.ir }

/-- The state after an operation that can stop. -/
def State.settled (s : State) (r : Res State) : State :=
  match r with
  | .ok t => t
  | .error e => s.stop e

/-! `RET` (R132, R244). -/

/-- An ordinary return, with loops restored (R132): `sp` is where the stack top goes. -/
def State.returned (s : State) (t sp : Nat) (loops : List Word) : State :=
  let r := s.me.regs
  let r1 := (((r.restoreLoops loops (r.heldAt r.fp)).set 100 (BitVec.ofNat 64 sp)).set 101 (s.padRead s.cur (r.fp + 64))).zeroZ
  let h := bitsOf t 24 24
  let back := r.waiting.filter fun w => sp ≤ w.1
  let s1 := (s.lower r.handle).onMe fun u =>
    Strand.atEntry { u with regs := Regs.arrive { r1 with handle := h, waiting := back } (t % 2 ^ 24) }
  let s2 := s1.issued
  if t.testBit 49 then s2.raise s.cur 0x61 ((s.textWord h s2.me.regs.off).setWidth 64) 1 else s2

/-- `SpawnReturn` (R244): decided in one step against a steal. -/
def State.spawnReturn (s : State) (t n : Nat) (loops : List Word) : Res State := do
  let r := s.me.regs
  let blk := r.fp + 128 + 128 * n
  s.checkPad blk 256
  if !(s.padRead s.cur blk).toNat.testBit 62 then
    let m := imageMask [s.padRead s.cur (blk + 128), s.padRead s.cur (blk + 192)]
    .ok ((s.unlink blk).returned t (blk + 128 + imageBits m) loops)
  else
    let up := s.padRead s.cur (r.fp + 64)
    let s1 := ((s.lower r.handle).addCell (s.padRead s.cur (blk + 64)) (-1)).onMe fun u =>
      Strand.newChunk { u with
        regs := { (u.regs.set 101 up).zeroZ with handle := bitsOf t 24 24, off := t % 2 ^ 24,
                                                 wicks := u.regs.wicks.filter (fun w => w.1 != blk),
                                                 waiting := u.regs.waiting.filter (fun w => up.toNat ≤ w.1) }
        shadow := Shadow.none }
    if s1.stolenFrame s.cur then .ok (((s1.lower (bitsOf t 24 24)).endTask s.cur false false).issued)
    else if s1.me.doomed.contains up.toNat then .ok ((s1.endTask s.cur true false).issued)
    else .ok ((s1.onMe fun u => Strand.rests { u with status := .joinWait, wait := .join up.toNat, since := s.clk }).issued)

/-- `RET` of a first frame (R132, R246): the task ends, a stolen continuation with a hand-back. -/
def State.returnFirst (s : State) : Res State := do
  let h := s.me.regs.handle
  let cont := s.me.kind == .continuation
  ensure (!cont || s.cell (s.myRecord s.cur 2) == 0) (s.trap 0x65 1)
  .ok ((((s.lower h).onRegs Regs.zeroZ).endTask s.cur false cont).issued)

/-- `RET` (R132). The frame pointer and the saved loops of a record are checked as one run, so `P_BOUNDS` there names fp + 64, whichever
container lies beyond the scratchpad. DESIGN CHOICE (log 94). -/
def State.ret (s : State) : Res State := do
  s.endChunk
  let r := s.me.regs
  s.checkPad r.fp 64
  ensure (r.role == .off) (s.trap 0x66 5)
  let t := (s.padRead s.cur r.fp).toNat
  let n := bitsOf t 51 3
  ensure (t / 2 ^ 54 == 0 && n ≤ 4) (s.trap 0x60 0)
  if t.testBit 50 then s.returnFirst
  else do
    s.checkPad (r.fp + 64) (64 + 128 * n)
    let loops := s.padReads s.cur (r.fp + 128) (2 * n)
    ensure ((s.obj (bitsOf t 24 24)).isSome && loopsValid loops) (s.trap 0x60 0)
    if t.testBit 48 then s.spawnReturn t n loops
    else .ok (s.returned t (r.fp + 128 + 128 * n) loops)

/-- A hand-back (R245, R246): g0 to g7, and the original strand, which waits for it, performs `RET`. -/
def State.handBack (s : State) (n : Nat) (ws : List Word) : State :=
  let s1 := s.onStrand n fun t =>
    { t with status := .ready, wait := .none, handed := none
             regs := (upFrom 0 8).foldl (fun r i => r.set i (ws.getD i 0)) t.regs
             chunk := Chunk.start ((upFrom 0 8).foldl (fun r i => r.set i (ws.getD i 0)) t.regs) }
  s1.actAs n fun a => a.settled a.ret

/-! `SPAWND`, `SYNC`, `RANGE`, `RNEXT` (R242, R247, R248, R250). -/

/-- The walk-terminated loops of a spawning frame as they stand, for the thief of its wick: the callee's walks do not reach its
copy (R119, R243). -/
def Regs.frozen (r : Regs) (p : Nat) : List (Nat × Loop) := (r.holds p).map fun w => (w.1, { w.2 with walk := none })

/-- The older block's NEWER, as a spawn's chunk writes it (R242). -/
def newerStore (n older blk : Nat) : Store := { pkg := none, bit := padBase (coreOf n) + older, bits := 21, val := blk % 2 ^ 21 }

/-- `SPAWND` (R242): `CALLD` with a continuation block between the caller's stack top and the callee's record. Their stores are of the
new chunk. -/
def State.spawn (s : State) (idx : Nat) : Res State := do
  s.endChunk
  let d ← s.importOf idx
  let r := s.me.regs
  let m := s.regionMask s.cur r.handle (r.off + 1)
  let k := imageBits m
  let base ← s.checkFrame (128 + k)
  match s.resolveCode s.cur d with
  | (s1, none) => .ok (s1.codeMiss s.cur d)
  | (s1, some (h, o)) =>
    let blk := r.sp - 128 - k
    let older := match r.wicks.head? with | some w => w.1 | none => noBlock
    let sts := [padStore s.cur blk ([wickHeader true false older noBlock, s.joinCell s.cur] ++ r.image m)] ++
      (r.wicks.head?.toList.map fun w => newerStore s.cur w.1 blk) ++ [padStore s.cur base (r.record (r.off + 1) true)]
    .ok (((s1.liftCall h).onMe fun t =>
      (Strand.atEntry { t with regs := { t.regs.called base h o.entry with
                                           wicks := (blk, base) :: r.wicks
                                           waiting := r.frozen blk ++ (t.regs.called base h o.entry).waiting } }).begins sts).issued)

/-- `SYNC` (R247): observing 0 in the join cell acquires what its decrements released (R249). -/
def State.sync (s : State) : Res State := do
  s.endChunk
  let r := s.me.regs
  let p := (BitVec.ofNat 64 r.fp - 64 : Word).toNat
  if s.stolenFrame s.cur then
    match s.cellBit (s.joinCell s.cur) with
    | some b => ensure (s.bits b 64 == 0) (.hold (.cell b))
    | none => .ok ()
  else do
    s.checkPad p 64
    ensure (s.bits (padBase (coreOf s.cur) + p) 64 == 0) (.hold (.cell (padBase (coreOf s.cur) + p)))
  .ok ((s.onMe Strand.acquires).done 1)

/-- `RANGE` (R248), whose checks stand in the order of its pseudocode. Its block's stores are of the new chunk; a lookahead shadow
goes on, since `RANGE` is none of rule 5 of R60, but where the strand stops (rule 7). -/
def State.range (s : State) (a : Sel) : Res State := do
  s.endChunk
  let r := s.me.regs
  let i := a.code.toNat
  ensure (r.role == .off) (s.trap 0x66 1)
  ensure r.loops.isEmpty (s.trap 0x66 2)
  ensure (r.get (i + 2) != 0) (s.trap 0x66 3)
  let m := s.regionMask s.cur r.handle (r.off + 1)
  let k := imageBits m
  let blk : Int := (r.sp : Int) - 128 - k
  ensure (s.me.bind.floor (s.cur % 4) ≤ blk && 0 ≤ blk) (s.trap 0x61 0)
  let b := blk.toNat
  ensure (b % 64 == 0) (.trap 0x20 (BitVec.ofNat 64 b) (addrExtra .p .w64 0))
  ensure (r.sp ≤ s.me.bind.spSize) (.trap 0x21 (BitVec.ofNat 64 b) (addrExtra .p .w64 0))
  let lo := r.get i
  let hi := r.get (i + 1)
  .ok ((s.onMe fun t =>
    { (Strand.atEntry { t with
        regs := { (((t.regs.set 100 (BitVec.ofNat 64 b)).set 104 lo).set 105 (if hi.ult lo then lo else hi)).advance 1 with
                  role := .owner, grain := r.get (i + 2), block := b, bodyHandle := r.handle, bodyOff := r.off + 1 } }).begins
        [padStore s.cur b ([0, 0] ++ r.image m)] with shadow := if t.stopReq then Shadow.none else t.counted.shadow }).issued)

/-- The words of the instruction whose first word is `w`, by its LEN (R51, R250). -/
def wordLen (w : CodeWord) : Nat := 1 + (if w.getLsbD 0 then 2 else 0) + (if w.getLsbD 1 then 2 else 0)

/-- `RNEXT` (R250): the owner reads the join cell as its own stores leave it, and observing 0 there is an acquire (R249). -/
def State.rnext (s : State) (d : Sel) : Res State := do
  let r := s.me.regs
  ensure (r.role != .off) (s.trap 0x66 4)
  if (r.get 104).ult (r.get 105) then do
    let t ← s.inText ((r.off + 1 + wordLen (s.textWord r.handle (r.off + 1)) : Nat) : Int)
    .ok ((s.onRegs fun q => (q.wr d (r.get 104)).set 104 (r.get 104 + 1)).doneAt t)
  else if r.role = .thief then do
    s.endChunk
    .ok ((((s.lower r.bodyHandle).addCell (s.myRecord s.cur 2) (-1)).endTask s.cur false false).issued)
  else do
    let c := padBase (coreOf s.cur) + r.block
    s.checkPad r.block 256
    ensure (s.peek s.cur c 64 == 0) (.hold (.cell c))
    let m := imageMask [s.padRead s.cur (r.block + 128), s.padRead s.cur (r.block + 192)]
    .ok (((s.onMe Strand.acquires).onRegs fun q => { q.set 100 (BitVec.ofNat 64 (r.block + 128 + imageBits m)) with role := .off }).done 1)

/-! Rings (R252, R253). -/

/-- An entry of a context's ring table. -/
structure Ring where
  bit : Nat
  base : Nat
  valid : Bool
  cap : Nat
  head : Word
  tail : Word
  deriving DecidableEq, Repr

/-- Reads an entry of a context's ring table (R252): an entry whose capacity exceeds 2^20, or that no page holds, is not valid. -/
def State.ring (s : State) (ctx i : Nat) : Option Ring :=
  match s.ctxBit ctx (((s.ctx ctx).desc.getD 2 0).toNat + 256 * i) with
  | none => none
  | some b =>
    let w (j : Nat) := s.bits (b + 64 * j) 64
    let lg := w 1 % 32
    if (w 0).testBit 63 && lg ≤ 20 then
      some { bit := b, base := w 0 % 2 ^ 57, valid := true, cap := 2 ^ lg, head := BitVec.ofNat 64 (w 2),
             tail := BitVec.ofNat 64 (w 3) }
    else none

/-- Where item `j` of a ring stands (R252). -/
def Ring.item (r : Ring) (j : Word) : Nat := r.base + 512 * (j.toNat % r.cap)

/-- Items in a ring (R253, R254): TAIL − HEAD, of the counts of items ever enqueued and dequeued. -/
def Ring.occupancy (r : Ring) : Nat := r.tail.toNat - r.head.toNat

/-- The descriptor and the entry of a ring operation (R253). -/
def State.ringCheck (s : State) (a : Word) (enq : Bool) : Res Ring := do
  let v := a.toNat
  ensure (v / 2 ^ 17 == 0 && bitsOf v 13 3 == 0 && (enq || !v.testBit 16) && (!v.testBit 16 || bitsOf v 8 5 == 0) &&
    bitsOf v 8 5 < s.vBudget s.cur) (s.trap 0x67 2)
  match s.ring (s.ctxOf s.cur) (v % 256) with
  | none => .error (s.trap 0x67 1)
  | some r => do
    s.checkPoison .g .w256 0 (((s.ctx (s.ctxOf s.cur)).desc.getD 2 0).toNat + 256 * (v % 256)) r.bit 256
    .ok r

/-- What a ring operation waits for before it acts: the strand's accesses to other packages (R219), and an operation on an item of another
package that is under way at its entry (R253). -/
def State.ringReady (s : State) (r : Ring) : Res Unit := do
  ensure (s.farSettled s.cur) (.hold .remote)
  ensure (!s.ringBusy r.bit) (.hold (.ring r.bit))

/-- What completes a ring operation whose item lies in another package: its reply writes the register, and `count` rises (R253). -/
def State.ringPend (s : State) (reg : Nat) (kind : PendKind) (vin : Bool) (bits : Nat) (pkg : BitVec 10) (b count : Nat) (site : Word × Word)
    (t : State) : State :=
  (t.addPend { reg := reg, kind := kind, sx := vin, bits := bits, far := some (pkg, b), snap := some s.me.regs, part := none, old := true,
               site := some site, ring := some count }).onMe fun u => { u with hold := .reply, since := s.clk }

/-- `ENQ` (R253): in one step at the entry's home. An item that lies in another package is sent there; when its home has acknowledged it,
TAIL rises and the strand goes on, so that a lost one leaves the ring as it was (R318). -/
def State.enq (s : State) (d : Sel) (a : Word) (len : Nat) : Res State := do
  s.endChunk
  let r ← s.ringCheck a true
  let vin := a.getLsbD 16
  ensure (!vin || !s.me.vRing.isEmpty) (s.trap 0x0C 2)
  s.ringReady r
  if r.cap ≤ r.occupancy then .ok ((s.wr d 1).done len).once
  else do
    let p ← s.access s.cur .g (r.item r.tail) .w512 2 0
    let x := (if vin then s.me.vRing.headD 0 else s.me.regs.vec (bitsOf a.toNat 8 5)).toNat % 2 ^ 512
    let site := (BitVec.ofNat 64 (r.item r.tail), addrExtra .g .w512 0)
    let s1 := s.hit s.cur .g (r.item r.tail)
    match p with
    | .here b =>
      let s2 := ((s1.merge b 512 x).merge (r.bit + 192) 64 (r.tail + 1).toNat).onMe fun t => { t with vRing := if vin then t.vRing.drop 1 else t.vRing }
      .ok ((s2.wr d 0).done len).once
    | .far pkg b => do
      ensure (s.hasRoute pkg) (s.trap 0xC2 0)
      let s2 := ((s1.sendStore s.cur pkg { pkg := some pkg, bit := b, bits := 512, val := x, site := site }).done len).once
      .ok ((s.ringPend d.code.toNat .ring vin 64 pkg b (r.bit + 192) site s2).due [.remoteReplyTimeout s.cur])
    | .io _ _ => .ok s

/-- `DEQ` (R253). An item that lies in another package comes by a reply; then HEAD rises and the strand goes on. -/
def State.deq (s : State) (d : Sel) (a : Word) (len : Nat) : Res State := do
  s.endChunk
  let r ← s.ringCheck a false
  s.ringReady r
  let v := bitsOf a.toNat 8 5
  if r.tail.ule r.head then .ok ((s.wr d 1).done len).once
  else do
    let p ← s.access s.cur .g (r.item r.head) .w512 1 0
    let s1 := s.hit s.cur .g (r.item r.head)
    match p with
    | .here b => do
      s.checkPoison .g .w512 0 (r.item r.head) b 512
      let s2 := (s1.merge (r.bit + 128) 64 (r.head + 1).toNat).onRegs fun q => q.setVec v (BitVec.ofNat 1024 (s.bits b 512))
      .ok ((s2.wr d 0).done len).once
    | .far pkg b =>
      let s2 := ((s1.wr d 0).done len).once
      .ok (((s.ringPend (128 + v) .load false 512 pkg b (r.bit + 128) (BitVec.ofNat 64 (r.item r.head), addrExtra .g .w512 0) s2).sendTo pkg
        (.remoteLoad s.cur pkg b 512)).due [.remoteReplyTimeout s.cur])
    | .io _ _ => .ok s

/-! Messages (R255). -/

/-- The checks of `SENDM` (R255). -/
def State.msgCheck (s : State) (a : Word) : Res Unit := do
  let v := a.toNat
  ensure (bitsOf v 43 5 == 0 && bitsOf v 12 10 == 0 && (!v.testBit 42 || bitsOf v 37 5 == 0)) (s.trap 0x68 1)
  ensure (bitsOf v 37 5 < s.vBudget s.cur && bitsOf v 32 5 < s.vBudget s.cur) (s.trap 0x68 2)
  ensure (s.isMember (BitVec.ofNat 10 (v / 2 ^ 22))) (s.trap 0x68 3)
  ensure (isTaper (v % 2 ^ 12)) (s.trap 0x68 4)
  ensure (!v.testBit 42 || !s.me.vMsg.isEmpty) (s.trap 0x0C 2)

/-- The frame of `SENDM` (R255). -/
def State.frameOf (s : State) (tok : BitVec 6) (a : Word) : Frame :=
  let v := a.toNat
  let t := s.me
  let hdr := bitsOf v 48 16 * 2 ^ 48 + s.pkg.toNat * 2 ^ 38 + coreOf s.cur * 2 ^ 26 + s.cur % 4 * 2 ^ 24 + t.frames.toNat +
    2 ^ 64 * s.ctxOf s.cur
  { pkg := BitVec.ofNat 10 (v / 2 ^ 22), core := v % 2 ^ 12, ctx := BitVec.ofNat 8 (s.ctxOf s.cur), srcPkg := s.pkg,
    sender := s.cur, tok := tok, header := BitVec.ofNat 128 hdr,
    digest := (t.regs.vec (bitsOf v 32 5)).setWidth 256,
    payload := ((if v.testBit 42 then t.vMsg.headD 0 else t.regs.vec (bitsOf v 37 5))).setWidth 384 }

/-- `SENDM` (R255): the frame waits in the outbound port until it is accepted or refused. It is a release at pod scope: the strand's accesses
to other packages are performed before it leaves (R256, R266). -/
def State.sendm (s : State) (tok : BitVec 6) (a : Word) (len : Nat) : Res State := do
  s.endChunk
  s.msgCheck a
  ensure (s.farSettled s.cur) (.hold .remote)
  ensure ((s.core (coreOf s.cur)).outPort.length < 4) (.hold .port)
  let f := s.frameOf tok a
  let s1 := (s.onRegs fun r => r.set tok.toNat 0).done len
  let s2 := s1.once.onMe fun t =>
    { t with frames := t.frames + 1, vMsg := if a.getLsbD 42 then t.vMsg.drop 1 else t.vMsg }
  let s3 := s2.addPend { reg := tok.toNat, kind := .frame, sx := false, bits := 64, far := none, snap := none,
                         part := none, old := true, site := some (s.clk, 0) }
  let s4 := s3.onCore (coreOf s.cur) fun c => { c with outPort := c.outPort ++ [f] }
  .ok (if f.pkg = s.pkg then s4.due [.messageFrameArrival f]
       else (s4.sendTo f.pkg (.frame f)).due [.sendmAcceptTimeout s.cur tok])

/-- `RET`. R132: Returns through the frame record's token. -/
def execRet (s : State) : Host.Outcome State Fault Refusal :=
  s.answer s.ret

/-- `STOP`. R138: Commits the chunk and ends the task. -/
def execStop (s : State) : Host.Outcome State Fault Refusal :=
  s.answer do
    s.endChunk
    ensure (s.me.regs.role == .off) (s.trap 0x66 5)
    .ok ((s.endTask s.cur true false).issued)

/-- `SPAWND`. R242: Calls by digest and lights a stealable continuation wick. -/
def execSpawnd (idx : BitVec 20) (s : State) : Host.Outcome State Fault Refusal :=
  s.answer (s.spawn idx.toNat)

/-- `SYNC`. R247: Waits until the frame's join cell is zero. -/
def execSync (s : State) : Host.Outcome State Fault Refusal :=
  s.answer s.sync

/-- `RANGE`. R248: Opens a splittable span over three g registers. -/
def execRange (a : Sel) (s : State) : Host.Outcome State Fault Refusal :=
  s.answer (s.range a)

/-- `RNEXT`. R250: Takes the next span index or leaves the range. -/
def execRnext (d : Sel) (s : State) : Host.Outcome State Fault Refusal :=
  s.answer (s.rnext d)

/-- `ENQ`. R253: Pushes a 512-bit item onto a stage ring. -/
def execEnq (d : Sel) (a : Sel) (s : State) : Host.Outcome State Fault Refusal :=
  s.answer (s.enq d (s.rd a) 1)

/-- `ENQ_LIT`. R253: ENQ with a literal ring descriptor. -/
def execEnqLit (d : Sel) (a : Word) (s : State) : Host.Outcome State Fault Refusal :=
  s.answer (s.enq d a 3)

/-- `DEQ`. R253: Takes an item from a stage ring. -/
def execDeq (d : Sel) (a : Sel) (s : State) : Host.Outcome State Fault Refusal :=
  s.answer (s.deq d (s.rd a) 1)

/-- `DEQ_LIT`. R253: DEQ with a literal ring descriptor. -/
def execDeqLit (d : Sel) (a : Word) (s : State) : Host.Outcome State Fault Refusal :=
  s.answer (s.deq d a 3)

/-- `SENDM`. R255: Sends an active-message frame to a core. -/
def execSendm (tok : BitVec 6) (a : Sel) (s : State) : Host.Outcome State Fault Refusal :=
  s.answer (s.sendm tok (s.rd a) 1)

/-- `SENDM_LIT`. R255: SENDM with a literal message descriptor. -/
def execSendmLit (tok : BitVec 6) (a : Word) (s : State) : Host.Outcome State Fault Refusal :=
  s.answer (s.sendm tok a 3)

end Sys2Proof.Machine
end

