-- ==== Sys2Proof/Machine/Atomic.lean ====
section
/-! DEFINITION. Atomics, barriers and claims: majors 0x3C and 0x3D, with the requests and replies of both (R216 to R235,
R290). -/

namespace Sys2Proof.Machine

/-! Atomics (R216 to R221). -/

/-- The floating type of an atomic operation at a class (R217). -/
def aopTy (o : AOp) (w : Cls) : Ty := if o = .bfadd then .bf16 else if w = .w16 then .f16 else .f32

/-- The new value of an element (R217). -/
def aopNew (o : AOp) (w : Cls) (old v : Nat) : Nat :=
  let b := w.bits
  match o with
  | .add => (old + v) % 2 ^ b
  | .smin => if signed b v < signed b old then v else old
  | .smax => if signed b old < signed b v then v else old
  | .nmin => min old v
  | .nmax => max old v
  | .fadd | .bfadd => (fpBin (aopTy o w) .ne (FV.add .ne) old v).1
  | .fmax => (minMax (aopTy o w) true true old v).1
  | .fmin => (minMax (aopTy o w) false true old v).1
  | .and => old &&& v
  | .or => old ||| v
  | .xor => old ^^^ v
  | .swap => v

/-- The old value is sign-extended for the signed minimum and maximum (R218). -/
def aopSx (o : Option AOp) : Bool := o == some .smin || o == some .smax

/-- One application at a bit of this package's memory (R218, R219): `none` is compare-and-swap with the expected value `e`. A
packed write clears the spare bits of its container. -/
def State.apply (s : State) (bit : Nat) (w : Cls) (op : Option AOp) (v e : Nat) : State × Nat :=
  let old := s.bits bit w.bits
  let new := match op with
    | some o => some (aopNew o w old (v % 2 ^ w.bits))
    | none => if old = e % 2 ^ w.bits then some (v % 2 ^ w.bits) else none
  (match new with
   | some x => (elemStores none bit w x).foldl State.put s
   | none => s, old)

/-- The barometer counter of a line at a tile (R221). -/
def State.baro (s : State) (tile a : Nat) : Nat := SMap.look 0 (s.tile tile).baro (a / 512 % 256)

/-- Ownership after an atomic of a tile on an ordinary line of this package (R220, R221): a quiet line is taken, and a contended
one is taken back by its home. -/
def State.ownLine (s : State) (tile a line : Nat) : State :=
  let others := s.tiles.any fun p => p.1 != tile && p.2.owned.contains line
  let drop : State := s.onTiles fun t => { t with owned := t.owned.filter (· != line) }
  if 4 ≤ s.baro tile a then drop
  else
    drop.onTile tile fun t =>
      { t with owned := line :: t.owned,
               baro := if others then SMap.put 0 t.baro (a / 512 % 256) (min 7 (s.baro tile a + 2)) else t.baro }

/-- The name of the destination of an atomic that has none (`RED`): no register has it. -/
def noName : Nat := 127

/-- An atomic of the acting strand (R218): it waits for the strand's earlier chunks and its accesses to other packages (R219), is
applied at its place, and the old value returns by ATOMIC_REPLY. One of another package goes there; the strand issues on, and its
next chunk does not commit before the reply has come (R219). -/
def State.atomic (s : State) (g : Bool) (am : BitVec 2) (w : Cls) (base : Sel) (off : BitVec 48) (op : Option AOp) (v e : Word)
    (dest : Option Sel) (la : BitVec 4) : Res State := do
  s.endChunk
  let sp : Space := if g then .g else .p
  let (a, p) ← s.operand sp am w base off .nil 7
  ensure (s.farSettled s.cur) (.hold .remote)
  let r := s.me.regs
  let pend (far : Option (BitVec 10 × Nat)) (snap : Option Regs) (t : State) : State :=
    t.addPend { reg := (dest.map fun d => d.code.toNat).getD noName, kind := .atomic, sx := aopSx op, bits := w.bits, far := far,
                snap := snap, part := none, old := true, site := some (BitVec.ofNat 64 a, addrExtra sp w 0) }
  let shadow (t : State) : State :=
    match dest with
    | some d => t.openShadow d.code.toNat la r.handle r.off
    | none => t
  match p with
  | .here bit => do
    s.checkPoison sp w 0 a bit w.bits
    let (s1, old) := s.apply bit w op v.toNat e.toNat
    let s2 := if g && a < winStart then s1.ownLine (tileOf s.cur) a (bit / 512) else s1
    let s3 := (((s2.hit s.cur sp a).updateBase am w base).done 3).once
    .ok (shadow (if dest.isSome then (pend none none s3).due [.atomicReply s.cur (.value (BitVec.ofNat 1024 old))] else s3))
  | .far pkg bit =>
    let s1 := shadow (pend (some (pkg, bit)) (some r) ((((s.hit s.cur sp a).updateBase am w base).done 3).once))
    let s2 := s1.onMe fun t => { t with since := s.clk, chunk := { t.chunk with waits := true } }
    .ok ((s2.sendTo pkg (.remoteAtomic s.cur pkg bit op w v e)).due [.remoteReplyTimeout s.cur])
  | .io _ _ => .error (.trap 0x28 (BitVec.ofNat 64 a) (addrExtra sp w 0))

/-! Barriers (R223 to R227). -/

/-- An entry of a barrier table (R223, R296). -/
structure Barrier where
  gen : Nat
  arrived : Nat
  count : Nat
  valid : Bool
  deriving DecidableEq, Repr

/-- An entry from its 128 bits. -/
def Barrier.of (v : Nat) : Barrier :=
  { gen := v % 2 ^ 24, arrived := bitsOf v 24 20, count := bitsOf v 44 20 + 1, valid := v.testBit 64 }

/-- The 128 bits of an entry. -/
def Barrier.word (b : Barrier) : Nat :=
  b.gen % 2 ^ 24 + 2 ^ 24 * (b.arrived % 2 ^ 20) + 2 ^ 44 * ((b.count - 1) % 2 ^ 20) + (if b.valid then 2 ^ 64 else 0)

/-- The bit of entry `h` of a context's barrier table. -/
def State.barrierBit (s : State) (ctx h : Nat) : Option Nat := s.ctxBit ctx (((s.ctx ctx).desc.getD 1 0).toNat + 128 * h)

/-- The entry that a barrier function acts on, with its bit (R225). An entry that no page holds is not valid. -/
def State.barrier (s : State) (h : Word) : Res (Nat × Barrier) := do
  ensure (h.toNat < 1024) (s.trap 0x62 1)
  match s.barrierBit (s.ctxOf s.cur) h.toNat with
  | some b => do
    s.checkPoison .g .w128 0 (((s.ctx (s.ctxOf s.cur)).desc.getD 1 0).toNat + 128 * h.toNat) b 128
    .ok (b, Barrier.of (s.bits b 128))
  | none => .error (s.trap 0x62 4)

/-- A strand wakes when it sleeps on the episode, and its destination is the episode (R225, R235): an acquire (R226). -/
def Strand.woken (ctx h gen : Nat) (t : Strand) : Strand :=
  match t.wait with
  | .barrier k e d =>
    if t.status = .sleep && t.bind.ctx = ctx && k = h && e = gen then
      Strand.acquires { t with status := .ready, wait := .none, regs := t.regs.wrName d gen,
                               chunk := { t.chunk with ckpt := t.chunk.ckpt.wrName d gen } }
    else t
  | _ => t

/-- The tiles of the strands of a context. -/
def State.ctxTiles (s : State) (ctx : Nat) : List Nat :=
  (s.strands.filterMap fun p => if p.2.bind.valid && p.2.bind.ctx == ctx then some (tileOf p.1) else none).eraseDups

/-- The clock bins of the tiles of a context are shared out anew (R228). -/
def State.dueBins (s : State) (ctx : Nat) : State := (s.ctxTiles ctx).foldl (fun a t => a.dueOnce (.tailwindBinChange t)) s

/-- `Wake(h, e)` (R225). -/
def State.wakeAll (s : State) (ctx h gen : Nat) : State := (s.onEvery fun t => t.woken ctx h gen).dueBins ctx

/-- A strand sleeps (R227). One that has been asked to stop stops where it sleeps. -/
def Strand.asleep (w : Wait) (now : Word) (t : Strand) : Strand :=
  Strand.rests { t with status := .sleep, wait := w, since := now }

/-- The acting strand sleeps (R227). -/
def State.sleep (s : State) (w : Wait) : State :=
  (s.onMe (Strand.asleep w s.clk)).dueOnce (.tailwindBinChange (tileOf s.cur))

/-- The destination written and the instruction performed once (R224). -/
def State.reply3 (s : State) (d : Sel) (v : Word) (la : BitVec 4) : State :=
  let r := s.me.regs
  (((s.wr d v).done 3).once).openShadow d.code.toNat la r.handle r.off

/-- `BARI` (R225). -/
def State.bari (s : State) (d : Sel) (h n : Word) (la : BitVec 4) : Res State := do
  s.endChunk
  let (b, e) ← s.barrier h
  ensure (n.toNat != 0 && n.toNat ≤ 2 ^ 20) (s.trap 0x62 2)
  ensure (!(e.valid && 0 < e.arrived)) (s.trap 0x62 3)
  .ok ((s.merge b 128 (Barrier.word { e with count := n.toNat, arrived := 0, valid := true })).reply3 d (BitVec.ofNat 64 e.gen) la)

/-- The instruction performed once (R224), with its destination to be written when the strand wakes (R235). -/
def State.once3 (s : State) (d : Sel) (la : BitVec 4) : State :=
  ((s.done 3).once).openShadow d.code.toNat la s.me.regs.handle s.me.regs.off

/-- `BARA` and `BARW` (R225): the destination is the episode, which a `BARW` that sleeps writes when it wakes. -/
def State.arrive (s : State) (d : Sel) (h : Word) (wait : Bool) (la : BitVec 4) : Res State := do
  s.endChunk
  let (b, e) ← s.barrier h
  ensure e.valid (s.trap 0x62 4)
  if e.arrived + 1 = e.count then
    let s1 := s.merge b 128 (Barrier.word { e with arrived := 0, gen := (e.gen + 1) % 2 ^ 24 })
    .ok ((s1.wakeAll (s.ctxOf s.cur) h.toNat e.gen).reply3 d (BitVec.ofNat 64 e.gen) la)
  else
    let s1 := s.merge b 128 (Barrier.word { e with arrived := e.arrived + 1 })
    .ok ((if wait then (s1.once3 d la).sleep (.barrier h.toNat e.gen d.code.toNat)
          else s1.reply3 d (BitVec.ofNat 64 e.gen) la).dueBins (s.ctxOf s.cur))

/-! Claims (R229 to R234). -/

/-- The home tile of a name (R229). -/
def homeTile (name : Digest) : Nat := bitsOf name.toNat 10 7 % 96

/-- The bucket of a name (R229). -/
def bucketOfName (name : Digest) : Nat := bitsOf name.toNat 17 9

/-- What a claim function answers: a code and a handle, a trap with the state of R230, or nothing yet. -/
inductive ClaimAns where
  | reply (code : Nat) (handle : Word)
  | trap (state : Nat)
  | asleep
  deriving DecidableEq, Repr

/-- Whether an entry is a request's (R229). -/
def Claim.matches (c : Claim) (r : ClaimReq) : Bool := c.name == r.name && c.ppid == r.ppid && c.domain == r.domain

/-- The task that makes a request. -/
def reqWho (r : ClaimReq) : Claimant := { pkg := r.pkg, ctx := r.ctx, task := r.task, strand := r.strand }

/-- Whether two claimants are one task (R290). -/
def Claimant.same (a b : Claimant) : Bool := a.pkg == b.pkg && a.task == b.task

/-- Replaces the first entry that a request matches. -/
def replaceClaim (r : ClaimReq) (new : Option Claim) : List (Nat × Claim) → List (Nat × Claim)
  | [] => []
  | p :: ps =>
    if p.2.matches r then (match new with | some c => (p.1, c) :: ps | none => ps) else p :: replaceClaim r new ps

/-- A strand with the reply of a claim function: its destinations are written, d before hd. -/
def Strand.told (kind : PendKind) (code : Nat) (handle : Word) (t : Strand) : Strand :=
  match t.pend.filter fun p => p.kind == kind with
  | [p] => t.settled p code
  | p :: q :: _ => (t.settled p code).settled q handle.toNat
  | [] => t

/-- A strand that has waited for its claim's reply: a sleeper wakes (R231). DONE of a `CLAIM` or `CWAIT` is an acquire, of a `CPEEK` none
(R234). -/
def Strand.claimed (code : Nat) (handle : Word) (t : Strand) : Strand :=
  let claim := t.pend.any fun p => p.kind == .claim
  let v := t.told (if claim then .claim else .peek) code handle
  let u := if claim && code == 2 then v.acquires else v
  { u with wait := .none, status := if u.status = .sleep then .ready else u.status }

/-- Whether a strand waits for the reply of a claim function on a name, asleep or not, for a task. -/
def Strand.claims (task : Nat) (name : Digest) (t : Strand) : Bool :=
  t.task == task && (match t.wait with | .claim m _ _ => m == name | _ => false)

/-- A reply reaches its strand (R231), wherever a switch has put it meanwhile. A strand of another package gets it over the
pod. -/
def State.claimReply (s : State) (w : Claimant) (name : Digest) (code : Nat) (handle : Word) : State :=
  if w.pkg = s.pkg then
    (if (s.strand w.strand).claims w.task name then s.onStrand w.strand (Strand.claimed code handle)
     else s.onEvery fun t => if t.claims w.task name && t.status == .sleep then t.claimed code handle else t).dueBins w.ctx.toNat
  else s.sendTo w.pkg (.claimReply w (.claim w.task name (BitVec.ofNat 8 code) handle))

/-- Where a G address of a context lies, as its page table says (R233). -/
def State.ctxPlace (s : State) (ctx va : Nat) : Option Place :=
  match s.walk ctx va with
  | some e =>
    match s.framePlace e va with
    | .here b => if s.ownsBit (s.ctx ctx).part b then some (.here b) else none
    | p => some p
  | none => none

/-- Writes a 512-bit notice to the ring of a context of this package (R233): a full ring raises DROPS, and a ring or item that
cannot be read, updated or written drops it with nothing counted. -/
def State.noticeHere (s : State) (ctx : Nat) (name : Digest) (handle : Word) : State :=
  let d0 := (s.ctx ctx).desc.getD 0 0
  let item : Nat := name.toNat + 2 ^ 256 * handle.toNat + 2 ^ 320
  if !d0.getLsbD 40 then s
  else
    match s.ring ctx (bitsOf d0.toNat 32 8) with
    | none => s
    | some r =>
      if (s.poisonIn r.bit 256).isSome then s
      else if s.ringBusy r.bit then
        s.due [.claimRequestArrival { fn := .notice, name := name, ppid := 0, domain := 0, pkg := s.pkg, ctx := BitVec.ofNat 8 ctx, task := 0,
                                      strand := 0, handle := handle }]
      else if r.cap ≤ r.occupancy then s.merge (r.bit + 96) 32 (s.bits (r.bit + 96) 32 + 1)
      else
        match s.ctxPlace ctx (r.item r.tail) with
        | some (.here b) => (s.merge b 512 item).merge (r.bit + 192) 64 (r.tail + 1).toNat
        | some (.far p b) => if s.hasRoute p then (s.sendOwn ctx p (r.item r.tail) b 512 item 0).merge (r.bit + 192) 64 (r.tail + 1).toNat else s
        | _ => s

/-- A notice to the context that fulfilled an evicted entry (R233), at its package. -/
def State.notice (s : State) (w : Claimant) (name : Digest) (handle : Word) : State :=
  if w.pkg = s.pkg then s.noticeHere w.ctx.toNat name handle
  else
    s.sendTo w.pkg (.claim w.pkg
      { fn := .notice, name := name, ppid := 0, domain := 0, pkg := w.pkg, ctx := w.ctx, task := w.task, strand := w.strand,
        handle := handle })

/-- The MADE entry without pins that was used longest ago, in a bucket (R232). -/
def State.evictable (s : State) (tile bucket : Nat) : Option Claim :=
  ((s.claims.filter fun p => p.1 == tile && bucketOfName p.2.name == bucket && p.2.made && p.2.pins == 0).map (·.2)).foldl
    (fun best c => match best with
      | none => some c
      | some b => if c.used < b.used then some c else some b) none

/-- Waiter records of a tile in use (R230). -/
def State.recordsOf (s : State) (tile : Nat) : Nat :=
  ((s.claims.filter fun p => p.1 == tile).map fun p => p.2.recs.length).foldl (· + ·) 0

/-- `CLAIM` on a FREE entry (R231, R232). -/
def State.claimFree (s : State) (r : ClaimReq) : State × ClaimAns :=
  let tile := homeTile r.name
  let b := bucketOfName r.name
  let c : Claim := { name := r.name, ppid := r.ppid, domain := r.domain, made := false, owed := false, maker := reqWho r, handle := 0,
                     pins := 0, used := s.steps, recs := [] }
  if 8192 ≤ s.recordsOf tile then (s, .reply 3 0)
  else if (s.claims.filter fun p => p.1 == tile && bucketOfName p.2.name == b).length < 4 then
    ({ s with claims := s.claims ++ [(tile, c)] }, .reply 0 0)
  else
    match s.evictable tile b with
    | some v =>
      let s1 : State := { s with claims := s.claims.erase (tile, v) ++ [(tile, c)] }
      (s1.notice v.maker v.name v.handle, .reply 0 0)
    | none => (s, .reply 3 0)

/-- The entry goes to the oldest waiter, whose `CWAIT` returns MAKER, or to FREE (R231). -/
def State.passOn (s : State) (r : ClaimReq) (c : Claim) : State :=
  match c.recs with
  | [] => { s with claims := replaceClaim r none s.claims }
  | w :: ws =>
    let s1 : State := { s with claims := replaceClaim r (some { c with maker := w.who, owed := w.asleep.isEmpty, recs := ws }) s.claims }
    w.asleep.foldl (fun a k => a.claimReply k r.name 0 0) s1

/-- A claim function on a MAKING entry (R231). -/
def State.claimMaking (s : State) (r : ClaimReq) (c : Claim) : State × ClaimAns :=
  let mine := c.maker.same (reqWho r)
  let held := c.recs.any fun w => w.who.same (reqWho r)
  let put (d : Claim) : State := { s with claims := replaceClaim r (some d) s.claims }
  match r.fn with
  | .claim =>
    if mine then (put { c with owed := false }, .reply 0 0)
    else if held then (s, .reply 1 0)
    else if s.recordsOf (homeTile r.name) < 8192 then
      (put { c with recs := c.recs ++ [{ who := reqWho r, resolved := false, asleep := [] }] }, .reply 1 0)
    else (s, .reply 3 0)
  | .cwait =>
    if mine && c.owed then (put { c with owed := false }, .reply 0 0)
    else if held then
      (put { c with recs := c.recs.map fun w => if w.who.same (reqWho r) then { w with asleep := w.asleep ++ [reqWho r] } else w }, .asleep)
    else (s, .trap 1)
  | .fulfil =>
    if mine then
      let s1 := put { c with made := true, owed := false, maker := reqWho r, handle := r.handle, pins := c.recs.length, used := s.steps,
                             recs := (c.recs.filter fun w => w.asleep.isEmpty).map fun w => { w with resolved := true } }
      ((c.recs.flatMap WaitRec.asleep).foldl (fun a k => a.claimReply k r.name 2 r.handle) s1, .reply 0 0)
    else (s, .trap 1)
  | .abandon => if mine then (s.passOn r c, .reply 0 0) else (s, .trap 1)
  | .unpin => (s, .reply 6 0)
  | .cpeek => (s, .reply 5 0)
  | .taskEnds =>
    if mine then (s.passOn r c, .asleep)
    else (put { c with recs := c.recs.filter fun w => !w.who.same (reqWho r) }, .asleep)
  | .arenaFreed | .notice => (s, .asleep)

/-- A claim function on a MADE entry (R231). -/
def State.claimMade (s : State) (r : ClaimReq) (c : Claim) : State × ClaimAns :=
  let put (d : Claim) : State := { s with claims := replaceClaim r (some d) s.claims }
  let rest := c.recs.filter fun w => !w.who.same (reqWho r)
  match r.fn with
  | .claim => if c.pins < 2 ^ 16 - 1 then (put { c with pins := c.pins + 1, used := s.steps }, .reply 2 c.handle) else (s, .reply 3 0)
  | .cwait => if rest.length < c.recs.length then (put { c with recs := rest }, .reply 2 c.handle) else (s, .trap 2)
  | .fulfil | .abandon => (s, .trap 2)
  | .unpin => if 0 < c.pins then (put { c with pins := c.pins - 1 }, .reply 0 0) else (s, .reply 6 0)
  | .cpeek => (s, .reply 2 c.handle)
  | .taskEnds => (put { c with recs := rest, pins := c.pins - (c.recs.length - rest.length) }, .asleep)
  | .arenaFreed | .notice => (s, .asleep)

/-- A claim function where no entry matches (R229, R231). -/
def State.claimNone (s : State) (r : ClaimReq) (barred : Bool) : State × ClaimAns :=
  match r.fn with
  | .claim => if barred then (s, .reply 3 0) else s.claimFree r
  | .unpin | .cpeek => (s, .reply 4 0)
  | .cwait | .fulfil | .abandon => (s, .trap 0)
  | .taskEnds | .arenaFreed | .notice => (s, .asleep)

/-- The transition of R231 for one request at its home in this package. -/
def State.claimStep (s : State) (r : ClaimReq) : State × ClaimAns :=
  match s.claims.find? fun p => p.2.matches r with
  | some p => if p.2.made then s.claimMade r p.2 else s.claimMaking r p.2
  | none => s.claimNone r false

/-- A task's records and makings end with it (R231), at every entry of this package. -/
def State.claimsEnd (s : State) (w : Claimant) : State :=
  s.claims.foldl (fun a p =>
    (a.claimStep { fn := .taskEnds, name := p.2.name, ppid := p.2.ppid, domain := p.2.domain, pkg := w.pkg, ctx := w.ctx, task := w.task,
                   strand := w.strand, handle := 0 }).1) s

/-- The claim arena of a context of a package is released (R231): the entries that it makes or has made go, and their sleepers
wake with BUSY. -/
def State.claimsRelease (s : State) (pkg : BitVec 10) (ctx : Nat) : State :=
  let mine (c : Claim) : Bool := c.maker.pkg == pkg && c.maker.ctx.toNat == ctx
  let gone := s.claims.filter fun p => mine p.2
  let s1 : State := { s with claims := s.claims.filter fun p => !mine p.2 }
  gone.foldl (fun a p => (p.2.recs.flatMap WaitRec.asleep).foldl (fun b k => b.claimReply k p.2.name 3 0) a) s1

/-- The other packages that are the home of a name of the claim map (R229). -/
def State.homes (s : State) : List (BitVec 10) :=
  ((upFrom 0 1024).filterMap fun i =>
    let e := s.csrAt 0x1314 i
    if e.getLsbD 15 && e.setWidth 10 != s.pkg then some (e.setWidth 10 : BitVec 10) else none).eraseDups

/-- Tells the other homes of an end that concerns their entries (R231). -/
def State.tellHomes (s : State) (fn : ClaimFn) (w : Claimant) : State :=
  s.homes.foldl (fun a p => a.sendTo p (.claim p
    { fn := fn, name := 0, ppid := 0, domain := 0, pkg := w.pkg, ctx := w.ctx, task := w.task, strand := w.strand, handle := 0 })) s

/-- The claim arena of a context of this package is released, here and at the other homes (R231). -/
def State.arenaRelease (s : State) (ctx : Nat) : State :=
  (s.claimsRelease s.pkg ctx).tellHomes .arenaFreed { pkg := s.pkg, ctx := BitVec.ofNat 8 ctx, task := 0, strand := 0 }

/-- A `CWAIT` whose record stands sleeps (R231, R227): its destinations are written when it wakes. A task that has ended does not wait for
that. -/
def State.claimSleeps (s : State) (n : Nat) : State :=
  (s.onStrand n fun t =>
    if t.status = .ending then { t with wait := .none, pend := t.pend.filter fun p => p.kind != .claim }
    else if t.pend.any fun p => p.kind == .claim then
      Strand.asleep t.wait s.clk
        { t with pend := t.pend.map fun x => if x.kind = .claim then { x with snap := none, far := none } else x }
    else t).dueOnce (.tailwindBinChange (tileOf n))

/-- What a claim function's answer does at its strand, if the strand is of this package; a sleeper sleeps. -/
def State.claimAnswer (s : State) (r : ClaimReq) (a : ClaimAns) : State :=
  match a with
  | .reply c h =>
    if r.fn = .cpeek && r.pkg = s.pkg then s.onStrand r.strand (Strand.told .peek c h) else s.claimReply (reqWho r) r.name c h
  | .trap st =>
    if r.pkg = s.pkg then s.giveUp r.strand 0x63 (BitVec.ofNat 64 st) else s.sendTo r.pkg (.claimReply (reqWho r) (.claimTrap (BitVec.ofNat 8 st)))
  | .asleep =>
    if r.fn = .cwait then (if r.pkg = s.pkg then s.claimSleeps r.strand else s.sendTo r.pkg (.claimReply (reqWho r) .asleep)) else s

/-- The request of a claim function of the acting strand (R229, R290). -/
def State.claimReq (s : State) (fn : ClaimFn) (v : VReg) (handle : Word) : ClaimReq :=
  let ctx := s.ctxOf s.cur
  { fn := fn, name := (s.vec v).setWidth 256, ppid := (s.csrAt 0x1330 (s.partOf s.cur)).setWidth 16,
    domain := BitVec.ofNat 16 (bitsOf ((s.ctx ctx).desc.getD 0 0).toNat 16 16), pkg := s.pkg, ctx := BitVec.ofNat 8 ctx,
    task := s.me.task, strand := s.cur, handle := handle }

/-- A claim function (R231): its request goes to the home of its name, and the strand goes on when the reply has come, or at once past a
`CPEEK` of this package, which is no acquire (R234), but to no other claim function. A partition without a pod identifier, or a name
without a home, is answered at once (R229). `FULFIL` is a release at pod scope: the strand's accesses to other packages are performed before
it (R234, R266). Where `d` and `hd` name one register, the later write is that of `hd`, on either path.
DESIGN CHOICE (logs 20 and 83). -/
def State.claimOp (s : State) (fn : ClaimFn) (d : Sel) (hd : Option Sel) (v : VReg) (handle : Word) (la : BitVec 4) : Res State := do
  s.endChunk
  ensure (s.me.pend.all fun p => p.kind != .peek) (.hold .reply)
  let ok := match s.arena (s.ctxOf s.cur) with
    | some (b, l, _) => b ≤ handle.toNat && handle.toNat < b + l && handle.toNat < 2 ^ 57
    | none => false
  ensure (fn != .fulfil || ok) (s.trap 0x64 handle.toNat)
  ensure (fn != .fulfil || s.farSettled s.cur) (.hold .remote)
  let q := s.claimReq fn v handle
  let home := s.csrAt 0x1314 (q.name.toNat % 1024)
  let barred := !(s.csrAt 0x1330 (s.partOf s.cur)).getLsbD 16 || !home.getLsbD 15
  let r := s.me.regs
  let goesOn := fn == .cpeek && home.setWidth 10 == s.pkg
  let pend (d : Sel) (t : State) : State :=
    t.addPend { reg := d.code.toNat, kind := if fn == .cpeek then .peek else .claim, sx := false, bits := 64,
                far := if home.setWidth 10 = s.pkg then none else some (home.setWidth 10, 0),
                snap := if goesOn then none else some r, part := none, old := true }
  if barred then
    match (s.claimNone q true).2 with
    | .reply c _ =>
      let s1 := s.wr d (BitVec.ofNat 64 c)
      let s2 := ((match hd with | some h => s1.wr h 0 | none => s1).done 3).once
      .ok ((s2.openShadow d.code.toNat la r.handle r.off).guardToo la hd)
    | .trap st => .error (s.trap 0x63 st)
    | .asleep => .ok s
  else
    let s1 := pend d ((s.done 3).once)
    let s2 := match hd with | some h => pend h s1 | none => s1
    let s3 := ((s2.onMe fun t =>
      if goesOn then t
      else { t with hold := .reply, since := s.clk,
                    wait := .claim q.name d.code.toNat ((hd.map fun h => h.code.toNat).getD noName) }).openShadow d.code.toNat la r.handle r.off).guardToo la hd
    .ok (if home.setWidth 10 = s.pkg then s3.due [.claimRequestArrival q]
         else (s3.sendTo (home.setWidth 10) (.claim (home.setWidth 10) q)).due [.remoteReplyTimeout s.cur])

/-- `AMO`. R218: Atomic read-modify-write returning the old value. -/
def execAmo (am : BitVec 2) (w : Cls) (base : Sel) (d : Sel) (la : BitVec 4) (g : Bool) (op : AOp) (off : BitVec 48) (v : Sel) (s : State) : Host.Outcome State Fault Refusal :=
  s.answer (s.atomic g am w base off (some op) (s.rd v) 0 (some d) la)

/-- `RED`. R218: Atomic read-modify-write with no result. -/
def execRed (am : BitVec 2) (w : Cls) (base : Sel) (g : Bool) (op : AOp) (off : BitVec 48) (v : Sel) (s : State) : Host.Outcome State Fault Refusal :=
  s.answer (s.atomic g am w base off (some op) (s.rd v) 0 none 0)

/-- `CAS`. R218: Atomic compare-and-swap. -/
def execCas (am : BitVec 2) (w : Cls) (base : Sel) (d : Sel) (la : BitVec 4) (g : Bool) (off : BitVec 48) (v : Sel) (s : State) : Host.Outcome State Fault Refusal :=
  s.answer (s.atomic g am w base off none (s.rd v) (s.rd d) (some d) la)

/-- `BARI`. R225: Initialises a barrier entry. -/
def execBari (d : Sel) (h : Sel) (n : Sel) (la : BitVec 4) (s : State) : Host.Outcome State Fault Refusal :=
  s.answer (s.bari d (s.rd h) (s.rd n) la)

/-- `BARA`. R225: Arrives at a barrier without waiting. -/
def execBara (d : Sel) (h : Sel) (la : BitVec 4) (s : State) : Host.Outcome State Fault Refusal :=
  s.answer (s.arrive d (s.rd h) false la)

/-- `BARW`. R225: Arrives at a barrier and sleeps until the episode ends. -/
def execBarw (d : Sel) (h : Sel) (la : BitVec 4) (s : State) : Host.Outcome State Fault Refusal :=
  s.answer (s.arrive d (s.rd h) true la)

/-- `CLAIM`. R231: Claims a name: maker, waiter, done or busy. -/
def execClaim (d : Sel) (hd : Sel) (v : VReg) (la : BitVec 4) (s : State) : Host.Outcome State Fault Refusal :=
  s.answer (s.claimOp .claim d (some hd) v 0 la)

/-- `CWAIT`. R231: Collects a waiter record's outcome, sleeping while MAKING. -/
def execCwait (d : Sel) (hd : Sel) (v : VReg) (la : BitVec 4) (s : State) : Host.Outcome State Fault Refusal :=
  s.answer (s.claimOp .cwait d (some hd) v 0 la)

/-- `FULFIL`. R234: Publishes the handle and wakes waiters. -/
def execFulfil (d : Sel) (v : VReg) (hv : Sel) (la : BitVec 4) (s : State) : Host.Outcome State Fault Refusal :=
  s.answer (s.claimOp .fulfil d none v (s.rd hv) la)

/-- `ABANDON`. R231: Maker hands the entry to the oldest waiter. -/
def execAbandon (d : Sel) (v : VReg) (la : BitVec 4) (s : State) : Host.Outcome State Fault Refusal :=
  s.answer (s.claimOp .abandon d none v 0 la)

/-- `UNPIN`. R231: Returns a pin on a MADE entry. -/
def execUnpin (d : Sel) (v : VReg) (la : BitVec 4) (s : State) : Host.Outcome State Fault Refusal :=
  s.answer (s.claimOp .unpin d none v 0 la)

/-- `CPEEK`. R231: Inspects an entry without pinning. -/
def execCpeek (d : Sel) (hd : Sel) (v : VReg) (la : BitVec 4) (s : State) : Host.Outcome State Fault Refusal :=
  s.answer (s.claimOp .cpeek d (some hd) v 0 la)

/-- What the home does with what arrives for its claim table: an end of a task or of an arena there, a notice for a context here
(R233), or a claim function. -/
def State.claimArrives (s : State) (r : ClaimReq) : State :=
  match r.fn with
  | .taskEnds => s.claimsEnd (reqWho r)
  | .arenaFreed => s.claimsRelease r.pkg r.ctx.toNat
  | .notice => s.noticeHere r.ctx.toNat r.name r.handle
  | _ => let a := s.claimStep r; a.1.claimAnswer r a.2

/-- `CLAIM_REQUEST_ARRIVAL`. R231: A claim function's request reaches the name's home tile, possibly in another package, and performs its indivisible transition of R231 there. -/
def execClaimRequestArrival (r : ClaimReq) (s : State) : Host.Outcome State Fault Refusal :=
  .next (s.claimArrives r)

/-- `ATOMIC_APPLICATION`. R220: An atomic is applied indivisibly at its place. -/
def execAtomicApplication (pkg : BitVec 10) (who : Issuer) (tag : Nat) (bit : Nat) (w : Cls) (op : Option AOp) (v : Word) (e : Word) (s : State) : Host.Outcome State Fault Refusal :=
  match s.homeFails who bit w.bits with
  | some c => .next (s.sendTo pkg (.reply pkg tag (.failed c)))
  | none =>
    match s.poisonIn bit w.bits with
    | some k => .next (s.sendTo pkg (.reply pkg tag (.poisoned k)))
    | none =>
      let a := s.apply bit w op v.toNat e.toNat
      .next (a.1.sendTo pkg (.reply pkg tag (.value (BitVec.ofNat 1024 a.2))))

/-! Replies (R218, R231, R266). -/

/-- The fault record of a store that its home has refused, at a strand. -/
def FarStore.record (f : FarStore) (cause : Nat) (t : Strand) : FaultRec :=
  { cause := cause, handle := t.regs.handle, off := t.regs.off, addr := f.site.1, extra := f.site.2 }

/-- What issued before a refused store reached its home has its effects; the open chunk, and what its home does with the cause, come
after it: the chunk is discarded and the cause delivered (R313, R329), in place of a trap of a later instruction. A strand that thread 1
serves, or that waits for it, ends by `TRANSLATION_ERROR` (R329), and keeps a window's cause until it is back. Of a task that ends the
launch keeps the cause. Only the task that stored is concerned. -/
def State.refuseStore (s : State) (f : FarStore) (cause : Nat) (again : Event) : State :=
  let t := s.strand f.tag
  if t.inst != f.inst then s
  else
    match t.status with
    | .ready | .sleep | .codeWait | .joinWait | .trapping =>
      let q := t.chunk.ckpt.set 105 (t.regs.get 105)
      let s1 := ((s.onStrand f.tag fun u => { u with regs := q, chunk := Chunk.start q, pend := u.pend.filter Pend.old }).dropLoads s f.tag).leaveReqs
        f.tag
      State.raise { s1 with agenda := s1.agenda.filter fun e => !e.delivers f.tag } f.tag cause f.site.1 f.site.2
    | .migrated | .held => if cause = 0x2A then (s.untrap f.tag).faultEnd f.tag (f.record cause t) else { s with farStores := s.farStores ++ [f] }.due [again]
    | .ending => s.recordCause f.tag (f.record cause t)
    | .free => s

/-- Logs a `VSEND` write that is lost (R182, R319): kind 5, deferred, of the unit of the core that sends it. DESIGN CHOICE (log 32): one
entry for a write, however many of its sectors fail, with its first address. -/
def State.vsendLog (s : State) (c : CopyCmd) : State :=
  if c.status != 0 then s
  else
    s.logError 5 1 (2 ^ 17 + coreOf c.strand) (some (s.strand c.strand).bind.ctx) none
      (if c.dst.g then BitVec.ofNat 64 (c.dst.starts.headD 0) else s.winAddr (coreOf c.strand) (c.dst.starts.headD 0)) none c.strand

/-- A command's report with flags and a failure: of several, the first in element order (R152). -/
def CopyCmd.note (c : CopyCmd) (fl : Flags) (fail : Option Nat) : CopyCmd :=
  { c with nv := c.nv || fl &&& fNV != 0, sa := c.sa || fl &&& fSA != 0
           status := if c.status = 0 then fail.getD 0 else c.status }

/-- A command's report of a destination that fails delivery (R161): `CPYM` says which, and `CPY` sets bit 0. -/
def CopyCmd.undelivered (c : CopyCmd) (part : Nat) : CopyCmd :=
  { c.note 0 (some 0x82) with result := if c.fn = .cpym || c.fn = .cpy then c.result ||| 2 ^ part else c.result }

/-- What the report of a copy command takes from the reply of another package (R152, R160, R161): the flags of an addition, a
poisoned destination, a destination that is gone. -/
def CopyCmd.replied (part : Nat) (cause : Option (BitVec 8)) (flags : Flags) (c : CopyCmd) : CopyCmd :=
  match cause with
  | none => c.note flags none
  | some 0xC0 => c.note flags (some 0x83)
  | some _ => (c.note flags none).undelivered part

/-- Whether a write of an engine that awaits its reply is one of a copy command: a `VSEND` has no token, and its writes are those in its
1,024 bits. -/
def CopyCmd.sentIt (f : FarStore) (c : CopyCmd) : Bool :=
  c.strand == f.strand &&
    (if c.fn = .vsend then
      f.tag == vsendTag (coreOf c.strand) && c.dst.starts.headD 0 ≤ f.site.1.toNat && f.site.1.toNat < c.dst.starts.headD 0 + 1024
    else f.tag == copyTag (coreOf c.strand) && c.tok == f.tok)

/-- What an engine does with the reply to a sector of its command. A frame that the partition does not own ends the task (R329); of a
`VSEND` a failure is logged and reported to no strand (R182). -/
def State.engineReplied (s : State) (f : FarStore) (cause : Option (BitVec 8)) (flags : Flags) : State :=
  let c := coreOf f.strand
  if f.tag = vsendTag c then
    match cause, (s.core c).copyQ.find? (CopyCmd.sentIt f) with
    | some _, some q => (s.vsendLog q).onCore c fun k => { k with copyQ := k.copyQ.map fun x => if x = q then { x with status := 0x82 } else x }
    | _, _ => s
  else if cause = some 0x2A then
    (if (s.strand f.strand).inst = f.inst && (s.strand f.strand).status != .free then s.faultEnd f.strand (f.record 0x2A (s.strand f.strand)) else s)
  else
    s.onCore c fun k =>
      { k with
        copyQ := k.copyQ.map fun x => if x.sentIt f then x.replied f.part cause flags else x
        matQ := k.matQ.map fun x => if 2 ^ 21 ≤ f.tag && x.strand = f.strand && x.tok = f.tok && cause.isSome then
          { x with status := if x.status = 0 then 0x82 else x.status } else x }

/-- The home of a remote store acknowledges it, or says why it failed (R150, R266, R329). A cause waits for the strand's own accesses
to return. -/
def State.acked (s : State) (tag bit : Nat) (cause : Option (BitVec 8)) (flags : Flags) : State :=
  match s.farStores.find? fun f => f.tag == tag && f.bit == bit with
  | none => s
  | some f =>
    let s1 : State := { s with farStores := s.farStores.erase f }
    if 2 ^ 20 ≤ tag then (if tag < pkgTag then s1.engineReplied f cause flags else s1)
    else
      match (s.strand tag).pend.find? fun p => p.kind == .ring && p.far == some (f.pkg, bit), cause with
      | some p, none =>
        ((s1.settle tag p 0).onStrand tag fun t => { t with vRing := if p.sx then t.vRing.drop 1 else t.vRing }).ringMoved tag p
      | some _, some c => s1.giveUp tag c.toNat 0
      | none, some c =>
        if (s.strand tag).pend.any fun p => p.snap.isSome then s.due [.atomicReply tag (.stored bit cause flags)]
        else s1.refuseStore f c.toNat (.atomicReply tag (.stored bit cause flags))
      | none, none => s1

/-- The strand's next chunk waits no longer for an atomic, whose place is before it (R219). -/
def Strand.performed (t : Strand) : Strand := Strand.acquires { t with chunk := { t.chunk with waits := false } }

/-- A reply to an AtomicOp of a host goes out through its port (R374). -/
def State.hostReplied (s : State) (tag : Nat) (r : Reply) : State :=
  let k := tag - (pkgTag + 2)
  match r with
  | .value v => s.send (.data (k / 2) ((upFrom 0 (if k % 2 = 1 then 8 else 4)).map fun i => v.extractLsb' (8 * i) 8) false)
  | .failed _ => s.send (.unsupported (k / 2))
  | .poisoned _ => s.send (.data (k / 2) ((upFrom 0 (if k % 2 = 1 then 8 else 4)).map fun i => s.free.extractLsb' (8 * i) 8) true)
  | _ => s

/-- A reply to strand `n`'s atomic (R218), claim function (R231) or remote store (R266). -/
def State.atomicReplied (s : State) (n : Nat) (r : Reply) : State :=
  match r with
  | .stored bit cause flags => s.acked n bit cause flags
  | .claim task name code handle => s.claimReply { pkg := s.pkg, ctx := BitVec.ofNat 8 (s.ctxOf n), task := task, strand := n } name code.toNat handle
  | .claimTrap st => s.giveUp n 0x63 (st.setWidth 64)
  | .asleep => s.claimSleeps n
  | .failed c => s.giveUp n c.toNat 0
  | .poisoned k =>
    match (s.strand n).pend.find? fun p => p.kind == .atomic with
    | some p => s.poisoned n k p
    | none => s
  | .value v =>
    match (s.strand n).pend.find? fun p => p.kind == .atomic with
    | some p =>
      let s1 := s.settle n p (extend p.sx p.bits v.toNat)
      if p.far.isSome then s1.onStrand n Strand.performed else s1
    | none => s

/-- `ATOMIC_REPLY`. R218: The old value returns to an AMO or CAS destination. -/
def execAtomicReply (n : Nat) (data : Reply) (s : State) : Host.Outcome State Fault Refusal :=
  .next (if pkgTag < n then s.hostReplied n data else s.atomicReplied n data)

end Sys2Proof.Machine
end

