-- ==== Sys2Proof/Machine/Unpack.lean ====
section
/-! DEFINITION. What `CPYZ` decodes (R162): one LZ4 frame, or one Zstandard frame of RFC 8878, with their checksums. Bytes are numbers
below 256, and output stands latest byte first. -/

namespace Sys2Proof.Machine

/-- The little-endian number of bytes. -/
def leNat (bs : List Nat) : Nat := bs.foldr (fun b v => b + 256 * v) 0

/-- The next `n` bytes and the rest, if there are as many. -/
def takeN (n : Nat) (bs : List Nat) : Option (List Nat × List Nat) :=
  if n ≤ bs.length then some (bs.take n, bs.drop n) else none

/-- The next `n` bytes as a little-endian number, and the rest. -/
def takeLe (n : Nat) (bs : List Nat) : Option (Nat × List Nat) := (takeN n bs).map fun r => (leNat r.1, r.2)

/-- Copies `n` bytes from `off` back onto output that stands latest byte first; each may be one that the copy itself put there. -/
def copyBack (off : Nat) : Nat → List Nat → List Nat
  | 0, out => out
  | n + 1, out => copyBack off n (out.getD (off - 1) 0 :: out)

/-! ### The checksums: xxHash of 32 and of 64 bits, with seed 0 -/

/-- Rotates a number of `w` bits left. -/
def rotl (w x k : Nat) : Nat := (x * 2 ^ k + x / 2 ^ (w - k)) % 2 ^ w

/-- A multiplication of `w` bits. -/
def mulW (w a b : Nat) : Nat := a * b % 2 ^ w

/-- One round of a lane: `p` and `q` are the hash's primes 1 and 2, `k` its rotation. -/
def xxRound (w p q k acc x : Nat) : Nat := mulW w (rotl w ((acc + x * q) % 2 ^ w) k) p

/-- The four lanes over whole stripes of four words of `b` bytes, and what is left. -/
def xxStripes (w b p q k : Nat) : Nat → List Nat → List Nat → List Nat × List Nat
  | 0, acc, bs => (acc, bs)
  | n + 1, acc, bs =>
    if bs.length < 4 * b then (acc, bs)
    else
      let word (i : Nat) : Nat := leNat ((bs.drop (b * i)).take b)
      xxStripes w b p q k n (acc.mapIdx fun i a => xxRound w p q k a (word i)) (bs.drop (4 * b))

/-- xxHash of 32 bits. -/
def xxh32 (bs : List Nat) : Nat :=
  let p := 2654435761
  let q := 2246822519
  let p3 := 3266489917
  let p4 := 668265263
  let p5 := 374761393
  let r := xxStripes 32 4 p q 13 bs.length [(p + q) % 2 ^ 32, q, 0, 2 ^ 32 - p] bs
  let h0 := if bs.length < 16 then p5
    else rotl 32 (r.1.getD 0 0) 1 + rotl 32 (r.1.getD 1 0) 7 + rotl 32 (r.1.getD 2 0) 12 + rotl 32 (r.1.getD 3 0) 18
  let rec tail : Nat → Nat → List Nat → Nat
    | 0, h, _ => h
    | n + 1, h, bs =>
      if 4 ≤ bs.length then tail n (mulW 32 (rotl 32 ((h + leNat (bs.take 4) * p3) % 2 ^ 32) 17) p4) (bs.drop 4)
      else match bs with
        | [] => h
        | b :: rest => tail n (mulW 32 (rotl 32 ((h + b * p5) % 2 ^ 32) 11) p) rest
  let h := tail (bs.length + 1) ((h0 + bs.length) % 2 ^ 32) r.2
  let h := mulW 32 (h ^^^ h / 2 ^ 15) q
  let h := mulW 32 (h ^^^ h / 2 ^ 13) p3
  h ^^^ h / 2 ^ 16

/-- xxHash of 64 bits. -/
def xxh64 (bs : List Nat) : Nat :=
  let p := 11400714785074694791
  let q := 14029467366897019727
  let p3 := 1609587929392839161
  let p4 := 9650029242287828579
  let p5 := 2870177450012600261
  let r := xxStripes 64 8 p q 31 bs.length [(p + q) % 2 ^ 64, q, 0, 2 ^ 64 - p] bs
  let merge (h v : Nat) : Nat := ((h ^^^ xxRound 64 p q 31 0 v) * p + p4) % 2 ^ 64
  let h0 := if bs.length < 32 then p5
    else r.1.foldl merge ((rotl 64 (r.1.getD 0 0) 1 + rotl 64 (r.1.getD 1 0) 7 + rotl 64 (r.1.getD 2 0) 12 + rotl 64 (r.1.getD 3 0) 18) % 2 ^ 64)
  let rec tail : Nat → Nat → List Nat → Nat
    | 0, h, _ => h
    | n + 1, h, bs =>
      if 8 ≤ bs.length then
        tail n ((rotl 64 (h ^^^ xxRound 64 p q 31 0 (leNat (bs.take 8))) 27 * p + p4) % 2 ^ 64) (bs.drop 8)
      else if 4 ≤ bs.length then
        tail n ((rotl 64 (h ^^^ mulW 64 (leNat (bs.take 4)) p) 23 * q + p3) % 2 ^ 64) (bs.drop 4)
      else match bs with
        | [] => h
        | b :: rest => tail n (mulW 64 (rotl 64 (h ^^^ mulW 64 b p5) 11) p) rest
  let h := tail (bs.length + 1) ((h0 + bs.length) % 2 ^ 64) r.2
  let h := mulW 64 (h ^^^ h / 2 ^ 33) q
  let h := mulW 64 (h ^^^ h / 2 ^ 29) p3
  h ^^^ h / 2 ^ 32

/-! ### What a decoding gives -/

/-- How a frame ends: decoded, with what stands behind it; malformed or with a wrong checksum; or of a kind that `CPYZ` does not take. -/
inductive FrameEnd where
  | decoded (rest : List Nat)
  | corrupt
  | unsupported
  deriving DecidableEq, Repr

/-- What a decoder made of its input: the output, latest byte first, with what was decoded before a failure. -/
structure Unpacked where
  out : List Nat
  fin : FrameEnd
  deriving DecidableEq, Repr

/-! ### LZ4 frames -/

/-- A length of the LZ4 block format: bytes of 255 go on. -/
def lz4More : Nat → List Nat → Option (Nat × List Nat)
  | n, 255 :: bs => lz4More (n + 255) bs
  | n, b :: bs => some (n + b, bs)
  | _, [] => none

/-- A length whose four bits stand in a token. -/
def lz4Len (n : Nat) (bs : List Nat) : Option (Nat × List Nat) := if n = 15 then lz4More 15 bs else some (n, bs)

/-- The literals of one LZ4 sequence put onto the output, with the rest of the block. -/
def lz4Literals (tok : Nat) (bs out : List Nat) : Option (List Nat × List Nat) :=
  (lz4Len (tok / 16) bs).bind fun r => (takeN r.1 r.2).map fun l => (l.1.reverse ++ out, l.2)

/-- The match of one LZ4 sequence put onto the output, whose first `base` bytes it may not refer to, with the rest of the block. -/
def lz4Match (tok base : Nat) (bs out : List Nat) : Option (List Nat × List Nat) :=
  (takeLe 2 bs).bind fun o => (lz4Len (tok % 16) o.2).bind fun r =>
    if o.1 = 0 || out.length - base < o.1 then none else some (copyBack o.1 (r.1 + 4) out, r.2)

/-- The sequences of a block: the last has literals alone. `base` bytes of the output may not be referred to. The flag says that the
block is well formed. -/
def lz4Block (base : Nat) : Nat → List Nat → List Nat → List Nat × Bool
  | 0, _, out => (out, false)
  | _ + 1, [], out => (out, false)
  | n + 1, tok :: bs, out =>
    match lz4Literals tok bs out with
    | none => (out, false)
    | some (out1, []) => (out1, true)
    | some (out1, bs1) =>
      match lz4Match tok base bs1 out1 with
      | none => (out1, false)
      | some (out2, bs2) => lz4Block base n bs2 out2

/-- What an LZ4 frame's header says. -/
structure Lz4Head where
  linked : Bool
  blockSum : Bool
  size : Option Nat
  contentSum : Bool
  blockMax : Nat
  deriving DecidableEq, Repr

/-- The end of an LZ4 frame: the size and the checksum of the content, where the header gives them. -/
def lz4End (h : Lz4Head) (bs out : List Nat) : Unpacked :=
  if h.size.any fun n => n != out.length then ⟨out, .corrupt⟩
  else if h.contentSum then
    match takeLe 4 bs with
    | some r => if r.1 = xxh32 out.reverse then ⟨out, .decoded r.2⟩ else ⟨out, .corrupt⟩
    | none => ⟨out, .corrupt⟩
  else ⟨out, .decoded bs⟩

/-- The blocks of an LZ4 frame, up to the end mark. -/
def lz4Blocks (h : Lz4Head) : Nat → List Nat → List Nat → Unpacked
  | 0, _, out => ⟨out, .corrupt⟩
  | n + 1, bs, out =>
    match takeLe 4 bs with
    | none => ⟨out, .corrupt⟩
    | some (0, bs1) => lz4End h bs1 out
    | some (sz, bs1) =>
      match takeN (sz % 2 ^ 31) bs1 with
      | none => ⟨out, .corrupt⟩
      | some (blk, bs2) =>
        let r := if 2 ^ 31 ≤ sz then (blk.reverse ++ out, true)
          else lz4Block (if h.linked then 0 else out.length) (blk.length + 1) blk out
        let sum := if h.blockSum then takeLe 4 bs2 else some (xxh32 blk, bs2)
        match sum with
        | none => ⟨out, .corrupt⟩
        | some (v, bs3) =>
          if h.blockMax < sz % 2 ^ 31 || (h.blockSum && v != xxh32 blk) then ⟨out, .corrupt⟩
          else if !r.2 || h.blockMax < r.1.length - out.length then ⟨r.1, .corrupt⟩
          else lz4Blocks h n bs3 r.1

/-- The header behind the magic number of an LZ4 frame, and the rest; the second part is false for a frame with a dictionary. -/
def lz4Header (bs : List Nat) : Option (Lz4Head × Bool × List Nat) :=
  (takeN 2 bs).bind fun f =>
    let flg := f.1.getD 0 0
    let bd := f.1.getD 1 0
    let sized := flg.testBit 3
    let dict := flg.testBit 0
    let n := (if sized then 8 else 0) + (if dict then 4 else 0)
    (takeN n f.2).bind fun d => (takeLe 1 d.2).bind fun hc =>
      if flg / 64 != 1 || flg.testBit 1 || bd.testBit 7 || bd % 16 != 0 || bd / 16 < 4 || hc.1 != xxh32 (bs.take (2 + n)) / 256 % 256 then
        none
      else some ({ linked := !flg.testBit 5, blockSum := flg.testBit 4, contentSum := flg.testBit 2, blockMax := 4 ^ (bd / 16 + 4),
                   size := if sized then some (leNat (d.1.take 8)) else none }, !dict, hc.2)

/-- Decodes an LZ4 frame. -/
def unpackLz4 (bs : List Nat) : Unpacked :=
  match takeLe 4 bs with
  | none => ⟨[], .corrupt⟩
  | some (magic, rest) =>
    if magic = 0x184C2102 || magic / 16 = 0x184D2A5 then ⟨[], .unsupported⟩
    else if magic != 0x184D2204 then ⟨[], .corrupt⟩
    else match lz4Header rest with
      | none => ⟨[], .corrupt⟩
      | some (h, ok, body) => if ok then lz4Blocks h (body.length + 1) body [] else ⟨[], .unsupported⟩

/-! ### Zstandard: bit streams and FSE tables -/

/-- A stream read backwards: the bits left, as a number, how many they are, and whether a read went past the first. -/
structure BackBits where
  val : Nat
  left : Nat
  past : Bool
  deriving DecidableEq, Repr

/-- The backward stream of bytes: its bits below the highest one of the last byte, which is not zero. -/
def backBits (bs : List Nat) : Option BackBits :=
  if bs.isEmpty || bs.getLastD 0 = 0 then none
  else
    let v := leNat bs
    some { val := v - 2 ^ Nat.log2 v, left := Nat.log2 v, past := false }

/-- Reads `n` bits; bits before the first are zeros. -/
def BackBits.read (b : BackBits) (n : Nat) : Nat × BackBits :=
  if n ≤ b.left then (b.val / 2 ^ (b.left - n), { b with val := b.val % 2 ^ (b.left - n), left := b.left - n })
  else (b.val * 2 ^ (n - b.left), { val := 0, left := 0, past := true })

/-- An FSE table: the accuracy in bits, and for each state its symbol, the bits it reads and the base it adds. -/
structure FseTable where
  acc : Nat
  rows : List (Nat × Nat × Nat)
  deriving DecidableEq, Repr

/-- A state's row. -/
def FseTable.row (t : FseTable) (i : Nat) : Nat × Nat × Nat := t.rows.getD i (0, 0, 0)

/-- The state that follows, read from a stream. -/
def FseTable.next (t : FseTable) (i : Nat) (b : BackBits) : Nat × BackBits :=
  let r := b.read (t.row i).2.1
  ((t.row i).2.2 + r.1, r.2)

/-- The flags behind a probability of zero: how many further symbols have it, and the bit that follows. -/
def zeroRun (v : Nat) : Nat → Nat → Nat → Nat × Nat
  | 0, pos, acc => (acc, pos)
  | n + 1, pos, acc =>
    let k := v / 2 ^ pos % 4
    if k = 3 then zeroRun v n (pos + 2) (acc + 3) else (acc + k, pos + 2)

/-- The probabilities of an FSE table description, one more than each (0 stands for 'less than 1'), and the bit that follows: `v` is
the description as a number, `rem` what the probabilities still lack. -/
def fseProbs (v : Nat) : Nat → Nat → Nat → List Nat → Option (List Nat × Nat)
  | 0, _, _, _ => none
  | n + 1, pos, rem, acc =>
    if rem = 0 then some (acc, pos)
    else
      let bits := Nat.log2 (rem + 1) + 1
      let x := v / 2 ^ pos % 2 ^ bits
      let low := x % 2 ^ (bits - 1)
      let thr := 2 ^ bits - 1 - (rem + 1)
      let short := decide (low < thr)
      let p := if short then low else if 2 ^ (bits - 1) ≤ x then x - thr else x
      let pos1 := pos + (if short then bits - 1 else bits)
      let used := if p = 0 then 1 else p - 1
      if rem < used then none
      else if p = 1 then
        let z := zeroRun v 128 pos1 0
        fseProbs v n z.2 rem (acc ++ List.replicate (z.1 + 1) 1)
      else fseProbs v n pos1 (rem - used) (acc ++ [p])

/-- The place of a state after another, skipping the ones at the end that symbols of 'less than 1' hold. -/
def fseStep (size top : Nat) : Nat → Nat → Nat
  | 0, i => i
  | n + 1, i =>
    let j := (i + size / 2 + size / 8 + 3) % size
    if top ≤ j then fseStep size top n j else j

/-- Numbers a symbol's states in their order: `k` is how many it has seen. -/
def fseRows (acc : Nat) (ps : List Nat) : List Nat → List Nat → List (Nat × Nat × Nat)
  | [], _ => []
  | sym :: rest, seen =>
    let p := ps.getD sym 0
    let x := (if p = 0 then 1 else p - 1) + seen.getD sym 0
    let nb := acc - Nat.log2 x
    (sym, nb, x * 2 ^ nb - 2 ^ acc) :: fseRows acc ps rest (seen.modify sym (· + 1))

/-- The FSE table of probabilities, one more than each (RFC 8878, 4.1.1). -/
def fseBuild (acc : Nat) (ps : List Nat) : FseTable :=
  let size := 2 ^ acc
  let lows := ((List.range ps.length).filter fun i => ps.getD i 1 == 0)
  let top := size - lows.length
  let start : List Nat := List.replicate top 0 ++ lows.reverse
  let syms := (List.range ps.length).flatMap fun i => List.replicate (ps.getD i 1 - 1) i
  let cells := (syms.foldl (fun (r : List Nat × Nat) sym => (r.1.set r.2 sym, fseStep size top size r.2)) (start, 0)).1
  { acc := acc, rows := fseRows acc ps cells (List.replicate ps.length 0) }

/-- Reads an FSE table description: at most `maxAcc` bits of accuracy and symbols up to `maxSym`; the table and the rest. -/
def fseRead (maxAcc maxSym : Nat) (bs : List Nat) : Option (FseTable × List Nat) :=
  let v := leNat bs
  let acc := v % 16 + 5
  if bs.isEmpty || maxAcc < acc then none
  else (fseProbs v 256 4 (2 ^ acc) []).bind fun r =>
    let n := (r.2 + 7) / 8
    if bs.length < n || maxSym + 1 < r.1.length then none else some (fseBuild acc r.1, bs.drop n)

/-! ### Zstandard: Huffman trees -/

/-- A Huffman table: its width in bits, and the symbol and the width of the code of each of its cells. -/
structure HufTable where
  bits : Nat
  cells : List (Nat × Nat)
  deriving DecidableEq, Repr

/-- The table of the weights of all symbols but the last, whose weight fills the tree (RFC 8878, 4.2.1). -/
def hufBuild (ws : List Nat) : Option HufTable :=
  let sum := (ws.map fun w => if w = 0 then 0 else 2 ^ (w - 1)).sum
  let bits := Nat.log2 sum + 1
  let left := 2 ^ bits - sum
  if sum = 0 || 11 < bits || 255 < ws.length || left != 2 ^ Nat.log2 left then none
  else
    let all := ws ++ [Nat.log2 left + 1]
    some { bits := bits,
           cells := (List.range bits).flatMap fun k => (List.range all.length).flatMap fun sym =>
             if all.getD sym 0 = k + 1 then List.replicate (2 ^ k) (sym, bits - k) else [] }

/-- Weights read from an FSE stream by two states in turn, until the stream ends. -/
def hufWeights (t : FseTable) : Nat → Nat → Nat → BackBits → List Nat → Option (List Nat)
  | 0, _, _, _, _ => none
  | n + 1, i, j, b, acc =>
    let r := t.next i b
    let acc1 := acc ++ [(t.row i).1]
    if r.2.past then some (acc1 ++ [(t.row j).1]) else hufWeights t n j r.1 r.2 acc1

/-- Reads a Huffman tree description; the table and the rest. -/
def hufRead (bs : List Nat) : Option (HufTable × List Nat) :=
  (takeLe 1 bs).bind fun h =>
    if 128 ≤ h.1 then
      let n := h.1 - 127
      (takeN ((n + 1) / 2) h.2).bind fun d =>
        (hufBuild ((d.1.flatMap fun b => [b / 16, b % 16]).take n)).map fun t => (t, d.2)
    else (takeN h.1 h.2).bind fun d => (fseRead 6 255 d.1).bind fun f => (backBits f.2).bind fun b =>
      let r1 := b.read f.1.acc
      let r2 := r1.2.read f.1.acc
      if r2.2.past then none
      else (hufWeights f.1 256 r1.1 r2.1 r2.2 []).bind fun ws => (hufBuild ws).map fun t => (t, d.2)

/-- Decodes the symbols of one Huffman stream, which must end with the last. -/
def hufStream (t : HufTable) : Nat → BackBits → List Nat → Option (List Nat)
  | 0, b, acc => if b.left = 0 then some acc.reverse else none
  | n + 1, b, acc =>
    let c := t.cells.getD (b.read t.bits).1 (0, 0)
    if b.left < c.2 then none else hufStream t n (b.read c.2).2 (c.1 :: acc)

/-- One or four Huffman streams of `n` symbols in all. -/
def hufLiterals (t : HufTable) (four : Bool) (n : Nat) (bs : List Nat) : Option (List Nat) :=
  let one (n : Nat) (bs : List Nat) : Option (List Nat) := (backBits bs).bind fun b => hufStream t n b []
  if four then
    let k := (n + 3) / 4
    (takeLe 2 bs).bind fun a => (takeLe 2 a.2).bind fun b => (takeLe 2 b.2).bind fun c =>
      (takeN a.1 c.2).bind fun s1 => (takeN b.1 s1.2).bind fun s2 => (takeN c.1 s2.2).bind fun s3 =>
        if n < 3 * k then none
        else (one k s1.1).bind fun l1 => (one k s2.1).bind fun l2 => (one k s3.1).bind fun l3 =>
          (one (n - 3 * k) s3.2).map fun l4 => l1 ++ l2 ++ l3 ++ l4
  else one n bs

/-! ### Zstandard: blocks and frames -/

/-- What a block takes from the blocks before it: the tables last used and the three last offsets. -/
structure ZPrev where
  huf : Option HufTable
  ll : Option FseTable
  off : Option FseTable
  ml : Option FseTable
  reps : Nat × Nat × Nat
  deriving DecidableEq, Repr

/-- The first block's. -/
def ZPrev.start : ZPrev := { huf := none, ll := none, off := none, ml := none, reps := (1, 4, 8) }

/-- The literals section: the literals, the Huffman table then last used, and the rest of the block. -/
def zLiterals (prev : Option HufTable) (bs : List Nat) : Option (List Nat × Option HufTable × List Nat) :=
  let kind := leNat (bs.take 1) % 4
  let sf := leNat (bs.take 1) / 4 % 4
  if kind < 2 then
    let hn := if sf % 2 = 0 then 1 else if sf = 1 then 2 else 3
    (takeLe hn bs).bind fun h =>
      let n := h.1 / (if sf % 2 = 0 then 8 else 16)
      if kind = 0 then (takeN n h.2).map fun l => (l.1, prev, l.2)
      else (takeLe 1 h.2).map fun l => (List.replicate n l.1, prev, l.2)
  else
    let hn := if sf < 2 then 3 else sf + 2
    let w := if sf < 2 then 10 else if sf = 2 then 14 else 18
    (takeLe hn bs).bind fun h =>
      let n := h.1 / 16 % 2 ^ w
      (takeN (h.1 / 2 ^ (4 + w)) h.2).bind fun l =>
        (if kind = 2 then hufRead l.1 else prev.map fun t => (t, l.1)).bind fun t =>
          (hufLiterals t.1 (sf != 0) n t.2).map fun ls => (ls, some t.1, l.2)

/-- The baseline and the extra bits of a literals length code. -/
def zLitLen (c : Nat) : Nat × Nat :=
  if c < 16 then (c, 0)
  else [(16, 1), (18, 1), (20, 1), (22, 1), (24, 2), (28, 2), (32, 3), (40, 3), (48, 4), (64, 6), (128, 7), (256, 8), (512, 9), (1024, 10),
        (2048, 11), (4096, 12), (8192, 13), (16384, 14), (32768, 15), (65536, 16)].getD (c - 16) (0, 0)

/-- The baseline and the extra bits of a match length code. -/
def zMatchLen (c : Nat) : Nat × Nat :=
  if c < 32 then (c + 3, 0)
  else [(35, 1), (37, 1), (39, 1), (41, 1), (43, 2), (47, 2), (51, 3), (59, 3), (67, 4), (83, 4), (99, 5), (131, 7), (259, 8), (515, 9),
        (1027, 10), (2051, 11), (4099, 12), (8195, 13), (16387, 14), (32771, 15), (65539, 16)].getD (c - 32) (0, 0)

/-- The predefined table of literals lengths. -/
def zLitDefault : FseTable :=
  fseBuild 6 [5, 4, 3, 3, 3, 3, 3, 3, 3, 3, 3, 3, 3, 2, 2, 2, 3, 3, 3, 3, 3, 3, 3, 3, 3, 4, 3, 2, 2, 2, 2, 2, 0, 0, 0, 0]

/-- The predefined table of match lengths. -/
def zMatchDefault : FseTable :=
  fseBuild 6 ([2, 5, 4, 3, 3, 3, 3, 3, 3] ++ List.replicate 37 2 ++ List.replicate 7 0)

/-- The predefined table of offsets. -/
def zOffDefault : FseTable := fseBuild 5 ([2, 2, 2, 2, 2, 2, 3, 3, 3] ++ List.replicate 15 2 ++ List.replicate 5 0)

/-- The table that a mode of the sequences section gives, and the rest. -/
def zTable (mode : Nat) (dflt : FseTable) (prev : Option FseTable) (maxAcc maxSym : Nat) (bs : List Nat) : Option (FseTable × List Nat) :=
  if mode = 0 then some (dflt, bs)
  else if mode = 1 then
    (takeLe 1 bs).bind fun r => if maxSym < r.1 then none else some ({ acc := 0, rows := [(r.1, 0, 0)] }, r.2)
  else if mode = 2 then fseRead maxAcc maxSym bs
  else prev.map fun t => (t, bs)

/-- The offset of a sequence and the three offsets then last used. -/
def zOffset (v ll : Nat) (r : Nat × Nat × Nat) : Nat × Nat × Nat × Nat :=
  if 3 < v then (v - 3, v - 3, r.1, r.2.1)
  else
    match v - 1 + (if ll = 0 then 1 else 0) with
    | 0 => (r.1, r)
    | 1 => (r.2.1, r.2.1, r.1, r.2.2)
    | 2 => (r.2.2, r.2.2, r.1, r.2.1)
    | _ => (r.1 - 1, r.1 - 1, r.1, r.2.1)

/-- What the sequences of a block leave: the stream, the literals left, the output, the offsets, and whether all was well formed. -/
structure ZRun where
  bits : BackBits
  lits : List Nat
  out : List Nat
  reps : Nat × Nat × Nat
  ok : Bool
  deriving DecidableEq, Repr

/-- The sequences of a block (RFC 8878, 3.1.1.3.2 and 3.1.1.4), `n` of them: `i`, `j` and `k` are the states of the literals length,
the offset and the match length; `win` is the window. -/
def zSequences (tl tf tm : FseTable) (win : Nat) : Nat → Nat → Nat → Nat → ZRun → ZRun
  | 0, _, _, _, z => { z with ok := z.bits.left == 0 && !z.bits.past }
  | n + 1, i, j, k, z =>
    let oc := (tf.row j).1
    let mc := zMatchLen (tm.row k).1
    let lc := zLitLen (tl.row i).1
    let ro := z.bits.read oc
    let rm := ro.2.read mc.2
    let rl := rm.2.read lc.2
    let ll := lc.1 + rl.1
    let o := zOffset (2 ^ oc + ro.1) ll z.reps
    let out1 := (z.lits.take ll).reverse ++ z.out
    if rl.2.past || z.lits.length < ll then { z with ok := false }
    else if o.1 = 0 || out1.length < o.1 || win < o.1 then { z with out := out1, ok := false }
    else
      let z1 := { z with lits := z.lits.drop ll, out := copyBack o.1 (mc.1 + rm.1) out1, reps := o.2 }
      if n = 0 then zSequences tl tf tm win 0 i j k { z1 with bits := rl.2 }
      else
        let si := tl.next i rl.2
        let sk := tm.next k si.2
        let sj := tf.next j sk.2
        zSequences tl tf tm win n si.1 sj.1 sk.1 { z1 with bits := sj.2 }

/-- How many sequences a section has, and the rest. -/
def zCount (bs : List Nat) : Option (Nat × List Nat) :=
  (takeLe 1 bs).bind fun a =>
    if a.1 < 128 then some a
    else if a.1 < 255 then (takeLe 1 a.2).map fun b => ((a.1 - 128) * 256 + b.1, b.2)
    else (takeLe 2 a.2).map fun b => (b.1 + 0x7F00, b.2)

/-- The tables of a sequences section and the states with which its stream begins. -/
def zTables (p : ZPrev) (bs : List Nat) : Option (FseTable × FseTable × FseTable × List Nat) :=
  (takeLe 1 bs).bind fun m =>
    if m.1 % 4 != 0 then none
    else (zTable (m.1 / 64) zLitDefault p.ll 9 35 m.2).bind fun l =>
      (zTable (m.1 / 16 % 4) zOffDefault p.off 8 31 l.2).bind fun o =>
        (zTable (m.1 / 4 % 4) zMatchDefault p.ml 9 52 o.2).map fun t => (l.1, o.1, t.1, t.2)

/-- A compressed block: the output, and what the next block takes, or nothing if the block is malformed. -/
def zBlock (win : Nat) (p : ZPrev) (bs out : List Nat) : List Nat × Option ZPrev :=
  match zLiterals p.huf bs with
  | none => (out, none)
  | some (lits, huf, bs1) =>
    match zCount bs1 with
    | none => (out, none)
    | some (0, bs2) => (lits.reverse ++ out, if bs2.isEmpty then some { p with huf := huf } else none)
    | some (n, bs2) =>
      match (zTables p bs2).bind fun t => (backBits t.2.2.2).map fun b => (t, b) with
      | none => (out, none)
      | some ((tl, tf, tm, _), b) =>
        let ri := b.read tl.acc
        let rj := ri.2.read tf.acc
        let rk := rj.2.read tm.acc
        if rk.2.past then (out, none)
        else
          let z := zSequences tl tf tm win n ri.1 rj.1 rk.1 { bits := rk.2, lits := lits, out := out, reps := p.reps, ok := true }
          if z.ok then (z.lits.reverse ++ z.out, some { huf := huf, ll := some tl, off := some tf, ml := some tm, reps := z.reps })
          else (z.out, none)

/-- What a Zstandard frame's header says. -/
structure ZHead where
  window : Nat
  dict : Nat
  size : Option Nat
  sum : Bool
  deriving DecidableEq, Repr

/-- The header behind the magic number (RFC 8878, 3.1.1.1), and the rest. -/
def zHeader (bs : List Nat) : Option (ZHead × List Nat) :=
  (takeLe 1 bs).bind fun d =>
    let single := d.1.testBit 5
    let fcs := if d.1 / 64 = 0 then (if single then 1 else 0) else 2 ^ (d.1 / 64)
    (takeLe (if single then 0 else 1) d.2).bind fun w =>
      (takeLe ([0, 1, 2, 4].getD (d.1 % 4) 0) w.2).bind fun i => (takeLe fcs i.2).bind fun c =>
        if d.1.testBit 3 then none
        else
          let size := if fcs = 2 then c.1 + 256 else c.1
          let base := 2 ^ (10 + w.1 / 8)
          some ({ window := if single then size else base + base / 8 * (w.1 % 8), dict := i.1,
                  size := if fcs = 0 then none else some size, sum := d.1.testBit 2 }, c.2)

/-- The end of a Zstandard frame: the size and the checksum of the content, where the header gives them. -/
def zEnd (h : ZHead) (bs out : List Nat) : Unpacked :=
  if h.size.any fun n => n != out.length then ⟨out, .corrupt⟩
  else if h.sum then
    match takeLe 4 bs with
    | some r => if r.1 = xxh64 out.reverse % 2 ^ 32 then ⟨out, .decoded r.2⟩ else ⟨out, .corrupt⟩
    | none => ⟨out, .corrupt⟩
  else ⟨out, .decoded bs⟩

/-- The blocks of a Zstandard frame, up to the last (RFC 8878, 3.1.1.2). -/
def zBlocks (h : ZHead) : Nat → ZPrev → List Nat → List Nat → Unpacked
  | 0, _, _, out => ⟨out, .corrupt⟩
  | n + 1, p, bs, out =>
    match takeLe 3 bs with
    | none => ⟨out, .corrupt⟩
    | some (v, bs1) =>
      let kind := v / 2 % 4
      let size := v / 8
      let most := min h.window (2 ^ 17)
      match takeN (if kind = 1 then 1 else size) bs1 with
      | none => ⟨out, .corrupt⟩
      | some (body, bs2) =>
        if most < size || kind = 3 then ⟨out, .corrupt⟩
        else
          let r := if kind = 0 then (body.reverse ++ out, some p)
            else if kind = 1 then (List.replicate size (body.headD 0) ++ out, some p)
            else zBlock h.window p body out
          match r.2 with
          | none => ⟨r.1, .corrupt⟩
          | some p1 =>
            if most < r.1.length - out.length then ⟨r.1, .corrupt⟩
            else if v % 2 = 1 then zEnd h bs2 r.1
            else zBlocks h n p1 bs2 r.1

/-- Decodes a Zstandard frame. -/
def unpackZstd (bs : List Nat) : Unpacked :=
  match takeLe 4 bs with
  | none => ⟨[], .corrupt⟩
  | some (magic, rest) =>
    if magic / 16 = 0x184D2A5 then ⟨[], .unsupported⟩
    else if magic != 0xFD2FB528 then ⟨[], .corrupt⟩
    else match zHeader rest with
      | none => ⟨[], .corrupt⟩
      | some (h, body) =>
        if h.dict != 0 || 2 ^ 23 < h.window then ⟨[], .unsupported⟩
        else zBlocks h (body.length + 1) ZPrev.start body []

end Sys2Proof.Machine
end

