-- ==== Sys2Proof/Machine/Copy.lean ====
section
/-! DEFINITION. The copy engine: major 0x2C functions 0 to 5, the engine's steps, and `VSEND`'s placement (R155 to R162, R181,
R182). -/

namespace Sys2Proof.Machine

/-! Runs and their checks (R157, R39, R43). -/

/-- The class of a copy format (R155). -/
def fmtCls (f : Fmt) : Cls := f.elt.cls

/-- The address of element `k` after the one at `a`. -/
def elemAddr (a : Nat) (c : Cls) (k : Nat) : Nat := (addrOf ((index a c : Int) + k) c).toNat

/-- The bits of a run of `k` elements that starts at `a`, to the end of its last element (R34). -/
def runBits (a : Nat) (c : Cls) (k : Nat) : Nat := elemAddr a c (k - 1) + c.bits - a

/-- A run cut at 2^19-bit pages. -/
def pageRuns : Nat → Nat → Nat → List (Nat × Nat)
  | 0, _, _ => []
  | f + 1, a, len =>
    let room := 2 ^ 19 - a % 2 ^ 19
    if len ≤ room then [(a, len)] else (a, room) :: pageRuns f (a + room) (len - room)

/-- Translates the pages of an ordinary G run. -/
def State.runPages (s : State) (need : Rights) (c : Cls) (hi : Nat) : List (Nat × Nat) → Res (List Seg)
  | [] => .ok []
  | (a, len) :: r => do
    let p ← s.translate s.cur a need false c hi
    let ps ← State.runPages s need c hi r
    .ok ({ va := a, bits := len, place := p } :: ps)

/-- R43 on a run of `len` bits, windows apart. -/
def State.runShape (s : State) (sp : Space) (a len : Nat) (c : Cls) (hi : Nat) : Res Unit := do
  let fail (cause : Nat) : Stop := .trap cause (BitVec.ofNat 64 a) (addrExtra sp c hi)
  ensure (sp != .g || a < 2 ^ 57) (fail 0x22)
  ensure (legal a c && !(sp == .g && winStart ≤ a && a < resStart && (c != .w64 || a % 64 != 0))) (fail 0x20)
  ensure (sp != .p || a + len ≤ s.me.bind.spSize) (fail 0x21)
  ensure (sp != .g || oneWindow a (lastBit (a + len - c.bits) c)) (fail 0x23)

/-- All the checks of one run, and where it stands (R157, step 3). -/
def State.checkRun (s : State) (g : Bool) (a len : Nat) (c : Cls) (need : Rights) (hi : Nat) : Res (List Seg) := do
  let sp : Space := if g then .g else .p
  let fail (cause : Nat) : Stop := .trap cause (BitVec.ofNat 64 a) (addrExtra sp c hi)
  s.runShape sp a len c hi
  if !g then .ok [{ va := a, bits := len, place := .here (padBase (coreOf s.cur) + a) }]
  else if winStart ≤ a then do
    ensure (!s.winAbsent a) (fail 0x24)
    ensure (!s.winDenied (s.ctxOf s.cur) a len) (fail 0x25)
    .ok [{ va := a, bits := len, place := if winPkg a = s.pkg then .here (winBit a) else .far (winPkg a) (winBit a) }]
  else do
    s.checkLease s.cur a len need sp c hi
    s.runPages need c hi (pageRuns (len / 2 ^ 19 + 2) a len)

/-- The entries of a side's pages are the last used of their TLBs (R333). -/
def State.hitSide (s : State) (d : Side) : State := d.segs.foldl (fun a g => a.hit s.cur (if d.g then .g else .p) g.va) s

/-- The runs of a side: for a walk one of `len` elements for each row, else one of all rows (R156). -/
def Side.runs (d : Side) (rows len : Nat) : List (Nat × Nat) :=
  if d.walked then d.starts.map fun a => (a, len) else (d.starts.take 1).map fun a => (a, rows * len)

/-- The checks of row `i` of a side. -/
def State.checkRow (s : State) (d : Side) (runs : List (Nat × Nat)) (c : Cls) (need : Rights) (hi i : Nat) : Res (List Seg) :=
  match runs[i]? with
  | some (a, k) => s.checkRun d.g a (runBits a c k) c need hi
  | none => .ok []

/-- The checks of destination row `i` of a command: those of every row, or for `CPYM` the ones that R161 does not make of each
destination core. -/
def State.checkDest (s : State) (mcast : Bool) (d : Side) (runs : List (Nat × Nat)) (c : Cls) (need : Rights) (i : Nat) : Res (List Seg) :=
  if mcast then
    match runs[i]? with
    | some (a, k) => (s.runShape .g a (runBits a c k) c 2).map fun _ => []
    | none => .ok []
  else s.checkRow d runs c need 2 i

/-- The rows of source, destination and header plane in element order (R157). -/
def State.checkRows (s : State) (mcast : Bool) (rows len ng : Nat) (src dst hdr : Side) (sc dc : Cls) (need : Rights) :
    List Nat → Res (List Seg × List Seg × List Seg)
  | [] => .ok ([], [], [])
  | i :: is => do
    let a ← s.checkRow src (src.runs rows len) sc 1 1 i
    let b ← s.checkDest mcast dst (dst.runs rows len) dc need i
    let c ← s.checkRow hdr (hdr.runs rows ng) .w32 1 3 i
    let r ← State.checkRows s mcast rows len ng src dst hdr sc dc need is
    .ok (a ++ r.1, b ++ r.2.1, c ++ r.2.2)

/-- The row starts that a selector gives (R156): a walk's, or one address. -/
def State.sideOf (s : State) (g : Bool) (x : Sel) : Res Side :=
  match x with
  | .w n => (s.boundWalk n).map fun w => { g := g, walked := true, starts := w.starts, segs := [] }
  | y => .ok { g := g, walked := false, starts := [(s.rd y).toNat], segs := [] }

/-- The group size of a format. -/
def fmtGroup (f : Fmt) : Nat :=
  match f with
  | .grouped _ g => g.size
  | .ty _ => 1

/-- A command with nothing set. -/
def CopyCmd.empty (fn : CopyFn) (strand : Nat) (f : CopyFlags) : CopyCmd :=
  { fn := fn, strand := strand, tok := 0, accepted := false, flags := f, len := 0, rows := 0, dst := Side.none, src := Side.none,
    hdr := Side.none, mask := 0, slot := 0, off := 0, seed := 0, kind := false, cap := 0, data := 0, bytes := [], bad := false,
    done := 0, held := [], sent := 0, result := 0, status := 0, nv := false, sa := false }

/-- The FLAGS of a command that has none. -/
def noFlags : CopyFlags := { sat := false, rm := .ne, dsp := false, ssp := false, dfmt := .ty .n8, sfmt := .ty .n8 }

/-- An engine command of the acting strand is issued (R152, R158): its token reads 0 and is pending, and the command waits for
its acceptance. -/
def State.issueCopy (s : State) (tok : BitVec 6) (la : BitVec 4) (c : CopyCmd) : State :=
  let r := s.me.regs
  let s1 := ((((((s.hitSide c.src).hitSide c.hdr).hitSide c.dst).onRegs fun q => q.set tok.toNat 0).done 3).once).addPend
    { reg := tok.toNat, kind := .token, sx := false, bits := 64, far := none, snap := none, part := none, old := true }
  let s2 := s1.openShadow tok.toNat la r.handle r.off
  (s2.onCore (coreOf s.cur) fun k => { k with copyQ := k.copyQ ++ [{ c with tok := tok.toNat }] }).due
    [.copyCommandAcceptance (coreOf s.cur)]

/-- The destinations of `CPYM` that fail R28, as a mask (R161): `runs` are the runs at the window's own core. -/
def State.mcastFails (s : State) (runs : List (Nat × Nat)) (mask : Nat) : Nat :=
  ((upFrom 0 32).filter fun i => mask.testBit i && runs.any fun r =>
    let a := r.1 + i * 2 ^ 21
    winCore r.1 + i ≥ 4096 || s.winAbsent a || s.winDenied (s.ctxOf s.cur) a r.2).foldl
      (fun m i => m + 2 ^ i) 0

/-- The shape of the slot operand of `CPYS`, and how far it would fill the slot (R160). -/
def slotShape (slot off codes hdrs : Nat) : Bool :=
  let fill := if hdrs = 0 then off + codes else off + (codes + 63) / 64 * 64 + 32 * hdrs
  slot ≤ 15 && off % 64 == 0 && fill ≤ 65536

/-- The checks of `CPY`, `CPYM`, `CPYR` and `CPYS` with a row length that is not 0, in order, and the command that they give (R155 to
R161): the shape, the rows of every side, then the destinations of `CPYM`. That a slot is the strand's comes after the rows (R157). -/
def State.copyCheck (s : State) (fn : CopyFn) (p1 : Sel) (slot : Nat) (p2 p3 p4 : Sel) (p5 : Word) (f : CopyFlags) :
    Res CopyCmd := do
  let len := (s.rd p3).toNat
  let sg := f.sfmt.isGrouped
  let dg := f.dfmt.isGrouped
  ensure (len ≤ 2 ^ 24 && !(sg && dg && (f.sfmt != f.dfmt || p4 != .g 0))) (s.trap 0x80 0)
  let src ← s.sideOf f.ssp p2
  let dst ← (if fn = .cpys then .ok Side.none else s.sideOf f.dsp p1 : Res Side)
  ensure (!(src.walked && dst.walked && src.starts.length != dst.starts.length)) (s.trap 0x80 0)
  let rows := if src.walked then src.starts.length else if dst.walked then dst.starts.length else 1
  let ng := (len + (if sg then fmtGroup f.sfmt else fmtGroup f.dfmt) - 1) / (if sg then fmtGroup f.sfmt else fmtGroup f.dfmt)
  let hasHdr := sg != dg
  let hdr : Side := if hasHdr then
      { g := if sg || fn = .cpys then f.ssp else f.dsp, walked := true,
        starts := (upFrom 0 rows).map fun i => (s.rd p4).toNat + 32 * i * ng, segs := [] }
    else Side.none
  let sc := fmtCls f.sfmt
  let dc := fmtCls f.dfmt
  let total := rows * len
  ensure (fn != .cpys || slotShape slot p5.toNat (runBits 0 dc total) (if dg then rows * ng else 0)) (s.trap 0x80 0)
  let druns := (dst.runs rows len).map fun r => (r.1, runBits r.1 dc r.2)
  (if fn = .cpym then
    ensure (p5.toNat < 2 ^ 32 && f.dsp && druns.all (fun r =>
      padStart ≤ r.1 && r.1 < 2 ^ 57 && winBase r.1 == winBase ((druns.headD (0, 0)).1) &&
      winBase (lastBit (r.1 + r.2 - dc.bits) dc) == winBase r.1)) (s.trap 0x80 0) else .ok ())
  let segs ← s.checkRows (fn == .cpym) rows len ng src dst hdr sc dc (if fn = .cpyr then 7 else 2) (upFrom 0 rows)
  (if fn = .cpym then
    ensure (s.mcastFails druns p5.toNat == 0) (s.trap 0x81 (s.mcastFails druns p5.toNat)) else .ok ())
  ensure (fn != .cpys || SMap.look 0 (s.core (coreOf s.cur)).mat.slots slot == s.cur + 1) (s.trap 0x87 slot)
  .ok { CopyCmd.empty fn s.cur f with
    len := len, rows := rows, src := { src with segs := segs.1 }, dst := { dst with segs := segs.2.1 },
    hdr := { hdr with segs := segs.2.2 }, mask := if fn = .cpym then p5.toNat else 1, slot := slot, off := p5.toNat }

/-- `CPY`, `CPYM`, `CPYR` or `CPYS` at issue: one of row length 0 passes the checks and moves nothing (R157). -/
def State.copyCommand (s : State) (fn : CopyFn) (p1 : Sel) (slot : Nat) (p2 p3 p4 : Sel) (p5 : Word) (f : CopyFlags) : Res CopyCmd :=
  if s.rd p3 = 0 then .ok (CopyCmd.empty fn s.cur f) else s.copyCheck fn p1 slot p2 p3 p4 p5 f

/-- The checks of a run of `n` bytes of a byte command (R162): an empty one has an address that must be aligned. -/
def State.checkBytes (s : State) (g : Bool) (a n : Nat) (need : Rights) (hi : Nat) : Res (List Seg) :=
  if n = 0 then do
    ensure (legal a .w8) (.trap 0x20 (BitVec.ofNat 64 a) (addrExtra (if g then .g else .p) .w8 hi))
    .ok []
  else s.checkRun g a (8 * n) .w8 need hi

/-- The checks of `CPYC` and `CPYZ` at issue, and the command that they give (R162). -/
def State.byteCheck (s : State) (fn : CopyFn) (p1 p2 p3 p4 : Sel) (dsp ssp kind : Bool) : Res CopyCmd := do
  ensure (!p1.isW && !p2.isW && !(fn == .cpyc && kind && p1 == .nil)) (s.trap 0x80 0)
  let a := (s.rd p2).toNat
  let n := (s.rd p3).toNat
  let d := (s.rd p1).toNat
  let cap := (s.rd p4).toNat
  let ss ← s.checkBytes ssp a n 1 1
  let ds ← (if fn = .cpyc then
      (if p1 = .nil then .ok [] else s.checkRun dsp d 64 .w64 2 2)
    else s.checkBytes dsp d cap 2 2 : Res (List Seg))
  .ok { CopyCmd.empty fn s.cur noFlags with
    len := n, rows := 1, src := { g := ssp, walked := false, starts := [a], segs := ss },
    dst := { g := dsp, walked := false, starts := [d], segs := ds }, kind := kind, cap := cap
    seed := if kind then (2 ^ 64 - 1) - (s.rd p4).toNat else (2 ^ 32 - 1) - (s.rd p4).toNat % 2 ^ 32 }

/-- A copy command at issue: it ends the chunk, its queue has an entry free, and its checks pass (R157, R158). -/
def State.copyIssue (s : State) (tok : BitVec 6) (la : BitVec 4) (check : Res CopyCmd) : Res State := do
  s.endChunk
  ensure ((s.core (coreOf s.cur)).copyRoom) (.hold .copyQueue)
  let c ← check
  .ok (s.issueCopy tok la c)

/-! The engine at work (R158 to R162). -/

/-- Where a virtual address of a side stands. -/
def Side.at (d : Side) (va : Nat) : Option Place :=
  (d.segs.find? fun g => g.va ≤ va && va < g.va + g.bits).map fun g =>
    match g.place with
    | .here b => .here (b + (va - g.va))
    | .far p b => .far p (b + (va - g.va))
    | .io p b => .io p b

/-- The address of element `k` of a side (R156). -/
def Side.elem (d : Side) (c : Cls) (len k : Nat) : Nat :=
  if d.walked then elemAddr (d.starts.getD (k / len) 0) c (k % len) else elemAddr (d.starts.headD 0) c k

/-- What the engine reads at a place: the value, and the poison of each container that it meets. Another package's memory is a free
value. -/
def State.engineRead (s : State) (p : Option Place) (len : Nat) : Nat × Nat :=
  match p with
  | some (.here b) =>
    (s.bits b len, (upFrom 0 ((len + 63) / 64)).foldl (fun m i => if (s.poisonIn (b + 64 * i) (min 64 len)).isSome then m + 2 ^ i else m) 0)
  | some (.far pkg b) =>
    (Config.farMemory s.steps pkg.toNat b % 2 ^ len, if Config.farPoison s.steps pkg.toNat b then 2 ^ ((len + 63) / 64) - 1 else 0)
  | _ => (0, 0)

/-- The 256-bit sector of a place, and the bits of the place within it. -/
def Place.sector : Place → Place × Nat
  | .here b => (.here (b / 256 * 256), b % 256)
  | .far p b => (.far p (b / 256 * 256), b % 256)
  | .io p b => (.io p b, 0)

/-- The number under which a command holds a source sector. -/
def Place.key : Place → Nat
  | .here b => b / 256
  | .far p b => 2 ^ 64 * (p.toNat + 1) + b / 256
  | .io _ _ => 0

/-- The command with the source sector of a place read, at one point of the package order, if it has not read it before (R158,
R265). -/
def State.takeSector (s : State) (c : CopyCmd) (p : Option Place) : CopyCmd :=
  match p with
  | none => c
  | some q =>
    if SMap.look 0 c.held q.key != 0 then c
    else
      let r := s.engineRead (some q.sector.1) 256
      { c with held := SMap.put 0 c.held q.key (r.1 + 2 ^ 256 + 2 ^ 257 * r.2) }

/-- What a command holds of the bits at a place, and whether their container is poisoned. -/
def CopyCmd.taken (c : CopyCmd) (p : Option Place) (len : Nat) : Nat × Bool :=
  match p with
  | none => (0, false)
  | some q =>
    let v := SMap.look 0 c.held q.key
    (bitsOf v q.sector.2 len, v.testBit (257 + q.sector.2 / 64))

/-- `Conv` (R160): the pattern and the token's flags. -/
def copyConv (f : CopyFlags) (v h : Nat) : Nat × Flags :=
  let scale := unpack .f16 (h % 2 ^ 16)
  let zero (e : QElt) : Int := ((h / 2 ^ 16 % 2 ^ e.ty.bits : Nat) : Int)
  if f.sfmt = f.dfmt then (v, 0)
  else
    match f.sfmt, f.dfmt with
    | .ty ts, .ty td => if ts.isFloat && td.isInt then quantRecip (unpack ts v) (FV.ofInt 1) 0 td f.rm else convert td ts f.rm f.sat v
    | .grouped e _, .ty td => dequantise td f.rm f.sat scale (v : Int) (zero e)
    | .ty ts, .grouped e _ => quantRecip (srcValue ts v) scale (zero e) e.ty f.rm
    | .grouped _ _, .grouped _ _ => (v, 0)

/-- The exact value of a source element of `CPYR`, with NV where a grouped value is invalid (R160, R76). -/
def copyExact (f : CopyFlags) (v h : Nat) : FV × Flags :=
  match f.sfmt with
  | .ty ts => (srcValue ts v, 0)
  | .grouped e _ => groupValue (unpack .f16 (h % 2 ^ 16)) (v : Int) ((h / 2 ^ 16 % 2 ^ e.ty.bits : Nat) : Int)

/-- `Add` of `CPYR` (R160). -/
def copyAdd (t : Ty) (rm : Rm) (sat : Bool) (old : Nat) (v : FV) : Nat × Flags :=
  if t.isFloat then
    let x := FV.add rm (unpack t old) v
    let r := roundTo t rm sat x.1
    (r.1, x.2 ||| r.2 ||| sigFlag (unpack t old) ||| sigFlag v)
  else
    match v with
    | .nan _ => (wrapTo t.bits (t.int old), fNV)
    | .inf neg => (wrapTo t.bits (if neg then t.lo else t.hi), fNV)
    | .fin neg a b =>
      let x := t.int old + (roundInt rm neg a b).1
      if sat then (wrapTo t.bits (clampInt x t.lo t.hi), if x < t.lo || t.hi < x then fSA else 0)
      else (wrapTo t.bits x, 0)

/-- The new value of a destination element of `CPYR` from the old one, the source pattern and its header. -/
def copySum (f : CopyFlags) (old v h : Nat) : Nat × Flags :=
  let x := copyExact f v h
  let r := copyAdd f.dfmt.elt f.rm f.sat old x.1
  (r.1, r.2 ||| x.2)

/-- Whether a destination still holds strands of the context in a core and tile that are in service (R161). -/
def State.alive (s : State) (ctx : Nat) (p : Place) : Bool :=
  match p with
  | .here b => b < 2 ^ 44 || 2 ^ 46 ≤ b ||
      (s.coreHolds (coreOfBit b) ctx && !(s.core (coreOfBit b)).outOfService && !(s.tile (coreOfBit b / 32)).outOfService)
  | _ => true

/-- Where the header of element `k` stands, if a side is grouped (R156). -/
def CopyCmd.headAt (c : CopyCmd) (k : Nat) : Option Place :=
  if c.hdr.starts.isEmpty then none
  else
    let g := if c.flags.sfmt.isGrouped then fmtGroup c.flags.sfmt else fmtGroup c.flags.dfmt
    c.hdr.at (c.hdr.starts.getD (k / c.len) 0 + 32 * (k % c.len / g))

/-- Where the source of element `k` stands. -/
def CopyCmd.srcAt (c : CopyCmd) (k : Nat) : Option Place := c.src.at (c.src.elem (fmtCls c.flags.sfmt) c.len k)

/-- The command with what element `k` comes from read. -/
def State.takeElem (s : State) (c : CopyCmd) (k : Nat) : CopyCmd := s.takeSector (s.takeSector c (c.srcAt k)) (c.headAt k)

/-- The value of element `k` of a command, its header, and whether its source is poisoned. -/
def CopyCmd.source (c : CopyCmd) (k : Nat) : Nat × Nat × Bool :=
  let v := c.taken (c.srcAt k) (fmtCls c.flags.sfmt).bits
  let h := c.taken (c.headAt k) 32
  (v.1, h.1, v.2 || h.2)

/-- Where element `k` of a command is written, for destination `i` of the mask: its address, and its place. -/
def State.copyDest (s : State) (c : CopyCmd) (i k : Nat) : Nat × Option Place :=
  let dc := fmtCls c.flags.dfmt
  match c.fn with
  | .cpys =>
    let b := slotBase (coreOf c.strand) c.slot + c.off + (addrOf k dc).toNat
    (b, some (.here b))
  | .cpym =>
    let a := c.dst.elem dc c.len k + i * 2 ^ 21
    (a, some (if winPkg a = s.pkg then .here (winBit a) else .far (winPkg a) (winBit a)))
  | _ =>
    let a := c.dst.elem dc c.len k
    (a, c.dst.at a)

/-- The elements of the next 256-bit sector of the destination, from element `k` (R159): a run of rising addresses, so that no
element of it is written over by another. -/
def State.sectorElems (s : State) (c : CopyCmd) (sector : Nat) : Nat → Nat → Nat → List Nat
  | 0, _, _ => []
  | f + 1, low, k =>
    let a := (s.copyDest c 0 k).1
    if k < c.rows * c.len && a / 256 = sector && low ≤ a then k :: State.sectorElems s c sector f (a + 1) (k + 1) else []

/-- Writes bits of a sector of this package in one step, with its poison (R159, R36). -/
def State.writeBits (s : State) (base : Nat) (w : Nat × Nat × Nat) : State :=
  if w.1 = 0 then s else (s.mergeMask base 256 w.1 w.2.1).poisonMask base w.2.2

/-- The destination elements `ks` of a command in one sector of this package, as they are to be written, with their flags: the element,
its store, and whether it is poisoned. -/
def State.sectorElts (s : State) (c : CopyCmd) (i : Nat) (ks : List Nat) : List (Store × Bool × Flags) :=
  let dc := fmtCls c.flags.dfmt
  ks.flatMap fun k =>
    match (s.copyDest c i k).2 with
    | some (.here b) =>
      let src := c.source k
      let r := if c.fn = .cpyr then copySum c.flags (s.bits b dc.bits) src.1 src.2.1 else copyConv c.flags src.1 src.2.1
      let bad := src.2.2 || (c.fn = .cpyr && (s.poisonIn b dc.bits).isSome)
      (elemStores none b dc r.1).map fun st => (st, bad, r.2)
    | some (.far p b) =>
      let src := c.source k
      let r := copyConv c.flags src.1 src.2.1
      (elemStores (some p) b dc r.1).map fun st => (st, src.2.2, if c.fn = .cpyr then 0 else r.2)
    | _ => []

/-- Whether a place of this package to which a command writes fails delivery (R161). -/
def State.gone (s : State) (c : CopyCmd) (p : Option Place) : Bool :=
  match p with
  | some q => c.dst.g && !s.alive (s.strand c.strand).bind.ctx q
  | none => false

/-- One sector of `CPY`, `CPYM`, `CPYR` or `CPYS` at destination `i`: what it leaves, and the command's report, `bad` saying that an
element of the sector is poisoned. A sector of another package goes there as one message, and a sum is made at its home (R160). DESIGN
CHOICE (log 95): of an element whose source is poisoned and whose destination fails delivery the status is that of the destination. -/
def State.writeSector (s : State) (c : CopyCmd) (ks : List Nat) (i : Nat) : State × CopyCmd :=
  let es := s.sectorElts c i ks
  let first := s.copyDest c i (ks.headD 0)
  let bad := es.any fun e => e.2.1
  let noted := { es.foldl (fun c e => c.note e.2.2 none) c with bad := c.bad || bad }
  match first.2 with
  | some (.here b) =>
    if ks.any fun k => s.gone c (s.copyDest c i k).2 then (s, { c with bad := c.bad || bad }.undelivered i)
    else (s.writeBits (b / 256 * 256) (sectorBits (b / 256 * 256) (es.map fun e => (e.1, e.2.1))), noted)
  | some (.far p b) =>
    let base := b / 256 * 256
    let w := sectorBits base (es.map fun e => (e.1, e.2.1))
    let tag := copyTag (coreOf c.strand)
    if c.fn = .cpyr then
      let adds := ks.map fun k =>
        (match (s.copyDest c i k).2 with | some (.far _ q) => q - base | _ => 0, (c.source k).1, (c.source k).2.1)
      ((if bad then s.sendSector tag c.strand c.tok i p first.1 base 0 0 w.2.2 else s).sendAdd tag c.strand c.tok p first.1 base
        { flags := c.flags, elems := adds }, noted)
    else (s.sendSector tag c.strand c.tok i p first.1 base w.1 w.2.1 w.2.2, noted)
  | _ => (s, c)

/-- One bit of a reflected CRC (R162). -/
def crcBit (poly : Nat) (r : Nat) : Nat := if r % 2 = 1 then (r / 2) ^^^ poly else r / 2

/-- One byte of a reflected CRC, least significant bit first (R162). -/
def crcByte (poly : Nat) (r : Nat) (b : Byte) : Nat := (upFrom 0 8).foldl (fun a _ => crcBit poly a) (r ^^^ b.toNat)

/-- The polynomial of a kind of `CPYC` (R162). -/
def crcPoly (kind : Bool) : Nat := if kind then 0x9A6C9329AC4BC9B5 else 0x82F63B78

/-- The bytes of the next source sector of a byte command, and whether they are poisoned. -/
def State.nextBytes (s : State) (c : CopyCmd) : List Byte × Bool :=
  let a := c.src.starts.headD 0 + 8 * c.done
  let n := min (c.len - c.done) ((256 - a % 256) / 8)
  let bs := (upFrom 0 n).map fun i => s.engineRead (c.src.at (a + 8 * i)) 8
  (bs.map fun b => BitVec.ofNat 8 b.1, bs.any fun b => b.2 != 0)

/-- Writes bytes of one sector at a side's address, in one step; the poison of the source goes with them. -/
def State.writeBytes (s : State) (c : CopyCmd) (va : Nat) (bs : List Byte) : State × CopyCmd :=
  let run (b : Nat) : Nat × Nat × Nat :=
    sectorBits (b / 256 * 256) ((upFrom 0 bs.length).map fun i =>
      ({ pkg := none, bit := b + 8 * i, bits := 8, val := (bs.getD i 0).toNat }, c.bad))
  match c.dst.at va with
  | some (.here b) => if s.gone c (some (.here b)) then (s, c.undelivered 0) else (s.writeBits (b / 256 * 256) (run b), c)
  | some (.far p b) =>
    let w := run b
    (s.sendSector (copyTag (coreOf c.strand)) c.strand c.tok 0 p va (b / 256 * 256) w.1 w.2.1 w.2.2, c)
  | _ => (s, c)

/-- What a decompression gives: the bytes, and the status of R162. How many of the bytes decoded before a failure reach the
destination is free (log 89). -/
def unpackFrame (c : CopyCmd) : List Byte × Nat :=
  let bs := c.bytes.map BitVec.toNat
  let u := if c.kind then unpackZstd bs else unpackLz4 bs
  let out := u.out.reverse.map (BitVec.ofNat 8)
  let status := if c.cap < out.length then 0x86
    else match u.fin with
      | .decoded rest => if !rest.isEmpty && Config.unpackTail c.kind c.bytes then 0x85 else 0
      | .corrupt => 0x85
      | .unsupported => 0x84
  (if status = 0 then out else (out.take c.cap).take (Config.unpackWritten c.kind c.bytes), status)

/-- The headers that a `CPYS` command writes behind its codes: those of P4's plane, which a copy between equal grouped formats does not
have (R156, R160; log 33). -/
def CopyCmd.slotHeads (c : CopyCmd) : Nat :=
  if c.fn = .cpys && c.flags.dfmt.isGrouped && !c.flags.sfmt.isGrouped && c.len != 0 then
    c.rows * ((c.len + fmtGroup c.flags.dfmt - 1) / fmtGroup c.flags.dfmt)
  else 0

/-- Whether a command has nothing left to do but its report. -/
def CopyCmd.finished (c : CopyCmd) : Bool :=
  match c.fn with
  | .vsend => c.done == 4
  | .cpyc => c.len < c.done
  | .cpyz => c.len == c.done && (unpackFrame c).1.length ≤ c.result
  | _ => c.len == 0 || (c.fn == .cpym && c.mask == 0) || c.rows * c.len + c.slotHeads ≤ c.done

/-- A header as an engine writes it (R74): the scale, and the zero point in the bits of the element. -/
def headerOf (f : Fmt) (h : Nat) : Nat := h % 2 ^ 16 + 2 ^ 16 * (h / 2 ^ 16 % 2 ^ f.elt.bits)

/-- The next headers that a grouped `CPYS` puts behind the codes, from the next container boundary, to the end of a sector (R160): `j`
is the first. -/
def State.slotHeaders (s : State) (c : CopyCmd) (j : Nat) : State × CopyCmd :=
  let dc := fmtCls c.flags.dfmt
  let ng := (c.len + fmtGroup c.flags.dfmt - 1) / fmtGroup c.flags.dfmt
  let base := slotBase (coreOf c.strand) c.slot + c.off + (runBits 0 dc (c.rows * c.len) + 63) / 64 * 64
  let b := base + 32 * j
  let js := upFrom j (min (c.rows * ng - j) ((256 - b % 256) / 32))
  let from_ (j : Nat) : Option Place := c.hdr.at (c.hdr.starts.getD (j / ng) 0 + 32 * (j % ng))
  let c1 := js.foldl (fun a j => s.takeSector a (from_ j)) c
  let hs := js.map fun j => (j, c1.taken (from_ j) 32)
  let sts := hs.map fun h =>
    (({ pkg := none, bit := base + 32 * h.1, bits := 32, val := headerOf c.flags.dfmt h.2.1 } : Store), h.2.2)
  (s.writeBits (b / 256 * 256) (sectorBits (b / 256 * 256) sts),
   { c1.note 0 (if hs.any fun h => h.2.2 then some 0x83 else none) with done := c1.done + js.length })

/-- The destinations of a sector of a command, as numbers of its mask. -/
def CopyCmd.parts (c : CopyCmd) : List Nat := if c.fn = .cpym then (upFrom 0 32).filter fun i => c.mask.testBit i else [0]

/-- The elements of the sector of a command that is under way. -/
def State.sectorNow (s : State) (c : CopyCmd) : List Nat := s.sectorElems c ((s.copyDest c 0 c.done).1 / 256) 256 0 c.done

/-- One 256-bit sector of a `VSEND` (R182): a write that is lost, or that meets a poisoned bank, is logged. DESIGN CHOICE (log 32): the
write over a poisoned bank is made. -/
def State.vsendWork (s : State) (c : CopyCmd) : State × CopyCmd :=
  let va := c.dst.starts.headD 0 + 256 * c.done
  let v := bitsOf c.data.toNat (256 * c.done) 256
  let c1 := { c with done := c.done + 1 }
  match c.dst.at va with
  | some (.here b) =>
    if s.gone c (some (.here b)) then (s.vsendLog c, c1.note 0 (some 0x82))
    else if (s.poisonIn b 256).isSome then ((s.vsendLog c).merge b 256 v, c1.note 0 (some 0x83))
    else (s.merge b 256 v, c1)
  | some (.far p b) =>
    if s.hasRoute p then (s.sendSector (vsendTag (coreOf c.strand)) c.strand c.tok 0 p va b (2 ^ 256 - 1) v 0, c1)
    else (s.vsendLog c, c1.note 0 (some 0x82))
  | _ => (s, c1)

/-- The places of another package's HBM that the next step of a command reads for the first time. -/
def State.readsFar (s : State) (c : CopyCmd) : List (BitVec 10 × Nat) :=
  let ps := match c.fn with
    | .vsend => []
    | .cpyc | .cpyz => if c.done < c.len then [c.src.at (c.src.starts.headD 0 + 8 * c.done)] else []
    | _ => if c.sent = 0 then (s.sectorNow c).flatMap fun k => [c.srcAt k, c.headAt k] else []
  ps.filterMap fun p =>
    match p with
    | some (.far q b) => if b < 2 ^ 44 && SMap.look 0 c.held (Place.far q b).key == 0 then some (q, b / 256 * 256) else none
    | _ => none

/-- One step of work of a command: it writes one sector at one destination, or ends a sector that stands at all of its destinations
(R159, R161). -/
def State.copyWork (s : State) (c : CopyCmd) : State × CopyCmd :=
  match c.fn with
  | .vsend => s.vsendWork c
  | .cpyc =>
    if c.done = c.len then
      let r := if c.kind then 2 ^ 64 - 1 - c.seed else 2 ^ 32 - 1 - c.seed
      let bs := (upFrom 0 8).map fun i => BitVec.ofNat 8 (r / 2 ^ (8 * i))
      let w := if c.dst.segs.isEmpty then (s, c) else s.writeBytes c (c.dst.starts.headD 0) bs
      (w.1, { w.2 with done := c.len + 1, result := r % 2 ^ 32 })
    else
      let b := s.nextBytes c
      (s, { c.note 0 (if b.2 then some 0x83 else none) with
            done := c.done + b.1.length, bad := c.bad || b.2, seed := b.1.foldl (crcByte (crcPoly c.kind)) c.seed })
  | .cpyz =>
    if c.done < c.len then
      let b := s.nextBytes c
      (s, { c.note 0 (if b.2 then some 0x83 else none) with
            done := c.done + b.1.length, bad := c.bad || b.2, bytes := c.bytes ++ b.1 })
    else
      let bs := (unpackFrame c).1.drop c.result
      let a := c.dst.starts.headD 0 + 8 * c.result
      let n := min bs.length ((256 - a % 256) / 8)
      let w := s.writeBytes c a (bs.take n)
      (w.1, { w.2 with result := c.result + n })
  | _ =>
    if c.rows * c.len ≤ c.done then s.slotHeaders c (c.done - c.rows * c.len)
    else
      let ks := s.sectorNow c
      match c.parts.drop c.sent with
      | i :: _ =>
        let r := s.writeSector (ks.foldl s.takeElem c) ks i
        (r.1, { r.2 with sent := c.sent + 1 })
      | [] => (s, { c.note 0 (if c.bad then some 0x83 else none) with bad := false, sent := 0, done := c.done + ks.length })

/-- The token of a command (R152). -/
def CopyCmd.token (c : CopyCmd) : Nat :=
  let status := if c.fn = .cpyz && c.status = 0 then (unpackFrame c).2 else c.status
  2 ^ 32 * (c.result % 2 ^ 32) + 2 ^ 8 * status + (if c.nv then 4 else 0) + (if c.sa then 2 else 0) + 1

/-- Writes the token of an engine command or of a message of strand `n` (R152, R153, R255). -/
def State.writeToken (s : State) (n tok v : Nat) : State :=
  match (s.strand n).pend.find? fun p => (p.kind == .token || p.kind == .frame) && p.reg == tok with
  | some p => s.settle n p v
  | none => s

/-- Marks the first command that a test accepts. -/
def onFirst {α : Type} (test : α → Bool) (f : α → α) : List α → List α
  | [] => []
  | x :: xs => if test x then f x :: xs else x :: onFirst test f xs

/-- `CPY`. R160: Copies and converts rows of elements. -/
def execCpy (tok : BitVec 6) (la : BitVec 4) (p1 : Sel) (p2 : Sel) (p3 : Sel) (p4 : Sel) (f : CopyFlags) (s : State) : Host.Outcome State Fault Refusal :=
  s.answer (s.copyIssue tok la (s.copyCommand .cpy p1 0 p2 p3 p4 0 f))

/-- `CPYM`. R161: Multicasts a copy to several cores' windows. -/
def execCpym (tok : BitVec 6) (la : BitVec 4) (p1 : Sel) (p2 : Sel) (p3 : Sel) (p4 : Sel) (p5 : Sel) (f : CopyFlags) (s : State) : Host.Outcome State Fault Refusal :=
  s.answer (s.copyIssue tok la (s.copyCommand .cpym p1 0 p2 p3 p4 (s.rd p5) f))

/-- `CPYR`. R160: Adds source elements into the destination. -/
def execCpyr (tok : BitVec 6) (la : BitVec 4) (p1 : Sel) (p2 : Sel) (p3 : Sel) (p4 : Sel) (f : CopyFlags) (s : State) : Host.Outcome State Fault Refusal :=
  s.answer (s.copyIssue tok la (s.copyCommand .cpyr p1 0 p2 p3 p4 0 f))

/-- `CPYS`. R160: Fills an operand slot. -/
def execCpys (tok : BitVec 6) (la : BitVec 4) (slot : BitVec 7) (p2 : Sel) (p3 : Sel) (p4 : Sel) (p5 : Sel) (f : CopyFlags) (s : State) : Host.Outcome State Fault Refusal :=
  s.answer (s.copyIssue tok la (s.copyCommand .cpys .nil slot.toNat p2 p3 p4 (s.rd p5) f))

/-- `CPYC`. R162: Computes a CRC32C or CRC-64 over bytes. -/
def execCpyc (tok : BitVec 6) (la : BitVec 4) (p1 : Sel) (p2 : Sel) (p3 : Sel) (p4 : Sel) (dsp : Bool) (ssp : Bool) (kind : Bool) (s : State) : Host.Outcome State Fault Refusal :=
  s.answer (s.copyIssue tok la (s.byteCheck .cpyc p1 p2 p3 p4 dsp ssp kind))

/-- `CPYZ`. R162: Decompresses one LZ4 or Zstandard frame. -/
def execCpyz (tok : BitVec 6) (la : BitVec 4) (p1 : Sel) (p2 : Sel) (p3 : Sel) (p4 : Sel) (dsp : Bool) (ssp : Bool) (kind : Bool) (s : State) : Host.Outcome State Fault Refusal :=
  s.answer (s.copyIssue tok la (s.byteCheck .cpyz p1 p2 p3 p4 dsp ssp kind))

/-- `COPY_COMMAND_ACCEPTANCE`. R158: A checked copy command enters its queue after its chunk commits. -/
def execCopyCommandAcceptance (core : Nat) (s : State) : Host.Outcome State Fault Refusal :=
  let q := (s.core core).copyQ
  if q.any fun c => !c.accepted then
    .next ((s.onCore core fun k => { k with copyQ := onFirst (fun c => !c.accepted) (fun c => { c with accepted := true }) k.copyQ }).due
      [.copySectorWrite core])
  else .next s

/-- Whether a command waits for another package to acknowledge a sector: its next sector is visible only after that one (R159). -/
def State.awaited (s : State) (c : CopyCmd) : Bool := s.farStores.any fun f => c.sentIt f

/-- A read of an engine that its home refuses ends the task of the command's strand (R329). -/
def State.readRefused (s : State) (c : CopyCmd) : State :=
  let t := s.strand c.strand
  if t.status != .free && (s.readsFar c).any fun r => Config.farRefuses s.steps r.1.toNat r.2 then
    s.faultEnd c.strand
      { cause := 0x2A, handle := t.regs.handle, off := t.regs.off, addr := BitVec.ofNat 64 (c.src.starts.headD 0), extra := 0 }
  else s

/-- `COPY_SECTOR_WRITE`. R159: A 256-bit destination sector of a copy becomes visible. -/
def execCopySectorWrite (core : Nat) (s : State) : Host.Outcome State Fault Refusal :=
  match (s.core core).copyQ.filter fun c => c.accepted && !c.finished with
  | [] => .next (s.due [.copyCommandCompletion core])
  | c :: cs =>
    let c := (c :: cs).getD (Config.freeChoice s.steps % (cs.length + 1)) c
    if s.awaited c then .next (s.due [.copySectorWrite core]) else
    let r := (s.readRefused c).copyWork c
    let s1 := r.1.onCore core fun k => { k with copyQ := onFirst (· == c) (fun _ => r.2) k.copyQ }
    .next (s1.due [if r.2.finished then .copyCommandCompletion core else .copySectorWrite core])

/-- `COPY_COMMAND_COMPLETION`. R152: The copy engine writes the command's token, once every write is visible, those in other packages
acknowledged (R153). -/
def execCopyCommandCompletion (core : Nat) (s : State) : Host.Outcome State Fault Refusal :=
  match (s.core core).copyQ.find? fun c => c.accepted && c.finished with
  | none => .next s
  | some c =>
    if s.awaited c then
      .next (s.due [.copyCommandCompletion core])
    else
    let s1 := s.onCore core fun k => { k with copyQ := k.copyQ.erase c }
    .next (if c.fn = .vsend then s1 else s1.writeToken c.strand c.tok c.token)

/-- `VSEND_PLACEMENT`. R181: After commit and consumer room, places the value in all named consumers. -/
def execVsendPlacement (n : Nat) (s : State) : Host.Outcome State Fault Refusal :=
  let t := s.strand n
  match t.sending with
  | none => .next s
  | some v =>
    if (v.cons.getLsbD 1 && 2 ≤ t.vMat.length) || (v.cons.getLsbD 2 && !(s.core (coreOf n)).copyRoom) || t.hold != .vsend v.cons.toNat then
      .next (if t.hold = .vsend v.cons.toNat then s.due [.vsendPlacement n] else s)
    else
      let s1 := s.onStrand n fun t => { t with
        sending := none, hold := .none
        vItp := if v.cons.getLsbD 0 then t.vItp ++ [v.data] else t.vItp
        vMat := if v.cons.getLsbD 1 then t.vMat ++ [v.data] else t.vMat
        vMsg := if v.cons.getLsbD 3 then t.vMsg ++ [v.data] else t.vMsg
        vRing := if v.cons.getLsbD 4 then t.vRing ++ [v.data] else t.vRing }
      let s2 := s1.actAs n fun a => (a.done 3).once
      .next (match v.place with
        | some p =>
          (s2.onCore (coreOf n) fun k => { k with copyQ := k.copyQ ++ [{ CopyCmd.empty .vsend n noFlags with
            data := v.data, dst := { g := 2 ^ 21 ≤ v.va || (match p with | .here b => b < 2 ^ 44 | _ => true), walked := false,
                                     starts := [v.va], segs := [{ va := v.va, bits := 1024, place := p }] } }] }).due
            [.copyCommandAcceptance (coreOf n)]
        | none => s2)

end Sys2Proof.Machine
end

