-- ==== Sys2Proof/Machine/Matrix.lean ====
section
/-! DEFINITION. The matrix engine: majors 0x38 and 0x39, and the unit's steps (R84 to R91, R190 to R215). -/

namespace Sys2Proof.Machine

/-! The block accumulator (R84 to R87). -/

/-- `m × 2 ^ e`. -/
def FV.scaled (m : Int) (e : Int) : FV :=
  let s := scaleFrac m.natAbs 1 e
  .fin (m < 0) s.1 s.2

/-- `RoundInt(v / 2 ^ e, 0)`. -/
def roundScaled (v : FV) (e : Int) : Int :=
  match v with
  | .fin n a b => let s := scaleFrac a b (-e); (roundInt .ne n s.1 s.2).1
  | _ => 0

/-- The clamp of R85. -/
def accClamp (x : Int) : Int := clampInt x (-(2 ^ 47 : Nat) + 1) ((2 ^ 47 : Nat) - 1)

/-- Every other element is rounded by one renormalisation step (R85). -/
def renorm (m : SMap Int) (i : Nat) : SMap Int :=
  m.filterMap fun p =>
    let v := if p.1 = i then p.2 else roundScaled (.scaled p.2 0) 8
    if v = 0 then none else some (p.1, v)

/-- The loop of `AccAdd`, from the exact sum `v` (R85). -/
def accSettle (i : Nat) (v : FV) : Nat → Acc → Acc
  | 0, a => a
  | f + 1, a =>
    let q := roundScaled v a.e
    if (2 ^ 46 : Nat) < q.natAbs then
      if 511 < a.e + 8 then { a with ovf := true, m := SMap.put 0 a.m i (accClamp q) }
      else accSettle i v f { a with m := renorm a.m i, e := a.e + 8 }
    else { a with m := SMap.put 0 a.m i (if a.ovf then accClamp q else q) }

/-- `AccAdd(i, p)` (R85): at most 128 renormalisations lie between the least and the greatest exponent. -/
def Acc.add (a : Acc) (i : Nat) (p : FV) : Acc :=
  accSettle i (FV.add .ne (.scaled (SMap.look 0 a.m i) a.e) p).1 130 a

/-- An addition in integer mode (R87): `sat` selects saturation. -/
def Acc.addInt (a : Acc) (i : Nat) (sat : Bool) (p : Int) : Acc :=
  let s := SMap.look 0 a.m i + p
  if sat then
    let c := clampInt s (-(2 ^ 47 : Nat)) ((2 ^ 47 : Nat) - 1)
    { a with m := SMap.put 0 a.m i c, ovf := a.ovf || c != s }
  else { a with m := SMap.put 0 a.m i (signed 48 (wrapTo 48 s)) }

/-- Sets an element's NaN bit (R203). -/
def Acc.setNan (a : Acc) (i : Nat) : Acc := { a with nan := SMap.put false a.nan i true }

/-- A finite value. -/
def FV.isFin : FV → Bool
  | .fin _ _ _ => true
  | _ => false

/-- A contribution in floating mode (R203): ignored under the NaN bit, which a value that is not finite sets. -/
def Acc.contribute (a : Acc) (i : Nat) (w x s : FV) : Acc :=
  if SMap.look false a.nan i then a
  else if w.isFin && x.isFin && s.isFin then a.add i ((w.mul x).1.mul s).1
  else a.setNan i

/-! Streams (R201 to R205). -/

/-- A weight's code. -/
def Plane.code (p : Plane) (k b : Nat) : Nat := SMap.look 0 p.w (k + 64 * b)

/-- A group's header. -/
def Plane.header (p : Plane) (j b : Nat) : Nat := SMap.look 0 p.h (j + 64 * b)

/-- The group partial sum P of column b and group j with the zero-point correction (R86, R203). -/
def Plane.partialSum (p : Plane) (z : Int) (x : Nat → Int) (b lo hi : Nat) : Int :=
  (upFrom lo (hi - lo)).foldl (fun t k => t + ((p.code k b : Int) - z) * x k) 0

/-- One group of one element (R203, R204). -/
def Plane.group (p : Plane) (e : QElt) (g : Grp) (sx : FV) (x : Nat → Int) (row b : Nat) (a : Acc) (j : Nat) : Acc :=
  let h := p.header j b
  let z : Int := ((h / 2 ^ 16 % 2 ^ e.ty.bits : Nat) : Int)
  let s := p.partialSum z x b (j * g.size) (min (j * g.size + g.size) p.kdim)
  let i := b + 64 * row
  match g, a.carry with
  | .g128, some c =>
    if p.half then a.contribute i (FV.ofInt (s + SMap.look 0 c.p i)) (unpack .f16 (h % 2 ^ 16)) sx
    else { a with carry := some { c with p := SMap.put 0 c.p i s } }
  | _, _ => a.contribute i (FV.ofInt s) (unpack .f16 (h % 2 ^ 16)) sx

/-- A contribution in integer mode (R87, R203): ignored under the NaN bit. -/
def Acc.contributeInt (a : Acc) (i : Nat) (sat : Bool) (p : Int) : Acc := if SMap.look false a.nan i then a else a.addInt i sat p

/-- One element of one row (R86, R203): `x k` is the code of activation k. -/
def Plane.element (p : Plane) (mode : Nat) (af : Ty) (sx : FV) (x : Nat → Nat) (row : Nat) (a : Acc) (b : Nat) : Acc :=
  match p.fmt with
  | .grouped e g =>
    (upFrom 0 ((p.kdim + g.size - 1) / g.size)).foldl (p.group e g sx (fun k => af.int (x k)) row b) a
  | .ty tw =>
    (upFrom 0 p.kdim).foldl (fun t k =>
      if mode = 0 then t.contribute (b + 64 * row) (srcValue tw (p.code k b)) (srcValue af (x k)) sx
      else t.contributeInt (b + 64 * row) (mode == 2) (tw.int (p.code k b) * af.int (x k))) a

/-- One activation row into accumulator row `row` (R202, R203). -/
def Plane.row (p : Plane) (mode : Nat) (af : Ty) (sx : FV) (x : Nat → Nat) (row : Nat) (a : Acc) : Acc :=
  (upFrom 0 p.ndim).foldl (p.element mode af sx x row) a

/-- Whether a weight format, an activation format and a mode go together (R199). -/
def paired (wf af : Fmt) (mode : Nat) : Bool :=
  match wf with
  | .grouped _ _ => mode == 0 && (af == .ty .s8 || af == .ty .n8)
  | .ty t =>
    if t.isFloat then mode == 0 && (af == .ty .f16 || af == .ty .bf16 || af == .ty .e4m3 || af == .ty .e5m2)
    else af == .ty .s8 || af == .ty .n8

/-- Whether a format has group g128. -/
def isWide : Fmt → Bool
  | .grouped _ .g128 => true
  | _ => false

/-- The mode of an accumulator (R207). -/
def Matrix.mode (m : Matrix) (acc : Bool) : Nat := bitsOf m.cfg.toNat (if acc then 2 else 0) 2

/-- Whether an accumulator is in long mode (R207). -/
def Matrix.long (m : Matrix) (acc : Bool) : Bool := m.cfg.getLsbD (if acc then 5 else 4)

/-- An accumulator. -/
def Matrix.acc (m : Matrix) (acc : Bool) : Acc := if acc then m.acc1 else m.acc0

/-- Sets an accumulator. -/
def Matrix.setAcc (m : Matrix) (acc : Bool) (a : Acc) : Matrix := if acc then { m with acc1 := a } else { m with acc0 := a }

/-- The plane that a stream which starts now uses (R201). -/
def Matrix.plane (m : Matrix) : Plane := if m.newer then m.shadow else m.active

/-- Clears an accumulator (R206): in integer mode E is 0. -/
def Matrix.clear (m : Matrix) (acc : Bool) (e : Int) : Matrix := m.setAcc acc (Acc.clear (if m.mode acc = 0 then e else 0))

/-- Every element's NaN bit is set (R316). -/
def Acc.spoil (a : Acc) : Acc := { a with nan := (upFrom 0 4096).map fun i => (i, true) }

/-- A core's matrix unit changes. -/
def State.onMat (s : State) (c : Nat) (f : Matrix → Matrix) : State := s.onCore c fun k => { k with mat := f k.mat }

/-- The matrix unit of a core. -/
def State.mat (s : State) (c : Nat) : Matrix := (s.core c).mat

/-- Whether a slot's sectors that [lo, lo + len) meets hold a poisoned container (R316). -/
def State.slotBad (s : State) (c slot lo len : Nat) : Bool :=
  (s.poisonIn (slotBase c slot + lo / 256 * 256) ((lo + len + 255) / 256 * 256 - lo / 256 * 256)).isSome

/-- The bits of a run of `n` elements from the start of a container. -/
def packedBits (c : Cls) (n : Nat) : Nat := if n = 0 then 0 else runBits 0 c n

/-- Where the headers of a weight tile begin, after its codes (R200). -/
def headerAt (wf : Fmt) (off n : Nat) : Nat := off + (packedBits (fmtCls wf) n + 63) / 64 * 64

/-- The bits of a weight tile in its slot (R200). -/
def tileBits (wf : Fmt) (kdim ndim : Nat) : Nat :=
  if wf.isGrouped then headerAt wf 0 (ndim * kdim) + 32 * (ndim * ((kdim + fmtGroup wf - 1) / fmtGroup wf))
  else packedBits (fmtCls wf) (ndim * kdim)

/-- A weight tile as a plane (R200): cells outside it are 0, and in grouped formats their scale is 1.0. -/
def State.tilePlane (s : State) (c slot off kdim ndim : Nat) (wf : Fmt) (half : Bool) : Plane :=
  let base := slotBase c slot
  let cl := fmtCls wf
  let ng := (kdim + fmtGroup wf - 1) / fmtGroup wf
  let codes := (upFrom 0 ndim).flatMap fun b => (upFrom 0 kdim).map fun k =>
    (k + 64 * b, s.bits (base + off + (addrOf (b * kdim + k : Nat) cl).toNat) cl.bits)
  let hdrs := if wf.isGrouped then
      (upFrom 0 64).flatMap fun b => (upFrom 0 ((64 + fmtGroup wf - 1) / fmtGroup wf)).map fun j =>
        (j + 64 * b, if b < ndim && j < ng then s.bits (base + headerAt wf off (ndim * kdim) + 32 * (b * ng + j)) 32
                     else 0x3C00)
    else []
  { w := codes.filter fun p => p.2 != 0, h := hdrs.filter fun p => p.2 != 0, fmt := wf, half := half, kdim := kdim,
    ndim := ndim, poisoned := s.slotBad c slot off (tileBits wf kdim ndim) }

/-- The activation code x[row][k] of a stream from a slot (R202). -/
def State.slotAct (s : State) (c slot off : Nat) (cl : Cls) (kdim m : Nat) (tr : Bool) (row k : Nat) : Nat :=
  s.bits (slotBase c slot + off + (addrOf ((if tr then k * m + row else row * kdim + k : Nat)) cl).toNat) cl.bits

/-- The activation code of lane k of a queue entry (R202, R34). -/
def laneAct (v : Vec) (cl : Cls) (k : Nat) : Nat := bitsOf v.toNat (addrOf (k : Nat) cl).toNat cl.bits

/-! Long-accumulator windows (R88 to R90). -/

/-- The signed value of a window, in units of 2^−160. -/
def State.window (s : State) (bit : Nat) : Int := signed 384 (s.bits bit 384)

/-- What adding `v` units to a window holding `w` gives, and whether the exact sum is out of range (R89). -/
def winSum (w v : Int) : Int × Bool :=
  let x := w + v
  (signed 384 (wrapTo 384 x), !(-(2 ^ 383 : Nat) ≤ x && x < (2 ^ 383 : Nat)))

/-- The writes of a window, sector by sector (R159, R198): the containers that hold bits of what was added, and those that a carry or
borrow changed (R89). -/
def State.windowParts (s : State) (bit : Nat) (new added : Nat) : List MatWrite :=
  let sts := ((upFrom 0 6).filter fun c =>
      bitsOf added (64 * c) 64 != 0 || bitsOf new (64 * c) 64 != s.bits (bit + 64 * c) 64).map fun c =>
    (bit + 64 * c, bitsOf new (64 * c) 64)
  match ((upFrom (bit / 256) 3).map fun q => sts.filter fun w => w.1 / 256 == q).filter fun l => !l.isEmpty with
  | [] => []
  | l :: ls => .part false l :: ls.map (.part true)

/-- Writes the containers of one sector of a window: a poisoned one stays poisoned, and that is logged (R316, R319). -/
def State.writePart (s : State) (sts : List (Nat × Nat)) : State :=
  sts.foldl (fun t w =>
    let t1 := t.poke w.1 64 w.2
    if (t.poisonIn w.1 64).isSome then (t1.setPoison w.1 64).logMerge (w.1 / 64) else t1) s

/-- A finite value in units of 2^−160, rounded to nearest even (R89). -/
def winUnits (v : FV) : Int := roundScaled v (-160)

/-- `ADDW`'s values one at a time: the window, every bit added, and the token's flags and status (R89, R210). -/
def State.addValues (s : State) (src : Nat) (t : Ty) (cl : Cls) : List Nat → Int × Nat × Bool × Nat → Int × Nat × Bool × Nat
  | [], r => r
  | i :: is, (w, added, nv, st) =>
    let b := src + (addrOf (i : Nat) cl).toNat
    let note (x : Nat) : Nat := if st = 0 then x else st
    State.addValues s src t cl is
      (if (s.poisonIn b cl.bits).isSome then (w, added, nv, note 0x83)
       else
         match unpack t (s.bits b cl.bits) with
         | .nan _ => (w, added, true, note 0x8C)
         | .inf _ => (w, added, nv, note 0x8C)
         | v =>
           let u := winSum w (winUnits v)
           (u.1, added ||| (winUnits v).natAbs, nv, if u.2 then note 0x8B else st))

/-! The checks at issue (R195 to R212). -/

/-- `MATRIX_SHAPE` with the number of the P field whose value fails (R215). -/
def State.matShape (s : State) (p : Nat) : Stop := s.trap 0x8D p

/-- Every slot is reserved by the strand (R192). -/
def State.slotsHeld (s : State) (n : Nat) (slots : List Nat) : Res Unit :=
  match slots.find? fun i => SMap.look 0 (s.mat (coreOf n)).slots i != n + 1 with
  | some i => .error (s.trap 0x87 i)
  | none => .ok ()

/-- The shape checks of `MWLD` (R200). -/
def State.mwldShape (s : State) (slot off kdim ndim : Nat) (wf : Fmt) (half : Bool) : Res MatOp := do
  ensure (slot < 16) (s.matShape 1)
  ensure (off % 64 == 0) (s.matShape 2)
  ensure (1 ≤ kdim && kdim ≤ 64) (s.matShape 3)
  ensure (1 ≤ ndim && ndim ≤ 64) (s.matShape 4)
  ensure (!half || isWide wf) (s.matShape 0)
  ensure (off + tileBits wf kdim ndim ≤ 65536) (s.matShape 2)
  .ok (.mwld slot off kdim ndim wf half)

/-- The shape checks of `MSTRM` (R202). -/
def State.mstrmShape (s : State) (src off m scale : Nat) (af : Fmt) (acc tr : Bool) : Res MatOp := do
  ensure (src ≤ 16 && !(src == 16 && tr)) (s.matShape 1)
  ensure (off % 64 == 0) (s.matShape 2)
  ensure (1 ≤ m && m ≤ 64) (s.matShape 3)
  .ok (.mstrm src off m (scale % 2 ^ 32) af acc tr)

/-- The slots of a mask, in ascending order. -/
def maskSlots (m : Nat) : List Nat := (upFrom 0 16).filter fun i => m.testBit i

/-- The shape checks of `MGRP` (R205): `counts` is a P address. -/
def State.mgrpShape (s : State) (slot mask counts scale : Nat) (af wf : Fmt) (acc : Bool) : Res MatOp := do
  ensure (slot < 16) (s.matShape 1)
  ensure (mask < 2 ^ 16 && mask != 0 && !mask.testBit slot) (s.matShape 2)
  ensure (!isWide wf) (s.matShape 0)
  .ok (.mgrp slot mask counts (scale % 2 ^ 32) af wf acc)

/-- The exponent that a clear names (R206), from P field `p`. -/
def State.clearExp (s : State) (v : Word) (p : Nat) : Res Int := do
  ensure (-512 ≤ v.toInt && v.toInt ≤ 511) (s.matShape p)
  .ok v.toInt

/-- The region of `MDRN` (R209): row0, col0, rows, cols. -/
def State.region (s : State) (v : Nat) : Res (Nat × Nat × Nat × Nat) := do
  let r0 := bitsOf v 0 6
  let c0 := bitsOf v 8 6
  let nr := bitsOf v 16 7
  let nc := bitsOf v 24 7
  ensure (v == r0 + 2 ^ 8 * c0 + 2 ^ 16 * nr + 2 ^ 24 * nc && 1 ≤ nr && nr ≤ 64 && 1 ≤ nc && nc ≤ 64 && r0 + nr ≤ 64 &&
    c0 + nc ≤ 64) (s.matShape 2)
  .ok (r0, c0, nr, nc)

/-- The shape checks of `MDRN` (R209), before its destination's. -/
def State.mdrnShape (s : State) (dst : Side) (region : Nat) (e : Word) (df : Fmt) (rm : Rm) (sat acc clr : Bool) : Res MatOp := do
  let r ← s.region region
  let x ← (if clr then s.clearExp e 3 else .ok 0 : Res Int)
  ensure (!dst.walked || dst.starts.length == r.2.2.1) (s.matShape 1)
  .ok (.mdrn dst r.1 r.2.1 r.2.2.1 r.2.2.2 x df rm sat acc clr)

/-- The address checks of a command with its addresses resolved (R196): the counts of `MGRP` and the destination of `MDRN`. The extra word
has the fields of R42 alone: the side of R157 is a copy command's (log 53). -/
def State.matAddrs (s : State) (op : MatOp) : Res MatOp :=
  match op with
  | .mgrp slot mask counts scale af wf acc => do
    let _ ← s.checkRun false counts (16 * (maskSlots mask).length) .w16 1 0
    .ok (.mgrp slot mask (padBase (coreOf s.cur) + counts) scale af wf acc)
  | .mdrn dst r0 c0 nr nc e df rm sat acc clr => do
    let dc := fmtCls df
    let segs ← (upFrom 0 nr).foldlM (fun a i => (s.checkRow dst (dst.runs nr nc) dc 2 0 i).map fun g => a ++ g) []
    .ok (.mdrn { dst with segs := segs } r0 c0 nr nc e df rm sat acc clr)
  | op => .ok op

/-- The slots that a command reads. -/
def MatOp.slots : MatOp → List Nat
  | .mwld slot _ _ _ _ _ => [slot]
  | .mstrm src _ _ _ _ _ _ => if src < 16 then [src] else []
  | .mgrp slot mask _ _ _ _ _ => slot :: maskSlots mask
  | _ => []

/-- The function, the field P1 and the value in place of P2 of a command image (R212). -/
def imageFn (img : Nat) : Nat := bitsOf (img % 2 ^ 32) 26 6

/-- The slots that a command image names (R195, R212). -/
def imageSlots (img : Nat) : List Nat :=
  let p1 := bitsOf (img % 2 ^ 32) 19 7
  let one := if p1 < 16 then [p1] else []
  if imageFn img = 2 || imageFn img = 3 then one
  else if imageFn img = 4 then one ++ maskSlots (bitsOf img 192 64)
  else []

/-- The rights that a command image needs (R211); a function that no image may have needs none. -/
def imageRights (img : Nat) : Nat :=
  match imageFn img with
  | 2 => 1
  | 3 | 4 => 3
  | 5 => 4
  | 6 => 2
  | _ => 0

/-- The slots that a command of a unit reads, the image of one in the remote port before its start among them (R193, R212). -/
def MatCmd.slots (k : MatCmd) : List Nat :=
  match k.op with
  | .mrmt _ _ image => if k.remote then imageSlots image.toNat else []
  | op => op.slots

/-- The slots that a copy or matrix command of a core uses (R193). -/
def Core.slotsUsed (k : Core) : List Nat :=
  (k.copyQ.filterMap fun c => if c.fn = .cpys then some c.slot else none) ++ (k.matQ ++ k.port).flatMap MatCmd.slots

/-- An engine command of the acting strand is issued (R152, R196): its token reads 0 and is pending. -/
def State.issueMat (s : State) (tok : BitVec 6) (la : BitVec 4) (op : MatOp) : State :=
  let r := s.me.regs
  let s0 := match op with
    | .mdrn dst _ _ _ _ _ _ _ _ _ _ => s.hitSide dst
    | _ => s
  let s1 := (((s0.onRegs fun q => q.set tok.toNat 0).done 3).once).addPend
    { reg := tok.toNat, kind := .token, sx := false, bits := 64, far := none, snap := none, part := none, old := true }
  let s2 := s1.openShadow tok.toNat la r.handle r.off
  (s2.onCore (coreOf s.cur) fun k => { k with matQ := k.matQ ++
    [{ op := op, strand := s.cur, tok := tok.toNat, remote := false, accepted := none, started := false, busy := false,
       rowsTaken := 0, todo := [], status := 0, nv := false, sa := false }] }).due [.matrixCommandAcceptance (coreOf s.cur)]

/-- An engine command of the matrix unit (R196): it ends the chunk, its queue has an entry free, its shape, its slots, its
addresses. -/
def State.matCmd (s : State) (tok : BitVec 6) (la : BitVec 4) (shape : Res MatOp) : Res State := do
  s.endChunk
  ensure (s.core (coreOf s.cur)).matRoom (.hold .matrixQueue)
  let op ← shape
  s.slotsHeld s.cur op.slots
  let op ← s.matAddrs op
  .ok (s.issueMat tok la op)

/-- How many slots a strand holds (R193). -/
def State.heldSlots (s : State) (n : Nat) : List Nat :=
  (upFrom 0 16).filter fun i => SMap.look 0 (s.mat (coreOf n)).slots i == n + 1

/-- The mask of a list of slots. -/
def slotMask (l : List Nat) : Nat := l.foldl (fun m i => m + 2 ^ i) 0

/-- Frees slots of a core: each is cleared to zero (R193). -/
def State.freeSlots (s : State) (c : Nat) (l : List Nat) : State :=
  l.foldl (fun t i => (t.poke (slotBase c i) 65536 0).onMat c fun m => { m with slots := SMap.put 0 m.slots i 0 }) s

/-- The slots that `SLRESV` reserves (R193). -/
def State.slotsWon (s : State) (m : Nat) (any : Bool) : List Nat :=
  let free := (maskSlots m).filter fun i => SMap.look 0 (s.mat (coreOf s.cur)).slots i == 0
  let room := s.me.bind.quota - (s.heldSlots s.cur).length
  if any then free.take room
  else if free == maskSlots m && free.length ≤ room then free else []

/-- `SLRESV` (R193). -/
def State.slresv (s : State) (d : BitVec 6) (m : Word) (any : Bool) (la : BitVec 4) : Res State := do
  s.endChunk
  ensure (m.toNat < 2 ^ 16) (s.matShape 1)
  let won := s.slotsWon m.toNat any
  let s1 := s.onMat (coreOf s.cur) fun u => { u with slots := won.foldl (fun t i => SMap.put 0 t i (s.cur + 1)) u.slots }
  .ok (s1.reply3 (.g d) (BitVec.ofNat 64 (slotMask won)) la)

/-- `SLFREE` (R193). -/
def State.slfree (s : State) (d : BitVec 6) (m : Word) (la : BitVec 4) : Res State := do
  s.endChunk
  ensure (m.toNat < 2 ^ 16) (s.matShape 1)
  let r := (maskSlots m.toNat).filter fun i => (s.heldSlots s.cur).contains i
  ensure (!r.any fun i => (s.core (coreOf s.cur)).slotsUsed.contains i) (.hold (.slots (slotMask r)))
  .ok ((s.freeSlots (coreOf s.cur) r).reply3 (.g d) (BitVec.ofNat 64 (slotMask r)) la)

/-- The checks of `MCFG` (R207). -/
def State.mcfgShape (s : State) (v : Nat) : Res MatOp := do
  let rows := bitsOf v 16 6 + 1
  let cols := bitsOf v 24 6 + 1
  let base := bitsOf v 32 21
  ensure (v == v % 64 + 2 ^ 16 * bitsOf v 16 6 + 2 ^ 24 * bitsOf v 24 6 + 2 ^ 32 * base && bitsOf v 0 2 != 3 && bitsOf v 2 2 != 3 &&
    base % 64 == 0 && rows * cols ≤ 512 && (bitsOf v 4 2 == 0 || base + 384 * rows * cols ≤ s.me.bind.spSize)) (s.matShape 1)
  .ok (.mcfg (BitVec.ofNat 64 v))

/-- A base that R210 wants aligned; the record names the class of the run there (log 53). -/
def alignedBase (a : Word) (c : Cls) : Res Unit := ensure (a.toNat % 64 == 0) (.trap 0x20 a (addrExtra .p c 0))

/-- The checks of `ADDW`, `WNORM` and `WZERO` (R210), range by range in the order of R43: `n` is P field `p`; each range is an address, its
bits for `n` items, its class and the rights. With a count of 0 no range is read or written, so that only its alignment is
checked (log 53). -/
def State.winCmd (s : State) (tok : BitVec 6) (la : BitVec 4) (n : Word) (p : Nat) (rs : List (Word × Nat × Cls × Rights))
    (op : MatOp) : Res State := do
  s.endChunk
  ensure (s.core (coreOf s.cur)).matRoom (.hold .matrixQueue)
  ensure (n.toNat ≤ 2 ^ 24) (s.matShape p)
  rs.forM fun r => do
    alignedBase r.1 r.2.2.1
    (if n = 0 then .ok () else (s.checkRun false r.1.toNat r.2.1 r.2.2.1 r.2.2.2 0).map fun _ => ())
  .ok (s.issueMat tok la op)

/-- A capability (R211): its bits 39:0, with the check of the core that made it. -/
def State.capability (s : State) (c : Nat) (ctx mask rights : Nat) : Word :=
  let body := mask % 2 ^ 16 + 2 ^ 16 * (c % 2 ^ 12) + 2 ^ 28 * (rights % 8) + 2 ^ 32 * (ctx % 256)
  BitVec.ofNat 64 (body + 2 ^ 40 * (Config.capCheck c (s.core c).key (BitVec.ofNat 64 body)).toNat)

/-- `MCAP` (R211). -/
def State.mcap (s : State) (d : BitVec 6) (la : BitVec 4) (ctx mask : Word) (rights : BitVec 3) : Res State := do
  s.endChunk
  ensure (ctx.toNat < 2 ^ 8) (s.matShape 1)
  ensure (mask.toNat < 2 ^ 16) (s.matShape 2)
  let held := (maskSlots mask.toNat).filter fun i => (s.heldSlots s.cur).contains i
  let cap := s.capability (coreOf s.cur) ctx.toNat (slotMask held) rights.toNat
  let s1 := s.onCore (coreOf s.cur) fun k => { k with caps := k.caps ++ [(cap, s.cur)] }
  .ok (s1.reply3 (.g d) cap la)

/-! The unit at work (R197 to R209). -/

/-- A command's report with flags and a failure. -/
def MatCmd.note (k : MatCmd) (fl : Flags) (fail : Nat) : MatCmd :=
  { k with nv := k.nv || fl &&& fNV != 0, sa := k.sa || fl &&& fSA != 0, status := if k.status = 0 then fail else k.status }

/-- The token of a command (R152). -/
def MatCmd.token (k : MatCmd) : Nat := 2 ^ 8 * k.status + (if k.nv then 4 else 0) + (if k.sa then 2 else 0) + 1

/-- What a command must not share with another that is under way (R197): 0 the shadow plane, 1 the active one, 2 and 3 the
accumulators, 4 windows. -/
def MatOp.uses (m : Matrix) : MatOp → List Nat
  | .mwld _ _ _ _ _ _ => [0]
  | .mstrm _ _ _ _ _ acc _ => [1, if acc then 3 else 2] ++ (if m.long acc then [4] else [])
  | .mgrp _ _ _ _ _ _ acc => [0, 1, if acc then 3 else 2] ++ (if m.long acc then [4] else [])
  | .mdrn _ _ _ _ _ _ _ _ _ acc _ => [if acc then 3 else 2]
  | .mclr _ acc => [if acc then 3 else 2]
  | .mcfg _ => [0, 1, 2, 3, 4]
  | .mrmt _ _ _ => []
  | .addw _ _ _ _ | .wnorm _ _ _ _ _ | .wzero _ _ => [4]

/-- The accepted commands of a unit, local and remote. -/
def Core.accepted (k : Core) : List MatCmd := (k.matQ ++ k.port).filter fun c => c.accepted.isSome

/-- The command that starts next: the first accepted of those that have not started (R197). -/
def Core.nextStart (k : Core) : Option MatCmd :=
  (k.accepted.filter fun c => !c.started).foldl (fun m c =>
    match m with
    | none => some c
    | some d => if c.accepted.getD 0 < d.accepted.getD 0 then some c else some d) none

/-- Whether a command may start: nothing under way shares what it uses, and for `MCFG` nothing is under way at all (R207). -/
def Core.mayStart (k : Core) (c : MatCmd) : Bool :=
  (k.accepted.filter fun d => d.started).all fun d =>
    (match c.op with | .mcfg _ => false | _ => true) && (d.op.uses k.mat).all fun r => !(c.op.uses k.mat).contains r

/-- Replaces one command of a unit. -/
def State.setMatCmd (s : State) (c : Nat) (old new : MatCmd) : State :=
  s.onCore c fun k => { k with matQ := onFirst (· == old) (fun _ => new) k.matQ, port := onFirst (· == old) (fun _ => new) k.port }

/-- The transfers of a long-mode accumulator, in row-major order (R208). -/
def Matrix.transfers (m : Matrix) (c : Nat) (acc : Bool) : List MatWrite :=
  let a := m.acc acc
  let rows := bitsOf m.cfg.toNat 16 6 + 1
  let cols := bitsOf m.cfg.toNat 24 6 + 1
  (upFrom 0 rows).flatMap fun i => (upFrom 0 cols).map fun j =>
    .window (padBase c + bitsOf m.cfg.toNat 32 21 + 384 * (i * cols + j))
      (if SMap.look false a.nan (j + 64 * i) then none else some (SMap.look 0 a.m (j + 64 * i), a.e))

/-- A stream or `MGRP` has ended (R204, R208): `endCarry` says that the carry has been used; in long mode the sub-block goes to
its windows and the accumulator is cleared, a carry apart. -/
def State.endStream (s : State) (c : Nat) (k : MatCmd) (acc endCarry : Bool) : State × MatCmd :=
  let s1 := if endCarry then s.onMat c fun m => m.setAcc acc { m.acc acc with carry := none } else s
  let m := s1.mat c
  if m.long acc then
    (s1.onMat c fun m => m.setAcc acc { Acc.clear (m.acc acc).clearE with carry := (m.acc acc).carry },
     { k with busy := false, todo := m.transfers c acc })
  else (s1, { k with busy := false })

/-- A stream meets poison in its plane or its slot (R316). -/
def State.spoilStream (s : State) (c : Nat) (k : MatCmd) (acc bad : Bool) : State × MatCmd :=
  if bad then (s.onMat c fun m => m.setAcc acc (m.acc acc).spoil, k.note 0 0x83) else (s, k)

/-- Whether `MSTRM` passes its start checks (R213). -/
def Matrix.streamOk (m : Matrix) (src off rows : Nat) (af : Fmt) (acc : Bool) : Bool :=
  let p := m.plane
  let a := m.acc acc
  paired p.fmt af (m.mode acc) && (src == 16 || off + packedBits (fmtCls af) (rows * p.kdim) ≤ 65536) &&
  (match a.carry with
   | some k => p.half && k.m == rows && k.ndim == p.ndim
   | none => !p.half)

/-- Adds one row of a stream through the active plane. -/
def State.streamRow (s : State) (c : Nat) (af : Fmt) (scale : Nat) (acc : Bool) (x : Nat → Nat) (row : Nat) : State :=
  s.onMat c fun m => m.setAcc acc (m.active.row (m.mode acc) af.elt (unpack .f32 scale) x row (m.acc acc))

/-- The shadow plane becomes the active plane if it holds a newer load, and a first half of a g128 group opens a carry (R201,
R204). -/
def State.openStream (s : State) (c rows : Nat) (acc : Bool) : State :=
  s.onMat c fun m =>
    let p := m.plane
    let m1 := { m with active := p, newer := false }
    if isWide p.fmt && !p.half then m1.setAcc acc { m1.acc acc with carry := some { p := [], m := rows, ndim := p.ndim } } else m1

/-- `MSTRM` starts (R201 to R204). -/
def State.startStream (s : State) (c : Nat) (k : MatCmd) (src off rows scale : Nat) (af : Fmt) (acc tr : Bool) : State × MatCmd :=
  if !(s.mat c).streamOk src off rows af acc then (s, k.note 0 0x8E)
  else
    let s1 := s.openStream c rows acc
    let p := (s1.mat c).active
    if src = 16 then (s1, { k with busy := true })
    else
      let s2 := (upFrom 0 rows).foldl (fun t row =>
        t.streamRow c af scale acc (fun k => s.slotAct c src off (fmtCls af) p.kdim rows tr row k) row) s1
      let r := s2.spoilStream c k acc (p.poisoned || s.slotBad c src off (packedBits (fmtCls af) (rows * p.kdim)))
      r.1.endStream c r.2 acc (isWide p.fmt && p.half)

/-- One group of `MGRP`: its load and its stream (R205). -/
def State.raggedGroup (s : State) (c slot scale : Nat) (af wf : Fmt) (acc : Bool) (r : State × MatCmd) (g : Nat × Nat × Nat) :
    State × MatCmd :=
  if g.2.2 = 0 then r
  else
    let p := s.tilePlane c g.1 0 64 64 wf false
    let s1 := r.1.onMat c fun m => { m with active := p, shadow := p, newer := false }
    let s2 := (upFrom g.2.1 g.2.2).foldl (fun t row =>
      t.streamRow c af scale acc (fun k => s.slotAct c slot 0 (fmtCls af) 64 0 false row k) row) s1
    let lo := packedBits (fmtCls af) (64 * g.2.1)
    s2.spoilStream c r.2 acc (p.poisoned || s.slotBad c slot lo (packedBits (fmtCls af) (64 * (g.2.1 + g.2.2)) - lo))

/-- Slot, first row and count of each group. -/
def groupRows : Nat → List Nat → List Nat → List (Nat × Nat × Nat)
  | o, s :: ss, r :: rs => (s, o, r) :: groupRows (o + r) ss rs
  | _, _, _ => []

/-- `MGRP` starts (R205, R213). -/
def State.startGroups (s : State) (c : Nat) (k : MatCmd) (slot mask counts scale : Nat) (af wf : Fmt) (acc : Bool) : State × MatCmd :=
  let rs := (upFrom 0 (maskSlots mask).length).map fun g => s.bits (counts + 16 * g) 16
  let bad := (s.poisonIn counts (16 * rs.length)).isSome
  if !paired wf af ((s.mat c).mode acc) || ((s.mat c).acc acc).carry.isSome then (s, k.note 0 0x8E)
  else if 64 < rs.foldl (· + ·) 0 then (s, k.note 0 0x88)
  else
    let r := (groupRows 0 (maskSlots mask) rs).foldl (s.raggedGroup c slot scale af wf acc)
      (s, if bad then k.note 0 0x83 else k)
    r.1.endStream c r.2 acc false

/-- What `MDRN` writes for an element, with the token's flags (R209). -/
def Acc.drained (a : Acc) (i : Nat) (t : Ty) (rm : Rm) (sat : Bool) : Nat × Flags :=
  if SMap.look false a.nan i then (if t.isFloat then canonNan t else 0, fNV)
  else
    let v := FV.scaled (SMap.look 0 a.m i) a.e
    if t.isFloat then roundTo t rm sat v
    else
      match v with
      | .fin n x y =>
        let q := (roundInt rm n x y).1
        let c := clampInt q t.lo t.hi
        if sat then (wrapTo t.bits c, if c = q then 0 else fSA) else (wrapTo t.bits q, 0)
      | _ => (0, 0)

/-- Stores grouped by 256-bit sector in runs of rising addresses, in order: an address, whether poisoned, and the stores. -/
def sectors : List (Nat × Bool × List Store) → List (Nat × Bool × List Store)
  | [] => []
  | x :: xs =>
    match sectors xs with
    | [] => [x]
    | y :: ys =>
      if x.1 / 256 = y.1 / 256 && x.1 < y.1 && (x.2.2.map (·.pkg)).head? == (y.2.2.map (·.pkg)).head? then
        (x.1, x.2.1 || y.2.1, x.2.2 ++ y.2.2) :: ys
      else x :: y :: ys

/-- The sectors as writes of a command. -/
def sectorWrites (g : Bool) (xs : List (Nat × Bool × List Store)) : List MatWrite :=
  (sectors xs).map fun x => .sector g x.2.1 x.2.2

/-- The stores of one element at its place. -/
def placeStores (p : Option Place) (c : Cls) (v : Nat) : List Store :=
  match p with
  | some (.here b) => elemStores none b c v
  | some (.far pkg b) => elemStores (some pkg) b c v
  | _ => []

/-- The containers that a write of a command touches, with the package of those that are not its own. -/
def MatWrite.cells : MatWrite → List (Option (BitVec 10) × Nat)
  | .window bit _ => (upFrom 0 6).map fun i => (none, bit / 64 + i)
  | .part _ sts => sts.map fun w => (none, w.1 / 64)
  | .sector _ _ sts => sts.map fun st => (st.pkg, st.bit / 64)

/-- The containers that a command reads when it starts or writes in the end. -/
def Matrix.cells (m : Matrix) (c : Nat) (op : MatOp) : List (Option (BitVec 10) × Nat) :=
  let span (b n : Nat) : List (Option (BitVec 10) × Nat) := (upFrom 0 n).map fun i => (none, b / 64 + i)
  let run (b n : Nat) (cl : Cls) : List (Option (BitVec 10) × Nat) :=
    (upFrom 0 n).map fun i => (none, (b + (addrOf (i : Nat) cl).toNat) / 64)
  let moved (acc : Bool) : List (Option (BitVec 10) × Nat) := if m.long acc then (m.transfers c acc).flatMap (·.cells) else []
  match op with
  | .mstrm _ _ _ _ _ acc _ => moved acc
  | .mgrp _ _ counts _ _ _ acc => span counts 5 ++ moved acc
  | .mdrn dst _ _ nr nc _ df _ _ _ _ =>
    (upFrom 0 (nr * nc)).flatMap fun i =>
      (placeStores (dst.at (dst.elem (fmtCls df) nc i)) (fmtCls df) 0).map fun st => (st.pkg, st.bit / 64)
  | .addw win src n sf => span win 6 ++ run src n (fmtCls sf)
  | .wnorm dst win n df _ => span win (6 * n) ++ run dst n (fmtCls df)
  | .wzero win n => span win (6 * n)
  | _ => []

/-- The containers that a command under way has still to write. -/
def Matrix.owes (m : Matrix) (c : Nat) (k : MatCmd) : List (Option (BitVec 10) × Nat) :=
  k.todo.flatMap (·.cells) ++ (match k.op with | .mstrm _ _ _ _ _ _ _ => if k.busy then m.cells c k.op else [] | _ => [])

/-- Whether no command under way has still to write a container of a command: commands take effect in the order of their
acceptance (R197). -/
def Core.clearOf (q : Core) (c : Nat) (k : MatCmd) : Bool :=
  (q.accepted.filter fun d => d.started).all fun d =>
    let l := q.mat.owes c d
    l.isEmpty || (q.mat.cells c k.op).all fun x => !l.contains x

/-- `MDRN` starts (R209): every element is read, and the accumulator is cleared when CLR asks. -/
def State.startDrain (s : State) (c : Nat) (k : MatCmd) (dst : Side) (r0 c0 nr nc : Nat) (e : Int) (df : Fmt) (rm : Rm)
    (sat acc clr : Bool) : State × MatCmd :=
  let a := (s.mat c).acc acc
  if a.carry.isSome then (s, k.note 0 0x8E)
  else
    let dc := fmtCls df
    let outs := (upFrom 0 (nr * nc)).map fun i => (i, a.drained (c0 + i % nc + 64 * (r0 + i / nc)) df.elt rm sat)
    let ws := outs.map fun o => (dst.elem dc nc o.1, false, placeStores (dst.at (dst.elem dc nc o.1)) dc o.2.1)
    let k1 := outs.foldl (fun q o => q.note o.2.2 0) k
    let s1 := if clr then s.onMat c fun m => m.clear acc e else s
    (s1, { (if a.ovf then k1.note 0 0x8A else k1) with todo := sectorWrites dst.g ws })

/-- `ADDW`, `WNORM` and `WZERO` start (R210): bits in the numbering of memory. DESIGN CHOICE (log 96): `ADDW` reads its window and all its
values, and `WNORM` all its windows, before the first of their writes, whatever their operands overlap. -/
def State.startWindow (s : State) (k : MatCmd) : State × MatCmd :=
  match k.op with
  | .addw win src n sf =>
    if n = 0 then (s, k)
    else
      let r := s.addValues src sf.elt (fmtCls sf) (upFrom 0 n) (s.window win, 0, false, 0)
      let k1 := (k.note 0 r.2.2.2).note (if r.2.2.1 then fNV else 0) 0
      (s, { k1 with todo := s.windowParts win (wrapTo 384 r.1) r.2.1 })
  | .wnorm dst win n df rm =>
    let outs := (upFrom 0 n).map fun i =>
      (i, roundTo df.elt rm true (.scaled (s.window (win + 384 * i)) (-160)), (s.poisonIn (win + 384 * i) 384).isSome)
    let at_ (i : Nat) : Nat := dst + (addrOf (i : Nat) (fmtCls df)).toNat
    let ws := outs.map fun o => (at_ o.1, o.2.2, elemStores none (at_ o.1) (fmtCls df) o.2.1.1)
    let bad := (unitsOf 64 win (384 * n)).filter fun u => SMap.look false s.poison u
    (bad.foldl State.logMerge s, { (outs.foldl (fun q o => q.note (if o.2.1.2 &&& fOF != 0 then fNV else 0) 0) k) with todo := sectorWrites false ws })
  | .wzero win n =>
    (s, { k with todo := sectorWrites false ((upFrom 0 (6 * n)).map fun i =>
      (win + 64 * i, false, [{ pkg := none, bit := win + 64 * i, bits := 64, val := 0 }])) })
  | _ => (s, k)

/-- A command starts (R197, R213). -/
def State.startMat (s : State) (c : Nat) (k0 : MatCmd) : State × MatCmd :=
  let k := { k0 with started := true }
  match k.op with
  | .mwld slot off kdim ndim wf half =>
    let p := s.tilePlane c slot off kdim ndim wf half
    (s.onMat c fun m => { m with shadow := p, newer := true }, if p.poisoned then k.note 0 0x83 else k)
  | .mstrm src off m scale af acc tr => s.startStream c k src off m scale af acc tr
  | .mgrp slot mask counts scale af wf acc => s.startGroups c k slot mask counts scale af wf acc
  | .mdrn dst r0 c0 nr nc e df rm sat acc clr => s.startDrain c k dst r0 c0 nr nc e df rm sat acc clr
  | .mclr e acc => (s.onMat c fun m => m.clear acc e, k)
  | .mcfg v =>
    (s.onMat c fun m =>
      let m1 := { m with cfg := v }
      let m2 := if m1.mode false = m.mode false then m1 else m1.clear false 0
      if m1.mode true = m.mode true then m2 else m2.clear true 0, k)
  | .mrmt owner cap image =>
    (s.due [.remoteCommandArrival owner k.strand (BitVec.ofNat 8 (s.strand k.strand).bind.ctx) cap image], { k with busy := true })
  | _ => s.startWindow k

/-- A stream from the queue of its strand takes its next row, or ends when the strand's task has (R202). -/
def State.takeRow (s : State) (c : Nat) (k : MatCmd) : Option (State × MatCmd) :=
  match k.op with
  | .mstrm 16 _ m scale af acc _ =>
    let t := s.strand k.strand
    let p := (s.mat c).active
    match t.vMat with
    | v :: vs =>
      let s1 := (s.onStrand k.strand fun t => { t with vMat := vs }).streamRow c af scale acc (laneAct v (fmtCls af)) k.rowsTaken
      let k1 := { k with rowsTaken := k.rowsTaken + 1 }
      if k1.rowsTaken < m then some (s1, k1)
      else
        let r := s1.spoilStream c k1 acc p.poisoned
        some (r.1.endStream c r.2 acc (isWide p.fmt && p.half))
    | [] =>
      if t.status = .ending then
        some (s.endStream c (k.note 0 0x8E) acc (isWide p.fmt && p.half))
      else none
  | _ => none

/-- The next write of a command becomes visible (R198, R208): of a transfer, the first sector. -/
def State.matWrite (s : State) (k : MatCmd) (w : MatWrite) : State × MatCmd :=
  match w with
  | .window bit v =>
    match v with
    | none => (s, k.note 0 0x8C)
    | some (m, e) =>
      let u := winUnits (.scaled m e)
      let r := winSum (s.window bit) u
      let k1 := if r.2 then k.note 0 0x8B else k
      match s.windowParts bit (wrapTo 384 r.1) u.natAbs with
      | .part _ sts :: ps => (s.writePart sts, { k1 with todo := ps ++ k1.todo })
      | _ => (s, k1)
  | .part _ sts => (s.writePart sts, k)
  | .sector g bad sts =>
    if sts.any fun st => g && st.pkg.isNone && !s.alive (s.strand k.strand).bind.ctx (.here st.bit) then (s, k.note 0 0x82)
    else
      let base := (sts.headD { pkg := none, bit := 0, bits := 0, val := 0 }).bit / 256 * 256
      let w := sectorBits base (sts.map fun st => (st, bad))
      (match (sts.head?).bind Store.pkg with
       | some p => s.sendSector (matTag (coreOf k.strand)) k.strand k.tok 0 p 0 base w.1 w.2.1 w.2.2
       | none => s.writeBits base w, k)

/-- Whether a window of a command stands in part: the strand of the command sees it as it was or as it will be (R89), and does not issue until
then. -/
def MatCmd.between (k : MatCmd) : Bool := match k.todo with | .part true _ :: _ => true | _ => false

/-- Whether a window of a command of strand `n` stands in part. -/
def State.between (s : State) (n : Nat) : Bool := (s.core (coreOf n)).accepted.any fun k => k.strand == n && k.between

/-- Whether a command has nothing left to do but its next write or its token. -/
def MatCmd.ready (k : MatCmd) : Bool := k.started && !k.busy

/-! Remote commands (R212). -/

/-- A field of a command image that gives a selector: its code must be one of R50. -/
def imageSel (x : Nat) (lo : Nat) : Bool := (Sel.ofCode (BitVec.ofNat 7 (x / 2 ^ lo % 128))).isSome

/-- The command of an image (R195, R212): whether R65 accepts its fields, and the command with the values in place of selectors,
checked at the owner, whose strand acts. -/
def State.imageOp (s : State) (img : Nat) : Bool × Res MatOp :=
  let w := img % 2 ^ 32
  let x := bitsOf img 32 64
  let v (i : Nat) : Nat := bitsOf img (64 + 64 * i) 64
  let p1 := bitsOf w 19 7
  let head := bitsOf w 0 8 == 0x38 * 4 + 1 && bitsOf w 8 11 == 0 && bitsOf img 96 32 == 0 && img / 2 ^ 448 == 0 &&
    bitsOf x 21 7 == 0
  let fmtAt (lo : Nat) : Option Fmt := Fmt.ofCode (BitVec.ofNat 6 (bitsOf x lo 6))
  let bad : Bool × Res MatOp := (false, .error (s.matShape 0))
  let sels (l : List Nat) : Bool := l.all fun i => (Sel.ofCode (BitVec.ofNat 7 (bitsOf x (7 * i) 7))).isSome
  let side (i : Nat) : Side := { g := false, walked := false, starts := [v i], segs := [] }
  let selP1 := match Sel.ofCode (BitVec.ofNat 7 p1) with | some y => !y.isW && p1 != 16 | none => false
  match bitsOf w 26 6, fmtAt 28, fmtAt 34 with
  | 2, some wf, _ =>
    (head && wf.isWeight && sels [0, 1, 2] && x / 2 ^ 35 == 0, s.mwldShape p1 (v 2) (v 3) (v 4) wf (x.testBit 34))
  | 3, some af, _ =>
    (head && af.isActivation && sels [0, 1, 2] && x / 2 ^ 36 == 0 && p1 != 16,
     s.mstrmShape p1 (v 2) (v 3) (v 4) af (x.testBit 34) (x.testBit 35))
  | 4, some af, some wf =>
    (head && af.isActivation && wf.isWeight && sels [0, 1, 2] && x / 2 ^ 41 == 0,
     s.mgrpShape p1 (v 2) (v 3) (v 4) af wf (x.testBit 40))
  | 5, some df, _ =>
    match Rm.ofCode (BitVec.ofNat 3 (bitsOf x 34 3)) with
    | some rm =>
      (head && !df.isGrouped && sels [0, 1] && selP1 && x / 2 ^ 41 == 0 && !x.testBit 38 && bitsOf x 14 7 == 0 &&
        (x.testBit 40 || bitsOf x 7 7 == 0),
       s.mdrnShape (side 1) (v 2) (BitVec.ofNat 64 (v 3)) df rm (x.testBit 37) (x.testBit 39) (x.testBit 40))
    | none => bad
  | 6, _, _ =>
    (head && selP1 && x / 2 ^ 29 == 0 && x % 2 ^ 28 == 0,
     (s.clearExp (BitVec.ofNat 64 (v 1)) 1).map fun e => .mclr e (x.testBit 28))
  | _, _, _ => bad

/-- The strands that made a capability in the core's present epoch. -/
def Core.makers (k : Core) (cap : Word) : List Nat := (k.caps.filter fun p => p.1 == cap).map (·.2)

/-- The three checks of R212, in order, against the owner's state: the status of the first that fails, or the command. -/
def State.remoteCheck (s : State) (owner : Nat) (ctx : Nat) (part : Nat) (cap : Word) (img : Nat) : Nat ⊕ MatOp :=
  let k := s.core owner
  let body := cap.toNat % 2 ^ 40
  let slot := (upFrom (4 * owner) 4).find? fun n => (s.strand n).bind.valid
  match slot with
  | none => .inl 0x89
  | some n =>
    let a := { s with cur := n }
    let ok := isTaper owner && bitsOf body 16 12 == owner && bitsOf body 32 8 == ctx && s.partOf n == part &&
      bitsOf cap.toNat 40 24 == (Config.capCheck owner k.key (BitVec.ofNat 64 body)).toNat
    let held (i : Nat) : Bool := (bitsOf body 0 16).testBit i && (k.makers cap).any fun m => SMap.look 0 k.mat.slots i == m + 1
    if !ok || !hasRights (bitsOf body 28 3) (imageRights img) || !(imageSlots img).all held then .inl 0x89
    else
      let r := a.imageOp img
      match (if r.1 then r.2.bind a.matAddrs else .error (s.matShape 0)) with
      | .ok op => .inr op
      | .error _ => .inl 0x8F

/-- Whether a core is about to be saved: its launch is pre-empted and its strands stand (R301). -/
def State.closing (s : State) (c : Nat) : Bool :=
  (upFrom (4 * c) 4).all fun n =>
    let t := s.strand n
    t.bind.valid && ((s.launch t.bind.launch).map Launch.preempted).getD false && (t.status == .free || t.hold == .stopped)

/-- The owner's port takes a command (R212): it is accepted on its arrival, and checked when it starts (R197, R213). A core that is about to
be saved takes none from another launch (R301). -/
def State.remoteArrival (s : State) (owner sender : Nat) (ctx : Nat) (cap : Word) (img : Nat) : State :=
  let isIt (c : MatCmd) : Bool := c.strand == sender && c.started && c.busy &&
    (match c.op with | .mrmt o p i => o == owner && p == cap && i.toNat == img | _ => false)
  match (s.core (coreOf sender)).matQ.find? isIt with
  | none => s
  | some c =>
    if isTaper owner && (4 ≤ (s.core owner).port.length ||
        (s.closing owner && (s.strand (4 * owner)).bind.launch != (s.strand sender).bind.launch)) then
      s.due [.remoteCommandArrival owner sender (BitVec.ofNat 8 ctx) cap (BitVec.ofNat 1024 img)]
    else
      let s1 := s.onCore (coreOf sender) fun k => { k with matQ := k.matQ.erase c }
      if !isTaper owner then s1.writeToken sender c.tok (2 ^ 8 * 0x89 + 1)
      else
        (s1.onCore owner fun k => { k with port := k.port ++
          [{ op := c.op, strand := sender, tok := c.tok, remote := true, accepted := some s.steps, started := false, busy := false,
             rowsTaken := 0, todo := [], status := 0, nv := false, sa := false }] }).due [.matrixCommandStart owner]

/-- What a command of a unit is when it starts (R212, R213): a remote one is checked now. -/
def State.opened (s : State) (k : MatCmd) : Nat ⊕ MatCmd :=
  match k.op with
  | .mrmt owner cap image =>
    if k.remote then
      match s.remoteCheck owner (s.strand k.strand).bind.ctx (s.partOf k.strand) cap image.toNat with
      | .inl st => .inl st
      | .inr op => .inr { k with op := op }
    else .inr k
  | _ => .inr k

/-- The first accepted queue stream of a core that can take a row. -/
def State.firstRow (s : State) (c : Nat) : Option (MatCmd × (State × MatCmd)) :=
  ((s.core c).accepted.filter fun k => k.busy).findSome? fun k => (s.takeRow c k).map fun r => (k, r)

/-- One step of the unit of a core: a queue stream takes a row, or the next command starts (R197). -/
def State.matStep (s : State) (c : Nat) : State :=
  match s.firstRow c with
  | some (k, r) => (r.1.setMatCmd c k r.2).due [if r.2.ready then .matrixCommandCompletion c else .matrixCommandStart c]
  | none =>
    match (s.core c).nextStart with
    | some k0 =>
      match s.opened k0 with
      | .inl st => (s.setMatCmd c k0 ({ k0 with started := true }.note 0 st)).due [.matrixCommandCompletion c]
      | .inr k =>
      if (s.core c).mayStart k && (s.core c).clearOf c k then
        let r := s.startMat c k
        let s1 := r.1.setMatCmd c k0 r.2
        s1.due (if r.2.ready then [.matrixCommandCompletion c]
                else match k.op with | .mrmt _ _ _ => [] | _ => [.matrixCommandStart c])
      else s.due [.matrixCommandStart c]
    | none => if (s.core c).accepted.any fun k => k.busy && (match k.op with | .mrmt _ _ _ => false | _ => true) then s.due [.matrixCommandStart c] else s

/-- A command's next write becomes visible, or its token is written once those in other packages are acknowledged (R198). -/
def State.matFinish (s : State) (c : Nat) : State :=
  match (s.core c).accepted.filter fun k => k.ready with
  | [] => s
  | k :: ks =>
    let k := (k :: ks).getD (Config.freeChoice s.steps % (ks.length + 1)) k
    match k.todo with
    | w :: ws =>
      let r := s.matWrite { k with todo := ws } w
      (r.1.setMatCmd c k r.2).due [.matrixCommandCompletion c]
    | [] =>
      if s.farStores.any fun f => f.tag == matTag c && f.strand == k.strand && f.tok == k.tok then s.due [.matrixCommandCompletion c]
      else (s.onCore c fun q => { q with matQ := q.matQ.erase k, port := q.port.erase k }).writeToken k.strand k.tok k.token

/-- `SLRESV`. R193: Reserves operand slots within the quota. -/
def execSlresv (d : BitVec 6) (m : Sel) (any : Bool) (la : BitVec 4) (s : State) : Host.Outcome State Fault Refusal :=
  s.answer (s.slresv d (s.rd m) any la)

/-- `SLFREE`. R193: Frees slots after their users finish. -/
def execSlfree (d : BitVec 6) (m : Sel) (la : BitVec 4) (s : State) : Host.Outcome State Fault Refusal :=
  s.answer (s.slfree d (s.rd m) la)

/-- `MWLD`. R200: Loads a weight tile into the shadow plane. -/
def execMwld (tok : BitVec 6) (la : BitVec 4) (slot : BitVec 7) (off : Sel) (kdim : Sel) (ndim : Sel) (wf : Fmt) (half : Bool) (s : State) : Host.Outcome State Fault Refusal :=
  s.answer (s.matCmd tok la (s.mwldShape slot.toNat (s.rd off).toNat (s.rd kdim).toNat (s.rd ndim).toNat wf half))

/-- `MSTRM`. R202: Streams activation rows into an accumulator. -/
def execMstrm (tok : BitVec 6) (la : BitVec 4) (src : BitVec 7) (off : Sel) (m : Sel) (scale : Sel) (af : Fmt) (acc : Bool) (tr : Bool) (s : State) : Host.Outcome State Fault Refusal :=
  s.answer (s.matCmd tok la (s.mstrmShape src.toNat (s.rd off).toNat (s.rd m).toNat (s.rd scale).toNat af acc tr))

/-- `MGRP`. R205: Runs a ragged batch of grouped products. -/
def execMgrp (tok : BitVec 6) (la : BitVec 4) (slot : BitVec 7) (wmask : Sel) (counts : Sel) (scale : Sel) (af : Fmt) (wf : Fmt) (acc : Bool) (s : State) : Host.Outcome State Fault Refusal :=
  s.answer (s.matCmd tok la (s.mgrpShape slot.toNat (s.rd wmask).toNat (s.rd counts).toNat (s.rd scale).toNat af wf acc))

/-- `MDRN`. R209: Drains an accumulator region to memory. -/
def execMdrn (tok : BitVec 6) (la : BitVec 4) (dst : Sel) (region : Sel) (e : Sel) (df : Fmt) (rm : Rm) (sat : Bool) (dsp : Bool) (acc : Bool) (clr : Bool) (s : State) : Host.Outcome State Fault Refusal :=
  s.answer (s.matCmd tok la (do
    let d ← s.sideOf dsp dst
    s.mdrnShape d (s.rd region).toNat (s.rd e) df rm sat acc clr))

/-- `MCLR`. R206: Clears an accumulator with a given exponent. -/
def execMclr (tok : BitVec 6) (la : BitVec 4) (e : Sel) (acc : Bool) (s : State) : Host.Outcome State Fault Refusal :=
  s.answer (s.matCmd tok la ((s.clearExp (s.rd e) 1).map fun x => .mclr x acc))

/-- `MCFG`. R207: Installs the matrix configuration word. -/
def execMcfg (tok : BitVec 6) (la : BitVec 4) (cfg : Sel) (s : State) : Host.Outcome State Fault Refusal :=
  s.answer (s.matCmd tok la (s.mcfgShape (s.rd cfg).toNat))

/-- `MRMT`. R212: Sends a command image to another core's matrix unit. -/
def execMrmt (tok : BitVec 6) (la : BitVec 4) (cap : Sel) (vr : VReg) (s : State) : Host.Outcome State Fault Refusal :=
  s.answer (s.matCmd tok la (.ok (.mrmt (bitsOf (s.rd cap).toNat 16 12) (s.rd cap) (s.vec vr))))

/-- `MCAP`. R211: Makes a capability for remote matrix commands. -/
def execMcap (d : BitVec 6) (la : BitVec 4) (ctx : Sel) (mask : Sel) (rights : BitVec 3) (s : State) : Host.Outcome State Fault Refusal :=
  s.answer (s.mcap d la (s.rd ctx) (s.rd mask) rights)

/-- `ADDW`. R210: Adds values exactly into a long-accumulator window. -/
def execAddw (tok : BitVec 6) (la : BitVec 4) (win : Sel) (src : Sel) (n : Sel) (sf : Fmt) (s : State) : Host.Outcome State Fault Refusal :=
  let b := padBase (coreOf s.cur)
  let k := (s.rd n).toNat
  let c := fmtCls sf
  s.answer (s.winCmd tok la (s.rd n) 3 [(s.rd win, 384, .w64, 2), (s.rd src, packedBits c k, c, 1)]
    (.addw (b + (s.rd win).toNat) (b + (s.rd src).toNat) k sf))

/-- `WNORM`. R210: Rounds long-accumulator windows to floating. -/
def execWnorm (tok : BitVec 6) (la : BitVec 4) (dst : Sel) (win : Sel) (n : Sel) (df : Fmt) (rm : Rm) (s : State) : Host.Outcome State Fault Refusal :=
  let b := padBase (coreOf s.cur)
  let k := (s.rd n).toNat
  let c := fmtCls df
  s.answer (s.winCmd tok la (s.rd n) 3 [(s.rd dst, packedBits c k, c, 2), (s.rd win, 384 * k, .w64, 1)]
    (.wnorm (b + (s.rd dst).toNat) (b + (s.rd win).toNat) k df rm))

/-- `WZERO`. R210: Zeroes long-accumulator windows. -/
def execWzero (tok : BitVec 6) (la : BitVec 4) (win : Sel) (n : Sel) (s : State) : Host.Outcome State Fault Refusal :=
  let k := (s.rd n).toNat
  s.answer (s.winCmd tok la (s.rd n) 2 [(s.rd win, 384 * k, .w64, 2)]
    (.wzero (padBase (coreOf s.cur) + (s.rd win).toNat) k))

/-- `MATRIX_COMMAND_ACCEPTANCE`. R196: A matrix engine command is accepted after its chunk commits. -/
def execMatrixCommandAcceptance (core : Nat) (s : State) : Host.Outcome State Fault Refusal :=
  let q := (s.core core).matQ
  if q.any fun c => c.accepted.isNone then
    .next ((s.onCore core fun k => { k with matQ := onFirst (fun c => c.accepted.isNone) (fun c => { c with accepted := some s.steps }) k.matQ }).due
      [.matrixCommandStart core])
  else .next s

/-- `MATRIX_COMMAND_START`. R197: The matrix unit starts a command in acceptance order. -/
def execMatrixCommandStart (core : Nat) (s : State) : Host.Outcome State Fault Refusal :=
  .next (s.matStep core)

/-- `MATRIX_COMMAND_COMPLETION`. R198: The matrix command's writes are visible and its token is written. -/
def execMatrixCommandCompletion (core : Nat) (s : State) : Host.Outcome State Fault Refusal :=
  .next (s.matFinish core)

/-- `REMOTE_COMMAND_ARRIVAL`. R212: The owner's remote port takes a remote matrix command and checks it. -/
def execRemoteCommandArrival (owner : Nat) (sender : Nat) (ctx : BitVec 8) (cap : Word) (image : BitVec 1024) (s : State) : Host.Outcome State Fault Refusal :=
  .next (s.remoteArrival owner sender ctx.toNat cap image.toNat)

end Sys2Proof.Machine
end

