-- ==== Sys2Proof/Machine/Work.lean ====
section
/-! DEFINITION. Work between tasks: how tasks begin and end, the search for work, steals and splits, message frames, stages
and tailwind (R21, R228, R237 to R257, R291, R355, R356). -/

namespace Sys2Proof.Machine

/-! A task begins (R240). -/

/-- The registers of a task that begins with eight general registers (R44, R240): m0 all ones, a first frame. -/
def State.taskRegs (s : State) (n : Nat) (gs : List Word) : Regs :=
  let r := (upFrom 0 8).foldl (fun a i => a.set i (gs.getD i 0)) Regs.zero
  let fp := BitVec.ofNat 64 (s.firstFp n)
  ((r.setMask 0 (BitVec.allOnes 1024)).set 100 fp).set 101 fp

/-- A new task on strand `n`, with its first frame (R129): it acts as itself for claims, until a steal says otherwise. -/
def State.newTask (s : State) (n : Nat) (kind : TaskKind) (r : Regs) : State :=
  let s1 : State := { s.firstFrame n with tasks := s.tasks + 1 }
  (s1.onStrand n fun t =>
    { t with status := .ready, regs := r, shadow := Shadow.none, pend := [], chunk := Chunk.start r, wait := .none, since := s.clk,
             hold := .none, kind := kind, task := s.tasks + 1, inst := s.tasks + 1, victim := 0, origin := 0, entryClean := true,
             killed := false, stopReq := false, byStop := false, handback := false, start := none, doomed := [], handed := none,
             fault := none, sending := none }).dueOnce (.tailwindBinChange (tileOf n))

/-- The call by digest that begins a task (R21, R240): the callee's first frame stands already. A miss enters code wait with the
call still to be made (R135). -/
def State.begin (s : State) (n : Nat) (d : Digest) : State :=
  match s.resolveCode n d with
  | (s1, some (h, o)) =>
    (s1.liftCall h).onStrand n fun t =>
      Strand.atEntry { t with status := .ready, wait := .none, start := none, regs := { t.regs with handle := h, off := o.entry } }
  | (s1, none) => (s1.onStrand n fun t => { t with start := some d }).codeMiss n d

/-- A message handler begins (R240, R256). -/
def State.startFrame (s : State) (n : Nat) (f : Frame) : State :=
  let gs := ((upFrom 0 6).map fun i => f.payload.extractLsb' (64 * i) 64) ++ [f.header.extractLsb' 0 64, f.header.extractLsb' 64 64]
  (s.newTask n .message (s.taskRegs n gs)).begin n f.digest

/-- A container of a stage descriptor of a launch (R344). -/
def Launch.stageWord (l : Launch) (st i : Nat) : Nat := (l.record.getD (64 + 8 * st + i) 0).toNat

/-- The number of stages of a launch (R343). -/
def Launch.stages (l : Launch) : Nat := bitsOf (l.record.getD 0 0).toNat 16 4

/-- Items in the input ring of a stage (R254). -/
def State.stageItems (s : State) (l : Launch) (st : Nat) : Nat :=
  match s.ring l.ctx (bitsOf (l.stageWord st 4) 0 8) with
  | some r => if r.head.ult r.tail then r.occupancy else 0
  | none => 0

/-- A stage handler begins (R240). -/
def State.startStage (s : State) (n : Nat) (l : Launch) (st : Nat) : State :=
  let w := l.stageWord st 4
  let d : Digest := BitVec.ofNat 256 (packBits 64 ((upFrom 0 4).map fun i => l.stageWord st i))
  (s.newTask n .stage (s.taskRegs n [BitVec.ofNat 64 (bitsOf w 0 8), BitVec.ofNat 64 (bitsOf w 8 8), BitVec.ofNat 64 st])).begin n d

/-! Steals and splits (R238, R239, R243, R251). -/

/-- The task arena of a launch: the range with right T (R238, R326). -/
def Launch.arenaRange (l : Launch) : Option (Nat × Nat) :=
  (l.ranges.find? fun r => r.2.2.testBit 3).map fun r => (r.1, r.2.1)

/-- The first free slot of a launch's task arena, as slot number and G address, if its memory is there (R238). -/
def State.freeRecord (s : State) (l : Launch) : Option (Nat × Nat) :=
  match l.arenaRange with
  | some (base, len) =>
    match (upFrom 0 (len / 2 ^ 16)).find? fun i => !l.arena.contains i with
    | some i => if (s.ctxBit l.ctx (base + 2 ^ 16 * i)).isSome then some (i, base + 2 ^ 16 * i) else none
    | none => none
  | none => none

/-- Writes a task record at a G address of a context (R238). -/
def State.writeRecord (s : State) (ctx tp : Nat) (ws : List Word) : State :=
  match s.ctxBit ctx tp with
  | some b => ((ws.zip (upFrom 0 ws.length)).foldl (fun a p => a.merge (b + 64 * p.2) 64 p.1.toNat) s)
  | none => s

/-- The oldest lit wick of a strand: block and record (R243). -/
def State.oldestLit (s : State) (v : Nat) : Option (Nat × Nat) := (s.strand v).regs.wicks.reverse.find? fun w => s.lit v w.1

/-- Whether a strand's range can be split (R251): an owner's once its block stands in memory. -/
def State.canSplit (s : State) (v : Nat) : Bool :=
  let r := (s.strand v).regs
  r.role != .off && !(r.role == .owner && s.toCome v r.block) && (r.get 104).ult (r.get 105) && 2 * r.grain.toNat ≤ (r.get 105 - r.get 104).toNat

/-- Whether a strand may be a victim of a strand (R239): a strand of the same launch that has a task, not migrated, held or
ending. -/
def State.isVictim (s : State) (n v : Nat) : Bool :=
  let t := s.strand v
  v != n && t.bind.valid && t.bind.launch == (s.strand n).bind.launch && !isLantern v && t.start.isNone &&
  (match t.status with
   | .ready | .sleep | .codeWait | .joinWait => true
   | _ => false)

/-- The strands that a free strand tries, in order (R239). -/
def victims (n : Nat) : List Nat :=
  let c := coreOf n
  let t := tileOf n
  let own := (upFrom 1 3).map fun i => 4 * c + (n % 4 + i) % 4
  let near := ((upFrom 1 31).map fun i => 32 * t + (c % 32 + i) % 32).filter isTaper
  let far := ((upFrom 1 95).map fun i => (t + i) % 96).flatMap fun u => (upFrom (32 * u) 31)
  own ++ (near ++ far).flatMap fun c => upFrom (4 * c) 4

/-- The first victim that yields work, and whether it is a span (R239). -/
def State.findWork (s : State) (n : Nat) : Option (Nat × Bool) :=
  (victims n).findSome? fun v =>
    if !s.isVictim n v then none
    else if s.canSplit v then some (v, true)
    else if (s.oldestLit v).isSome then some (v, false)
    else none

/-- The registers of a thief (R240): an image over zero, saved loops, the record, a first frame. -/
def State.thiefRegs (s : State) (n tp : Nat) (image loops : List Word) (held : List Loop) (h off : Nat) : Regs :=
  let fp := BitVec.ofNat 64 (s.firstFp n)
  let r := ((Regs.zero.setMask 0 (BitVec.allOnes 1024)).restoreLoops loops held).loadImage image
  Regs.arrive { ((((r.set 100 fp).set 101 fp).set 102 (BitVec.ofNat 64 tp))) with handle := h } off

/-- The containers of an image that stands at a P address of strand `v`. -/
def State.imageAt (s : State) (v p : Nat) : List Word :=
  s.padReads v p (imageBits (imageMask (s.padReads v p 2)) / 64)

/-- The containers of the image of strand `v`'s own task record (R238). -/
def State.recordImage (s : State) (v : Nat) : List Word :=
  (upFrom 0 (imageBits (imageMask [s.myRecord v 16, s.myRecord v 17]) / 64)).map fun i => s.myRecord v (16 + i)

/-- Whether a wick with its join cell at `jaddr` belongs to the first frame of strand `v`'s task, a stolen continuation (R243, step 3). -/
def State.ownWick (s : State) (v : Nat) (jaddr : Word) : Bool := (s.strand v).kind == .continuation && s.myRecord v 2 == jaddr

/-- The original strand and frame of a steal (R243, step 3). -/
def State.original (s : State) (v : Nat) (jaddr : Word) (fp : Nat) : Word :=
  if s.ownWick v jaddr then s.myRecord v 3
  else BitVec.ofNat 64 (s.pkg.toNat * 2 ^ 14 + v + 2 ^ 32 * (fp % 2 ^ 21))

/-- The thief of strand `v`'s work at its first instruction; it counts as the victim's task for claims (R290). -/
def State.startThief (s : State) (n v : Nat) (kind : TaskKind) (r : Regs) : State :=
  (((s.newTask n kind r).lift r.handle).onStrand n fun t =>
    Strand.atEntry { t with task := if kind = .continuation then (s.strand v).task else t.task, victim := (s.strand v).inst })

/-- A steal of the oldest lit wick (R243). -/
def State.steal (s : State) (n v : Nat) : Option State :=
  match s.launch (s.strand n).bind.launch, s.oldestLit v with
  | some l, some (blk, base) =>
    match s.freeRecord l with
    | none => none
    | some (i, tp) =>
      let t := (s.padRead v base).toNat
      let jaddr := s.padRead v (blk + 64)
      let loops := s.padReads v (base + 128) (2 * bitsOf t 51 3)
      let image := s.imageAt v (blk + 128)
      let rec8 := (upFrom 0 8).map fun j => loops.getD j 0
      let pc := BitVec.ofNat 64 (t % 2 ^ 48)
      let s1 := (s.setLit v blk false true).addCell jaddr 1
      let s2 := s1.writeRecord l.ctx tp
        ([1, pc, jaddr, s.original v jaddr (s.padRead v (base + 64)).toNat, 0, 0, 0, BitVec.ofNat 64 (bitsOf t 51 3)] ++ rec8 ++ image)
      let s3 := s2.onLaunch (s.strand n).bind.launch fun l => { l with arena := i :: l.arena }
      let q := s3.thiefRegs n tp image loops ((s.strand v).regs.heldAt blk) (bitsOf t 24 24) (t % 2 ^ 24)
      some ((s3.startThief n v .continuation q).onStrand n fun t =>
        { t with origin := if s.ownWick v jaddr then (s.strand v).origin else (s.strand v).inst })
  | _, _ => none

/-- A split of a span (R251). -/
def State.split (s : State) (n v : Nat) : Option State :=
  match s.launch (s.strand n).bind.launch with
  | none => none
  | some l =>
    match s.freeRecord l with
    | none => none
    | some (i, tp) =>
      let r := (s.strand v).regs
      let lo := r.get 104
      let hi := r.get 105
      let mid := lo + BitVec.ofNat 64 (((hi - lo).toNat + 1) / 2)
      let owner := r.role == .owner
      let jaddr := if owner then s.winAddr (coreOf v) r.block else s.myRecord v 2
      let image := if owner then s.imageAt v (r.block + 128) else s.recordImage v
      let pc := BitVec.ofNat 64 (r.bodyHandle * 2 ^ 24 + r.bodyOff)
      let s1 := (s.onStrand v fun t =>
        { t with regs := t.regs.set 105 mid, chunk := { t.chunk with ckpt := t.chunk.ckpt.set 105 mid } }).addCell jaddr 1
      let s2 := s1.writeRecord l.ctx tp
        ([2, pc, jaddr, 0, mid, hi, r.grain, 0] ++ (upFrom 0 8).map (fun _ => (0 : Word)) ++ image)
      let s3 := s2.onLaunch (s.strand n).bind.launch fun l => { l with arena := i :: l.arena }
      let q := ((s3.thiefRegs n tp image [] [] r.bodyHandle r.bodyOff).set 104 mid).set 105 hi
      some (s3.startThief n v .span
        { q with role := .thief, grain := r.grain, bodyHandle := r.bodyHandle, bodyOff := r.bodyOff })

/-! The search (R239, R254, R356). -/

/-- Whether a strand is free for work (R239, R299, R348): bound below SCG, its context resident and not switching, its launch
not pre-empted and its lease not ending (R337, R349), its core not marked for a move (R254). -/
def State.canSeek (s : State) (n : Nat) : Bool :=
  let t := s.strand n
  let x := s.ctx t.bind.ctx
  t.status == .free && t.bind.valid && n % 4 < t.bind.scg && x.state == .resident && !x.leaving &&
  (s.core (coreOf n)).moveTo.isNone &&
  (match s.launch t.bind.launch with
   | some l => !l.preempted && !l.killed && !l.ended && l.lease != .ending
   | none => false)

/-- The context that a core holds. -/
def State.coreCtx (s : State) (c : Nat) : Option Nat :=
  ((upFrom (4 * c) 4).find? fun n => (s.strand n).bind.valid).map fun n => (s.strand n).bind.ctx

/-- The launch that a core is bound to. -/
def State.coreLaunch (s : State) (c : Nat) : Option Nat :=
  ((upFrom (4 * c) 4).find? fun n => (s.strand n).bind.valid).map fun n => (s.strand n).bind.launch

/-- Whether a frame in the area of its context is for a core, bound to a launch: one that is held for another launch is not (R356). -/
def heapFor (c : Nat) (l : Option Nat) (p : Option Nat × Frame) : Bool := p.2.core == c && (p.1.isNone || p.1 == l)

/-- The oldest frame that waits on a core for a context, in the inbox or else in the heap (R239). -/
def State.waiting (s : State) (c x : Nat) : Option Frame :=
  match (s.core c).inbox.find? fun f => f.ctx.toNat == x with
  | some f => some f
  | none => ((s.ctx x).frames.find? (heapFor c (s.coreLaunch c))).map Prod.snd

/-- Takes that frame out. -/
def State.takeFrame (s : State) (c x : Nat) (f : Frame) : State :=
  if (s.core c).inbox.contains f then s.onCore c fun k => { k with inbox := k.inbox.erase f }
  else
    match (s.ctx x).frames.find? (heapFor c (s.coreLaunch c)) with
    | some p => s.onCtx x fun k => { k with frames := k.frames.erase p }
    | none => s

/-- A strand that finds nothing tries again after 2 µs (R239). -/
def State.retryLater (s : State) (n : Nat) : State :=
  (s.onStrand n fun t => { t with since := s.clk }).dueOnce (.workSearchRetry n)

/-- A free strand looks for work (R239). A steal or split is the next step. -/
def State.seek (s : State) (n : Nat) : State :=
  if !s.canSeek n then s
  else
    let c := coreOf n
    let x := (s.strand n).bind.ctx
    let st := (s.core c).stage
    match s.waiting c x with
    | some f => (s.takeFrame c x f).startFrame n f
    | none =>
      match s.launch (s.strand n).bind.launch with
      | none => s
      | some l =>
        if st < 15 then (if 0 < s.stageItems l st then s.startStage n l st else s.retryLater n)
        else if (s.freeRecord l).isNone then s.retryLater n
        else
          match s.findWork n with
          | some (_, true) => s.due [.spanSplit n]
          | some (_, false) => s.due [.steal n]
          | none => s.retryLater n

/-- The steal or split that a search found, if it is still there; otherwise the search goes on. -/
def State.takeWork (s : State) (n : Nat) (span : Bool) : State :=
  if !s.canSeek n then s
  else
    match s.findWork n with
    | some (v, sp) =>
      if sp != span then s.seek n
      else
        match (if sp then s.split n v else s.steal n v) with
        | some t => t
        | none => s.retryLater n
    | none => s.seek n

/-! A task ends (R21, R151, R193, R230, R246, R291, R366). -/

/-- Changes a strand that a switch has saved, by its number before the switch (R301, R352). -/
def State.onAway (s : State) (n : Nat) (f : Strand → Strand) : State :=
  { s with launches := s.launches.map fun l =>
      { l with saved := l.saved.map fun p => if l.cores[p.1 / 4]? = some (coreOf n) && p.1 % 4 = n % 4 then (p.1, f p.2) else p } }

/-- Whether a strand waits for the hand-back of a frame (R245). -/
def Strand.joins (t : Strand) (fp : Nat) : Bool := t.status == .joinWait && t.wait == .join fp

/-- What the end of a stolen continuation does to its original strand (R246, R291): `hand` says that it hands back, `inst` is the task
of that strand that it speaks to. -/
def State.tellOriginal (s : State) (inst : Nat) (rec3 : Word) (hand : Bool) (gs : List Word) : State :=
  let o := rec3.toNat % 2 ^ 14
  let fp := bitsOf rec3.toNat 32 21
  let t := s.strand o
  let here := t.inst == inst
  if hand then
    if here && t.joins fp then s.handBack o gs
    else s.onAway o fun u => if u.inst = inst && u.wait = .join fp then { u with handed := some gs } else u
  else if here && t.joins fp then s.endTask o true false
  else
    let doom (u : Strand) : Strand := if u.inst = inst then { u with doomed := fp :: u.doomed } else u
    (if t.status = .free then s else s.onStrand o doom).onAway o doom

/-- The end of a task `t` of strand `n` for claims: a stolen continuation's end is not the end of the task it counts as (R290). -/
def State.endClaimsOf (s : State) (n : Nat) (t : Strand) : State :=
  if t.kind = .continuation then s
  else
    let w : Claimant := { pkg := s.pkg, ctx := BitVec.ofNat 8 t.bind.ctx, task := t.task, strand := n }
    (s.claimsEnd w).tellHomes .taskEnds w

/-- The end of strand `n`'s task for claims. -/
def State.endClaims (s : State) (n : Nat) : State := s.endClaimsOf n (s.strand n)

/-- The task record of a thief is free again (R238). -/
def State.freeTaskRecord (s : State) (n : Nat) : State :=
  let t := s.strand n
  match t.kind, s.launch t.bind.launch with
  | .continuation, some l | .span, some l =>
    match l.arenaRange with
    | some (base, _) =>
      s.onLaunch t.bind.launch fun l => { l with arena := l.arena.erase (((t.regs.get 102).toNat - base) / 2 ^ 16) }
    | none => s
  | _, _ => s

/-- A strand without a task (R297). -/
def Strand.freed (t : Strand) : Strand := { Strand.reset with bind := t.bind, frames := t.frames, vMat := t.vMat }

/-- Whether a task that ends has drained (R151): the token of a message is a register of the task, so the end waits for it too. -/
def State.drained (s : State) (n : Nat) : Bool := (s.strand n).pend.isEmpty && !s.engineBusy n

/-- A task that has ended and drained is over (R21): what it held is given up, the strand is FREE and looks for work. A stolen
continuation that ends by `SpawnReturn` has handed its frame on and says nothing to the original strand (R244). -/
def State.finishTask (s : State) (n : Nat) : State :=
  let t := s.strand n
  let gs := (upFrom 0 8).map fun i => t.regs.get i
  let rec3 := s.myRecord n 3
  let s1 := if t.byStop then s.lowerChain n else s
  let s2 := (s1.endClaims n).freeSlots (coreOf n) (s1.heldSlots n)
  let s3 := (s2.freeTaskRecord n).onStrand n Strand.freed
  let s4 := if t.kind = .continuation && (t.handback || t.byStop) then s3.tellOriginal t.origin rec3 t.handback gs else s3
  ((s4.dueOnce (.tailwindBinChange (tileOf n))).seek n).dueOnce (.launchEnd t.bind.launch)

/-- A task is killed (R297, R311): its open chunk is discarded, and nothing further of it is written. -/
def State.kill (s : State) (n : Nat) : State :=
  let t := s.strand n
  if t.status = .free then s
  else
    let s2 := (s.untrap n).onStrand n fun u => { u.discards with killed := true }
    if t.status = .ending then s2 else s2.endTask n true false

/-! Frames (R256, R257, R356). -/

/-- The most frames that the area of container 5 of a context descriptor holds (R356). -/
def heapCap : Nat := 4096

/-- A frame is answered: the sender's token, here or at its own package. -/
def State.frameAnswer (s : State) (f : Frame) (status : Nat) : State :=
  if f.srcPkg = s.pkg then s.writeToken f.sender f.tok.toNat (1 + 2 ^ 8 * status) else s.sendTo f.srcPkg (.frameReply f status)

/-- A frame joins the area of its context in memory, for a launch if it is of one, if there is room (R356). -/
def State.toHeap (s : State) (l : Option Nat) (f : Frame) : State :=
  let x := f.ctx.toNat
  if (s.ctx x).frames.length < heapCap then (s.onCtx x fun k => { k with frames := k.frames ++ [(l, f)] }).frameAnswer f 0
  else s.frameAnswer f 0x92

/-- A frame for a core that holds strands of its context (R256, R257). -/
def State.toCore (s : State) (f : Frame) : State :=
  let c := f.core
  let x := f.ctx.toNat
  if (s.ctx x).frames.any (heapFor c (s.coreLaunch c)) then s.toHeap (s.coreLaunch c) f
  else if !(s.core c).inbox.isEmpty then
    if (s.core c).inbox.length < 64 then (s.onCore c fun k => { k with inbox := k.inbox ++ [f] }).frameAnswer f 0
    else (s.toHeap (s.coreLaunch c) f).due [.inboxSpill c]
  else
    match (upFrom (4 * c) 4).find? fun n => s.canSeek n with
    | some n => (s.frameAnswer f 0).startFrame n f
    | none => (s.onCore c fun k => { k with inbox := k.inbox ++ [f] }).frameAnswer f 0

/-- The launch off its cores that a frame is for, by core and context (R352, R356). -/
def State.awayLaunch (s : State) (c x : Nat) : Option Nat :=
  (upFrom 0 s.launches.length).find? fun i =>
    match s.launches[i]? with
    | some l => l.away && !l.ended && l.ctx == x && l.cores.contains c
    | none => false

/-- A frame reaches its destination in this package (R256, R356). -/
def State.frameIn (s : State) (f : Frame) : State :=
  let x := f.ctx.toNat
  let off := s.awayLaunch f.core x
  match (s.ctx x).state with
  | .teardown => s.frameAnswer f 0x90
  | .free => s.frameAnswer f 0x91
  | .swappedOut => s.toHeap off f
  | .resident | .suspended =>
    if s.coreHolds f.core x then s.toCore f else if off.isSome then s.toHeap off f else s.frameAnswer f 0x91

/-- Whether two frames are of one strand to one core: such frames arrive in issue order (R256). -/
def sameWay (f g : Frame) : Bool := f.sender == g.sender && f.pkg == g.pkg && f.core == g.core

/-- A frame arrives, or the answer of another package to one of this package's frames: the status stands in the low bits of its
payload. -/
def State.frameArrives (s : State) (f : Frame) : State :=
  if f.srcPkg = s.pkg then
    match (s.core (coreOf f.sender)).outPort.find? fun g => sameWay g f with
    | some g =>
      let s1 := s.onCore (coreOf f.sender) fun k => { k with outPort := k.outPort.erase g }
      if f.pkg = s.pkg then s1.frameIn g else s1.writeToken g.sender g.tok.toNat (1 + 2 ^ 8 * (f.payload.toNat % 2 ^ 8))
    | none => s
  else s.frameIn f

/-- The context of a core's inbox, by its first frame. -/
def State.inboxCtx (s : State) (c : Nat) : Nat := match (s.core c).inbox.head? with | some f => f.ctx.toNat | none => 0

/-- The service strand spills the inbox to the heap (R257): in arrival order, ahead of the frames that joined the heap after
them; the newest first where the heap has not room for all. -/
def State.spillInbox (s : State) (c : Nat) : State :=
  let x := s.inboxCtx c
  let q := (s.core c).inbox
  let room := heapCap - (s.ctx x).frames.length
  let keep := q.length - room
  let s1 := s.onCore c fun k => { k with inbox := q.take keep, service := true, last := 4 }
  let mine := (s.ctx x).frames.filter (heapFor c (s.coreLaunch c))
  let others := (s.ctx x).frames.filter fun p => !heapFor c (s.coreLaunch c) p
  (s1.onCtx x fun k => { k with frames := others ++ (q.drop keep).map (fun f => (s.coreLaunch c, f)) ++ mine }).due [.inboxReplay c]

/-- The service strand replays the heap into the inbox (R257); it sleeps when no frame of its core is left there. It has issued (R17). -/
def State.replayInbox (s : State) (c : Nat) : State :=
  match s.coreCtx c with
  | none => s.onCore c fun k => { k with service := false, last := 4 }
  | some x =>
    let mine := (s.ctx x).frames.filter (heapFor c (s.coreLaunch c))
    let now := mine.take (64 - (s.core c).inbox.length)
    let s1 := (s.onCore c fun k => { k with inbox := k.inbox ++ now.map Prod.snd, service := now.length < mine.length, last := 4 }).onCtx x fun k =>
      { k with frames := now.foldl (fun a f => a.erase f) k.frames }
    let s2 := if now.length < mine.length then s1.due [.inboxReplay c] else s1
    (upFrom (4 * c) 4).foldl (fun a n => a.seek n) s2

/-! Stages (R254, R355) and tailwind (R228). -/

/-- The cores that a stage has or is to have (R254). -/
def State.stageCores (s : State) (l : Launch) (st : Nat) : List Nat :=
  l.cores.filter fun c => (s.core c).moveTo.getD (s.core c).stage == st

/-- One evaluation of the stage governor (R254): which of several stages or cores gives a core is left open. -/
def State.govern (s : State) (i : Nat) (l : Launch) : State :=
  let sts := upFrom 0 l.stages
  let count (st : Nat) := (s.stageCores l st).length
  let gives := sts.filter fun st =>
    s.stageItems l st ≤ bitsOf (l.stageWord st 5) 32 32 && bitsOf (l.stageWord st 4) 16 12 < count st &&
    (s.stageCores l st).any fun c => (s.core c).moveTo.isNone
  let takes := sts.filter fun st =>
    bitsOf (l.stageWord st 5) 0 32 ≤ s.stageItems l st && count st < bitsOf (l.stageWord st 4) 32 12
  let best := takes.foldl (fun b st => match b with
    | none => some st
    | some q => if s.stageItems l q < s.stageItems l st then some st else b) none
  let s1 := (s.onLaunch i fun k => { k with since := s.clk }).due [.stageGovernorEvaluation i]
  match best with
  | none => s1
  | some b =>
    let from_ := gives.filter fun a => a != b
    match from_[Config.freeChoice s.steps % from_.length]? with
    | none => s1
    | some a =>
      let cs := (s.stageCores l a).filter fun c => (s.core c).moveTo.isNone
      match cs[Config.freeChoice s.steps / 16 % cs.length]? with
      | some c => (s1.onCore c fun k => { k with moveTo := some b }).due [.stageCoreMove c]
      | none => s1

/-- Whether a core holds no task, or only sleepers of `BARW` and `CWAIT` (R228). -/
def State.quiet (s : State) (c : Nat) : Bool :=
  (upFrom (4 * c) 4).all fun n => (s.strand n).status == .free || (s.strand n).status == .sleep

/-- Whether a context has an open barrier episode (R228). -/
def State.openEpisode (s : State) (x : Nat) : Bool :=
  (upFrom 0 1024).any fun h =>
    match s.barrierBit x h with
    | some b => let e := Barrier.of (s.bits b 128); e.valid && 0 < e.arrived
    | none => false

/-- Whether a core is under a limit: its tile's, or the package's, which stands as that of tile 96. -/
def State.limited (s : State) (c : Nat) : Bool := (s.tile (c / 32)).limiting || (s.tile 96).limiting

/-- The clocks of a tile's running cores come down while a limit stands (R324). -/
def State.throttles (s : State) (t : Nat) : State :=
  ((upFrom (32 * t) 31).filter fun c => s.limited c && !s.quiet c && (s.core c).throttle < 8).foldl
    (fun a c => a.dueOnce (.throttleBinStep c)) s

/-- The bins of a tile's cores as the freed ones share out (R228): withheld while a limit stands (R324). -/
def State.tailwind (s : State) (t : Nat) : State :=
  let cores := upFrom (32 * t) 31
  let freed := 2 * (cores.filter s.quiet).length
  let takers := cores.filter fun c => !s.quiet c && (upFrom (4 * c) 4).any fun n =>
    (s.strand n).status != .free && s.openEpisode (s.strand n).bind.ctx
  let limited := s.tiles.any fun p => p.2.limiting
  let k := takers.length
  let share (c : Nat) : Nat :=
    match takers.idxOf? c with
    | some i => if limited then 0 else min 8 (freed / k + (if i < freed % k then 1 else 0))
    | none => 0
  cores.foldl (fun a c => a.onCore c fun q => { q with bins := share c }) s

/-- `STEAL`. R243: A free strand takes the oldest lit wick of a victim. -/
def execSteal (thief : Nat) (s : State) : Host.Outcome State Fault Refusal :=
  .next (s.takeWork thief false)

/-- `SPAN_SPLIT`. R251: A free strand takes the upper half of a victim's span. -/
def execSpanSplit (thief : Nat) (s : State) : Host.Outcome State Fault Refusal :=
  .next (s.takeWork thief true)

/-- `TASK_END`. R151: After draining, the task ends and the strand becomes free. -/
def execTaskEnd (n : Nat) (s : State) : Host.Outcome State Fault Refusal :=
  if (s.strand n).status != .ending then .next s
  else .next (if s.drained n then s.finishTask n else s.due [.taskEnd n])

/-- `WORK_SEARCH_RETRY`. R239: A strand that found nothing searches again after 2 µs. -/
def execWorkSearchRetry (n : Nat) (s : State) : Host.Outcome State Fault Refusal :=
  if (s.strand n).status != .free then .next s
  else .next (if s.past (s.strand n).since 1600 then s.seek n else s.due [.workSearchRetry n])

/-- `MESSAGE_FRAME_ARRIVAL`. R256: A message frame arrives and is started, queued or refused. -/
def execMessageFrameArrival (f : Frame) (s : State) : Host.Outcome State Fault Refusal :=
  .next (s.frameArrives f)

/-- `INBOX_SPILL`. R257: The service strand moves inbox frames to the overflow heap. -/
def execInboxSpill (core : Nat) (s : State) : Host.Outcome State Fault Refusal :=
  .next (if (s.core core).inbox.isEmpty then s else s.spillInbox core)

/-- `INBOX_REPLAY`. R257: Frames are replayed from the heap through the loop-back port. -/
def execInboxReplay (core : Nat) (s : State) : Host.Outcome State Fault Refusal :=
  .next (s.replayInbox core)

/-- `SENDM_ACCEPT_TIMEOUT`. R318: A frame not accepted in 10 ms completes with REMOTE_LOST. -/
def execSendmAcceptTimeout (n : Nat) (tok : BitVec 6) (s : State) : Host.Outcome State Fault Refusal :=
  match (s.core (coreOf n)).outPort.find? fun g => g.sender == n && g.tok == tok && g.pkg != s.pkg with
  | none => .next s
  | some g =>
    let asked := (((s.strand n).pend.find? fun p => p.kind == .frame && p.reg == tok.toNat).bind Pend.site).map Prod.fst
    if s.past (asked.getD 0) 8000000 then
      .next ((s.onCore (coreOf n) fun k => { k with outPort := k.outPort.erase g }).writeToken n tok.toNat (1 + 2 ^ 8 * 0xC2))
    else .next (s.due [.sendmAcceptTimeout n tok])

/-- `STAGE_GOVERNOR_EVALUATION`. R254: Every 10 µs the governor marks at most one core to move. -/
def execStageGovernorEvaluation (launch : Nat) (s : State) : Host.Outcome State Fault Refusal :=
  match s.launch launch with
  | none => .next s
  | some l =>
    if l.ended then .next s
    else if l.preempted || !s.past l.since 8000 then .next (s.due [.stageGovernorEvaluation launch])
    else .next (s.govern launch l)

/-- `STAGE_CORE_MOVE`. R254: A marked core moves to its new stage once all strands are free. -/
def execStageCoreMove (core : Nat) (s : State) : Host.Outcome State Fault Refusal :=
  match (s.core core).moveTo with
  | none => .next s
  | some b =>
    if (upFrom (4 * core) 4).all fun n => (s.strand n).status == .free then
      let s1 := (upFrom (4 * core) 4).foldl (fun a n => a.onStrand n fun t => { t with bind := { t.bind with stage := b } })
        (s.onCore core fun k => { k with stage := b, moveTo := none })
      .next ((upFrom (4 * core) 4).foldl (fun a n => a.seek n) s1)
    else .next (s.due [.stageCoreMove core])

/-- `TAILWIND_BIN_CHANGE`. R228: Freed clock bins are given or withdrawn. -/
def execTailwindBinChange (tile : Nat) (s : State) : Host.Outcome State Fault Refusal :=
  .next ((s.tailwind tile).throttles tile)

end Sys2Proof.Machine
end

