-- ==== Sys2Proof/Machine/Tlb.lean ====
section
/-! DEFINITION. Translation misses: walks by thread 0, probes, fills and fails, and the two levels of TLB (R330 to R336). -/

namespace Sys2Proof.Machine

/-- The set of an entry in a tile's TLB (R333). -/
def entrySet (e : BitVec 128) : Nat :=
  (pte e 0 38 / 2 ^ (pageShift (pte e 61 2) - 19) % 256) ^^^ (pte e 38 8)

/-- Whether two entries are of one context, size and page (R335). -/
def samePage (a b : BitVec 128) : Bool := pte a 0 46 == pte b 0 46 && pte a 61 2 == pte b 61 2

/-- An entry goes into a tile's TLB, as the last used: 256 sets of 16 ways, and the least recently used leaves a full set (R333). -/
def tileFill (e : BitVec 128) (l : List (BitVec 128)) : List (BitVec 128) :=
  let rest := l.filter fun x => !samePage x e
  let set := rest.filter fun x => entrySet x == entrySet e
  e :: (if 16 ≤ set.length then rest.filter fun x => some x != set.getLast? else rest)

/-- An entry goes into a core's TLB of 64 entries, of which a full one loses the least recently used (R333). -/
def coreFill (e : BitVec 128) (l : List (BitVec 128)) : List (BitVec 128) := (e :: l.filter fun x => !samePage x e).take 64

/-- Installs an entry in a tile's TLB and in those of some of its cores (R334, R306). -/
def State.fill (s : State) (tile : Nat) (cores : List Nat) (e : BitVec 128) : State :=
  cores.foldl (fun a c => a.onCore c fun q => { q with tlb := coreFill e q.tlb })
    (s.onTile tile fun t => { t with tlb := tileFill e t.tlb })

/-- The address that a strand's access misses, if it waits for one (R333). -/
def State.missing (s : State) (n : Nat) : Option (Nat × Word) :=
  match (s.strand n).hold with
  | .translate va x => if (s.strand n).status = .ready then some (va, x) else none
  | _ => none

/-- Whether a walk is the one of a name. -/
def WalkReq.isAt (q : WalkReq) (w : WalkId) : Bool := q.ctx == w.ctx && q.page == w.page

/-- The walk of a name, if it is in flight. -/
def State.walkAt (s : State) (w : WalkId) : Option WalkReq := (s.tile w.tile).walks.find? fun q => q.isAt w

/-- Changes the walk of a name. -/
def State.onWalk (s : State) (w : WalkId) (f : WalkReq → WalkReq) : State :=
  s.onTile w.tile fun t => { t with walks := t.walks.map fun q => if q.isAt w then f q else q }

/-- The walk of a strand's miss (R334). -/
def State.walkFor (s : State) (n va : Nat) : WalkId := { tile := tileOf n, ctx := s.ctxOf n, page := va / 2 ^ 19 }

/-- A miss is served by thread 0 (R334): it joins the walk of its context and page, starts one, or waits in the core while 256 are
in flight. -/
def State.miss (s : State) (n va : Nat) : State :=
  let w := s.walkFor n va
  match s.walkAt w with
  | some _ => s.onWalk w fun q => { q with strands := if q.strands.contains n then q.strands else q.strands ++ [n] }
  | none =>
    if (s.tile w.tile).walks.length < 256 then
      (s.onTile w.tile fun t =>
        { t with walks := t.walks ++ [{ ctx := w.ctx, page := w.page, strands := [n], replies := [], stale := false }] }).due
        [.tlbProbe w 0, .tlbProbe w 1, .tlbProbe w 2]
    else s.due [.tlbMiss n]

/-- The buckets that a probe reads, by their first bits (R330, R331). -/
def State.bucketsRead (s : State) (ctx va size : Nat) : Nat → Nat → List Nat
  | _, 0 => []
  | bit, fuel + 1 =>
    let e := BitVec.ofNat 128 (s.bits (bit + 384) 128)
    bit :: (if (s.bucketFind ctx va size bit 1).isNone && e.getLsbD 63 && pte e 61 2 == 3 then
      State.bucketsRead s ctx va size (pte e 64 44 / 512 * 512) fuel else [])

/-- A probe logs the poison that it reads (R316, R319). -/
def State.probeNote (s : State) (ctx va size : Nat) : State :=
  match (s.bucketsRead ctx va size ((s.csrAt 0x1000 0).toNat % 2 ^ 44 + 512 * s.bucketOf ctx va size) 9).findSome? fun b => s.poisonIn b 512 with
  | some u => s.logError 1 s.freeSev (s.unitOfBit u) (some ctx) none (physWord u) (some u) 0
  | none => s

/-- A walk ends (R334). -/
def State.endWalk (s : State) (w : WalkId) : State :=
  s.onTile w.tile fun t => { t with walks := t.walks.filter (fun q => !q.isAt w), walksDone := (t.walksDone + 1) % 2 ^ 32 }

/-- The strands that wait for a walk's page in its context, with the address and extra word of each. A joined strand may wait for another by
now, when its chunk has run again. -/
def State.waiters (s : State) (w : WalkReq) : List (Nat × Nat × Word) :=
  w.strands.filterMap fun m => (s.missing m).bind fun a => if a.1 / 2 ^ 19 = w.page && s.ctxOf m == w.ctx then some (m, a) else none

/-- Every joined access retries, with the entry that the walk has brought, if any. -/
def State.retryWalk (s : State) (w : WalkReq) (e : Option (BitVec 128)) : State :=
  (s.waiters w).foldl (fun a m => a.onStrand m.1 fun t => { t with hold := .none, found := e.toList ++ t.found }) s

/-- The reply that a walk has for a size, if it has come. -/
def WalkReq.reply (w : WalkReq) (size : Nat) : Option (Option (BitVec 128)) := w.replies.lookup size

/-- What a walk with its three replies comes to: the largest page wins (R331). -/
def WalkReq.result (w : WalkReq) : Option (Option (BitVec 128)) :=
  match w.reply 0, w.reply 1, w.reply 2 with
  | some a, some b, some c => some ((c.or b).or a)
  | _, _, _ => none

/-- `TLB_MISS`. R333: A core's miss request reaches its tile's thread 0. -/
def execTlbMiss (n : Nat) (s : State) : Host.Outcome State Fault Refusal :=
  match s.missing n with
  | some (va, _) =>
    .next (if s.hasSlot (tileOf n) 0 (s.partOf n) then s.miss n va else (s.due [.tlbMiss n]).wakeLantern (tileOf n) 0)
  | none => .next s

/-- `TLB_PROBE`. R334: A probe reaches the home tile of a bucket. -/
def execTlbProbe (w : WalkId) (size : BitVec 2) (s : State) : Host.Outcome State Fault Refusal :=
  let home := s.probeHome w size.toNat
  match s.walkAt w with
  | some _ =>
    .next (if home == w.tile || s.hasSlot home 0 (s.ctxPart w.ctx) then
        (s.probeNote w.ctx (w.page * 2 ^ 19) size.toNat).due [.tlbProbeReply w size (s.probe w.ctx (w.page * 2 ^ 19) size.toNat)]
      else (s.due [.tlbProbe w size]).wakeLantern home 0)
  | none => .next s

/-- `TLB_PROBE_REPLY`. R334: A probe reply returns the matching entry or none. -/
def execTlbProbeReply (w : WalkId) (size : BitVec 2) (entry : Option (BitVec 128)) (s : State) : Host.Outcome State Fault Refusal :=
  match s.walkAt w with
  | none => .next s
  | some q =>
    let q1 : WalkReq := { q with replies := (size.toNat, entry) :: q.replies }
    let s1 := s.onWalk w fun _ => q1
    .next (match q1.result with
      | some (some e) => s1.due [.tlbFill w e]
      | some none => s1.due [.tlbFail w]
      | none => s1)

/-- `TLB_FILL`. R334: An entry is installed in tile and core TLBs; joined accesses retry. What a `TLBI` has dropped is not
installed (R336). -/
def execTlbFill (w : WalkId) (entry : BitVec 128) (s : State) : Host.Outcome State Fault Refusal :=
  match s.walkAt w with
  | none => .next s
  | some q =>
    let s1 := if q.stale then s else s.fill w.tile ((q.strands.map coreOf).eraseDups) entry
    .next ((s1.retryWalk q (if q.stale then none else some entry)).endWalk w)

/-- `TLB_FAIL`. R334: No entry: the access ends its task with TRANSLATION_ERROR. -/
def execTlbFail (w : WalkId) (s : State) : Host.Outcome State Fault Refusal :=
  match s.walkAt w with
  | none => .next s
  | some q =>
    .next ((if q.stale then s.retryWalk q none
      else (s.waiters q).foldl (fun a m => a.raise m.1 0x2A (BitVec.ofNat 64 m.2.1) m.2.2) s).endWalk w)

end Sys2Proof.Machine
end

