-- ==== Sys2Proof/Machine/Trap.lean ====
section
/-! DEFINITION. Taking a trap and returning from one (R298, R302, R305, R309 to R314). -/

namespace Sys2Proof.Machine

/-! The trap frame (R298, R309). -/

/-- Causes that end the task with no handler (R312, delivery E). -/
def endsTask (cause : Nat) : Bool := cause == 0x29 || cause == 0x2A || cause == 0xC1

/-- Whether a continuation stolen from a strand's task has neither handed back nor ended (R298). -/
def State.hasThief (s : State) (n : Nat) : Bool :=
  s.strands.any fun p => p.2.kind == .continuation && p.2.status != .free && p.2.victim == (s.strand n).inst && p.1 != n

/-- Whether other strands may reach a strand's frames (SHARED of R298). -/
def State.shared (s : State) (n : Nat) : Bool :=
  (s.oldestLit n).isSome || (s.strand n).regs.role != .off || s.hasThief n

/-- TSTATE (R298). -/
def State.tstate (s : State) (n : Nat) : Word :=
  let r := (s.strand n).regs
  BitVec.ofNat 64 (r.fps.toNat + 2 ^ 8 * r.loops.length + 2 ^ 16 * (r.count % 2 ^ 11) + (if r.role = .off then 0 else 2 ^ 32) +
    (if r.role = .thief then 2 ^ 33 else 0) + (if r.spillNext then 2 ^ 34 else 0) + (if s.shared n then 2 ^ 35 else 0))

/-- The four containers of a fault record (R309). -/
def FaultRec.words (f : FaultRec) : List Word :=
  [BitVec.ofNat 64 (f.cause % 2 ^ 8), pcWord (f.handle % 2 ^ 24) (f.off % 2 ^ 24), f.addr, f.extra]

/-- The trap frame of a strand (R298). -/
def State.trapFrame (s : State) (n : Nat) (f : FaultRec) : List Word :=
  let r := (s.strand n).regs
  f.words ++ [s.tstate n, r.get 100, r.get 101, r.get 104, r.get 105, r.grain, r.get 102] ++
    (upFrom 0 8).map (fun i => r.savedLoops.getD i 0) ++ r.image (s.fullMask n)

/-- The G address of a strand's trap frame (R296). -/
def State.trapArea (s : State) (n : Nat) : Nat := ((s.ctx (s.ctxOf n)).desc.getD 6 0).toNat + 2 ^ 16 * n

/-- Writes containers at a G address of a context, if every one has its place there (R298). -/
def State.writeWords (s : State) (ctx a : Nat) (ws : List Word) : Option State :=
  (ws.zip (upFrom 0 ws.length)).foldl (fun o p =>
    match o, s.ctxBit ctx (a + 64 * p.2) with
    | some t, some b => some (t.poke b 64 p.1.toNat)
    | _, _ => none) (some s)

/-- The chunk of a strand that traps is decided first (R262, R310): an abort puts the trap off, since the instruction runs
again; `none` stands for a wait, under another's grant or for pending destinations. -/
def State.settleTrap (s : State) (n : Nat) : Option (State × Bool) :=
  let t := s.strand n
  if t.chunk.conflict.isSome then some ((s.abort n).onStrand n fun u => { u with status := .ready }, false)
  else if s.chunkBarred n then none
  else
    let s1 := s.commit n
    if (s1.strand n).pend.isEmpty then some (s1, true) else none

/-- Queues a migrated strand to thread 1 of its tile (R298). -/
def State.queueTrap (s : State) (n : Nat) : State :=
  let k := tileOf n
  ((s.onTile k fun t => { t with trapQ := t.trapQ ++ [n] }).wakeLantern k 1).dueOnce (.trapHandlerStart k)

/-- Taking a trap on a user strand (R298, R311, R313): the fault record names the instruction at the PC, the trap frame is
written to the context's trap frame area, and the strand is MIGRATED to thread 1. Where that write fails, the task ends as under
delivery E. -/
def State.takeTrap (s : State) (n cause : Nat) (addr extra : Word) (again : Event) : State :=
  let t := s.strand n
  if t.status != .trapping then s
  else if t.killed then s.endTask n true false
  else if cause = 0xC1 then
    let s1 := s.onStrand n Strand.discards
    s1.faultEnd n { cause := cause, handle := t.regs.handle, off := t.regs.off, addr := addr, extra := extra }
  else
    match s.settleTrap n with
    | none => (if t.chunk.conflict.isNone && !s.chunkBarred n then s.commit n else s).due [again]
    | some (s1, false) => s1
    | some (s1, true) =>
      let r := (s1.strand n).regs
      let f : FaultRec := { cause := cause, handle := r.handle, off := r.off, addr := addr, extra := extra }
      if endsTask cause then s1.faultEnd n f
      else
        match (if t.frameErr then none else s1.writeWords (s1.ctxOf n) (s1.trapArea n) (s1.trapFrame n f)) with
        | none => s1.faultEnd n f
        | some s2 =>
          (s2.onStrand n fun u =>
            { u with status := .migrated, shadow := Shadow.none, vItp := [], vMsg := [], vRing := [], start := none,
                     fault := some f }).queueTrap n

/-! Handlers on thread 1 (R298, R303, R314). -/

/-- A lantern thread at its entry, which firmware defines, with the registers it has (R314). -/
def State.restart (s : State) (n : Nat) : State :=
  let e := Config.lanternEntry (n % 4)
  s.onStrand n fun t =>
    Strand.newChunk { t with status := .ready, hold := .none, wait := .none, shadow := Shadow.none, stopReq := false,
                             regs := { t.regs with handle := e.1.toNat, off := e.2.toNat, loops := [], count := 0 } }

/-- One handler invocation begins on thread 1 (R298, R303): CTXSEL, TFRAME and TSTRAND name the strand. -/
def State.serve (s : State) (tile n : Nat) : State :=
  let h := lanternStrand tile 1
  let s1 := s.onTile tile fun t => { t with trapQ := t.trapQ.erase n, serving := some n }
  let s2 := ((s1.csrPut 0x1 h (BitVec.ofNat 64 (s.ctxOf n))).csrPut 0x2 h (BitVec.ofNat 64 (s.trapArea n))).csrPut 0x3 h
    (BitVec.ofNat 64 (s.pkg.toNat * 2 ^ 14 + n))
  s2.restart h

/-- Thread 1 serves no strand any more, and takes up what waits (R305). -/
def State.served (s : State) (tile : Nat) : State :=
  let h := lanternStrand tile 1
  let s1 := s.onTile tile fun t => { t with serving := none }
  let s2 := ((s1.csrPut 0x2 h 0).csrPut 0x3 h 0).onStrand h fun t => { t with status := .free, hold := .none }
  if (s2.queued tile 1).isEmpty then s2 else s2.dueOnce (.trapHandlerStart tile)

/-- The registers of per-thread scope that a service of thread 1 keeps over an interruption. -/
def serviceRegs : List Nat := [0x1, 0x2, 0x3, 0x20, 0x21, 0x22, 0x23, 0x1100, 0x1110, 0x1310, 0x1313, 0x1820]

/-- The service of thread 1 is interrupted between two instructions (R353): thread and registers are kept for its partition's next
slot. -/
def State.shelve (s : State) (tile n : Nat) : State :=
  let h := lanternStrand tile 1
  let v : Service := { strand := some n, thread := { s.strand h with hold := .none }, regs := serviceRegs.map fun r => (r, s.csrAt r h) }
  s.onTile tile fun t => { t with serving := none, shelved := t.shelved ++ [(s.partOf n, v)] }

/-- Thread 1 takes up the work of a partition: the service that was interrupted, or else the first of its strands that wait (R353). -/
def State.takeUp (s : State) (tile p : Nat) : State :=
  let h := lanternStrand tile 1
  let t := s.tile tile
  match t.shelved.lookup p with
  | some v =>
    let s1 := s.onTile tile fun t => { t with serving := v.strand, shelved := t.shelved.filter fun q => q.1 != p }
    (v.regs.foldl (fun a r => a.csrPut r.1 h r.2) s1).onStrand h fun _ => v.thread
  | none =>
    match t.trapQ.find? fun n => s.partOf n == p with
    | some n => s.serve tile n
    | none => s

/-- Whether thread 1 stands between two instructions, with nothing under way that its registers depend on. -/
def State.interruptible (s : State) (h : Nat) : Bool :=
  let t := s.strand h
  t.status == .ready && t.hold != .ioReply && t.hold != .reply && t.hold != .grant

/-- Thread 1 serves the partition whose slot it is (R353): it goes on, takes up the partition's work, or is interrupted first, once its
chunk is decided and no register is pending. -/
def State.serveTurn (s : State) (tile : Nat) : State :=
  let h := lanternStrand tile 1
  match s.slotOwner tile 1, (s.tile tile).serving with
  | none, _ => if (s.queued tile 1).isEmpty then s else s.wakeLantern tile 1
  | some p, none => if s.csrAt 0x2 h = 0 then s.takeUp tile p else s
  | some p, some n =>
    if s.partOf n = p then s
    else if !s.interruptible h then s.due [.trapHandlerStart tile]
    else
      match s.settleTrap h with
      | some (s1, true) => (s1.shelve tile n).takeUp tile p
      | some (s1, false) => s1.due [.trapHandlerStart tile]
      | none => (if s.chunkBarred h then s else s.commit h).due [.trapHandlerStart tile]

/-! The return: `ERET` (R305). -/

/-- The first containers of a strand's trap frame area as memory holds them, if they can be read. -/
def State.readArea (s : State) (n k : Nat) : Option (List Word) :=
  let bits := (upFrom 0 k).map fun i => s.ctxBit (s.ctxOf n) (s.trapArea n + 64 * i)
  if bits.all fun b => match b with | some k => (s.poisonIn k 64).isNone | none => false then
    some (bits.map fun b => BitVec.ofNat 64 (s.bits (b.getD 0) 64))
  else none

/-- The words of the trap frame of a strand, if they can be read: 19 containers and the image that they lead to (R298, R305). -/
def State.readFrame (s : State) (n : Nat) : Option (List Word) :=
  (s.readArea n 21).bind fun ws => s.readArea n (19 + imageBits (imageMask (ws.drop 19)) / 64)

/-- The registers that a trap frame gives (R298, R305): what it does not hold stays, whether a walk has finished a loop (R119) among
it; z0, z1 and the region count are zero. -/
def Regs.reload (r : Regs) (ws : List Word) : Regs :=
  let w (i : Nat) : Word := ws.getD i 0
  let ts := (w 4).toNat
  let r1 := (r.loadImage (ws.drop 19)).zeroZ
  let r2 := (((((r1.set 100 (w 5)).set 101 (w 6)).set 104 (w 7)).set 105 (w 8)).set 102 (w 10))
  let ps := pairs ((ws.drop 11).take (2 * bitsOf ts 8 3))
  let r3 := ps.foldl (fun a p => let l := (Loop.ofWord p.2.toNat).resumed r.loops; { (a.set (ctrCode l.ctr) p.1) with loops := l :: a.loops })
    { r2 with loops := [] }
  { r3 with
    fps := BitVec.ofNat 8 ts, count := 0, grain := w 9, spillNext := ts.testBit 34
    role := if ts.testBit 32 then (if ts.testBit 33 then .thief else .owner) else .off
    handle := bitsOf (w 1).toNat 24 24, off := (w 1).toNat % 2 ^ 24 }

/-- Whether a trap frame can be reloaded (R305). -/
def State.frameOk (s : State) (n : Nat) (ws : List Word) : Bool :=
  let k := bitsOf (ws.getD 4 0).toNat 8 3
  let m := (ws.getD 19 0).toNat + 2 ^ 64 * (ws.getD 20 0).toNat
  m &&& s.fullMask n == m && k ≤ 4 && loopsValid ((ws.drop 11).take (2 * k)) &&
  (match s.obj (bitsOf (ws.getD 1 0).toNat 24 24) with
   | some o => (ws.getD 1 0).toNat % 2 ^ 24 < o.textLen
   | none => false)

/-- A strand resumes from its trap frame (R305): into READY, or HELD for mode 2. The entry has the full live-in mask (R125). -/
def State.resume (s : State) (n : Nat) (ws : List Word) (held : Bool) : State :=
  s.onStrand n fun t =>
    let u := Strand.atEntry { t with regs := t.regs.reload ws, hold := .none }
    { u with status := if held then .held else .ready, fault := none
             regs := { u.regs with entryFull := true }
             chunk := Chunk.start { u.regs with entryFull := true } }

/-- `ERET` (R305). -/
def State.eret (s : State) (a : Word) (len : Nat) : Res State := do
  s.endChunk
  let tile := tileOf s.cur
  ensure (s.cur % 4 == 1 && s.csrAt 0x2 s.cur != 0) (s.trap 0xA2 1)
  ensure (a.toNat ≤ 2) (s.trap 0xA2 2)
  let s1 := s.done len
  match (s.tile tile).serving with
  | none => .ok (s1.served tile)
  | some n =>
    if a.toNat = 1 then
      let s2 := match (s.strand n).fault with
        | some f => s1.recordCause n f
        | none => s1
      .ok ((s2.endTask n true false).served tile)
    else
      match s.readFrame n with
      | none => .error (s.trap 0xA2 3)
      | some ws => do
        ensure (s.frameOk n ws) (s.trap 0xA2 3)
        .ok ((s1.resume n ws (a.toNat == 2)).served tile)

/-! Faults of lantern threads (R314). -/

/-- A fault record goes to the thread's LFAULT registers, or is counted as lost (R314). -/
def State.lanternRecord (s : State) (n : Nat) (f : FaultRec) : State :=
  let st := (s.csrAt 0x1804 n).toNat
  if st.testBit 0 then s.csrPut 0x1804 n (BitVec.ofNat 64 (1 + 2 ^ 8 * min 255 (bitsOf st 8 8 + 1)))
  else ((f.words.zip (upFrom 0 4)).foldl (fun a p => a.csrPut (0x1800 + p.2) n p.1) s).csrPut 0x1804 n 1

/-- A fault on a lantern thread (R314): it stops precisely, the record is kept, and it starts again at its entry. The strand that
thread 1 served is served anew. -/
def State.lanternFault (s : State) (n cause : Nat) (addr extra : Word) (again : Event) : State :=
  if (s.strand n).status != .trapping then s
  else
    match s.settleTrap n with
    | none => (if (s.strand n).chunk.conflict.isNone && !s.chunkBarred n then s.commit n else s).due [again]
    | some (s1, false) => s1
    | some (s1, true) =>
      let r := (s1.strand n).regs
      let s2 := s1.lanternRecord n { cause := cause, handle := r.handle, off := r.off, addr := addr, extra := extra }
      if n % 4 = 1 then
        match (s2.tile (tileOf n)).serving with
        | some m => s2.serve (tileOf n) m
        | none => s2.served (tileOf n)
      else s2.restart n

/-- `TRAP_DELIVERY`. R298: A trapping strand drains, writes its trap frame and migrates. -/
def execTrapDelivery (n : Nat) (cause : BitVec 8) (addr : Word) (extra : Word) (s : State) : Host.Outcome State Fault Refusal :=
  .next (s.takeTrap n cause.toNat addr extra (.trapDelivery n cause addr extra))

/-- `TRAP_HANDLER_START`. R298: Thread 1 starts serving a migrated strand. -/
def execTrapHandlerStart (tile : Nat) (s : State) : Host.Outcome State Fault Refusal :=
  .next (s.serveTurn tile)

/-- `LANTERN_THREAD_FAULT`. R314: A faulting lantern thread records LFAULT and restarts. -/
def execLanternThreadFault (n : Nat) (cause : BitVec 8) (addr : Word) (extra : Word) (s : State) : Host.Outcome State Fault Refusal :=
  .next (s.lanternFault n cause.toNat addr extra (.lanternThreadFault n cause addr extra))

end Sys2Proof.Machine
end

