-- ==== Sys2Proof/Machine/Resident.lean ====
section
/-! DEFINITION. Code residency: answers of sources, installing and evicting objects, cold text, expiry of code waits, poisoned
text, trust changes (R135 to R137, R362 to R369, R391). -/

namespace Sys2Proof.Machine

/-! Requests (R368, R369). -/

/-- Logs what thread 2 rejects (R362, R369): kind 10 with the number of the check. -/
def State.logCode (s : State) (tile ctx detail : Nat) : State :=
  s.logError 10 s.freeSev (8 * 2 ^ 16 + tile) (some ctx) (some tile) 0 none detail

/-- A native record answers a request (R362, R369). -/
def State.takeRecord (s : State) (i : Nat) (r : CodeReq) (b : List Byte) : State :=
  (s.recordFails b r.digest r.part r.gbud r.vbud).elim
    ((s.onReq i fun q => { q with state := .install, record := some b }).due [.codeInstall i])
    fun k => (s.logCode r.tile r.ctx k).askFrom i (r.source + 1)

/-- What an answer to a request leads to (R369). -/
def State.checkAnswer (s : State) (i : Nat) (r : CodeReq) (a : Answer) : State :=
  match a with
  | .none => s.askFrom i (r.source + 1)
  | .record b => s.takeRecord i r b
  | .container b =>
    let good := canonical b && functionDigest b == r.digest
    (s.onReq i fun q => { q with kept := if good && q.kept.isNone then some b else q.kept }).askFrom i (r.source + 1)

/-- A source's answer (R369): one of a source that is not asked now, or that comes after the limit, is discarded (R388). Thread 2 checks it
in a slot of the request's partition (R353). -/
def State.answered (s : State) (i : Nat) (a : SourceAnswer) : State :=
  match s.reqs[i]? with
  | none => s
  | some r =>
    if r.state != .ask || !r.asked || a.source != r.source || (r.answer.isNone && s.past r.askedAt (sourceLimit r.source + 1)) then s
    else if !s.hasSlot r.tile 2 r.part then
      ((s.onReq i fun q => { q with answer := some (r.answer.getD a.answer) }).due [.codeSourceAnswer i a]).wakeLantern r.tile 2
    else s.checkAnswer i r (r.answer.getD a.answer)

/-- The physical bit that byte offset `off` of a port's BAR2 names, if its window-table entry names a granule (R392). -/
def State.bar2Bit (s : State) (port off : Nat) : Option Nat :=
  let e := (s.csrAt 0x10000 (16 * port + off / 2 ^ 30 % 16)).toNat
  if e.testBit 63 && off < 2 ^ 34 then some (2 ^ 33 * (e % 2 ^ 11) + 8 * (off % 2 ^ 30)) else none

/-- The answer that the host has written for a request (R391), if it has. -/
def State.hostAnswer (s : State) (r : CodeReq) : Option Answer :=
  let e := s.bits (s.hostEntry r.seq) 512
  let st := bitsOf e 312 8
  let len := bitsOf e 448 32
  let bytes : List Byte := (upFrom 0 len).filterMap fun k =>
    (s.bar2Bit s.activePort (bitsOf e 384 64 + k)).map fun bit => s.mem.byte (bit / 8)
  if st = 2 then some (if bitsOf e 352 32 < len then .none else .record bytes)
  else if st = 3 then some (if bitsOf e 352 32 < len then .none else .container bytes)
  else if st = 4 then some .none
  else none

/-- Thread 2 reads STATE of a request's entry (R391): an answer is taken, and STATE := 0. -/
def State.readHost (s : State) (i : Nat) : State :=
  match s.reqs[i]? with
  | none => s
  | some r =>
    if r.state != .ask || r.source != 8 || !r.asked then s
    else
      match s.hostAnswer r with
      | some a => (s.poke (s.hostEntry r.seq + 312) 8 0).answered i { source := 8, answer := a }
      | none => s

/-- Thread 2 reads STATE of every request that asks the host, at a notify (R391). -/
def State.readHosts (s : State) : State := (upFrom 0 s.reqs.length).foldl State.readHost s

/-- The host's time limit passes (R391): an answer that it has written by then counts, and STATE := 0. -/
def State.hostOver (s : State) (i : Nat) (r : CodeReq) : State :=
  let s1 := s.poke (s.hostEntry r.seq + 312) 8 0
  match s.hostAnswer r with
  | some a => (s1.onReq i fun q => { q with answer := some a }).due [.codeSourceAnswer i { source := 8, answer := a }]
  | none => s1.askFrom i 9

/-- A source's time limit passes (R369, R391), or thread 2 asks the source for which the request has waited for a slot (R353). An answer that came in
time is checked first. -/
def State.sourceOver (s : State) (i : Nat) : State :=
  match s.reqs[i]? with
  | none => s
  | some r =>
    if r.state != .ask || r.answer.isSome then s
    else if !r.asked then s.askFrom i r.source
    else if !s.past r.askedAt (sourceLimit r.source) then s.dueOnce (.codeSourceTimeLimit i)
    else if r.source = 8 then s.hostOver i r
    else s.askFrom i (r.source + 1)

/-- Whether a bucket of the code shelf names an item that answers a digest (R391). -/
def State.bucketOk (s : State) (d : Digest) (bucket : Nat) : Bool :=
  BitVec.ofNat 256 bucket == d &&
    (bitsOf bucket 280 8 == 2 || (bitsOf bucket 280 8 == 1 && bitsOf bucket 256 24 == s.chipClass))

/-- The answer of the code shelf, from a bucket that names an item and the item (R391). -/
def shelfAnswer (bucket : Nat) (item : List Byte) : Answer :=
  let b := item.take (bitsOf bucket 352 32)
  if bitsOf bucket 280 8 = 1 then .record b else .container b

/-- A read of the code shelf completes (R388, R391): of the bucket, after which thread 2 reads the LBAs that it names, or of the item. -/
def State.shelfRead (s : State) (i : Nat) (bucket : Nat) (item : List Byte) : State :=
  match s.reqs[i]? with
  | none => s
  | some r =>
    if r.state != .ask || !r.asked || r.source != 9 || r.answer.isSome || s.past r.askedAt (sourceLimit 9 + 1) then s
    else
      match r.bucket with
      | some b => s.answered i { source := 9, answer := shelfAnswer b item }
      | none =>
        if s.bucketOk r.digest bucket then
          (s.onReq i fun q => { q with bucket := some bucket }).send
            (.shelfItem (s.csrAt 0x1335 r.part) (BitVec.ofNat 64 (bitsOf bucket 288 64)) (bitsOf bucket 352 32))
        else s.answered i { source := 9, answer := .none }

/-- The answer of the package to a neighbour's request (R368, R388): an installed record of the class that the budgets admit and that is
verified for the partition of the identifier, and otherwise none. DESIGN CHOICE (log 93). -/
def State.codeFor (s : State) (digest : Digest) (cls ppid g v : Nat) : Answer :=
  if cls != s.chipClass then .none
  else
    match ((upFrom 0 16).filter (s.hasPpid (BitVec.ofNat 16 ppid))).findSome? fun p => s.directory digest p g v with
    | some o => .record o.2.bytes
    | none => .none

/-- A flit about code arrives (R388): the answer of the neighbour that is asked now, or a neighbour's request. -/
def State.codeFlit (s : State) (i : Nat) (f : CodeFlit) : State :=
  match f with
  | .answer pkg a =>
    match s.reqs[i]? with
    | some r => if r.source < 8 && s.neighbour r.part r.source == some pkg then s.answered i { source := r.source, answer := a } else s
    | none => s
  | .ask pkg digest cls ppid g v => s.sendTo pkg (.codeAnswer pkg digest (s.codeFor digest cls ppid g v))

/-- Replaces bytes of a string from an offset. -/
def setBytes (b : List Byte) (i : Nat) (v : List Byte) : List Byte := b.take i ++ v ++ b.drop (i + v.length)

/-- The 32 bytes of a digest. -/
def digestBytes (d : Digest) : List Byte := (upFrom 0 32).map fun i => d.extractLsb' (8 * i) 8

/-- The budgets at which `damud-xl` translates for a request (R287, R369): those of its strands (log 60). -/
def CodeReq.budgets (r : CodeReq) : Nat × Nat := (r.gbud, r.vbud)

/-- A record of thread 2's own for a request: the header of the function and the package, signed with the package code key (R359, R361,
R363). -/
def State.signRecord (s : State) (r : CodeReq) (b : List Byte) : List Byte :=
  let bytes (n v : Nat) : List Byte := (upFrom 0 n).map fun i => BitVec.ofNat 8 (v / 2 ^ (8 * i))
  let b1 := setBytes b 8 (bytes 4 ((s.csrAt 0x1200 0).toNat % 2 ^ 32) ++ bytes 1 r.budgets.1 ++ bytes 1 r.budgets.2)
  let b2 := setBytes b1 16 (digestBytes r.digest ++ digestBytes (sm3 (recHotPart b)) ++ digestBytes (sm3 (recColdPart b)) ++
    digestBytes (keyDigest s.packageKey) ++ digestBytes Config.translatorId)
  let sig := sm2Sign (Config.codePrivate s.codeKey) (Config.sm2Nonce s.steps) (b2.take 200)
  setBytes (setBytes b2 200 (digestBytes sig.1)) 232 (digestBytes sig.2)

/-- What the translator makes of the container that a request has kept: a record, or a refusal (R369). -/
def State.translation (s : State) (r : CodeReq) : Option (List Byte) :=
  (Config.translate (r.kept.getD []) r.budgets.1 r.budgets.2).map (s.signRecord r)

/-- The check of R362 that a record of thread 2's own fails for a request: its signature is the package's. -/
def State.ownFails (s : State) (r : CodeReq) (b : List Byte) : Option Nat :=
  s.recordTests b r.digest r.part r.gbud r.vbud fun _ _ => true

/-- A translation fails its request, for a reason that is logged (R362, R369). -/
def State.failReq (s : State) (i : Nat) (r : CodeReq) (detail : Nat) : State :=
  ((s.logCode r.tile r.ctx detail).onReq i fun q => { q with state := .failed }).closeReq i

/-- The translator ends, in a slot of the request's partition (R353, R369): its record goes on to be installed; a refusal, or a record that
does not pass, fails the request. -/
def State.translated (s : State) (i : Nat) : State :=
  match s.reqs[i]? with
  | none => s
  | some r =>
    if r.state != .translate then s
    else if !s.hasSlot r.tile 2 r.part then (s.due [.codeTranslationEnd i]).wakeLantern r.tile 2
    else
      match s.translation r with
      | some b => (s.ownFails r b).elim ((s.onReq i fun q => { q with state := .install, record := some b }).due [.codeInstall i]) (s.failReq i r)
      | none => s.failReq i r 10

/-! The code store (R364, R366, R372). -/

/-- What installed objects take of the code store: start and length in bits. -/
def State.storeUsed (s : State) : List (Nat × Nat) :=
  s.objs.flatMap fun p => [(p.2.base, p.2.hotBits)] ++ (if p.2.coldBits = 0 then [] else [(p.2.coldBase, p.2.coldBits)])

/-- The first place in the code store where a number of bits is free. -/
def State.storeRoom (s : State) (len : Nat) : Option Nat :=
  let lo := (s.csrAt 0x1206 0).toNat % 2 ^ 44
  let size := (s.csrAt 0x1207 0).toNat % 2 ^ 44
  let up (n : Nat) : Nat := (n + 511) / 512 * 512
  let used := s.storeUsed
  (lo :: used.map fun u => up (u.1 + u.2)).find? fun a =>
    lo ≤ a && a + len ≤ lo + size && used.all fun u => a + len ≤ u.1 || u.1 + u.2 ≤ a || u.2 == 0

/-- Forgets an object everywhere: directory, call caches, handle (R366). -/
def State.dropObj (s : State) (h : Nat) : State :=
  State.onTiles { s with objs := s.objs.filter (fun p => p.1 != h) } fun t => { t with calls := t.calls.filter fun e => e.handle != h }

/-- The least recently called object that no frame holds (R366). -/
def State.evictee (s : State) : Option Nat :=
  ((s.objs.filter fun p => p.2.live == 0).foldl (fun best p => match best with
    | none => some p
    | some q => if p.2.order < q.2.order then some p else some q) none).map (·.1)

/-- Whether the directory has an entry to spare; firmware sets its capacity, and 0 sets no limit (R357, log 60). -/
def State.entryRoom (s : State) : Bool :=
  let n := (s.csrAt 0x1000C 0).toNat
  n == 0 || s.objs.length < n

/-- Room for a number of bits in the code store, and for `more` records in the directory, after as many evictions as it takes (R366).
Those made before every object left is pinned stand. -/
def State.makeRoom (s : State) (len : Nat) (more : Bool) : Nat → State × Option Nat
  | 0 => (s, if !more || s.entryRoom then s.storeRoom len else none)
  | k + 1 =>
    match if !more || s.entryRoom then s.storeRoom len else none with
    | some a => (s, some a)
    | none =>
      match s.evictee with
      | some h => State.makeRoom (s.dropObj h) len more k
      | none => (s, none)

/-- Writes bytes at a bit of memory. -/
def State.storeBytes (s : State) (bit : Nat) (b : List Byte) : State :=
  s.poke bit (8 * b.length) (packBits 8 (b.map BitVec.toNat))

/-- The lowest handle that no installed object holds (R364). -/
def State.freeHandle (s : State) : Option Nat := (upFrom 1 (s.objs.length + 1)).find? fun h => h < 2 ^ 24 && (s.obj h).isNone

/-- A record of equal GNEED of the same digest gives way (R364): freed at once, or retired while frames live in it. -/
def State.replaceObj (s : State) (d : Digest) (gneed : Nat) : State :=
  match s.objs.find? fun p => p.2.digest == d && p.2.gneed == gneed && !p.2.retired with
  | some (h, o) =>
    if o.live = 0 then s.dropObj h
    else
      let s1 := s.onObj h fun q => { q with retired := true }
      s1.onTiles fun t => { t with calls := t.calls.filter fun e => e.handle != h }
  | none => s

/-- Whether cold text goes to a cold area (R364, R372). -/
def State.coldArea (s : State) : Bool := s.csrAt 0x1208 0 != 0

/-- The object of a record, with its texts in place (R359, R364). -/
def objOf (b : List Byte) (base coldBase : Nat) (cold : Bool) (coldAt : Word) (part now : Nat) : Obj :=
  { digest := recDigest b 16, gneed := le b 12 1, vneed := le b 13 1, entry := le b 176 4, hotLen := recHot b, coldLen := recCold b,
    base := base, coldBase := coldBase, coldHere := cold || recCold b == 0, coldHash := recDigest b 80,
    hotBits := 8 * (recHotPart b).length, coldBits := if cold then 32 * recCold b else 0, cold := recColdPart b, coldAt := coldAt,
    imports := recImports b, regions := recRegions b, signer := recDigest b 112, translator := recDigest b 144, live := 0,
    verified := BitVec.ofNat 16 (2 ^ part), retired := false, order := now, bytes := b }

/-- Installs an accepted record (R364), and gives its handle, if there is room: the hot part goes to the code store, and cold text to a
place in the cold area, which the spec does not choose, or to the code store where there is none. -/
def State.install (s : State) (b : List Byte) (part : Nat) : State × Option Nat :=
  let hot := 8 * (recHotPart b).length
  let here := !s.coldArea && recCold b != 0
  let gap := (hot + 511) / 512 * 512
  match s.freeHandle with
  | none => (s, none)
  | some h =>
    match s.makeRoom (if here then gap + 32 * recCold b else hot) true s.objs.length with
    | (s1, none) => (s1, none)
    | (s1, some base) =>
      let s2 := s1.storeBytes base (recHotPart b)
      let away := s.coldArea && recCold b != 0
      let at_ := if away then s.csrAt 0x1208 0 + s.free else 0
      let s3 := if here then s2.storeBytes (base + gap) (recColdPart b) else if away then s2.send (.coldWrite at_ (recColdPart b)) else s2
      let s4 := s3.replaceObj (recDigest b 16) (le b 12 1)
      ({ s4 with objs := s4.objs ++ [(h, objOf b base (if here then base + gap else 0) here at_ part s.steps)] }, some h)

/-- A strand that waits for a digest executes its call again (R135), or makes the call that begins its task (R240); one that
a switch has stopped does so when it resumes (R136). -/
def State.callAgain (s : State) (n : Nat) (d : Digest) : State :=
  let t := s.strand n
  if t.status = .codeWait && t.wait = .code d && t.hold != .stopped then
    match t.start with
    | some e => (s.onStrand n fun u => { u with status := .ready, wait := .none }).begin n e
    | none => s.onStrand n fun u => { u with status := .ready, wait := .none }
  else s

/-- A request completes (R369): every joined strand goes on, and the request is no more. -/
def State.completeReq (s : State) (i : Nat) : State :=
  match s.reqs[i]? with
  | some r => r.strands.foldl (fun a n => a.callAgain n r.digest)
      (s.onReq i fun q => { q with state := .closed, strands := [], record := none, kept := none })
  | none => s

/-- INSTALL (R364, R369), in a slot of the request's partition (R353): an installed record is verified for the partition, or the accepted
one is installed; with no room it waits. -/
def State.installReq (s : State) (i : Nat) : State :=
  match s.reqs[i]? with
  | none => s
  | some r =>
    if r.state != .install then s
    else if !s.hasSlot r.tile 2 r.part then (s.due [.codeInstall i]).wakeLantern r.tile 2
    else
      match r.record with
      | some b =>
        match s.install b r.part with
        | (t, some _) => t.completeReq i
        | (t, none) => t.due [.codeInstall i]
      | none =>
        match s.verifiable r.digest r.part r.gbud r.vbud with
        | some h => (s.onObj h fun o => { o with verified := o.verified ||| BitVec.ofNat 16 (2 ^ r.part) }).completeReq i
        | none => (s.onReq i fun q => { q with state := .ask }).askFrom i 0

/-! Expiry, cold text, poison (R135, R137, R365). -/

/-- 250 ms of code wait pass (R135, R137): `CODE_UNAVAILABLE` at the instruction. -/
def State.codeExpiry (s : State) (n : Nat) : State :=
  let t := s.strand n
  if t.status != .codeWait || t.hold = .stopped then s
  else if !s.past t.since 200000000 then s.due [.codeWaitExpiry n]
  else
    let extra : Word := match t.wait with
      | .code d => d.setWidth 64
      | _ => 0
    (s.leaveReqs n).raise n 0x40 ((s.textWord t.regs.handle t.regs.off).setWidth 64) extra

/-- The cold text of an object is copied in for the strands that wait for it (R365), if it is intact: what the cold area holds by then is outside the
package, and a free value says whether it can be read. A rejection is logged for the first of them, strand `n`. -/
def State.copyCold (s : State) (h : Nat) (o : Obj) (n : Nat) : State :=
  let s0 := s.send (.coldRead o.coldAt (4 * o.coldLen))
  if !s.free.getLsbD 0 || sm3 o.cold != o.coldHash then s0.logCode (tileOf n) (s.ctxOf n) 9
  else
    match s0.makeRoom (32 * o.coldLen) false s.objs.length with
    | (s1, none) => s1.due [.coldTextFetch h]
    | (s1, some base) =>
      let s2 := (s1.storeBytes base o.cold).onObj h fun q => { q with coldHere := true, coldBase := base, coldBits := 32 * o.coldLen }
      { s2 with strands := s2.strands.map fun p =>
          (p.1, if p.2.status = .codeWait && p.2.wait = .cold h && p.2.hold != .stopped then { p.2 with status := .ready, wait := .none } else p.2) }

/-- Thread 2 fetches absent cold text for the strands that wait for it (R365), in a slot of the first one's partition (R353). -/
def State.fetchCold (s : State) (h : Nat) : State :=
  match s.obj h, s.coldWaiter h with
  | some o, some n =>
    if o.coldHere then s
    else if !s.hasSlot (tileOf n) 2 (s.partOf n) then (s.due [.coldTextFetch h]).wakeLantern (tileOf n) 2
    else s.copyCold h o n
  | _, _ => s

/-- The second fetch of a poisoned line (R137): clean text goes on, poisoned text traps `CODE_POISON`. -/
def State.refetched (s : State) (n : Nat) (clean : Bool) : State :=
  let t := s.strand n
  if t.hold != .refetch then s
  else if !clean then s.raise n 0x41 ((s.textWord t.regs.handle t.regs.off).setWidth 64) 0
  else
    match s.obj t.regs.handle with
    | none => s.onStrand n fun u => { u with hold := .none }
    | some o =>
      let k := wordLen (s.textWord t.regs.handle t.regs.off)
      let bits := (upFrom t.regs.off k).map fun i => o.wordBit i / 64
      { (s.onStrand n fun u => { u with hold := .none }) with poison := bits.foldl (fun m b => SMap.put false m b false) s.poison }

/-! Trust (R367). -/

/-- A partition's lists have changed (R367): its bit goes from every record that no longer passes, and the call caches of its
tiles are flushed. -/
def State.trustChanged (s : State) (p : Nat) : State :=
  let s1 : State := { s with objs := s.objs.map fun q =>
    (q.1, if s.stillTrusted p q.2 then q.2 else { q.2 with verified := q.2.verified &&& ~~~(BitVec.ofNat 16 (2 ^ p)) }) }
  s1.onTiles fun t => if t.owner = some p then { t with calls := [] } else t

/-- `CODE_WAIT_EXPIRY`. R135: After 250 ms in code wait the call traps CODE_UNAVAILABLE. -/
def execCodeWaitExpiry (n : Nat) (s : State) : Host.Outcome State Fault Refusal :=
  .next (s.codeExpiry n)

/-- `CODE_SOURCE_ANSWER`. R369: A code source's answer is checked, kept or passed over. -/
def execCodeSourceAnswer (req : Nat) (a : SourceAnswer) (s : State) : Host.Outcome State Fault Refusal :=
  .next (s.answered req a)

/-- `CODE_SOURCE_TIME_LIMIT`. R369: A source's time limit passes and the next source is asked. -/
def execCodeSourceTimeLimit (req : Nat) (s : State) : Host.Outcome State Fault Refusal :=
  .next (s.sourceOver req)

/-- `CODE_TRANSLATION_END`. R369: Thread 2 finishes or refuses translating a portable container. -/
def execCodeTranslationEnd (req : Nat) (s : State) : Host.Outcome State Fault Refusal :=
  .next (s.translated req)

/-- `CODE_INSTALL`. R364: An accepted record is installed and waiting strands retry. -/
def execCodeInstall (req : Nat) (s : State) : Host.Outcome State Fault Refusal :=
  .next (s.installReq req)

/-- `COLD_TEXT_FETCH`. R365: Absent cold text is copied in and checked against COLDHASH. -/
def execColdTextFetch (handle : Nat) (s : State) : Host.Outcome State Fault Refusal :=
  .next (s.fetchCold handle)

/-- `CODE_POISON_REFETCH`. R137: A poisoned line is refetched once, else CODE_POISON. -/
def execCodePoisonRefetch (n : Nat) (clean : Bool) (s : State) : Host.Outcome State Fault Refusal :=
  .next (s.refetched n clean)

/-- `CODE_SHELF_READ`. R391: The shelf bucket and item reads complete. -/
def execCodeShelfRead (req : Nat) (bucket : BitVec 512) (item : List Byte) (s : State) : Host.Outcome State Fault Refusal :=
  .next (s.shelfRead req bucket.toNat item)

/-- `CODE_REQUEST_FLIT`. R388: A neighbour package answers a code-request flit. -/
def execCodeRequestFlit (req : Nat) (a : CodeFlit) (s : State) : Host.Outcome State Fault Refusal :=
  .next (s.codeFlit req a)

/-- `TRUST_LIST_CHANGE`. R367: Trust or revocation change clears verified bits and flushes call caches. -/
def execTrustListChange (part : Nat) (s : State) : Host.Outcome State Fault Refusal :=
  .next (s.trustChanged part)

end Sys2Proof.Machine
end

