-- ==== Sys2Proof/Machine/Launch.lean ====
section
/-! DEFINITION. Queues, launches and leases: packets, validation, binding, dispatch, the end of a launch and its report, order of
service and pre-emption by priority (R296, R326, R335, R337, R340 to R356, R379). -/

namespace Sys2Proof.Machine

/-! What the page table says of ranges (R296, R335). -/

/-- An entry whose reserved bits are zero and whose page and frame are aligned to its size (R329, R335). PORT has a meaning only on an I/O
page. -/
def entryForm (e : BitVec 128) : Bool :=
  let low := pageShift (pte e 61 2) - 19
  e.getLsbD 63 && pte e 61 2 != 3 && pte e 46 9 == 0 && pte e 122 6 == 0 && pte e 0 low == 0 &&
  (if e.getLsbD 60 then pte e 61 2 == 0 && pte e 112 10 == 0 && pte e 57 3 ≤ 5
   else pte e 89 23 == 0 && pte e 64 low == 0)

/-- The checks of R335 on an entry for a context. -/
def State.imageOk (s : State) (ctx : Nat) (e : BitVec 128) : Bool :=
  let p := (s.ctx ctx).part
  entryForm e && pte e 38 8 == ctx &&
  (if e.getLsbD 60 then (s.csrAt 0x1004 p).getLsbD (pte e 57 3)
   else pte e 112 10 != s.pkg.toNat || s.ownsBit p (2 ^ 19 * pte e 64 25))

/-- The 2^19-bit pages of a run of G. -/
def pagesOf (a len : Nat) : List Nat := unitsOf (2 ^ 19) a len

/-- Whether a run of G lies below the windows, and every page of it is an HBM page of this package in granules of a partition (R296). -/
def State.ownedRun (s : State) (ctx a len : Nat) : Bool :=
  a + len ≤ winStart && (pagesOf a len).all fun k => (s.ctxBit ctx (2 ^ 19 * k)).isSome

/-- Whether a context's descriptor keeps R296. -/
def State.descOk (s : State) (ctx : Nat) : Bool :=
  let d (i : Nat) : Nat := ((s.ctx ctx).desc.getD i 0).toNat
  d 0 &&& 0x1FFFFFF070F == d 0 && ([1, 2, 3, 5, 6, 7].all fun i => d i % 512 == 0) && s.ownedRun ctx (d 1) (2 ^ 17) && s.ownedRun ctx (d 2) (2 ^ 16) &&
  s.ownedRun ctx (d 3) (max 1 (d 4)) && s.ownedRun ctx (d 5) (4096 * 1024) && s.ownedRun ctx (d 6) (12288 * 2 ^ 16) &&
  s.ownedRun ctx (d 7) 1

/-! What the command processor reads and writes (R340, R346). -/

/-- Where a G address of a context stands for the command processor: by the page table, none without an entry. -/
def State.cpPlace (s : State) (ctx a : Nat) : Option Place :=
  if winStart ≤ a then none else (s.walk ctx a).map fun e => s.framePlace e a

/-- Whether every page of a run is mapped. -/
def State.mapped (s : State) (ctx a len : Nat) : Bool := (pagesOf a len).all fun k => (s.cpPlace ctx (2 ^ 19 * k)).isSome

/-- One container as the command processor reads it; what lies outside the package is a free value. -/
def State.cpRead (s : State) (ctx a : Nat) : Word :=
  match s.cpPlace ctx a with
  | some (.here b) => BitVec.ofNat 64 (s.bits b 64)
  | some (.far p b) => BitVec.ofNat 64 (Config.farMemory s.steps p.toNat b)
  | some (.io port byte) => BitVec.ofNat 64 (Config.farMemory s.steps (1024 + port) byte)
  | none => 0

/-- A run that the command processor reads: poison in it is logged with kind 1, at its lowest container (R316, R319). -/
def State.cpNote (s : State) (ctx a len : Nat) : State :=
  match (unitsOf 64 a len).findSome? fun k =>
    match s.cpPlace ctx (64 * k) with
    | some (.here b) => (s.poisonIn b 64).map fun u => (64 * k, u)
    | _ => none with
  | some (va, u) => s.logError 1 s.freeSev (s.unitOfBit u) (some ctx) none (BitVec.ofNat 64 va) (some u) 0
  | none => s

/-- One container as the command processor writes it. -/
def State.cpWrite (s : State) (ctx a : Nat) (w : Word) : State :=
  match s.cpPlace ctx a with
  | some (.here b) => s.poke b 64 w.toNat
  | some (.far p b) => s.sendOwn ctx p a b 64 w.toNat 0
  | some (.io port byte) => s.send (.ioWrite port byte 8 w.toNat false)
  | none => s

/-! Fields of packet and record (R258, R340, R343). -/

/-- A field of a launch record. -/
def Launch.f (l : Launch) (c lo n : Nat) : Nat := bitsOf (l.record.getD c 0).toNat lo n

/-- RECORD of the packet. -/
def Launch.recordAt (l : Launch) : Nat := (l.packet.getD 1 0).toNat

/-- SIGNAL of the packet. -/
def Launch.signal (l : Launch) : Nat := (l.packet.getD 2 0).toNat

/-- CTG × TPG, the cores of a launch in a package (R347). -/
def Launch.need (l : Launch) : Nat := l.f 1 8 5 * l.f 1 16 7

/-- A launch's cost (R351). -/
def Launch.cost (l : Launch) : Nat := if l.need = 0 then 1 else l.need

/-- The bits of a container of the launch record that are not reserved (R258, R343). -/
def recordMask (i : Nat) : Nat :=
  let f (lo n : Nat) : Nat := (2 ^ n - 1) * 2 ^ lo
  match i with
  | 0 => f 24 4 + f 16 4 + f 8 5 + f 0 8
  | 1 => f 0 3 + f 8 5 + f 16 7 + f 32 11 + f 48 2
  | 2 => f 0 4 + f 8 5
  | 3 => f 0 10 + f 16 12
  | 4 => f 32 21 + f 0 22
  | 5 => f 0 21
  | 7 => f 0 16
  | _ => if i < 20 then f 0 64 else 0

/-- The first of several checks that fails, by its field. -/
def firstFail : List (Bool × Nat) → Option Nat
  | [] => none
  | (b, f) :: r => if b then some f else firstFail r

/-- Containers 0 and 1 of lease range `i`. -/
def Launch.lease0 (l : Launch) (i : Nat) : Nat := (l.record.getD (32 + 2 * i) 0).toNat

/-- Container 1. -/
def Launch.lease1 (l : Launch) (i : Nat) : Nat := (l.record.getD (33 + 2 * i) 0).toNat

/-- Whether lease range `i` breaks R326, alone or with a lower range. -/
def Launch.leaseBad (l : Launch) (i : Nat) : Bool :=
  let base := l.lease0 i
  let len := l.lease1 i % 2 ^ 58
  let t (j : Nat) : Bool := (l.lease1 j).testBit 63
  base / 2 ^ 57 != 0 || bitsOf (l.lease1 i) 58 2 != 0 || base % 2 ^ 19 != 0 || len == 0 || len % 2 ^ 19 != 0 ||
  winStart < base + len ||
  (upFrom 0 i).any fun j => (t i && t j) ||
    (base < l.lease0 j + l.lease1 j % 2 ^ 58 && l.lease0 j < base + len)

/-- Whether stage `st` breaks row 10 of R345. -/
def State.stageBad (s : State) (l : Launch) (st : Nat) : Bool :=
  let minc (k : Nat) : Nat := bitsOf (l.stageWord k 4) 16 12
  bitsOf (l.stageWord st 4) 32 12 < minc st || bitsOf (l.stageWord st 5) 0 32 < bitsOf (l.stageWord st 5) 32 32 ||
  (s.ring l.ctx (bitsOf (l.stageWord st 4) 0 8)).isNone || (s.ring l.ctx (bitsOf (l.stageWord st 4) 8 8)).isNone ||
  l.need < ((upFrom 0 (st + 1)).map minc).foldl (· + ·) 0

/-- Whether launches pin a page of a context (R337): from MAKING on, until the last of them is released; the claim arena is pinned while
it has a length. -/
def State.pinned (s : State) (ctx a : Nat) : Bool :=
  s.launches.any (fun l => l.ctx == ctx && (l.lease == .making || l.lease == .held || l.lease == .ending) &&
    (upFrom 0 (l.f 0 8 5)).any fun i => inRange a 1 (l.lease0 i, l.lease1 i % 2 ^ 58, 0)) ||
  (s.arena ctx).any (inRange a 1)

/-- The tiles of a partition that are in service. -/
def State.tilesOf (s : State) (p : Nat) : List Nat :=
  (upFrom 0 96).filter fun t => (s.tile t).owner == some p && !(s.tile t).outOfService

/-- Whether a context may have launches (R345, row 1). -/
def CtxState.serves (c : CtxState) : Bool := c == .resident || c == .suspended || c == .swappedOut

/-- Rows 1 and 2 of R345: the queue's context, and the packet. -/
def State.packetFail (s : State) (l : Launch) : Option Nat :=
  let c0 := (l.packet.getD 0 0).toNat
  firstFail [
    (!(s.ctx l.ctx).state.serves || !s.descOk l.ctx, 0xFFFE),
    (c0 / 2 ^ 10 != 0 || bitsOf c0 4 4 != 1 || bitsOf c0 1 3 != 0 || (upFrom 3 5).any (fun i => l.packet.getD i 0 != 0) ||
      l.recordAt % 512 != 0 || l.signal % 64 != 0 || !s.mapped l.ctx l.recordAt 8192 || !s.mapped l.ctx l.signal 256, 0xFFFC)]

/-- Rows 3 to 10 of R345: the record. -/
def State.recordFail (s : State) (l : Launch) : Option Nat :=
  let f := l.f
  let scg := f 1 0 3
  let entry := f 0 24 4
  let stk := f 5 0 21
  let sp0 := f 4 32 21
  let nlr := f 0 8 5
  let form : List (Bool × Nat) := (upFrom 0 32).map fun i =>
    ((i == 0 && f 0 0 8 != 1) || (l.record.getD i 0).toNat &&& recordMask i != (l.record.getD i 0).toNat, 64 * i)
  let fixed : List (Bool × Nat) := [
    (f 2 2 2 == 3, 0x0080), (scg == 0 || 4 < scg, 0x0040), (entry == 0 || entry / 2 ^ scg != 0, 0x0000),
    (f 1 8 5 == 0 || 31 < f 1 8 5 || f 1 16 7 == 0 || 96 < f 1 16 7 || f 1 32 11 == 0 || 1024 < f 1 32 11 || f 1 48 2 == 3 ||
      (s.tilesOf l.part).length < f 1 16 7, 0x0040),
    (16 < f 2 8 5 || 16 < scg * f 2 8 5, 0x0080),
    (0x1E0000 < f 4 0 22 || f 4 0 22 % 512 != 0 || f 4 0 22 < sp0 || sp0 % 64 != 0, 0x0100),
    (stk == 0 || stk % 512 != 0 || sp0 < scg * stk, 0x0140),
    (0xE000 < f 7 0 16 || f 7 0 16 % 64 != 0, 0x01C0),
    (f 6 0 64 % 64 != 0 || !s.mapped l.ctx (f 6 0 64) (f 7 0 16), 0x0180),
    (16 < nlr, 0)]
  firstFail (form ++ fixed ++ (upFrom 0 nlr).map (fun i => (l.leaseBad i, 0x0800 + 128 * i)) ++ [(decide (8 < l.stages), 0)] ++
    (upFrom 0 l.stages).map (fun st => (s.stageBad l st, 0x1000 + 512 * st)))

/-- The first lease range with a page that cannot be made resident (R337, row 11 of R345). -/
def State.leaseFail (s : State) (l : Launch) : Option Nat :=
  firstFail ((upFrom 0 (l.f 0 8 5)).map fun i =>
    (!(pagesOf (l.lease0 i) (l.lease1 i % 2 ^ 58)).all (fun k =>
      match s.walk l.ctx (2 ^ 19 * k) with
      | some e => s.imageOk l.ctx e
      | none => false), 0x0800 + 128 * i))

/-- The record and the argument data as the command processor copies them (R343). -/
def State.readRecord (s : State) (l : Launch) : Launch :=
  let rc := (upFrom 0 128).map fun i => s.cpRead l.ctx (l.recordAt + 64 * i)
  let at_ := (rc.getD 6 0).toNat
  { l with record := rc
           args := (upFrom 0 ((rc.getD 7 0).toNat % 2 ^ 16 / 64)).map fun i => s.cpRead l.ctx (at_ + 64 * i) }

/-! Reports (R346, R347, R379). -/

/-- One report to a package's originator or to the completion record: status, cause, field, address and extra words. -/
def Launch.outcome (l : Launch) (pkg : BitVec 10) (rejected : Option Nat) : Report :=
  match rejected with
  | some f => { pkg := pkg, status := 1, cause := 0xA4, field := f, addr := 0, extra := 0 }
  | none =>
    if l.killed then { pkg := pkg, status := 3, cause := 0xA5, field := 0xFFFF, addr := 0, extra := 0 }
    else
      match l.cause with
      | some c => { pkg := pkg, status := 2, cause := c.cause, field := 0xFFFF, addr := c.addr, extra := c.extra }
      | none => { pkg := pkg, status := 0, cause := 0, field := 0xFFFF, addr := 0, extra := 0 }

/-- The report of a pod launch: of the first failing package in ascending number (R347). -/
def worst (own : Report) (rs : List Report) : Report :=
  (rs.filter fun r => r.status != 0).foldl (fun b r => if b.status = 0 || r.pkg.toNat < b.pkg.toNat then r else b) own

/-- Container 0 of the completion record (R346). -/
def Report.word (r : Report) : Word :=
  BitVec.ofNat 64 (r.status % 2 ^ 8 + 2 ^ 8 * (r.cause % 2 ^ 8) + 2 ^ 16 * (r.field % 2 ^ 16))

/-- A report whose SIGNAL lies on an I/O page of a fenced port goes to the takeover ring (R379). -/
def State.takeoverEntry (s : State) (l : Launch) (r : Report) : State :=
  let tail := (s.csrAt 0x1334 0).toNat
  let bit := (s.csrAt 0x1333 0).toNat % 2 ^ 44 + 512 * (tail % 256)
  let e := packBits 64 [l.queue % 2 ^ 8, l.signal, r.word.toNat, r.addr.toNat, r.extra.toNat]
  ((s.poke bit 512 e).csrPut 0x1334 0 (BitVec.ofNat 64 (tail + 1))).send (.msix s.activePort 63)

/-- The completion record, then the decrement of the signal (R346), which logs the poison that it reads (R319). An unusable SIGNAL is
logged, and nothing is written. -/
def State.complete (s : State) (l : Launch) (r : Report) : State :=
  let record (t : State) : State :=
    ((t.cpWrite l.ctx (l.signal + 64) r.word).cpWrite l.ctx (l.signal + 128) r.addr).cpWrite l.ctx (l.signal + 192) r.extra
  if l.forwarded then s.send (.report r)
  else if l.signal % 64 != 0 then s.logError 1 s.freeSev (s.free.toNat % 2 ^ 20) (some l.ctx) none (BitVec.ofNat 64 l.signal) none 0
  else
    match s.cpPlace l.ctx l.signal with
    | none => s.logError 1 s.freeSev (s.free.toNat % 2 ^ 20) (some l.ctx) none (BitVec.ofNat 64 l.signal) none 0
    | some (.here b) => let t := record s; (t.cpNote l.ctx l.signal 64).poke b 64 (t.bits b 64 + (2 ^ 64 - 1))
    | some (.far p b) => (record s).sendAtomic pkgTag l.ctx p l.signal b (some .add) .w64 (-1) 0
    | some (.io port byte) =>
      if port < 2 && s.fenced.getLsbD port then s.takeoverEntry l r else (record s).send (.ioAtomic port byte 64 .fetchAdd (-1) 0)

/-! Queues and packets (R340 to R342). -/

/-- The register of a queue. -/
def State.qcfg (s : State) (q : Nat) : Nat := (s.csrAt 0x1102 q).toNat

/-- Whether the package serves work: ready (R395), with no checkpoint that holds binding (R384). -/
def State.ready? (s : State) : Bool := s.csrAt 0x1400 0 == 0xF

/-- The waiting list of a priority (R350). -/
def Part.wait (p : Part) (prio : Nat) : List Nat :=
  if prio = 0 then p.wait0 else if prio = 1 then p.wait1 else if prio = 2 then p.wait2 else p.wait3

/-- Replaces the waiting list of a priority. -/
def Part.setWait (p : Part) (prio : Nat) (l : List Nat) : Part :=
  if prio = 0 then { p with wait0 := l } else if prio = 1 then { p with wait1 := l }
  else if prio = 2 then { p with wait2 := l } else { p with wait3 := l }

/-- The head of the highest nonempty list (R350). -/
def Part.head (p : Part) : Option Nat := (p.wait3 ++ p.wait2 ++ p.wait1 ++ p.wait0).head?

/-- Takes a launch out of its list. -/
def State.unqueue (s : State) (i : Nat) : State :=
  match s.launch i with
  | some l => s.onPart l.part fun p => p.setWait l.prio ((p.wait l.prio).filter (· != i))
  | none => s

/-- A launch that has only just come, from a packet or from another package. -/
def Launch.fresh (queue ctx part prio : Nat) (packet : List Word) (now : Word) : Launch :=
  { queue := queue, ctx := ctx, part := part, prio := prio, packet := packet, record := [], args := [], lease := .waiting,
    cores := [], cause := none, since := now, boundAt := 0, preempted := false, away := false, costed := false, saved := [],
    savedCores := [], savedBits := [], killed := false, forwarded := false, reports := [], ended := false, arena := [] }

/-- A launch joins the list of its priority, and partitions are served (R350). -/
def State.addLaunch (s : State) (l : Launch) : State :=
  let s1 : State := { s with launches := s.launches ++ [l] }
  (s1.onPart l.part fun p => p.setWait l.prio (p.wait l.prio ++ [s.launches.length])).dueOnce .partitionServiceRound

/-- The partition of a launch from a queue (R342): that of the queue's context, or of the queue while the context is FREE and belongs to
none. -/
def State.launchPart (s : State) (q : Nat) : Nat :=
  let c := s.ctx (bitsOf (s.qcfg q) 16 8)
  if c.state = .free then bitsOf (s.qcfg q) 24 4 else c.part

/-- One packet is taken, if there is one (R341). -/
def State.takePacket (s : State) (q : Nat) : Option State :=
  let cfg := s.qcfg q
  let ctx := bitsOf cfg 16 8
  let n := (s.csrAt 0x1103 q).toNat
  let a := (s.csrAt 0x1101 q).toNat + 512 * (n % 2 ^ bitsOf cfg 8 5)
  let c0 := s.cpRead ctx a
  if !c0.getLsbD 0 then none
  else
    let ws := (upFrom 0 8).map fun i => s.cpRead ctx (a + 64 * i)
    let s1 := ((s.cpNote ctx a 512).cpWrite ctx a 0).csrPut 0x1103 q (BitVec.ofNat 64 (n + 1))
    some (s1.addLaunch (Launch.fresh q ctx (s.launchPart q) (bitsOf c0.toNat 8 2) ws s.clk))

/-- Packets are taken while the next one is valid (R341). -/
def State.takePackets (s : State) (q : Nat) : Nat → State
  | 0 => s
  | k + 1 =>
    match s.takePacket q with
    | some t => State.takePackets t q k
    | none => s

/-- A look at a queue (R341, R342, R395). -/
def State.scan (s : State) (q : Nat) : State :=
  if (s.qcfg q).testBit 0 && s.ready? then
    let t := s.takePackets q (2 ^ bitsOf (s.qcfg q) 8 5)
    { t with looked := SMap.put 0 t.looked q s.clk }
  else s

/-- Whether a notify through a host port counts (R377 to R379, R395). -/
def State.notifyFrom (s : State) (port : Nat) : Bool :=
  let h := (s.csrAt 0x1300 0).toNat
  let st := bitsOf h 2 2
  !s.fenced.getLsbD port && (st == 0 || (st == 1 && bitsOf h 1 1 == port))

/-- A notify of a queue, through a host port or by a device write (R341, R377, R391). -/
def State.notify (s : State) (q : Nat) (port : Option Nat) : State :=
  let ok := match port with
    | some p => s.notifyFrom p
    | none => true
  if ok && s.ready? then s.readHosts.scan q else s

/-! Service of partitions (R350, R351). -/

/-- A launch is rejected (R345, R346). -/
def State.reject (s : State) (i : Nat) (l : Launch) (field : Nat) : State :=
  let s1 := s.unqueue i
  (s1.complete l (l.outcome s.pkg (some field))).onLaunch i fun k => { k with lease := .released, ended := true }

/-- The FIELD of the first row of R345 that a launch whose record has been read fails. -/
def State.validate (s : State) (l : Launch) : Option Nat :=
  if l.forwarded then (if !(s.ctx l.ctx).state.serves || !s.descOk l.ctx then some 0xFFFE else s.recordFail l)
  else (s.packetFail l).or (s.recordFail l)

/-- A launch with its record and argument data read, where the record can be read (R343, R351). A forwarded one has them. -/
def State.withRecord (s : State) (l : Launch) : Launch :=
  if !l.forwarded && s.mapped l.ctx l.recordAt 8192 then s.readRecord l else l

/-- Poison in what has been read is logged (R319). -/
def State.noteRecord (s : State) (l : Launch) : State :=
  if l.forwarded || l.record.isEmpty then s
  else (s.cpNote l.ctx l.recordAt 8192).cpNote l.ctx (l.record.getD 6 0).toNat (64 * l.args.length)

/-- The heads of a partition are served while its deficit lasts (R351). A head that has passed waits to be made resident and
bound, and blocks those behind it (R350). -/
def State.servePart (s : State) (p : Nat) : Nat → State
  | 0 => s
  | k + 1 =>
    match (s.part p).head with
    | none => s.onPart p fun q => { q with deficit := 0 }
    | some i =>
      match s.launch i with
      | none => s
      | some l =>
        if l.lease != .waiting then (if l.lease = .held then s.dueOnce (.launchBind i) else s)
        else
          let m := s.withRecord l
          if !l.costed && (s.part p).deficit < m.cost then s
          else
            let s1 := (if l.costed then s else s.onPart p fun q => { q with deficit := q.deficit - m.cost }).noteRecord m
            match s1.validate m with
            | some f => State.servePart (s1.reject i m f) p k
            | none => (s1.onLaunch i fun _ => { m with lease := .making, costed := true, since := s.clk }).due [.leaseResident i]

/-- Whether the head of a partition waits for a deficit of its cost. -/
def State.headWaits (s : State) (p : Nat) : Bool :=
  match (s.part p).head.bind s.launch with
  | some l => l.lease == .waiting
  | none => false

/-- The visit of a partition goes on, once its head has been bound or rejected or cores have become free: while the deficit is at least
the head's cost, the next head follows with no further growth (R351). -/
def State.serveOn (s : State) (p : Nat) : State :=
  let s1 := s.servePart p (s.launches.length + 1)
  if s1.headWaits p then s1.dueOnce .partitionServiceRound else s1

/-- One round (R351): every partition with a waiting head, in ascending number. -/
def State.round (s : State) : State :=
  let s1 := (upFrom 0 16).foldl (fun a p =>
    match (a.part p).head with
    | some _ =>
      let w := max 1 (bitsOf (a.csrAt 0x1111 p).toNat 0 8)
      (a.onPart p fun q => { q with deficit := q.deficit + 32 * w }).servePart p (a.launches.length + 1)
    | none => a.onPart p fun q => { q with deficit := 0 }) s
  if (upFrom 0 16).any s1.headWaits then s1.dueOnce .partitionServiceRound else s1

/-! Binding and dispatch (R29, R191, R211, R347, R348, R355). -/

/-- The contexts with strands on a tile (R295). -/
def State.tileCtxs (s : State) (t : Nat) : List Nat :=
  ((s.strands.filter fun p => tileOf p.1 == t && p.2.bind.valid).map fun p => p.2.bind.ctx).eraseDups

/-- Whether a core is free (R347); `plus` names cores that would be. -/
def State.coreFree (s : State) (plus : List Nat) (c : Nat) : Bool :=
  isTaper c && !(s.core c).outOfService && ((s.core c).held.isNone || plus.contains c)

/-- The instruction-cache ways that a context has on a tile, or would have as it becomes present there (R295, log 81): those of its
ICWAYS that no other context present has, or else the lowest way that none has; 0 where there is none. -/
def State.waysFor (s : State) (t c : Nat) : Nat :=
  let others := ((s.tileCtxs t).filter (· != c)).foldl (fun m x => m ||| (s.csrAt 0x11 (t * 256 + x)).toNat) 0
  let own := (s.csrAt 0x11 (t * 256 + c)).toNat % 2 ^ 16
  let mine := own ^^^ (own &&& others)
  if mine != 0 then mine
  else
    match (upFrom 0 16).find? fun i => !others.testBit i with
    | some i => 2 ^ i
    | none => 0

/-- The cores that a launch would get (R347): CTG free cores in each of TPG tiles of its partition, in ascending order. A tile
with sixteen other contexts present, or with no way left, takes no further one (R295). -/
def State.pickCores (s : State) (l : Launch) (plus : List Nat) : Option (List Nat) :=
  let ctg := l.f 1 8 5
  let tpg := l.f 1 16 7
  let tiles := (s.tilesOf l.part).filter fun t =>
    ctg ≤ ((upFrom (32 * t) 31).filter (s.coreFree plus)).length &&
    (((s.tileCtxs t).length < 16 && s.waysFor t l.ctx != 0) || (s.tileCtxs t).contains l.ctx)
  if tiles.length < tpg then none
  else some ((tiles.take tpg).flatMap fun t => ((upFrom (32 * t) 31).filter (s.coreFree plus)).take ctg)

/-- A run of memory, of whole 512-bit lines, set to zero. -/
def State.wipe (s : State) (bit len : Nat) : State :=
  let s1 : State := { s with
    mem := s.mem.filter fun p => p.1 < bit / 8 || (bit + len) / 8 ≤ p.1
    poison := s.poison.filter fun p => p.1 < bit / 64 || (bit + len) / 64 ≤ p.1 }
  s1.markReaders bit len

/-- The stage of the `i`-th core of a launch: MINC cores to each stage in ascending number (R355). -/
def Launch.stageOf (l : Launch) (i : Nat) : Nat :=
  ((upFrom 0 l.stages).foldl (fun (a : Nat × Nat) st =>
    let m := bitsOf (l.stageWord st 4) 16 12
    if a.2 = 15 && i < a.1 + m && a.1 ≤ i then (a.1 + m, st) else (a.1 + m, a.2)) (0, 15)).2

/-- The K image of a launch on this package (R258, R343): PKG and CORES are the command processor's. -/
def State.kWords (s : State) (l : Launch) : List Word :=
  l.record.set 3 (BitVec.ofNat 64 (s.pkg.toNat + 2 ^ 16 * l.need))

/-- The bind record of a slot (R348), with what dispatch applies to it. -/
def Launch.binding (l : Launch) (i c stage sid : Nat) : Binding :=
  { valid := true, start := (l.f 0 24 4).testBit sid, ctx := l.ctx, stage := stage, launch := i, kcopy := constBase c,
    gbud := 16 * (l.f 2 0 2 + 1), vbud := 8 * 2 ^ l.f 2 2 2, spSize := l.f 4 0 22, quota := l.f 2 8 5, sp0 := l.f 4 32 21,
    stk := l.f 5 0 21, scg := l.f 1 0 3 }

/-- A core begins to hold strands of a launch: its constants, mailboxes, matrix unit, slots, tables and capability key (R29,
R191, R211, R343); the context has ways on the tile by then (R295). -/
def State.takeCore (s : State) (i : Nat) (l : Launch) (idx c : Nat) : State :=
  let s0 := if (s.tileCtxs (c / 32)).contains l.ctx then s
    else s.csrPut 0x11 (c / 32 * 256 + l.ctx) (BitVec.ofNat 64 (s.waysFor (c / 32) l.ctx))
  let s1 := ((s0.wipe (constBase c) (2 ^ 16)).wipe (boxBase c) 512).wipe (slotBase c 0) (2 ^ 20)
  let ks := (s.kWords l).zip (upFrom 0 128) ++ l.args.zip (upFrom 128 l.args.length)
  let s2 := ks.foldl (fun a p => if p.1 = 0 then a else a.poke (constBase c + 64 * p.2) 64 p.1.toNat) s1
  let s3 := s2.onCore c fun k =>
    { k with
      held := some i, stage := l.stageOf idx, moveTo := none, mat := Matrix.reset, tables := [], inbox := []
      key := k.key + 1, caps := [] }
  (upFrom 0 4).foldl (fun a sid => a.onStrand (4 * c + sid) fun _ =>
    { Strand.reset with bind := l.binding i c (l.stageOf idx) sid }) s3

/-- A core holds no launch any more: its slots are of no launch (R348), its capability key is drawn afresh (R211), and the bins of its
tile are shared out again (R228). -/
def State.dropCore (s : State) (c : Nat) : State :=
  let s1 := (s.onCore c fun k => { k with held := none, stage := 15, moveTo := none, inbox := [], key := k.key + 1, caps := [] }).dueOnce
    (.tailwindBinChange (c / 32))
  (upFrom (4 * c) 4).foldl (fun a n => a.setStrand n Strand.reset) s1

/-- Dispatch (R348): the entry task on each slot with START, and every other slot below SCG looks for work. -/
def State.dispatch (s : State) (l : Launch) : State :=
  let ns := l.cores.flatMap fun c => upFrom (4 * c) 4
  let d : Digest := BitVec.ofNat 256 (packBits 64 ((upFrom 8 4).map fun i => (l.record.getD i 0).toNat))
  let gs := (upFrom 12 8).map fun i => l.record.getD i 0
  let s1 := (ns.filter fun n => (s.strand n).bind.start).foldl (fun a n => (a.newTask n .launch (a.taskRegs n gs)).begin n d) s
  ns.foldl (fun a n => if (a.strand n).status = .free then a.seek n else a) s1

/-- The other packages of a pod launch (R347): the next PPG - 1 members in ascending number. -/
def State.members (s : State) (l : Launch) : List (BitVec 10) :=
  (((upFrom (s.pkg.toNat + 1) (1023 - s.pkg.toNat)).map fun p => BitVec.ofNat 10 p).filter s.isMember).take (l.f 1 32 11 - 1)

/-- A launch binds to cores (R347). One that comes back from pre-emption or a switch gets its saved state next, and frames for
its old cores go to the new ones (R352, R356). -/
def State.bindTo (s : State) (i : Nat) (l : Launch) (cs : List Nat) : State :=
  let old := l.cores
  let s1 := (cs.zip (upFrom 0 cs.length)).foldl (fun a p => a.takeCore i l p.2 p.1) (s.unqueue i)
  let s2 := s1.onLaunch i fun k => { k with cores := cs, boundAt := s.steps, since := s.clk }
  if l.away then
    let moved (p : Option Nat × Frame) : Option Nat × Frame :=
      match (if p.1 = some i then old.idxOf? p.2.core else none) with
      | some j => (p.1, { p.2 with core := cs.getD j p.2.core })
      | none => p
    (s2.onCtx l.ctx fun x => { x with frames := x.frames.map moved }).due [.contextRestore (BitVec.ofNat 8 l.ctx)]
  else
    let s3 := if l.forwarded then s2 else (s.members l).foldl (fun a p => a.sendTo p (.launch p { prio := l.prio, record := l.record } l.args)) s2
    let s4 := if l.stages = 0 then s3 else s3.due [.stageGovernorEvaluation i]
    s4.dispatch { l with cores := cs }

/-- LAUNCH_BIND: the head of its partition binds if its context is resident and there are cores; otherwise it waits, and may
pre-empt (R347, R352). -/
def State.tryBind (s : State) (i : Nat) : State :=
  match s.launch i with
  | none => s
  | some l =>
    if l.lease != .held || l.ended || (!l.cores.isEmpty && !l.away) || (s.part l.part).head != some i then s
    else
      let holds := bitsOf (s.csrAt 0x1320 0).toNat 4 4
      let cs := if (s.ctx l.ctx).state = .resident && !(1 ≤ holds && holds ≤ 3) then s.pickCores l [] else none
      match cs with
      | some cs => (s.bindTo i l cs).serveOn l.part
      | none => s.dueOnce (.launchPreemption l.part)

/-- MAKING: every page of the lease has its entry (R337). -/
def State.makeResident (s : State) (i : Nat) : State :=
  match s.launch i with
  | none => s
  | some l =>
    if l.lease != .making then s
    else
      match s.leaseFail l with
      | some f => (s.reject i l f).serveOn l.part
      | none => (s.onLaunch i fun k => { k with lease := .held, since := s.clk }).due [.launchBind i]

/-! Pre-emption by priority (R352). -/

/-- The bound launches of a partition below a priority, the lowest first, and of one priority the latest bound first. -/
def State.lesser (s : State) (p prio : Nat) : List Nat :=
  (upFrom 0 prio).flatMap fun q =>
    let is := (upFrom 0 s.launches.length).filter fun i =>
      match s.launch i with
      | some l => l.part == p && l.prio == q && !l.cores.isEmpty && !l.away && !l.ended && l.lease == .held
      | none => false
    is.mergeSort fun a b =>
      ((s.launch b).map Launch.boundAt).getD 0 ≤ ((s.launch a).map Launch.boundAt).getD 0

/-- The launches to pre-empt, until enough cores would be free (R352). -/
def State.victimsFor (s : State) (l : Launch) : List Nat → List Nat → List Nat
  | _, [] => []
  | plus, i :: is =>
    if (s.pickCores l plus).isSome then []
    else i :: State.victimsFor s l (plus ++ ((s.launch i).map Launch.cores).getD []) is

/-- A launch is asked to leave its cores (R300, R352). -/
def State.preempt (s : State) (i : Nat) : State :=
  match s.launch i with
  | some l =>
    if l.preempted then s
    else
      ((s.onLaunch i fun k => { k with preempted := true }).dueOnce (.preemptionRequest (BitVec.ofNat 8 l.ctx))).dueOnce
        (.contextSave (BitVec.ofNat 8 l.ctx))
  | none => s

/-- A head that has waited 200 µs pre-empts (R352). -/
def State.preemptFor (s : State) (p : Nat) : State :=
  match (s.part p).head with
  | none => s
  | some i =>
    match s.launch i with
    | none => s
    | some l =>
      if l.lease != .held || l.prio = 0 || (s.ctx l.ctx).state != .resident then s
      else if !s.past l.since 160000 then s.dueOnce (.launchPreemption p)
      else
        let vs := (s.victimsFor l [] (s.lesser p l.prio)).filter fun v => !((s.launch v).map Launch.preempted).getD true
        (vs.foldl State.preempt s).onPart p fun q => { q with preempts := (q.preempts + vs.length) % 2 ^ 16 }

/-! The end of a launch (R337, R346, R349). -/

/-- Whether nothing of a launch is left that R239 would start (R349). -/
def State.noWork (s : State) (l : Launch) : Bool :=
  l.cores.all (fun c => (s.waiting c l.ctx).isNone) &&
  (upFrom 0 l.stages).all fun st => s.stageItems l st == 0 || (s.stageCores l st).isEmpty

/-- A launch ends once its strands are FREE and no work is left (R349): its lease is ENDING (R337). -/
def State.endLaunch (s : State) (i : Nat) : State :=
  match s.launch i with
  | none => s
  | some l =>
    let idle := l.cores.all fun c => (upFrom (4 * c) 4).all fun n => (s.strand n).status == .free
    if l.lease != .held || l.ended || l.cores.isEmpty || (l.away && !l.killed) then s
    else if (l.away || idle) && (l.killed || s.noWork l) then
      (s.onLaunch i fun k => { k with lease := .ending }).due [.leaseDrained i]
    else if idle then s.dueOnce (.launchEnd i)
    else s

/-- Whether engine commands of a launch's cores are under way, or stores of the launch to other packages (R337). -/
def State.draining (s : State) (i : Nat) (l : Launch) : Bool :=
  (!l.away && l.cores.any fun c => !(s.core c).copyQ.isEmpty || !(s.core c).matQ.isEmpty || !(s.core c).port.isEmpty) ||
  s.farStores.any fun f => f.launch == some i

/-- Whether a launch whose lease is ending still meets R349: its strands are FREE, and nothing is left that R239 would start. One that is killed
ends anyway. -/
def State.stillEnds (s : State) (l : Launch) : Bool :=
  l.killed || ((l.cores.all fun c => (upFrom (4 * c) 4).all fun n => (s.strand n).status == .free) && s.noWork l)

/-- The tasks of a launch that a switch has saved end with it (R231, R297). -/
def State.endSaved (s : State) (l : Launch) : State :=
  l.saved.foldl (fun a p =>
    match l.cores[p.1 / 4]? with
    | some c => a.endClaimsOf (4 * c + p.1 % 4) p.2
    | none => a) s

/-- The lease has drained (R337): the report, then release, and the cores are free (R346, R349). Work that came meanwhile is done
first. -/
def State.drainLease (s : State) (i : Nat) : State :=
  match s.launch i with
  | none => s
  | some l =>
    if l.lease != .ending then s
    else if s.draining i l || (!l.forwarded && !l.killed && l.reports.length < (s.members l).length) then
      s.due [.leaseDrained i]
    else if !s.stillEnds l then
      ((l.cores.flatMap fun c => upFrom (4 * c) 4).foldl (fun a n => a.seek n) (s.onLaunch i fun k => { k with lease := .held })).due [.launchEnd i]
    else
      let s1 := (s.endSaved l).complete l (worst (l.outcome s.pkg none) l.reports)
      let s2 := ((s1.unqueue i).onCtx l.ctx fun x => { x with frames := x.frames.filter fun p => p.1 != some i }).onLaunch i fun k => { k with lease := .released, ended := true, saved := [], savedCores := [], savedBits := [] }
      (if l.away then s2 else l.cores.foldl State.dropCore s2).serveOn l.part

/-- `QUEUE_NOTIFY`. R341: A notify write makes the command processor scan its queue. -/
def execQueueNotify (q : Nat) (port : Option Nat) (s : State) : Host.Outcome State Fault Refusal :=
  .next (s.notify q port)

/-- `QUEUE_PERIODIC_SCAN`. R341: Each enabled queue is scanned every 100 µs. -/
def execQueuePeriodicScan (q : Nat) (s : State) : Host.Outcome State Fault Refusal :=
  if !(s.qcfg q).testBit 0 then .next s
  else if s.past (SMap.look 0 s.looked q) 80000 then .next ((s.scan q).dueOnce (.queuePeriodicScan q))
  else .next (s.dueOnce (.queuePeriodicScan q))

/-- `PARTITION_SERVICE_ROUND`. R351: Deficit round-robin visits partitions with waiting heads. -/
def execPartitionServiceRound (s : State) : Host.Outcome State Fault Refusal :=
  .next s.round

/-- `LEASE_RESIDENT`. R337: Every page is pinned with a valid entry; the lease becomes HELD. -/
def execLeaseResident (launch : Nat) (s : State) : Host.Outcome State Fault Refusal :=
  .next (s.makeResident launch)

/-- `LAUNCH_BIND`. R347: A validated launch binds free cores of its partition. -/
def execLaunchBind (launch : Nat) (s : State) : Host.Outcome State Fault Refusal :=
  .next (s.tryBind launch)

/-- `LAUNCH_FORWARD`. R347: A member package receives and binds its copy of a pod launch. -/
def execLaunchForward (q : Nat) (record : LaunchMsg) (args : List Word) (s : State) : Host.Outcome State Fault Refusal :=
  let l := Launch.fresh q (bitsOf (s.qcfg q) 16 8) (s.launchPart q) (record.prio % 4) [] s.clk
  .next (s.addLaunch { l with record := record.record, args := args, forwarded := true })

/-- `MEMBER_REPORT`. R347: A member package's report reaches the originator. -/
def execMemberReport (launch : Nat) (pkg : BitVec 10) (status : BitVec 8) (cause : BitVec 8) (field : BitVec 16) (addr : Word) (extra : Word) (s : State) : Host.Outcome State Fault Refusal :=
  .next ((s.onLaunch launch fun l => { l with reports := l.reports ++
    [{ pkg := pkg, status := status.toNat, cause := cause.toNat, field := field.toNat, addr := addr, extra := extra }] }))

/-- `LAUNCH_END`. R349: All strands free and no work left: the launch ends. -/
def execLaunchEnd (launch : Nat) (s : State) : Host.Outcome State Fault Refusal :=
  .next (s.endLaunch launch)

/-- `LEASE_DRAINED`. R337: Engine commands and remote stores drain; pins drop. -/
def execLeaseDrained (launch : Nat) (s : State) : Host.Outcome State Fault Refusal :=
  .next (s.drainLease launch)

/-- `LAUNCH_PREEMPTION`. R352: A head waiting 200 µs pre-empts lower-priority launches. -/
def execLaunchPreemption (part : Nat) (s : State) : Host.Outcome State Fault Refusal :=
  .next (s.preemptFor part)

end Sys2Proof.Machine
end

