-- ==== Sys2Proof/Machine/Context.lean ====
section
/-! DEFINITION. Contexts: their states, pre-emption, what a switch saves and writes back (R270, R296, R299 to R301, R352, R356). -/

namespace Sys2Proof.Machine

/-! The descriptor (R296). -/

/-- The code of a context state (R299). -/
def CtxState.code : CtxState → Nat
  | .free => 0
  | .resident => 1
  | .suspended => 2
  | .swappedOut => 3
  | .teardown => 4

/-- A context's descriptor, if it can be read (R299). -/
def State.readDesc (s : State) (c : Nat) : Option (List Word) :=
  let a := (s.csrAt 0x10 c).toNat
  let ok := (upFrom 0 8).all fun i =>
    match s.cpPlace c (a + 64 * i) with
    | some (.here b) => (s.poisonIn b 64).isNone
    | some _ => true
    | none => false
  if ok then some ((upFrom 0 8).map fun i => s.cpRead c (a + 64 * i)) else none

/-- A context enters a state (R299): the copy in its descriptor follows, and the descriptor is read, with its poison logged (R319). -/
def State.enterCtx (s : State) (c : Nat) (st : CtxState) : State :=
  let a := (s.csrAt 0x10 c).toNat
  let w := s.cpRead c a
  let s1 := s.cpWrite c a ((w &&& ~~~(0x700 : Word)) ||| BitVec.ofNat 64 (2 ^ 8 * st.code))
  let d := (s1.readDesc c).getD (s.ctx c).desc
  (s1.cpNote c a 512).onCtx c fun k => { k with state := st, desc := d, part := (d.getD 0 0).toNat % 16 }

/-- Every entry of a new context's barrier table is invalid with GEN 0 (R223). -/
def State.clearBarriers (s : State) (c : Nat) : State :=
  (upFrom 0 256).foldl (fun a i =>
    match s.ctxBit c (((s.ctx c).desc.getD 1 0).toNat + 512 * i) with
    | some b => a.poke b 512 0
    | none => a) s

/-! Strands that a request stops (R270, R300). -/

/-- The strands bound to a context. -/
def State.strandsOf (s : State) (c : Nat) : List Nat :=
  (s.strands.filter fun p => p.2.bind.valid && p.2.bind.ctx == c).map fun p => p.1

/-- Whether a strand is to stop: its context is suspended or leaving, or its launch is pre-empted (R299, R352). -/
def State.wantsStop (s : State) (n : Nat) : Bool :=
  let b := (s.strand n).bind
  let x := s.ctx b.ctx
  b.valid && (x.state == .suspended || x.leaving || ((s.launch b.launch).map Launch.preempted).getD false)

/-- A READY strand none of whose region has committed goes back to its entry (R270). -/
def State.toEntry (s : State) (n : Nat) : State :=
  let s1 := (s.onStrand n fun t => { t with sending := none, chunk := { t.chunk with conflict := none, aborts := 0 } }).abort n
  (s1.ungrant n).onStrand n fun t => { t with hold := .stopped, stopReq := true, chunk := { t.chunk with aborts := 0 } }

/-- A request reaches a strand (R300): it stops at once where it can, or at its next region boundary; one that a handler has is
found again later. -/
def State.stopStrand (s : State) (n : Nat) : State :=
  let t := s.strand n
  if !s.wantsStop n then s.onStrand n fun u => { u with stopReq := false }
  else
    match t.status with
    | .free => s
    | .ready => if t.hold = .stopped then s else if t.entryClean then s.toEntry n else s.onStrand n fun u => { u with stopReq := true }
    | .sleep | .codeWait | .joinWait | .held => s.onStrand n fun u => Strand.rests { u with stopReq := true }
    | .migrated | .trapping | .ending => s.due [.strandPreemption n]

/-- The request of a switch or of the scheduler (R300). -/
def State.requestStop (s : State) (c : Nat) : State :=
  s.due (((s.strandsOf c).filter s.wantsStop).map Event.strandPreemption)

/-- A strand stands no longer: it issues, or waits for the grant that its aborts have asked for (R263). -/
def State.unstop (s : State) (n : Nat) : State :=
  let t := s.strand n
  if 8 ≤ t.chunk.aborts && s.granted != some n && t.status = .ready then
    (s.onStrand n fun u => { u with stopReq := false, hold := .grant }).dueOnce (.soloCommitGrant n)
  else s.onStrand n fun u => { u with stopReq := false, hold := .none }

/-- A stopped strand goes on where it is (R299): one in code wait calls again (R136). -/
def State.goOn (s : State) (n : Nat) : State :=
  let t := s.strand n
  if s.wantsStop n then s
  else
    let s1 := if t.hold = .stopped then s.unstop n else s.onStrand n fun u => { u with stopReq := false }
    match t.status, t.wait with
    | .free, _ => s1.seek n
    | .codeWait, .code d => if t.hold = .stopped then s1.callAgain n d else s1
    | .codeWait, .cold _ =>
      if t.hold = .stopped then s1.onStrand n fun u => { u with status := .ready, wait := .none } else s1
    | _, _ => s1

/-! What a switch saves (R301). -/

/-- The registers of a strand at a region entry that a switch saves (R127, R301); every other one reads zero afterwards. An entry after
`ERET` has the full mask (R125). -/
def State.liveIns (s : State) (n : Nat) : Regs :=
  let r := (s.strand n).regs
  let keep (q : Regs) (code : Nat) : Regs := q.set code (r.get code)
  let q := Regs.zero.loadImage (r.image (if r.entryFull then s.fullMask n else s.regionMask n r.handle r.off))
  let q1 := ([100, 101, 102, 104, 105] ++ r.loops.map fun (l : Loop) => ctrCode l.ctr).foldl keep q
  { r with x := q1.x, v := q1.v, m := q1.m, w := q1.w }

/-- What is saved of a strand: at a region entry its live-in registers, elsewhere all of them (R270). -/
def State.savedStrand (s : State) (n : Nat) : Strand :=
  let t := s.strand n
  if t.status = .ready && t.entryClean then
    let r := s.liveIns n
    { t with regs := r, chunk := Chunk.start r }
  else t

/-- Whether a strand can be saved: free, or stopped with nothing pending but a claim's reply that it sleeps for. -/
def Strand.savable (t : Strand) : Bool :=
  t.status == .free || (t.hold == .stopped && t.pend.all fun p => p.kind == .claim && t.status == .sleep)

/-- Whether a core's engines are idle (R301, R151). -/
def Core.enginesIdle (k : Core) : Bool := k.copyQ.isEmpty && k.matQ.isEmpty && k.port.isEmpty && k.outPort.isEmpty

/-- Whether every core of a launch can be saved: what its strands sent to other packages is acknowledged, and no frame record of theirs
is held back from memory (R130, R263). -/
def State.canSave (s : State) (l : Launch) : Bool :=
  l.cores.all fun c => (s.core c).enginesIdle && (upFrom (4 * c) 4).all fun n =>
    (s.strand n).savable && s.farSettled n && !s.chunkBarred n

/-- The frame records that strands at their entry began with enter memory before the strands are saved (R130, R270). -/
def State.writeKept (s : State) (l : Launch) : State :=
  (l.cores.flatMap fun c => upFrom (4 * c) 4).foldl (fun a n => if (a.strand n).chunk.stores.isEmpty then a else a.commit n) s

/-- A run of core memory and the containers of it that are poisoned, as the save area keeps them: a container's poison is an entry of
length 0. Places are those of the core number `k`, the core's index in its launch. -/
def State.savedRun (s : State) (src dst len : Nat) : List (Nat × Nat × Nat) :=
  (dst, len, s.bits src len) ::
    ((unitsOf 64 src len).filter fun u => SMap.look false s.poison u).map fun u => (64 * u - src + dst, 0, 0)

/-- The mailboxes and reserved slots of a core (R301). -/
def State.savedBitsOf (s : State) (c k : Nat) : List (Nat × Nat × Nat) :=
  s.savedRun (boxBase c) (boxBase k) 512 ++
    ((upFrom 0 16).filter fun i => SMap.look 0 (s.mat c).slots i != 0).flatMap fun i =>
      s.savedRun (slotBase c i) (slotBase k i) 65536

/-- A launch is saved and leaves its cores (R301, R352), inboxes with them; it waits at the front of its list if its context is resident. -/
def State.saveLaunch (s : State) (i : Nat) (l : Launch) : State :=
  let cs := l.cores.zip (upFrom 0 l.cores.length)
  let strands := cs.flatMap fun p => ((upFrom 0 4).filter fun k => (s.strand (4 * p.1 + k)).status != .free).map fun k =>
    (4 * p.2 + k, s.savedStrand (4 * p.1 + k))
  let s1 := s.onLaunch i fun q =>
    { q with away := true, saved := strands, savedCores := cs.map (fun p => (p.2, s.core p.1)), since := s.clk
             savedBits := cs.flatMap fun p => s.savedBitsOf p.1 p.2 }
  let s3 := l.cores.foldl State.dropCore s1
  if (s3.ctx l.ctx).state = .resident then
    s3.onPart l.part fun p => p.setWait l.prio (i :: p.wait l.prio)
  else s3

/-- The launches of a context that are to be saved and are still on their cores. -/
def State.toSave (s : State) (c : Nat) : List Nat :=
  (upFrom 0 s.launches.length).filter fun i =>
    match s.launch i with
    | some l => l.ctx == c && l.preempted && !l.away && !l.ended && !l.killed && !l.cores.isEmpty
    | none => false

/-- `CONTEXT_SAVE`: what can be saved is (R301). -/
def State.saveCtx (s : State) (c : Nat) : State :=
  let s1 := (s.toSave c).foldl (fun a i =>
    match a.launch i with
    | some l => if a.canSave l then (a.writeKept l).saveLaunch i l else a
    | none => a) s
  if (s1.toSave c).isEmpty then (s1.onCtx c fun k => { k with leaving := false }).serveOn (s1.ctx c).part
  else s1.dueOnce (.contextSave (BitVec.ofNat 8 c))

/-! What restoration writes back (R301). -/

/-- A place of index `k`, as `savedBitsOf` gives it, on core `c`; none for a place of another index. -/
def placedOn (k c bit : Nat) : Option Nat :=
  if bit < 2 ^ 46 then (if (bit - 2 ^ 45) / 2 ^ 9 = k then some (bit - boxBase k + boxBase c) else none)
  else if (bit - 2 ^ 47) / 2 ^ 20 = k then some (bit - slotBase k 0 + slotBase c 0) else none

/-- The saved state of a core goes to core `c` (R301): matrix unit with its slots' owners, tables, inbox, stage (in its slots' bind records
too, R348), bits. -/
def State.restoreCore (s : State) (l : Launch) (k c : Nat) : State :=
  match l.savedCores.lookup k with
  | none => s
  | some q =>
    let owners := q.mat.slots.map fun p => (p.1, 4 * c + (p.2 - 1) % 4 + 1)
    let s0 := s.onCore c fun u =>
      { u with mat := { q.mat with slots := owners }, tables := q.tables, stage := q.stage,
               inbox := q.inbox.map (fun f => { f with core := c }) ++ u.inbox }
    let s1 := (upFrom (4 * c) 4).foldl (fun a n => a.onStrand n fun t => { t with bind := { t.bind with stage := q.stage } }) s0
    l.savedBits.foldl (fun a b =>
      match placedOn k c b.1 with
      | some bit => if b.2.1 = 0 then a.setPoison bit 64 else a.poke bit b.2.1 b.2.2
      | none => a) s1

/-- A saved strand goes to slot `n` (R270, R301): a code wait calls again (R136), a hand-back that came meanwhile is made (R245), and
one whose continuation ended otherwise is FREE (R246). The bins of its tile are shared out again (R228, R324). -/
def State.restoreStrand (s : State) (n : Nat) (t : Strand) : State :=
  let s1 := ((s.onStrand n fun u => { t with bind := u.bind }).unstop n).dueOnce (.tailwindBinChange (tileOf n))
  match t.status, t.wait with
  | .codeWait, .code d => s1.callAgain n d
  | .codeWait, _ => s1.onStrand n fun u => { u with status := .ready, wait := .none }
  | .joinWait, .join fp =>
    match t.handed with
    | some ws => s1.handBack n ws
    | none => if t.doomed.contains fp then s1.endTask n true false else s1
  | _, _ => s1

/-- A launch that was away and has cores again (R301, R352). -/
def State.restoreLaunch (s : State) (i : Nat) (l : Launch) : State :=
  let cs := l.cores.zip (upFrom 0 l.cores.length)
  let s1 := cs.foldl (fun a p => a.restoreCore l p.2 p.1) s
  let s2 := s1.onLaunch i fun q => { q with away := false, preempted := false, saved := [], savedCores := [], savedBits := [] }
  let s3 := l.saved.foldl (fun a p =>
    match l.cores[p.1 / 4]? with
    | some c => a.restoreStrand (4 * c + p.1 % 4) p.2
    | none => a) s2
  s3.due (.launchEnd i :: l.cores.map Event.inboxReplay)

/-- `CONTEXT_RESTORE`: the launches that have come back to cores (R301). -/
def State.restoreCtx (s : State) (c : Nat) : State :=
  (upFrom 0 s.launches.length).foldl (fun a i =>
    match a.launch i with
    | some l =>
      if l.ctx = c && l.away && !l.ended && l.cores.any (fun k => (a.core k).held == some i) then a.restoreLaunch i l else a
    | none => a) s

/-! The transitions (R299). -/

/-- The launches of a context that were taken while it belonged to none wait in its partition (R342, R350). -/
def State.rehome (s : State) (c : Nat) : State :=
  (upFrom 0 s.launches.length).foldl (fun a i =>
    match a.launch i with
    | some l =>
      let p := (a.ctx c).part
      if l.ctx = c && l.lease = .waiting && l.part != p then
        ((a.unqueue i).onLaunch i fun k => { k with part := p }).onPart p fun q => q.setWait l.prio (q.wait l.prio ++ [i])
      else a
    | none => a) s

/-- FREE to RESIDENT (R299): with a descriptor that can be read; poison in one that cannot is logged (R319). That a context has been
RESIDENT since reset is kept for R385. -/
def State.takeIn (s : State) (c : Nat) : State :=
  match (s.ctx c).state, s.readDesc c with
  | .free, some _ => ((((s.enterCtx c .resident).clearBarriers c).csrPut 0x1000D 0 1).rehome c).dueOnce .partitionServiceRound
  | .free, none => s.cpNote c (s.csrAt 0x10 c).toNat 512
  | _, _ => s

/-- RESIDENT to SUSPENDED. -/
def State.suspend (s : State) (c : Nat) : State :=
  if (s.ctx c).state = .resident then (s.enterCtx c .suspended).dueOnce (.preemptionRequest (BitVec.ofNat 8 c)) else s

/-- The launches of a context that are away from their cores wait for cores, ahead of those behind them (R352). -/
def State.queueAway (s : State) (c : Nat) : State :=
  let back := (upFrom 0 s.launches.length).filter fun i =>
    match s.launch i with
    | some l => l.ctx == c && l.away && !l.ended
    | none => false
  (back.foldr (fun i a =>
    match a.launch i with
    | some l => a.onPart l.part fun p => p.setWait l.prio (i :: (p.wait l.prio).filter (· != i))
    | none => a) s).serveOn (s.ctx c).part

/-- SUSPENDED or SWAPPED_OUT to RESIDENT: strands go on, and launches that are away wait for cores. -/
def State.comeBack (s : State) (c : Nat) : State :=
  match (s.ctx c).state with
  | .suspended =>
    let s1 := s.enterCtx c .resident
    ((s1.strandsOf c).foldl State.goOn s1).queueAway c
  | .swappedOut => (s.enterCtx c .resident).queueAway c
  | _ => s

/-- Every bound launch of a context is to be saved. -/
def State.preemptAll (s : State) (c : Nat) : State :=
  { s with launches := s.launches.map fun l =>
      if l.ctx = c && !l.cores.isEmpty && !l.away && !l.ended then { l with preempted := true } else l }

/-- RESIDENT or SUSPENDED to SWAPPED_OUT (R299, R301). A launch of it that waits to bind again leaves its list. -/
def State.swapOut (s : State) (c : Nat) : State :=
  match (s.ctx c).state with
  | .resident | .suspended =>
    let away := (upFrom 0 s.launches.length).filter fun i =>
      match s.launch i with
      | some l => l.ctx == c && l.away
      | none => false
    let s1 := away.foldl State.unqueue (s.enterCtx c .swappedOut)
    ((((s1.onCtx c fun k => { k with leaving := true }).preemptAll c).dueOnce (.preemptionRequest (BitVec.ofNat 8 c))).dueOnce
      (.contextSave (BitVec.ofNat 8 c)))
  | _ => s

/-- What teardown does to a launch of the context (R299, R337): one with strands ends once they are FREE. -/
def State.killLaunch (s : State) (i : Nat) (l : Launch) : State :=
  if l.cores.isEmpty || l.away then
    if l.lease = .making || l.lease = .held then
      ((s.unqueue i).onLaunch i fun k => { k with killed := true, lease := .ending }).due [.leaseDrained i]
    else s
  else (s.onLaunch i fun k => { k with killed := true }).dueOnce (.launchEnd i)

/-- Any state but FREE to TEARDOWN (R299): tasks are killed, the claim arena is released (R231), frames are gone. -/
def State.teardown (s : State) (c : Nat) : State :=
  if (s.ctx c).state = .free then s
  else
    let s1 := (s.enterCtx c .teardown).onCtx c fun k => { k with frames := [], leaving := false }
    let s2 := (s1.strandsOf c).foldl State.kill s1
    let s3 := (s2.arenaRelease c).csrPut 0x1003 c 0
    ((upFrom 0 s3.launches.length).foldl (fun a i =>
      match a.launch i with
      | some l => if l.ctx = c && !l.ended then a.killLaunch i l else a
      | none => a) s3).dueOnce (.ctxTeardownComplete (BitVec.ofNat 8 c))

/-- TEARDOWN to FREE, once all strands are FREE and drained and no lease of the context is left (R299, R337). -/
def State.endTeardown (s : State) (c : Nat) : State :=
  if (s.ctx c).state != .teardown then s
  else
    let busy := s.launches.any fun l => l.ctx == c && !l.ended && (l.lease == .making || l.lease == .held || l.lease == .ending)
    if busy || (s.strandsOf c).any (fun n => (s.strand n).status != .free) then s.due [.ctxTeardownComplete (BitVec.ofNat 8 c)]
    else (s.enterCtx c .free).onCtx c fun _ => Ctx.reset

/-- A write of CTXSTATE (R299): what the table does not list leaves the state unchanged. -/
def State.writeCtxState (s : State) (c : Nat) (v : Word) : State :=
  match v.toNat with
  | 1 => if (s.ctx c).state = .free then s.takeIn c else s.comeBack c
  | 2 => s.suspend c
  | 3 => s.swapOut c
  | 4 => s.teardown c
  | _ => s

/-- `PREEMPTION_REQUEST`. R300: A switch or scheduler asks strands to stop. -/
def execPreemptionRequest (ctx : BitVec 8) (s : State) : Host.Outcome State Fault Refusal :=
  .next (s.requestStop ctx.toNat)

/-- `STRAND_PREEMPTION`. R270: A READY strand is saved at its next region boundary. -/
def execStrandPreemption (n : Nat) (s : State) : Host.Outcome State Fault Refusal :=
  .next (s.stopStrand n)

/-- `CONTEXT_SAVE`. R301: After draining, a context's strand and core state is saved. -/
def execContextSave (ctx : BitVec 8) (s : State) : Host.Outcome State Fault Refusal :=
  .next (s.saveCtx ctx.toNat)

/-- `CONTEXT_RESTORE`. R301: Saved state is written back before any strand issues. -/
def execContextRestore (ctx : BitVec 8) (s : State) : Host.Outcome State Fault Refusal :=
  .next (s.restoreCtx ctx.toNat)

/-- `CTX_RESIDENT`. R299: CTXSTATE write making a FREE context resident. -/
def execCtxResident (ctx : BitVec 8) (s : State) : Host.Outcome State Fault Refusal :=
  .next (s.takeIn ctx.toNat)

/-- `CTX_SUSPEND`. R299: CTXSTATE write suspending a resident context. -/
def execCtxSuspend (ctx : BitVec 8) (s : State) : Host.Outcome State Fault Refusal :=
  .next (s.suspend ctx.toNat)

/-- `CTX_RESUME`. R299: CTXSTATE write making a suspended or swapped context resident. -/
def execCtxResume (ctx : BitVec 8) (s : State) : Host.Outcome State Fault Refusal :=
  .next (s.comeBack ctx.toNat)

/-- `CTX_SWAP_OUT`. R299: CTXSTATE write swapping a context out. -/
def execCtxSwapOut (ctx : BitVec 8) (s : State) : Host.Outcome State Fault Refusal :=
  .next (s.swapOut ctx.toNat)

/-- `CTX_TEARDOWN`. R299: CTXSTATE write killing tasks and releasing the claim arena. -/
def execCtxTeardown (ctx : BitVec 8) (s : State) : Host.Outcome State Fault Refusal :=
  .next (s.teardown ctx.toNat)

/-- `CTX_TEARDOWN_COMPLETE`. R299: All strands free and drained: the context becomes FREE. -/
def execCtxTeardownComplete (ctx : BitVec 8) (s : State) : Host.Outcome State Fault Refusal :=
  .next (s.endTeardown ctx.toNat)

end Sys2Proof.Machine
end

