-- ==== Sys2Proof/Machine/Health.lean ====
section
/-! DEFINITION. Hardware errors and health: corrected and uncorrectable errors, verdicts, wear, temperature (R315 to R324, R221). -/

namespace Sys2Proof.Machine

/-! Units (R320, R321). -/

/-- The class of a unit identifier. -/
def unitClass (u : Nat) : Nat := u / 2 ^ 16 % 16

/-- The index of a unit identifier. -/
def unitIndex (u : Nat) : Nat := u % 2 ^ 16

/-- Whether a class is not reserved (R320). -/
def classKnown (c : Nat) : Bool := c ≤ 8 || c == 10 || c == 11

/-- A unit's counts and verdicts. -/
def State.unit (s : State) (u : Nat) : ErrUnit := SMap.look ErrUnit.reset s.units u

/-- Changes a unit. -/
def State.onUnit (s : State) (u : Nat) (f : ErrUnit → ErrUnit) : State :=
  { s with units := SMap.put ErrUnit.reset s.units u (f (s.unit u)) }

/-- The tile that a unit stands in, by class (R320). -/
def unitTile (u : Nat) : Option Nat :=
  let c := unitClass u
  let i := unitIndex u
  if c = 1 then some (i / 16 / 32) else if c = 2 || c = 3 then some (i / 32)
  else if c = 4 then some (i / 16) else if c = 5 || c = 8 || c = 11 then some i else none

/-- The window of R321 in cycles: HWIN is in seconds. -/
def State.hwin (s : State) : Nat := (s.csrAt 0x1823 0).toNat * 800000000

/-- Of the last eight corrected errors, those after `clk` − w (R321). -/
def State.inWindow (s : State) (u : Nat) : Nat := ((s.unit u).times.filter fun t => (s.clk - t).toNat < s.hwin).length

/-- HCOUNT of a unit (R321). -/
def State.hcount (s : State) (u : Nat) : Word :=
  if classKnown (unitClass u) then BitVec.ofNat 64 (2 ^ 32 * (s.unit u).total + s.inWindow u) else 0

/-- HSTAT of a unit (R321). -/
def State.hstat (s : State) (u : Nat) : Word :=
  let e := s.unit u
  if classKnown (unitClass u) then
    BitVec.ofNat 64 ((if e.lasting then 1 else 0) + (if e.logged then 2 else 0) + (if e.uncorr then 4 else 0))
  else 0

/-- A write of HSTAT (R321): each bit written as 1 is cleared, and LOGGED with LASTING. -/
def State.writeHstat (s : State) (u : Nat) (v : Word) : State :=
  s.onUnit u fun e =>
    { e with lasting := e.lasting && !v.getLsbD 0, logged := e.logged && !v.getLsbD 0 && !v.getLsbD 1, uncorr := e.uncorr && !v.getLsbD 2 }

/-! Corrected errors (R321, R322). -/

/-- A lasting link leaves every route entry that names it (R322, R387). -/
def State.dropLink (s : State) (link : Nat) : State :=
  (upFrom 0 1024).foldl (fun a p =>
    let e := (a.csrAt 0x1311 p).toNat
    let e1 := if e % 2 ^ 5 = link then setBitsOf e 0 5 31 else e
    let e2 := if bitsOf e1 8 5 = link then setBitsOf e1 8 5 31 else e1
    a.csrPut 0x1311 p (BitVec.ofNat 64 (if e.testBit 15 then e2 else e))) s

/-- What a lasting verdict makes the management complex do (R322): a core or tile goes out of service, a link out of the route
table. -/
def State.advise (s : State) (u : Nat) : State :=
  let c := unitClass u
  let i := unitIndex u
  if c = 1 then s.onCore (i / 16) fun k => { k with outOfService := true }
  else if c = 2 || c = 3 then s.onCore i fun k => { k with outOfService := true }
  else if c = 4 then s.onTile (i / 16) fun t => { t with outOfService := true }
  else if c = 5 || c = 8 then s.onTile i fun t => { t with outOfService := true }
  else if c = 6 then s.dropLink i
  else s

/-- A corrected error at a unit (R321): counted, and lasting when the eighth most recent one lies within the window. The first such
verdict logs kind 7, and for a pseudo-channel kind 8 (R322). -/
def State.corrected (s : State) (u addr : Nat) : State :=
  if 8 < unitClass u then s
  else
    let e := s.unit u
    let times := (s.clk :: e.times).take 8
    let s1 := s.onUnit u fun e => { e with total := min (2 ^ 32 - 1) (e.total + 1), times := times }
    match times[7]? with
    | some t =>
      if (s.clk - t).toNat < s.hwin then
        let hbm := unitClass u == 0
        let place : Option Nat := if hbm then some addr else none
        let word : Word := if hbm then physWord addr else 0
        let s2 := if e.lasting then s1
          else s1.logError 7 s1.freeSev u none (unitTile u) word place (s.csrAt 0x1823 0).toNat
        let s3 := if e.lasting || !hbm then s2
          else s2.logError 8 s2.freeSev u none none (physWord (addr / 2 ^ 19 * 2 ^ 19)) place (2 ^ 19)
        (s3.onUnit u fun e => { e with lasting := true, logged := true }).advise u
      else s1
    | none => s1

/-! Uncorrectable errors (R315, R316, R317, R321). -/

/-- An uncorrectable error (R315, R316, R321): the containers of the 256-bit sector of HBM, or the container of another memory, are
poisoned, it is logged once, and UNCORR of its unit is set. One in an interpolation table empties the table; one in an accumulator
element sets its NaN bit (R317); one that the write of a trap frame meets fails that write (R298). -/
def State.uncorrectable (s : State) (u bit : Nat) (src : ErrSource) : State :=
  let s1 := s.onUnit u fun e => { e with uncorr := true }
  let c := unitIndex u
  let sector (kind : Nat) : State :=
    let lo := if inHbm bit then bit / 256 * 256 else bit / 64 * 64
    let place : Option Nat := if inHbm bit then some lo else none
    (s1.setPoison lo (if inHbm bit then 256 else 64)).logError kind 2 u none (unitTile u) (if inHbm bit then physWord lo else windowWord s.pkg lo) place 0
  match src with
  | .scrubber => sector 9
  | .access => sector 1
  | .frame n => (sector 1).onStrand n fun t => { t with frameErr := true }
  | .prefetch =>
    let lo := bit / 256 * 256
    let code : Nat := ((s.objs.findSome? fun p =>
      if p.2.base ≤ bit && bit < p.2.base + 32 * p.2.hotLen then some (p.1 * 2 ^ 24 + (bit - p.2.base) / 32) else none).getD 0)
    (s1.setPoison lo 256).logError 2 2 u none (unitTile u) (physWord lo) (some lo) code
  | .table n =>
    (s1.onCore c fun k => { k with tables := SMap.put none k.tables n.toNat none }).logError 1 2 u none (unitTile u) 0 none 0
  | .acc a elt =>
    let set (q : Acc) : Acc := { q with nan := SMap.put false q.nan elt true }
    (s1.onCore c fun k => { k with mat := if a then { k.mat with acc1 := set k.mat.acc1 } else { k.mat with acc0 := set k.mat.acc0 } }).logError
      1 2 u none (unitTile u) 0 none 0

/-- An uncorrectable error in a strand's own state (R317): the open chunk of a strand that runs is aborted and runs again where the
checkpoint is intact, which counts as corrected; otherwise the task ends with `MACHINE_CHECK`, and the error is one of the register file
(R321). A trap that was to be delivered is not (R311). -/
def State.stateError (s : State) (n : Nat) (recoverable : Bool) : State :=
  let t := s.strand n
  let u := 3 * 2 ^ 16 + coreOf n
  match t.status with
  | .free | .ending => s
  | st =>
    if (st = .ready || st = .trapping) && recoverable then (s.replay n).corrected u 0
    else
      let s1 : State := { s with agenda := s.agenda.filter fun e => !e.delivers n }
      let s2 := ((s1.onUnit u fun e => { e with uncorr := true }).logError 1 2 u (if isLantern n then none else some (s.ctxOf n))
        (some (tileOf n)) 0 none 0).untrap n
      (s2.leaveReqs n).raise n 0xC1 ((s.textWord t.regs.handle t.regs.off).setWidth 64) 0

/-- The scrubber reads one sector of HBM (R315): the poison that it finds is logged with kind 9. -/
def State.scrub (s : State) (bit : Nat) : State :=
  let lo := bit / 256 * 256
  match s.poisonIn lo 256 with
  | some _ => s.logError 9 2 (s.unitOfBit lo) none none (physWord lo) (some lo) 0
  | none => s

/-! Wear (R323), barometer (R221), temperature (R324, R402). -/

/-- The alert level that firmware holds, in hours (R323). -/
def State.wearAlert (s : State) : Nat := (s.csrAt 0x1000A 0).toNat

/-- The hourly estimate of a unit of classes 6, 10 and 11 (R323): the model of wear is free, its layout is not, and it exists after 72
hours. -/
def State.updateWear (s : State) (u : Nat) : State :=
  let c := unitClass u
  if c != 6 && c != 10 && c != 11 then s
  else
    let v := Config.wear u s.clk &&& 0x7FFFFFFFFFFFFFFC
    let on := decide (72 * 3600 * 800000000 ≤ s.clk.toNat)
    let w : Word := if on then v ||| 0x8000000000000000 else 0
    let mid := bitsOf w.toNat 21 19
    let alert := on && decide (mid < s.wearAlert) && !(s.unit u).alerted
    let s1 := s.onUnit u fun e => { e with wear := w, alerted := e.alerted || alert }
    if alert then s1.logError 11 s1.freeSev u none (unitTile u) 0 none mid else s1

/-- The taper cores that a limit bears on. -/
def limitCores (tile : Nat) : List Nat := if tile < 96 then upFrom (32 * tile) 31 else (upFrom 0 3072).filter isTaper

/-- Tailwind is shared out again on every tile. -/
def State.tailwinds (s : State) : State := (upFrom 0 96).foldl (fun a t => a.dueOnce (.tailwindBinChange t)) s

/-- A limit is reached (R324): LIMITING is set, tailwind is withheld, and the clocks of running cores come down by bins. -/
def State.reachLimit (s : State) (tile : Nat) : State :=
  let s1 := (s.onTile tile fun t => { t with limiting := true }).tailwinds
  ((limitCores tile).filter fun c => !s.quiet c).foldl (fun a c => a.dueOnce (.throttleBinStep c)) s1

/-- One bin of 50 MHz, to no less than 400 MHz (R324): eight bins below the base clock. -/
def State.throttleStep (s : State) (c : Nat) : State :=
  if s.limited c && (s.core c).throttle < 8 then
    (s.onCore c fun k => { k with throttle := k.throttle + 1 }).dueOnce (.throttleBinStep c)
  else s

/-- A limit stands no longer (R324). -/
def State.clearLimit (s : State) (tile : Nat) : State :=
  let s1 := s.onTile tile fun t => { t with limiting := false }
  ((limitCores tile).foldl (fun a c => if a.limited c then a else a.onCore c fun k => { k with throttle := 0 }) s1).tailwinds

/-- A junction temperature of 110 °C (R402): the package halts, BOOTSTAT is 0x1E, the links are dropped. -/
def State.thermalStop (s : State) : State :=
  { (((s.csrPut 0x1400 0 0x1E).csrPut 0x1312 0 0).csrPut 0x10008 0 0) with halted := true, links := [] }

/-- `THERMAL_LIMIT`. R324: A tile or package limit sets LIMITING and withholds tailwind. -/
def execThermalLimit (tile : Nat) (s : State) : Host.Outcome State Fault Refusal :=
  .next (s.reachLimit tile)

/-- `THERMAL_LIMIT_CLEARED`. R324: Tile temperature and package power fall back below their limits, so LIMITING clears and throttling and the withholding of tailwind end. -/
def execThermalLimitCleared (tile : Nat) (s : State) : Host.Outcome State Fault Refusal :=
  .next (s.clearLimit tile)

/-- `THROTTLE_BIN_STEP`. R324: Clocks drop one 50 MHz bin until the condition clears. -/
def execThrottleBinStep (core : Nat) (s : State) : Host.Outcome State Fault Refusal :=
  .next (s.throttleStep core)

/-- `THERMAL_HALT`. R402: 110 °C halts the package within 10 µs. -/
def execThermalHalt (s : State) : Host.Outcome State Fault Refusal :=
  .next s.thermalStop

/-- `CORRECTED_ERROR`. R321: A corrected error is counted and judged transient or lasting. -/
def execCorrectedError (unit : Nat) (addr : Nat) (s : State) : Host.Outcome State Fault Refusal :=
  .next (s.corrected unit addr)

/-- `UNCORRECTABLE_ERROR`. R315: An uncorrectable error poisons containers and is logged. -/
def execUncorrectableError (unit : Nat) (bit : Nat) (src : ErrSource) (s : State) : Host.Outcome State Fault Refusal :=
  .next (s.uncorrectable unit bit src)

/-- `STRAND_STATE_ERROR`. R317: An error in strand state replays the chunk or ends the task. -/
def execStrandStateError (n : Nat) (recoverable : Bool) (s : State) : Host.Outcome State Fault Refusal :=
  .next (s.stateError n recoverable)

/-- `PATROL_SCRUB`. R315: The scrubber reads every HBM sector each 24 hours. -/
def execPatrolScrub (bit : Nat) (s : State) : Host.Outcome State Fault Refusal :=
  .next ((s.scrub bit).due [.patrolScrub (if bit + 256 < 1536 * 2 ^ 33 then bit / 256 * 256 + 256 else 0)])

/-- `BAROMETER_DECAY`. R221: Every 4,096 cycles each barometer counter falls by 1. -/
def execBarometerDecay (tile : Nat) (s : State) : Host.Outcome State Fault Refusal :=
  if s.past (s.csrAt 0x10005 tile) 4096 then
    .next (((s.onTile tile fun t =>
      { t with baro := t.baro.foldl (fun m p => SMap.put 0 m p.1 (p.2 - 1)) [] }).csrPut 0x10005 tile s.clk).due [.barometerDecay tile])
  else .next (s.due [.barometerDecay tile])

/-- `WEAR_UPDATE`. R323: Hourly update of remaining-life estimates. -/
def execWearUpdate (unit : Nat) (s : State) : Host.Outcome State Fault Refusal :=
  if s.past (s.csrAt 0x10006 unit) (3600 * 800000000) then
    .next (((s.updateWear unit).csrPut 0x10006 unit s.clk).due [.wearUpdate unit])
  else .next (s.due [.wearUpdate unit])

end Sys2Proof.Machine
end

