-- ==== Sys2Proof/Machine/Boot.lean ====
section
/-! DEFINITION. Bring-up, identity and attestation, loss of supply (R267, R363, R394 to R402). -/

namespace Sys2Proof.Machine

/-! Fuses and images (R396, R397). -/

/-- The count of set bits of ROLLBACK. -/
def rollbackOf (fuses : BitVec 512) : Nat := countBits (fuses.toNat / 2 ^ 160 % 2 ^ 64) 64

/-- SM3 of the body of a firmware image. -/
def fwHash (f : FwImage) : Digest := sm3 f.body

/-- Whether the boot ROM accepts a firmware image (R397): its key is the one that ROOTHASH names, its signature verifies over SM3 of its
body, and its version is not refused. -/
def imageAccepted (f : FwImage) (fuses : BitVec 512) : Bool :=
  (keyDigest f.key).toNat / 2 ^ 130 == bitsOf fuses.toNat 2 126 &&
  sm2Verify f.key.1 f.key.2 (digestBytes (fwHash f)) f.sig.1 f.sig.2 && decide (rollbackOf fuses ≤ f.version)

/-- The image in force: A, or B if A fails (R394, step 2). -/
def bootImage (p : PowerUp) (fuses : BitVec 512) : Option FwImage :=
  if imageAccepted p.imageA fuses then some p.imageA else if imageAccepted p.imageB fuses then some p.imageB else none

/-- The personality in force (R375, R396): a blown PERSOVR overrides the strap. -/
def rootComplex (p : PowerUp) (fuses : BitVec 512) : Bool := if fuses.getLsbD 1 then fuses.getLsbD 0 else p.strap

/-! The capability block and the identity key (R398, R399). -/

/-- The chip-model identifier (R358): the stepping class is that of the fuses. -/
def chipId (fuses : BitVec 512) : Nat := 0x4A960000 + 2 ^ 8 * bitsOf fuses.toNat 136 8

/-- The identity private key (R396). -/
def idPrivate (fuses : BitVec 512) : Nat := fuses.toNat / 2 ^ 256

/-- The containers of the capability block (R398). -/
def capBlock (p : PowerUp) (fuses : BitVec 512) (f : FwImage) : List Word :=
  [BitVec.ofNat 64 (chipId fuses + 2 ^ 32 * (f.version % 2 ^ 32)), BitVec.ofNat 64 p.tiles.toNat,
   BitVec.ofNat 64 (p.tiles.toNat / 2 ^ 64), BitVec.ofNat 64 (p.hbms.toNat + 2 ^ 16 * p.links.toNat + 2 ^ 40 * p.ports.toNat),
   BitVec.ofNat 64 (if rootComplex p fuses then 1 else 0), 0, 0, 0]

/-- Writes consecutive registers of the package. -/
def State.csrRun (s : State) (num : Nat) (ws : List Word) : State :=
  (ws.zip (upFrom 0 ws.length)).foldl (fun a p => a.csrPut (num + p.2) 0 p.1) s

/-- The four containers of a digest, lowest 64 bits first. -/
def digestWords (d : Digest) : List Word := (upFrom 0 4).map fun i => d.extractLsb' (64 * i) 64

/-! Power-on (R394). -/

/-- A package whose bring-up fails: halted with a BOOTSTAT. -/
def State.bootHalt (s : State) (code : Word) : State := { s.csrPut 0x1400 0 code with halted := true }

/-- The package as the rails come up: everything at its reset value, and what lies outside it as it was. The fuses are the package's own, and as
they are found at the first power-on (R396, R397). -/
def State.cold (s : State) (p : PowerUp) : State :=
  { State.reset with
    fuses := if s.power = noPower then p.fuses else s.fuses, power := p, codeKey := s.codeKey, checkpoint := s.checkpoint,
    steps := s.steps, out := s.out }

/-- The units with a wear estimate (R323). -/
def wearUnits : List Nat :=
  (upFrom 0 24).map (6 * 2 ^ 16 + ·) ++ (upFrom 0 16).map (10 * 2 ^ 16 + ·) ++ (upFrom 0 96).map (11 * 2 ^ 16 + ·)

/-- The step of the boot ROM that BOOTSTAT numbers is done: the next one is under way. -/
def State.bootNext (s : State) (step : Word) : State := (s.csrPut 0x1400 0 step).due [.powerOn s.power]

/-- Step 7 (R394, R398, R399): the capability block and the identity key are published, and the package is ready. -/
def State.publish (s : State) (f : FwImage) : State :=
  let key := sm2Public (idPrivate s.fuses)
  let s1 := (s.csrPut 0x1200 0 (BitVec.ofNat 64 (chipId s.fuses))).csrRun 0x1401 (capBlock s.power s.fuses f)
  let s2 := (s1.csrRun 0x1410 (digestWords key.1 ++ digestWords key.2)).csrPut 0x1400 0 0xF
  s2.due (.patrolScrub 0 :: (upFrom 0 96).map Event.barometerDecay ++ wearUnits.map Event.wearUpdate)

/-- The next step of the boot ROM (R394): the steps after the first go by what was found at it. A power-on at any other time is a power
cycle, and step 1 begins with what it finds (R402). -/
def State.powerUp (s : State) (p : PowerUp) : State :=
  let q := s.power
  match (s.csrAt 0x1400 0).toNat with
  | 1 => if q.fusesOk then s.bootNext 2 else s.bootHalt 0x11
  | 2 => if (bootImage q s.fuses).isSome then s.bootNext 3 else s.bootHalt 0x12
  | 3 => s.bootNext 4
  | 4 => (((s.csrPut 0x1312 0 (q.links.setWidth 64)).csrPut 0x10008 0 (q.ports.setWidth 64))).bootNext 5
  | 5 =>
    if q.hbms = 0 || q.tiles = 0 then s.bootHalt 0x13
    else ((upFrom 0 96).foldl (fun a t =>
      if q.tiles.getLsbD t then a else a.onTile t fun k => { k with outOfService := true }) s).bootNext 6
  | 6 =>
    match bootImage q s.fuses with
    | some f => State.publish { s with codeKey := s.codeKey + 1 } f
    | none => s.bootHalt 0x12
  | _ => (s.cold p).bootNext 1

/-- Loss of supply (R267, R402): the package stops, and what its memories and registers held is gone; the fuses stay. -/
def State.powerLoss (s : State) : State :=
  { State.reset with
    fuses := s.fuses, power := s.power, codeKey := s.codeKey, checkpoint := s.checkpoint, steps := s.steps, out := s.out, halted := true }

/-- Whether bring-up is behind the package: it is ready, or halted since for its temperature (R394, R402). -/
def State.booted (s : State) : Bool := s.csrAt 0x1400 0 == 0xF || s.csrAt 0x1400 0 == 0x1E

/-- Firmware blows ROLLBACK bits up to its own version, after bring-up (R397). -/
def State.blowFuses (s : State) (count : Nat) : State :=
  let own := (s.csrAt 0x1401 0).toNat / 2 ^ 32
  let n := min 64 (max (rollbackOf s.fuses) (min count own))
  if !s.booted then s
  else { s with fuses := BitVec.ofNat 512 (setBitsOf s.fuses.toNat 160 64 (2 ^ n - 1)) }

/-! Attestation (R400, R401). -/

/-- ATTSTAT. -/
def State.attstat (s : State) : Word := s.csrAt 0x1425 0

/-- A nonce container is written through the CSRs or BAR0 (R401): ignored while a report is made; otherwise ATTSTAT reads 0 and containers 7
to 31 are cleared. Who wrote each container is kept. -/
def State.writeNonce (s : State) (i : Nat) (csr : Bool) (v : Word) : State :=
  if s.attstat = 1 then s
  else ((((s.csrPut 0x1425 0 0).csrPut 0x1427 0 0).csrRun 0x1428 ((upFrom 0 24).map fun _ => 0)).csrPut (0x1420 + i) 0 v).csrPut 0x1000E i
    (if csr then 2 else 1)

/-- Whether the nonce that stands has containers of both requesters. -/
def State.nonceMixed (s : State) : Bool :=
  let who := (upFrom 0 4).map fun i => s.csrAt 0x1000E i
  who.contains 1 && who.contains 2

/-- ATTREQ is written (R400, R401, R395): 1 starts a report, unless one is being made or the package is not ready. A nonce that two requesters
have written is not reported on (DESIGN CHOICE among the outcomes of R401, log 98). -/
def State.requestReport (s : State) (v : Word) : State :=
  if v != 1 || s.attstat = 1 || !s.booted || s.nonceMixed then s
  else (s.csrPut 0x1425 0 1).due [.attestationReportReady]

/-- The bytes of containers, lowest first. -/
def wordBytes (ws : List Word) : List Byte := ws.flatMap fun w => (upFrom 0 8).map fun i => w.extractLsb' (8 * i) 8

/-- The report stands, signed by the identity key over SM3 of containers 8 to 24, and ATTSTAT reads 2 (R400). -/
def State.makeReport (s : State) : State :=
  if s.attstat != 1 then s
  else
    let hash : Digest := ((bootImage s.power s.fuses).map fwHash).getD 0
    let id := idPrivate s.fuses
    let body := (upFrom 0 4).map (fun i => s.csrAt (0x1420 + i) 0) ++ [s.csrAt 0x1401 0] ++ digestWords hash ++
      digestWords (keyDigest s.packageKey) ++ digestWords (keyDigest (sm2Public id))
    let sig := sm2Sign id (Config.sm2Nonce s.steps) (digestBytes (sm3 (wordBytes body)))
    let r := digestWords sig.1
    let t := digestWords sig.2
    (((s.csrRun 0x1428 (body ++ r ++ t.take 3)).csrPut 0x1427 0 (t.getD 3 0)).csrPut 0x1425 0 2).send (.signature sig.1 sig.2)

/-- `ATTESTATION_NONCE_WRITE`. R401: A nonce write clears the report and ATTSTAT. -/
def execAttestationNonceWrite (i : BitVec 3) (v : Word) (s : State) : Host.Outcome State Fault Refusal :=
  .next (s.writeNonce (i.toNat % 4) (i.getLsbD 2) v)

/-- `ATTREQ`. R400: Starts making an attestation report. -/
def execAttreq (v : Word) (s : State) : Host.Outcome State Fault Refusal :=
  .next (s.requestReport v)

/-- `ATTESTATION_REPORT_READY`. R400: The signed report stands and ATTSTAT reads 2. -/
def execAttestationReportReady (s : State) : Host.Outcome State Fault Refusal :=
  .next s.makeReport

/-- `POWER_ON`. R394: Boot ROM runs the bring-up sequence to readiness. -/
def execPowerOn (p : PowerUp) (s : State) : Host.Outcome State Fault Refusal :=
  .next (s.powerUp p)

/-- `POWER_FAILURE`. R267: Loss of supply, after which completed writes without Flush or FUA may be lost, HBM contents are gone and a fuse being blown is left old or new. -/
def execPowerFailure (s : State) : Host.Outcome State Fault Refusal :=
  .next s.powerLoss

/-- `ROLLBACK_FUSE_BLOW`. R397: After bring-up, firmware blows ROLLBACK bits up to its own version, which raises the minimum firmware version that will be accepted. -/
def execRollbackFuseBlow (count : Nat) (s : State) : Host.Outcome State Fault Refusal :=
  .next (s.blowFuses count)

end Sys2Proof.Machine
end

