-- ==== Sys2Proof/Machine/Control.lean ====
section
/-! DEFINITION. Control flow: branches, hardware loops, walk registers, calls by digest, regions and the small forms of
majors 0x18 to 0x1D (R114 to R138). -/

namespace Sys2Proof.Machine

/-- The word a branch of `off` words goes to (R55). -/
def State.target (s : State) (off : Int) : Int := (s.me.regs.off : Int) + off

/-- A branch (R114 to R116): taken, to a target in the text; not taken, to the next word. -/
def branch (taken : Bool) (off : Int) (len : Nat) (s : State) : Host.Outcome State Fault Refusal :=
  s.answer (if taken then (s.inText (s.target off)).map fun t => s.doneAt t else .ok (s.done len))

/-- `BWEND` (R115): an unbound walk register traps (R121). -/
def branchWend (a : Sel) (b : Word) (off : Int) (len : Nat) (s : State) : Host.Outcome State Fault Refusal :=
  match a with
  | .w n =>
    match s.boundWalk n with
    | .ok w => branch (w.ends &&& b.setWidth 3 != 0) off len s
    | .error e => .next (s.stop e)
  | _ => .next (s.stop (s.illegal 6))

/-- The count of a `LOOP` and the walk register that governs it (R117). -/
def State.loopCount (s : State) (cnt : Sel) : Res (Nat × Option (BitVec 3)) :=
  match cnt with
  | .w n => (s.boundWalk n).map fun w => (w.elements, some n)
  | c => .ok ((s.rd c).toNat, none)

/-- A `LOOP_SHAPE` trap: the case, and the end of the loop it concerns (R120). -/
def loopShape (case_ stop : Nat) : Stop := .trap 0x04 (BitVec.ofNat 64 stop) (BitVec.ofNat 64 case_)

/-- `LOOP` (R117) of `len` words. -/
def loopOp (ctr : BitVec 2) (n : State → Res (Nat × Option (BitVec 3))) (body : BitVec 15) (len : Nat) (s : State) : Res State := do
  let r := s.me.regs
  let start := r.off + len
  let stop := start + body.toNat + 1
  ensure (stop ≤ s.textLen r.handle) (s.trap 0x43 0)
  match r.loops.find? fun l => l.ctr == ctr with
  | some l => .error (loopShape 2 l.stop)
  | none =>
    match r.loops.head? with
    | some l => ensure (stop ≤ l.stop) (loopShape 3 l.stop)
    | none => .ok ()
    let (k, walk) ← n s
    if k = 0 then .ok ((s.onRegs fun r => r.set (ctrCode ctr) 0).doneAt stop)
    else
      .ok (((s.onMe fun t => t.counted).onRegs fun r =>
        { (r.set (ctrCode ctr) (BitVec.ofNat 64 k)) with
          loops := { ctr := ctr, start := start, stop := stop, walk := walk, finished := false } :: r.loops
          off := start }).issued)

/-- A count of a walk dimension, or `WALK_STATE` with the number of its field (R122). -/
def State.walkCount (s : State) (v : Word) (field : Nat) : Res Nat :=
  if 1 ≤ v.toNat && v.toNat ≤ 2 ^ 20 then .ok v.toNat else .error (s.trap 0x05 field)

/-- Binds a walk register (R122). -/
def bindWalk (w : BitVec 3) (b s0 : Word) (n0 : Res Nat) (s1 : Word) (n1 : Res Nat) (s2 : Word) (n2 : Res Nat)
    (s : State) : Host.Outcome State Fault Refusal :=
  s.answer do
    let k0 ← n0
    let k1 ← n1
    let k2 ← n2
    let v : Walk := { bound := true, base := b, s0 := s0, s1 := s1, s2 := s2, n0 := k0, n1 := k1, n2 := k2, i0 := 0, i1 := 0,
                      i2 := 0, ends := 0 }
    .ok ((s.onRegs fun r => { r with w := SMap.put Walk.unbound r.w w.toNat v }).done 3)

/-- A call by digest once its chunk has ended (R130). -/
def State.callBy (s : State) (d : Res Digest) : Res State := do
  s.endChunk
  let d ← d
  let base ← s.checkFrame 0
  .ok (s.call d base)

/-- `BR`. R114: Unconditional branch by word offset. -/
def execBr (off : BitVec 24) (s : State) : Host.Outcome State Fault Refusal :=
  branch true off.toInt 1 s

/-- `BEQ`. R115: Branch if equal, short offset. -/
def execBeq (a : Sel) (b : Sel) (off : BitVec 7) (s : State) : Host.Outcome State Fault Refusal :=
  branch (s.rd a == (s.rd b)) off.toInt 1 s

/-- `BEQ_EXT`. R115: BEQ with a 32-bit offset. -/
def execBeqExt (a : Sel) (b : Sel) (off : BitVec 32) (s : State) : Host.Outcome State Fault Refusal :=
  branch (s.rd a == (s.rd b)) off.toInt 3 s

/-- `BEQ_LIT`. R115: BEQ with a literal b. -/
def execBeqLit (a : Sel) (b : Word) (off : BitVec 7) (s : State) : Host.Outcome State Fault Refusal :=
  branch (s.rd a == b) off.toInt 3 s

/-- `BEQ_EXT_LIT`. R115: BEQ with 32-bit offset and literal b. -/
def execBeqExtLit (a : Sel) (b : Word) (off : BitVec 32) (s : State) : Host.Outcome State Fault Refusal :=
  branch (s.rd a == b) off.toInt 5 s

/-- `BNE`. R115: Branch if not equal. -/
def execBne (a : Sel) (b : Sel) (off : BitVec 7) (s : State) : Host.Outcome State Fault Refusal :=
  branch (s.rd a != (s.rd b)) off.toInt 1 s

/-- `BNE_EXT`. R115: BNE with a 32-bit offset. -/
def execBneExt (a : Sel) (b : Sel) (off : BitVec 32) (s : State) : Host.Outcome State Fault Refusal :=
  branch (s.rd a != (s.rd b)) off.toInt 3 s

/-- `BNE_LIT`. R115: BNE with a literal b. -/
def execBneLit (a : Sel) (b : Word) (off : BitVec 7) (s : State) : Host.Outcome State Fault Refusal :=
  branch (s.rd a != b) off.toInt 3 s

/-- `BNE_EXT_LIT`. R115: BNE with 32-bit offset and literal b. -/
def execBneExtLit (a : Sel) (b : Word) (off : BitVec 32) (s : State) : Host.Outcome State Fault Refusal :=
  branch (s.rd a != b) off.toInt 5 s

/-- `BLT`. R115: Branch if signed less. -/
def execBlt (a : Sel) (b : Sel) (off : BitVec 7) (s : State) : Host.Outcome State Fault Refusal :=
  branch ((s.rd a).slt (s.rd b)) off.toInt 1 s

/-- `BLT_EXT`. R115: BLT with a 32-bit offset. -/
def execBltExt (a : Sel) (b : Sel) (off : BitVec 32) (s : State) : Host.Outcome State Fault Refusal :=
  branch ((s.rd a).slt (s.rd b)) off.toInt 3 s

/-- `BLT_LIT`. R115: BLT with a literal b. -/
def execBltLit (a : Sel) (b : Word) (off : BitVec 7) (s : State) : Host.Outcome State Fault Refusal :=
  branch ((s.rd a).slt b) off.toInt 3 s

/-- `BLT_EXT_LIT`. R115: BLT with 32-bit offset and literal b. -/
def execBltExtLit (a : Sel) (b : Word) (off : BitVec 32) (s : State) : Host.Outcome State Fault Refusal :=
  branch ((s.rd a).slt b) off.toInt 5 s

/-- `BGE`. R115: Branch if signed greater or equal. -/
def execBge (a : Sel) (b : Sel) (off : BitVec 7) (s : State) : Host.Outcome State Fault Refusal :=
  branch ((s.rd b).sle (s.rd a)) off.toInt 1 s

/-- `BGE_EXT`. R115: BGE with a 32-bit offset. -/
def execBgeExt (a : Sel) (b : Sel) (off : BitVec 32) (s : State) : Host.Outcome State Fault Refusal :=
  branch ((s.rd b).sle (s.rd a)) off.toInt 3 s

/-- `BGE_LIT`. R115: BGE with a literal b. -/
def execBgeLit (a : Sel) (b : Word) (off : BitVec 7) (s : State) : Host.Outcome State Fault Refusal :=
  branch ((b).sle (s.rd a)) off.toInt 3 s

/-- `BGE_EXT_LIT`. R115: BGE with 32-bit offset and literal b. -/
def execBgeExtLit (a : Sel) (b : Word) (off : BitVec 32) (s : State) : Host.Outcome State Fault Refusal :=
  branch ((b).sle (s.rd a)) off.toInt 5 s

/-- `BLTU`. R115: Branch if unsigned less. -/
def execBltu (a : Sel) (b : Sel) (off : BitVec 7) (s : State) : Host.Outcome State Fault Refusal :=
  branch ((s.rd a).ult (s.rd b)) off.toInt 1 s

/-- `BLTU_EXT`. R115: BLTU with a 32-bit offset. -/
def execBltuExt (a : Sel) (b : Sel) (off : BitVec 32) (s : State) : Host.Outcome State Fault Refusal :=
  branch ((s.rd a).ult (s.rd b)) off.toInt 3 s

/-- `BLTU_LIT`. R115: BLTU with a literal b. -/
def execBltuLit (a : Sel) (b : Word) (off : BitVec 7) (s : State) : Host.Outcome State Fault Refusal :=
  branch ((s.rd a).ult b) off.toInt 3 s

/-- `BLTU_EXT_LIT`. R115: BLTU with 32-bit offset and literal b. -/
def execBltuExtLit (a : Sel) (b : Word) (off : BitVec 32) (s : State) : Host.Outcome State Fault Refusal :=
  branch ((s.rd a).ult b) off.toInt 5 s

/-- `BGEU`. R115: Branch if unsigned greater or equal. -/
def execBgeu (a : Sel) (b : Sel) (off : BitVec 7) (s : State) : Host.Outcome State Fault Refusal :=
  branch ((s.rd b).ule (s.rd a)) off.toInt 1 s

/-- `BGEU_EXT`. R115: BGEU with a 32-bit offset. -/
def execBgeuExt (a : Sel) (b : Sel) (off : BitVec 32) (s : State) : Host.Outcome State Fault Refusal :=
  branch ((s.rd b).ule (s.rd a)) off.toInt 3 s

/-- `BGEU_LIT`. R115: BGEU with a literal b. -/
def execBgeuLit (a : Sel) (b : Word) (off : BitVec 7) (s : State) : Host.Outcome State Fault Refusal :=
  branch ((b).ule (s.rd a)) off.toInt 3 s

/-- `BGEU_EXT_LIT`. R115: BGEU with 32-bit offset and literal b. -/
def execBgeuExtLit (a : Sel) (b : Word) (off : BitVec 32) (s : State) : Host.Outcome State Fault Refusal :=
  branch ((b).ule (s.rd a)) off.toInt 5 s

/-- `BWEND`. R115: Branch if selected walk end flags are set. -/
def execBwend (a : Sel) (b : Sel) (off : BitVec 7) (s : State) : Host.Outcome State Fault Refusal :=
  branchWend a (s.rd b) off.toInt 1 s

/-- `BWEND_EXT`. R115: BWEND with a 32-bit offset. -/
def execBwendExt (a : Sel) (b : Sel) (off : BitVec 32) (s : State) : Host.Outcome State Fault Refusal :=
  branchWend a (s.rd b) off.toInt 3 s

/-- `BWEND_LIT`. R115: BWEND with a literal flag mask. -/
def execBwendLit (a : Sel) (b : Word) (off : BitVec 7) (s : State) : Host.Outcome State Fault Refusal :=
  branchWend a b off.toInt 3 s

/-- `BWEND_EXT_LIT`. R115: BWEND with 32-bit offset and literal mask. -/
def execBwendExtLit (a : Sel) (b : Word) (off : BitVec 32) (s : State) : Host.Outcome State Fault Refusal :=
  branchWend a b off.toInt 5 s

/-- `BNZ`. R115: Branch if a is nonzero. -/
def execBnz (a : Sel) (off : BitVec 7) (s : State) : Host.Outcome State Fault Refusal :=
  branch (s.rd a != 0) off.toInt 1 s

/-- `BNZ_EXT`. R115: BNZ with a 32-bit offset. -/
def execBnzExt (a : Sel) (off : BitVec 32) (s : State) : Host.Outcome State Fault Refusal :=
  branch (s.rd a != 0) off.toInt 3 s

/-- `LOOP`. R117: Starts a zero-overhead hardware loop. -/
def execLoop (ctr : BitVec 2) (cnt : Sel) (body : BitVec 15) (s : State) : Host.Outcome State Fault Refusal :=
  s.answer (loopOp ctr (fun t => t.loopCount cnt) body 1 s)

/-- `LOOP_LIT`. R117: LOOP with a literal count. -/
def execLoopLit (ctr : BitVec 2) (cnt : Word) (body : BitVec 15) (s : State) : Host.Outcome State Fault Refusal :=
  s.answer (loopOp ctr (fun _ => .ok (cnt.toNat, none)) body 3 s)

/-- `WSET1`. R122: Binds a one-dimensional walk register. -/
def execWset1 (w : BitVec 3) (b : Sel) (s0 : Sel) (n0 : Sel) (s : State) : Host.Outcome State Fault Refusal :=
  bindWalk w (s.rd b) (s.rd s0) (s.walkCount (s.rd n0) 3) 0 (.ok 1) 0 (.ok 1) s

/-- `WSET2`. R122: Binds a two-dimensional walk register. -/
def execWset2 (w : BitVec 3) (b : Sel) (s0 : Sel) (n0 : Sel) (s1 : Sel) (n1 : Sel) (s : State) : Host.Outcome State Fault Refusal :=
  bindWalk w (s.rd b) (s.rd s0) (s.walkCount (s.rd n0) 3) (s.rd s1) (s.walkCount (s.rd n1) 5) 0 (.ok 1) s

/-- `WSET3`. R122: Binds a three-dimensional walk register. -/
def execWset3 (w : BitVec 3) (b : Sel) (s0 : Sel) (n0 : Sel) (s1 : Sel) (n1 : Sel) (s2 : Sel) (n2 : Sel) (s : State) : Host.Outcome State Fault Refusal :=
  bindWalk w (s.rd b) (s.rd s0) (s.walkCount (s.rd n0) 3) (s.rd s1) (s.walkCount (s.rd n1) 5) (s.rd s2) (s.walkCount (s.rd n2) 7) s

/-- `WGET`. R122: Reads one item of a walk register. -/
def execWget (d : Sel) (w : BitVec 3) (item : BitVec 7) (la : BitVec 4) (s : State) : Host.Outcome State Fault Refusal :=
  .next (((s.wr d ((s.me.regs.walk w.toNat).items.getD item.toNat 0)).done 3).openShadow d.code.toNat la
    s.me.regs.handle s.me.regs.off)

/-- `WCLR`. R122: Unbinds a walk register. -/
def execWclr (w : BitVec 3) (s : State) : Host.Outcome State Fault Refusal :=
  .next ((s.onRegs fun r => { r with w := SMap.put Walk.unbound r.w w.toNat Walk.unbound }).done 3)

/-- `CALLD`. R130: Calls by import digest, writing a frame record. -/
def execCalld (idx : BitVec 20) (s : State) : Host.Outcome State Fault Refusal :=
  s.answer (s.callBy (s.importOf idx.toNat))

/-- The digest that `CALLX` takes from the vector register that its operand names (R131). -/
def State.digestOf (s : State) (a : Word) : Res Digest :=
  if 32 ≤ a.toNat || s.vBudget s.cur ≤ a.toNat then .error (s.trap 0x44 0)
  else .ok ((s.me.regs.vec a.toNat).setWidth 256)

/-- `CALLX`. R131: Calls by a digest held in a vector register. -/
def execCallx (a : Sel) (s : State) : Host.Outcome State Fault Refusal :=
  s.answer (s.callBy (s.digestOf (s.rd a)))

/-- `REGION`. R126: Ends the chunk, checkpoints and marks a region entry. -/
def execRegion (s : State) : Host.Outcome State Fault Refusal :=
  s.answer do
    s.endChunk
    .ok ((s.onMe fun t => Strand.atEntry { t with regs := t.regs.zeroZ.advance 1 }).issued)

/-- The other strands of the core that are ready (R17, R138). -/
def State.others (s : State) : List Nat :=
  (upFrom (coreOf s.cur * 4) 4).filter fun m => m != s.cur && (s.strand m).status == .ready && (s.strand m).hold == .none

/-- `YIELD`. R138: Ends the chunk and yields issue to other ready strands. -/
def execYield (s : State) : Host.Outcome State Fault Refusal :=
  s.answer do
    s.endChunk
    .ok ((s.done 1).onMe fun t => { t with hold := if s.others.isEmpty then .none else .turn s.others })

/-- `TRAP`. R138: Raises TRAP_SOFTWARE with the value of a. -/
def execTrap (a : Sel) (s : State) : Host.Outcome State Fault Refusal :=
  .next (s.stop (.trap 0x06 (s.ir.setWidth 64) (s.rd a)))

/-- `BRK`. R138: Raises BREAKPOINT. -/
def execBrk (s : State) : Host.Outcome State Fault Refusal :=
  .next (s.stop (s.trap 0x07 0))

/-- `NOP`. R138: Does nothing. -/
def execNop (s : State) : Host.Outcome State Fault Refusal :=
  .next (s.done 1)

end Sys2Proof.Machine
end

