-- ==== Sys2Proof/Machine/Pod.lean ====
section
/-! DEFINITION. The pod and the whole-memory checkpoint: remote accesses at their home, flits, routes, checkpoint and restore (R266,
R318, R329, R383 to R387). -/

namespace Sys2Proof.Machine

/-! Remote accesses (R266, R318, R329). -/

/-- The sums of a `CPYR` of another package in one sector here (R160), made in one step: the flags, and whether an element was
poisoned, which then stays so. -/
def State.farAdd (s : State) (base : Nat) (a : FarAdd) : State × Flags × Bool :=
  let dc := fmtCls a.flags.dfmt
  let es := a.elems.map fun e =>
    let b := base + e.1
    (b, copySum a.flags (s.bits b dc.bits) e.2.1 e.2.2, (s.poisonIn b dc.bits).isSome)
  let sts := es.flatMap fun e => (elemStores none e.1 dc e.2.1.1).map fun st => (st, e.2.2)
  (s.writeBits base (sectorBits base sts), es.foldl (fun f e => f ||| e.2.1.2) 0, es.any fun e => e.2.2)

/-- A load, a store or a sum of another package is performed here (R266), and the answer goes back with its tag: a load's value, the
acknowledgement of a store, the lowest poisoned container of a load, or why it fails (R28, R316, R329). -/
def State.remoteAccess (s : State) (pkg : BitVec 10) (who : Issuer) (tag bit : Nat) (w : Cls) (store : Option FarData) : State :=
  match store, s.homeFails who bit w.bits with
  | some _, some c => s.sendTo pkg (.reply pkg tag (.stored bit (some c) 0))
  | none, some c => s.sendTo pkg (.reply pkg tag (.failed c))
  | some d, none =>
    match d.add with
    | some a =>
      let r := s.farAdd bit a
      r.1.sendTo pkg (.reply pkg tag (.stored bit (if r.2.2 then some 0xC0 else none) r.2.1))
    | none =>
      let st : Store := { pkg := none, bit := bit, bits := w.bits, val := d.val.toNat, mask := d.mask.toNat % 2 ^ w.bits }
      (((if st.mask = 0 then s else (s.noteRace st).put st).poisonMask bit d.poison.toNat)).sendTo pkg (.reply pkg tag (.stored bit none 0))
  | none, none =>
    match s.poisonIn bit w.bits with
    | some k => s.sendTo pkg (.reply pkg tag (.poisoned k))
    | none => s.sendTo pkg (.reply pkg tag (.value (BitVec.ofNat 1024 (s.bits bit w.bits))))

/-- The package that a strand waits for. -/
def Strand.awaits (t : Strand) : Option (BitVec 10) := t.pend.findSome? fun p => p.far.map fun f => f.1

/-- No reply comes within 10 ms, or the route is down (R318): `REMOTE_LOST`, with the destination unchanged. A task that has ended
waits no longer (R151). -/
def State.remoteTimeout (s : State) (n : Nat) (again : Event) : State :=
  let t := s.strand n
  if !t.pend.any fun p => p.snap.isSome then s
  else
    let down := match t.awaits with
      | some p => !s.hasRoute p
      | none => false
    if !(down || s.past t.since 8000000) then s.due [again]
    else if t.status = .ending then s.onStrand n fun u => { u with pend := u.pend.filter fun p => p.snap.isNone }
    else s.giveUp n 0xC2 0

/-! Flits (R386, R387). -/

/-- A flit is routed on (R387): one for this package has arrived; after 8 hops it is dropped; while its route fails over it is held. -/
def State.forward (s : State) (dest : BitVec 10) (hops body : Nat) : State :=
  if dest = s.pkg || 8 ≤ hops then s
  else if s.failover.contains dest then s.due [.flitForward dest hops body]
  else
    match s.routeTo dest with
    | none => s
    | some k =>
      let f : LinkFlit := { dest := dest, hops := hops + 1, body := body, own := none, retries := 0 }
      { s.send (.flit k dest (hops + 1) body) with links := SMap.list s.links k f }

/-- A link goes down (R386, R387): traffic that left on it is held until what was sent there is settled. -/
def State.loseLink (s : State) (k : Nat) : State :=
  let hit := ((upFrom 0 1024).map fun p => BitVec.ofNat 10 p).filter fun p => s.routeTo p == some k
  let s1 := s.csrPut 0x1312 0 (s.csrAt 0x1312 0 &&& ~~~(BitVec.ofNat 64 (2 ^ k)))
  { s1 with links := SMap.drop s1.links k, failover := s1.failover ++ hit.filter fun p => !s1.failover.contains p }.due
    (hit.map Event.routeFailover)

/-- A failed flit is sent again, at most 8 times; then the link goes down (R386). It is one passed on, or a message of this package's own. -/
def State.retry (s : State) (k : Nat) : State :=
  match s.links.lookup k with
  | none => s
  | some f =>
    if f.retries < 8 then
      { s.send (f.own.getD (.flit k f.dest f.hops f.body)) with links := SMap.list s.links k { f with retries := f.retries + 1 } }
    else s.dueOnce (.podLinkDown k)

/-- Whether a held message is a write to another package. -/
def FarStore.isOf (f : FarStore) (o : BitVec 10 × Out) : Bool :=
  match o.2 with
  | .remoteStore t p b _ _ _ _ | .remoteAdd t p b _ => t == f.tag && p == f.pkg && b == f.bit
  | _ => false

/-- The writes to a package that have left and are not acknowledged: of equal ones, the last are those still held. -/
def State.sentTo (s : State) (p : BitVec 10) : List FarStore :=
  (s.heldOut.foldl (fun l o => l.eraseP fun f => f.isOf o) (s.farStores.filter fun f => f.pkg == p).reverse).reverse

/-- A write to another package is declared lost (R387). It cannot be delivered: that is logged with kind 6 (R318), by kind 5 of a `VSEND`
(R182), and an engine's command reports it (R161). The item of an `ENQ` is no store of a strand: its `ENQ` traps (R318). -/
def State.lostStore (s : State) (f : FarStore) : State :=
  let s1 : State := { s with farStores := s.farStores.erase f }
  if f.tag < 2 ^ 20 then
    if (s.strand f.tag).pend.any fun p => p.kind == .ring && p.far == some (f.pkg, f.bit) then s1
    else s1.logLost (s.ctxOf f.tag) f.pkg f.site.1
  else if f.tag = vsendTag (coreOf f.strand) then s1.engineReplied f (some 0xC2) 0
  else if f.tag < pkgTag then (s1.logLost (s.ctxOf f.strand) f.pkg f.site.1).engineReplied f (some 0xC2) 0
  else s1.logLost 255 f.pkg f.site.1

/-- What was held for a package leaves on its route, or is lost with it. -/
def State.release (s : State) (p : BitVec 10) : State :=
  let s1 : State := { s with heldOut := s.heldOut.filter fun o => o.1 != p }
  if (s.routeTo p).isSome then (s.heldOut.filter fun o => o.1 == p).foldl (fun a o => a.sendTo p o.2) s1
  else (s.farStores.filter fun f => f.pkg == p).foldl State.lostStore s1

/-- Traffic to a package resumes once every write that was sent to it has been acknowledged or is declared lost (R387): a free choice
tells whether an acknowledgement is still on its way. -/
def State.failOver (s : State) (p : BitVec 10) : State :=
  if !(s.sentTo p).isEmpty && s.free.getLsbD 0 then s.due [.routeFailover p]
  else
    let s1 := (s.sentTo p).foldl State.lostStore s
    State.release { s1 with failover := s1.failover.filter fun q => q != p } p

/-! The checkpoint (R383 to R385). -/

/-- STATUS of CKPT. -/
def State.ckptStatus (s : State) : Nat := bitsOf (s.csrAt 0x1320 0).toNat 4 4

/-- Sets STATUS. -/
def State.setCkpt (s : State) (st : Nat) : State :=
  s.csrPut 0x1320 0 (BitVec.ofNat 64 (setBitsOf (s.csrAt 0x1320 0).toNat 4 4 st))

/-- How many targets firmware has set (R384). -/
def State.ckptTargets (s : State) : Nat := min 32 (max 1 (s.csrAt 0x10002 0).toNat)

/-- A target (R384): bit 63 says that it is a persistent region of CXL memory and no NVMe namespace; its namespace and starting LBA lie
below. The layout is firmware's: DESIGN CHOICE (log 79). -/
def State.ckptTarget (s : State) (t : Nat) : Word := s.csrAt 0x1000F t

/-- START (R383, R384): quiescing; every context on cores is saved. -/
def State.startCkpt (s : State) : State :=
  let st := s.ckptStatus
  if st != 0 && st != 4 && st != 5 then s
  else
    let s1 : State := { (s.setCkpt 1).csrPut 0x10012 0 0 with ckptStart := s.clk, writing := none }
    ((upFrom 0 256).foldl (fun a c =>
      if (a.ctx c).state = .resident || (a.ctx c).state = .suspended then
        ((((a.onCtx c fun k => { k with leaving := true }).preemptAll c).dueOnce (.preemptionRequest (BitVec.ofNat 8 c))).dueOnce
          (.contextSave (BitVec.ofNat 8 c)))
      else a) s1).due [.checkpointQuiesced, .checkpointQuiesceTimeout]

/-- The contexts are restored and resume (R384): launches bind again. -/
def State.resumeAll (s : State) : State := s.dueOnce .partitionServiceRound

/-- Whether every context stands saved. -/
def State.allSaved (s : State) : Bool := (upFrom 0 256).all fun c => !(s.ctx c).leaving && (s.toSave c).isEmpty

/-- What a checkpoint writes (R384): all of HBM, with what the save areas, the queues and the code store in it hold. -/
def State.image (s : State) : Image :=
  { hbm := s.mem.filter fun p => p.1 < 2 ^ 41, poison := s.poison.filter fun p => p.1 < 2 ^ 38, ctxs := s.ctxs
    descs := (upFrom 0 256).map fun c => (c, s.csrAt 0x10 c)
    launches := s.launches, parts := s.parts, objs := s.objs, claims := s.claims, tasks := s.tasks }

/-- CRC-64 of a stripe of 2 MiB (R162, R384). -/
def stripeCrc (m : Memory) (i : Nat) : Nat :=
  2 ^ 64 - 1 - (upFrom 0 (2 ^ 21)).foldl (fun r k => crcByte (crcPoly true) r (m.byte (2 ^ 21 * i + k))) (2 ^ 64 - 1)

/-- The number of stripes (R384). -/
def stripeCount : Nat := 786432

/-- The stripes of a checkpoint in order, stripe i to target i mod n, each with its CRC-64 (R384). -/
def State.stripes (s : State) : List Out :=
  (upFrom 0 stripeCount).map fun i => .stripe (i % s.ckptTargets) (s.ckptTarget (i % s.ckptTargets)) i (BitVec.ofNat 64 (stripeCrc s.mem i))

/-- Quiesced (R384): the contexts are saved and the commands outstanding at the drives have completed, which is theirs to say. -/
def State.quiesced (s : State) : State :=
  if s.ckptStatus != 1 then s
  else if s.allSaved && (s.csrAt 0x10012 0 != 0 || s.free.getLsbD 0) then
    let s1 : State := { s.setCkpt 2 with ckptStart := s.clk, writing := some s.image, out := s.out ++ s.stripes }
    s1.due [.checkpointWritten]
  else s.due [.checkpointQuiesced]

/-- 1 s after START (R384): with commands outstanding at the drives STATUS 5, and the contexts resume; otherwise only contexts are still
to be saved. -/
def State.quiesceTimeout (s : State) : State :=
  if s.ckptStatus != 1 then s
  else if !s.past s.ckptStart 800000000 then s.due [.checkpointQuiesceTimeout]
  else if s.free.getLsbD 0 then (s.setCkpt 5).resumeAll
  else s.csrPut 0x10012 0 1

/-- All stripes are written (R384): ELAPSED in ms, a Flush to every namespace, and a Global Persistent Flush to every CXL target. -/
def State.written (s : State) : State :=
  if s.ckptStatus != 2 then s
  else
    let ms := (s.clk - s.ckptStart).toNat / 800000
    let s1 := s.csrPut 0x1320 0 (BitVec.ofNat 64 (setBitsOf (setBitsOf (s.csrAt 0x1320 0).toNat 4 4 3) 8 32 ms))
    ((upFrom 0 s.ckptTargets).foldl (fun a t => a.send (.flush t ((s.ckptTarget t).getLsbD 63))) s1).due [.checkpointFlushed]

/-- A write error on a target (R384): STATUS 5, and the image is not valid. -/
def State.writeFailed (s : State) : State :=
  if s.ckptStatus = 2 then State.resumeAll { s.setCkpt 5 with writing := none } else s

/-- Flushed (R384): STATUS 4, and the contexts resume. -/
def State.flushed (s : State) : State :=
  if s.ckptStatus != 3 then s
  else State.resumeAll { s.setCkpt 4 with checkpoint := s.writing, writing := none }

/-- RESTORE (R385): only while no context has been RESIDENT since reset, the last good image is read back. What comes from the targets may
be something else. -/
def State.startRestore (s : State) : State :=
  let st := s.ckptStatus
  if s.csrAt 0x1000D 0 != 0 || s.csrAt 0x10007 0 != 0 || (st != 0 && st != 4 && st != 5) then s
  else
    let read : Option (List (Nat × Byte)) :=
      s.checkpoint.map fun m => if s.free.getLsbD 0 then m.hbm else Config.undefinedHbm s.steps
    (s.csrPut 0x10007 0 1).due [.restoreComplete read]

/-- Bytes in HBM: those of a list, and zero elsewhere. -/
def hbmOf (bytes : List (Nat × Byte)) (rest : Memory) : Memory :=
  (bytes.filter fun p => p.1 < 2 ^ 41).foldl (fun m p => Memory.setByte m p.1 p.2) rest

/-- HBM with other bytes. -/
def State.setHbm (s : State) (bytes : List (Nat × Byte)) : State :=
  { s with mem := hbmOf bytes (s.mem.filter fun p => 2 ^ 41 ≤ p.1), poison := s.poison.filter fun p => 2 ^ 38 ≤ p.1 }

/-- Whether what is read back has the CRC-64 of every stripe of the image (R385). -/
def Image.intact (m : Image) (bytes : List (Nat × Byte)) : Bool :=
  bytes == m.hbm || (upFrom 0 stripeCount).all fun i => stripeCrc (hbmOf bytes []) i == stripeCrc m.hbm i

/-- A context of an image, which stands SWAPPED_OUT (R385). -/
def Ctx.away (c : Ctx) : Ctx :=
  if c.state = .free || c.state = .teardown then Ctx.reset else { c with state := .swappedOut, leaving := false }

/-- A launch of an image: one that was on cores comes back with its context, and one that had not bound waits as before. -/
def Launch.back (l : Launch) : Launch :=
  if l.ended || l.away || l.cores.isEmpty then l else { l with lease := .released, ended := true }

/-- The launches of a list that wait once the contexts stand SWAPPED_OUT: those that were on cores do not (R299). -/
def stillWaits (ls : List Launch) (is : List Nat) : List Nat :=
  is.filter fun i =>
    match ls[i]? with
    | some l => !l.ended && !l.away && l.cores.isEmpty
    | none => false

/-- The waiting lists of a partition of an image, with the granules that the partition has now. -/
def Part.back (ls : List Launch) (now old : Part) : Part :=
  { now with wait0 := stillWaits ls old.wait0, wait1 := stillWaits ls old.wait1, wait2 := stillWaits ls old.wait2,
             wait3 := stillWaits ls old.wait3 }

/-- What is due for a launch that an image brings back. -/
def Launch.dueBack (l : Launch) (i : Nat) : List Event :=
  if l.ended then []
  else
    match l.lease with
    | .making => [.leaseResident i]
    | .held => if l.away then [] else [.launchBind i]
    | .ending => [.leaseDrained i]
    | _ => []

/-- What HBM held in forms that are the package's own stands again as in an image (R385): contexts, launches, waiting lists, code objects,
claims. -/
def State.putBack (s : State) (m : Image) : State :=
  let ls := m.launches.map Launch.back
  let s1 := m.descs.foldl (fun a p => a.csrPut 0x10 p.1 p.2) s
  let s2 : State := { s1 with
    poison := m.poison.foldl (fun q p => SMap.put false q p.1 p.2) s1.poison
    ctxs := m.ctxs.foldl (fun q p => SMap.put Ctx.reset q p.1 p.2.away) []
    parts := m.parts.foldl (fun q p => SMap.put Part.reset q p.1 (Part.back ls (SMap.look Part.reset q p.1) p.2)) s1.parts
    launches := ls
    objs := m.objs ++ s1.objs.filter fun o => !m.objs.any fun p => p.1 == o.1
    claims := m.claims, tasks := max s1.tasks m.tasks }
  (s2.due ((ls.zip (upFrom 0 ls.length)).flatMap fun p => p.1.dueBack p.2)).dueOnce .partitionServiceRound

/-- The image has been read (R385): its stripes are good, HBM is written and the contexts stand SWAPPED_OUT, or STATUS 5 and HBM
undefined. -/
def State.restored (s : State) (image : Option (List (Nat × Byte))) : State :=
  if s.csrAt 0x10007 0 = 0 then s
  else
    let s1 := s.csrPut 0x10007 0 0
    match image, s1.checkpoint with
    | some b, some m =>
      if m.intact b then (s1.setHbm b).putBack m else (s1.setHbm (Config.undefinedHbm s.steps)).setCkpt 5
    | _, _ => (s1.setHbm (Config.undefinedHbm s.steps)).setCkpt 5

/-- `REMOTE_ACCESS_ARRIVAL`. R266: A remote load or store is performed at its home package. -/
def execRemoteAccessArrival (pkg : BitVec 10) (who : Issuer) (tag : Nat) (bit : Nat) (w : Cls) (store : Option FarData) (s : State) : Host.Outcome State Fault Refusal :=
  .next (s.remoteAccess pkg who tag bit w store)

/-- `REMOTE_REPLY_TIMEOUT`. R318: No remote reply in 10 ms traps REMOTE_LOST. -/
def execRemoteReplyTimeout (n : Nat) (s : State) : Host.Outcome State Fault Refusal :=
  .next (s.remoteTimeout n (.remoteReplyTimeout n))

/-- `FLIT_RETRY`. R386: A failed flit is retried at link level. -/
def execFlitRetry (link : Nat) (s : State) : Host.Outcome State Fault Refusal :=
  .next (s.retry link)

/-- `POD_LINK_DOWN`. R386: After 8 failed retries the link goes down. -/
def execPodLinkDown (link : Nat) (s : State) : Host.Outcome State Fault Refusal :=
  .next (s.loseLink link)

/-- `FLIT_FORWARD`. R387: A flit is routed on; dropped after 8 hops. -/
def execFlitForward (dest : BitVec 10) (hops : Nat) (body : Nat) (s : State) : Host.Outcome State Fault Refusal :=
  .next (s.forward dest hops body)

/-- `ROUTE_FAILOVER`. R387: Held traffic resumes on the alternate link after acknowledgement. -/
def execRouteFailover (dest : BitVec 10) (s : State) : Host.Outcome State Fault Refusal :=
  .next (s.failOver dest)

/-- `CKPT_START`. R384: START begins a whole-memory checkpoint by quiescing. -/
def execCkptStart (s : State) : Host.Outcome State Fault Refusal :=
  .next s.startCkpt

/-- `CHECKPOINT_QUIESCED`. R384: Contexts saved and NVMe commands done; writing begins. -/
def execCheckpointQuiesced (s : State) : Host.Outcome State Fault Refusal :=
  .next s.quiesced

/-- `CHECKPOINT_QUIESCE_TIMEOUT`. R384: Commands not done in 1 s: checkpoint fails and contexts resume. -/
def execCheckpointQuiesceTimeout (s : State) : Host.Outcome State Fault Refusal :=
  .next s.quiesceTimeout

/-- `CHECKPOINT_WRITTEN`. R384: All stripes written; flushes sent. -/
def execCheckpointWritten (s : State) : Host.Outcome State Fault Refusal :=
  .next s.written

/-- `CHECKPOINT_WRITE_ERROR`. R384: A target write error fails the checkpoint. -/
def execCheckpointWriteError (s : State) : Host.Outcome State Fault Refusal :=
  .next s.writeFailed

/-- `CHECKPOINT_FLUSHED`. R384: Flushes complete: STATUS done, contexts resume. -/
def execCheckpointFlushed (s : State) : Host.Outcome State Fault Refusal :=
  .next s.flushed

/-- `CKPT_RESTORE`. R385: RESTORE begins reading back the last good image. -/
def execCkptRestore (s : State) : Host.Outcome State Fault Refusal :=
  .next s.startRestore

/-- `RESTORE_COMPLETE`. R385: Stripes checked and HBM written; contexts stand swapped out. -/
def execRestoreComplete (image : Option (List (Nat × Byte))) (s : State) : Host.Outcome State Fault Refusal :=
  .next (s.restored image)

end Sys2Proof.Machine
end

