-- ==== Sys2Proof/Machine/Io.lean ====
section
/-! DEFINITION. Hosts and devices: I/O accesses, BAR2, inbound accesses, the host lease and takeover, enumeration, NVMe queue pairs
(R149, R267, R268, R315, R316, R374 to R382, R389, R390, R392 to R395, R398, R400). -/

namespace Sys2Proof.Machine

/-! I/O accesses of strands (R149). -/

/-- A port accepts its oldest posted write. -/
def State.acceptPosted (s : State) (port : Nat) : State :=
  match SMap.look [] s.posted port with
  | [] => s
  | w :: rest =>
    let s1 : State := { s with posted := SMap.put [] s.posted port rest }
    (s1.onStrand w.strand fun t => { t with ioLeft := t.ioLeft - 1 }).send (.ioWrite port w.byte w.bytes w.value false)

/-- The completion of a strand's `IOLD`, or the lack of one: all ones then, and a deferred error of kind 3 at its port. -/
def State.ioReturn (s : State) (n : Nat) (v : Option Word) : State :=
  match (s.strand n).pend.find? fun p => p.kind == .io with
  | none => s
  | some p =>
    match v with
    | some w => s.settle n p (extend p.sx p.bits w.toNat)
    | none =>
      let site := p.site.getD (0, 0)
      (s.settle n p (2 ^ 64 - 1)).logError 3 1 (7 * 2 ^ 16 + site.2.toNat) (some (s.ctxOf n)) (some (tileOf n)) site.1 none site.2.toNat

/-! Ports (R375, R394). -/

/-- Whether a port is trained. -/
def State.trained (s : State) (port : Nat) : Bool := (s.csrAt 0x10008 0).getLsbD port

/-- Sets whether a port is trained. -/
def State.setTrained (s : State) (port : Nat) (up : Bool) : State :=
  s.csrPut 0x10008 0 (BitVec.ofNat 64 (setBitsOf (s.csrAt 0x10008 0).toNat port 1 (if up then 1 else 0)))

/-- Whether a port's accesses are turned away by its fence (R379). -/
def State.isFenced (s : State) (port : Nat) : Bool := port < 2 && s.fenced.getLsbD port

/-! Data that comes in and goes out (R267, R268, R315, R316). -/

/-- The number of bytes up to the next container. -/
def toNext (byte : Nat) (len : Nat) : Nat := min len (8 - byte % 8)

/-- The value of bytes, the first lowest. -/
def bytesVal (b : List Byte) : Nat := b.foldr (fun x v => x.toNat + 256 * v) 0

/-- An inbound write to one container at a bit: poisoned data poisons it. -/
def State.inboundPoke (s : State) (bit : Nat) (b : List Byte) (poisoned : Bool) : State :=
  let s1 := s.merge bit (8 * b.length) (bytesVal b)
  if poisoned then s1.setPoison bit (8 * b.length) else s1

/-- The bytes of memory from a bit. -/
def State.bytesAt (s : State) (bit len : Nat) : List Byte := (upFrom 0 len).map fun i => BitVec.ofNat 8 (s.bits (bit + 8 * i) 8)

/-- A poisoned read of device memory, at its lowest container, is logged with kind 1 (R316). -/
def State.notePoison (s : State) (bad : Option Nat) : State :=
  match bad with
  | some k => s.logError 1 s.freeSev (s.unitOfBit k) none none (physWord k) (some k) 0
  | none => s

/-- A read of device memory through a port: poison goes with the completion (R315, R316). -/
def State.portRead (s : State) (port : Nat) (runs : List (Nat × Nat)) : State :=
  let bad := runs.findSome? fun r => s.poisonIn r.1 (8 * r.2)
  (s.notePoison bad).send (.data port (runs.flatMap fun r => s.bytesAt r.1 r.2) bad.isSome)

/-- The bytes of a run of an inbound read; what lies outside this package is a free value. -/
def State.placeBytes (s : State) (p : Place) (len : Nat) : List Byte :=
  match p with
  | .here b => s.bytesAt b len
  | .far q b => (upFrom 0 len).map fun i => BitVec.ofNat 8 (Config.farMemory s.steps q.toNat (b + 8 * i))
  | .io q b => (upFrom 0 len).map fun i => BitVec.ofNat 8 (Config.farMemory s.steps (1024 + q) (b + i))

/-- Whether a run of an inbound read is poisoned (R315). -/
def State.placeBad (s : State) (p : Place) (len : Nat) : Bool :=
  match p with
  | .here b => (s.poisonIn b (8 * len)).isSome
  | .far q b => (unitsOf 64 b (8 * len)).any fun k => Config.farPoison s.steps q.toNat (64 * k)
  | .io q b => Config.farPoison s.steps (1024 + q) b

/-- An inbound access is refused (R376, R392): logged with kind 12. -/
def State.refuse (s : State) (port fn : Nat) (ctx : Option Nat) (addr : Word) : State :=
  s.logError 12 s.freeSev (7 * 2 ^ 16 + port) ctx none addr none (port + 2 ^ 8 * fn)

/-! The host lease (R377 to R379). -/

/-- HLEASE. -/
def State.hlease (s : State) : Nat := (s.csrAt 0x1300 0).toNat

/-- STATE of HLEASE: 0 SINGLE, 1 ACTIVE, 2 HOSTLESS. -/
def State.leaseState (s : State) : Nat := bitsOf s.hlease 2 2

/-- Sets a field of HLEASE. -/
def State.setLease (s : State) (lo n v : Nat) : State := s.csrPut 0x1300 0 (BitVec.ofNat 64 (setBitsOf s.hlease lo n v))

/-- The period starts: its end is due. -/
def State.startPeriod (s : State) : State := State.dueOnce { s with leaseStart := s.clk } .hostLeaseExpiry

/-- Fences a port, or lifts its fence. -/
def State.fence (s : State) (port : Nat) (on : Bool) : State :=
  { s with fenced := BitVec.ofNat 2 (setBitsOf s.fenced.toNat port 1 (if on then 1 else 0)) }

/-- RENEW through a port (R378): restarts the period of the active port, and ends HOSTLESS; its fence is lifted. -/
def State.renew (s : State) (port : Nat) : State :=
  if 2 ≤ port then s
  else if s.leaseState = 1 && s.activePort = port then (s.fence port false).startPeriod
  else if s.leaseState = 2 && s.trained port then ((((s.setLease 2 2 1).setLease 1 1 port).fence port false)).startPeriod
  else s

/-- A write of PERIOD (R377): in SINGLE through either port, in ACTIVE by the active host; a value out of range is ignored. -/
def State.setPeriod (s : State) (port : Nat) (v : Word) : State :=
  let ok := s.leaseState = 0 || (s.leaseState = 1 && s.activePort = port)
  if ok && 10 ≤ v.toNat && v.toNat ≤ 10000 then s.setLease 16 16 v.toNat else s

/-- The active port is given up (R378, R379): it is fenced, and the other port takes over if it is trained. -/
def State.takeover (s : State) : State :=
  let x := s.activePort
  let s1 := s.fence x true
  if s.trained (1 - x) then
    (((s1.setLease 1 1 (1 - x)).setLease 32 16 (bitsOf s.hlease 32 16 + 1))).startPeriod
  else s1.setLease 2 2 2

/-- The end of the period (R378). -/
def State.leaseEnd (s : State) : State :=
  if s.leaseState != 1 then s
  else if s.past s.leaseStart (bitsOf s.hlease 16 16 * 800000) then s.takeover
  else s.dueOnce .hostLeaseExpiry

/-- Firmware sets DUAL with A and B trained (R378). -/
def State.enableDual (s : State) : State :=
  if s.leaseState = 0 && s.trained 0 && s.trained 1 then (((s.setLease 2 2 1).setLease 1 1 0).setLease 4 1 1).startPeriod else s

/-- Firmware clears DUAL (R378). -/
def State.clearDual (s : State) : State := ((s.setLease 2 2 0).setLease 4 1 0 |>.fence 0 false).fence 1 false

/-- A port's link goes down (R378). -/
def State.portDown (s : State) (port : Nat) : State :=
  let s1 := s.setTrained port false
  if port < 2 && s.leaseState = 1 && s.activePort = port then s1.takeover else s1

/-! What hosts access (R374, R375, R377, R383, R389, R392 to R395, R398, R400). -/

/-- Whether a port shows the package's BARs and its HBM to a host: A and B, as an endpoint (R374, R375). -/
def State.isEndpoint (s : State) (port : Nat) : Bool := port < 2 && !rootComplex s.power s.fuses

/-- Whether a number lies in a run of registers. -/
def within (num lo hi : Nat) : Bool := lo ≤ num && num ≤ hi

/-- Where a port's BAR2 shows a bit of HBM, as a byte offset: all ones where its window table names no such granule (R389, R392). -/
def State.bar2Offset (s : State) (port bit : Nat) : Word :=
  let names (i : Nat) : Bool :=
    let e := (s.csrAt 0x10000 (16 * port + i)).toNat
    e.testBit 63 && e % 2 ^ 11 == bit / 2 ^ 33
  match (upFrom 0 16).find? names with
  | some i => BitVec.ofNat 64 (2 ^ 30 * i + bit % 2 ^ 33 / 8)
  | none => BitVec.allOnes 64

/-- The container that a host reads at a byte offset of BAR0 of port A or B; none where the spec places nothing. -/
def State.bar0 (s : State) (port off : Nat) : Option Word :=
  if off % 8 != 0 then none
  else if off = 0x100 then some (s.csrAt 0x1300 0)
  else if off = 0x200 then some (s.csrAt 0x1320 0)
  else if off = 0x240 then some (if s.csrAt 0x1332 0 = 0 then BitVec.allOnes 64 else s.bar2Offset port (s.csrAt 0x1332 0).toNat)
  else if off = 0x248 then some (s.csrAt 0x1336 0)
  else if off = 0x250 then some (s.bar2Offset port (s.csrAt 0x1333 0).toNat)
  else if off = 0x258 then some (s.csrAt 0x1334 0)
  else if off = 0x300 then some (s.csrAt 0x1400 0)
  else if within off 0x400 0x43F then some (s.csrAt (0x1401 + (off - 0x400) / 8) 0)
  else if within off 0x800 0x8FF then some (s.csrAt (0x1420 + (off - 0x800) / 8) 0)
  else none

/-- The bytes that a read of BAR0 covers; none where the spec places nothing. DESIGN CHOICE (log 98). -/
def State.bar0Bytes (s : State) (port off len : Nat) : Option (List Byte) :=
  ((unitsOf 8 off len).mapM fun k => s.bar0 port (8 * k)).map fun ws => ((wordBytes ws).drop (off % 8)).take len

/-- A write of bytes in one container of BAR0 (R341, R377, R378, R383, R400, R401); elsewhere it has no effect. -/
def State.bar0Poke (s : State) (port off : Nat) (b : List Byte) : State :=
  let c := off / 8 * 8
  let put (old : Word) : Word := BitVec.ofNat 64 (setBitsOf old.toNat (8 * (off % 8)) (8 * b.length) (bytesVal b))
  let v := put 0
  if c = 0x100 then
    let s1 := if off ≤ 0x102 && 0x104 ≤ off + b.length then s.setPeriod port ((v >>> 16) &&& 0xFFFF) else s
    if v.getLsbD 0 then s1.renew port else s1
  else if c = 0x200 then
    let s1 := if v.getLsbD 0 then s.startCkpt else s
    if v.getLsbD 1 then s1.startRestore else s1
  else if within c 0x800 0x81F then s.writeNonce ((c - 0x800) / 8) false (put (s.csrAt (0x1420 + (c - 0x800) / 8) 0))
  else if c = 0x820 then s.requestReport v
  else if within c 0x100000 0x1007FF && off % 8 = 0 && 4 ≤ b.length then s.notify ((c - 0x100000) / 8) (some port)
  else s

/-- The HBM bit that a byte of CXL.mem is: of a granule that a partition owns (R374). DESIGN CHOICE (log 98). -/
def State.cxlBit (s : State) (byte : Nat) : Option Nat :=
  if inHbm (8 * byte) && (upFrom 0 16).any fun p => s.ownsBit p (8 * byte) then some (8 * byte) else none

/-- Where a host's access to device memory goes, and how many bytes of it lie there: up to the end of a 1 GiB entry of the window table, or
granule (R392). -/
def State.barRun (s : State) (port len : Nat) : BarAt → Option Nat × Nat
  | .bar0 _ => (none, len)
  | .bar2 off => (s.bar2Bit port off, min len (2 ^ 30 - off % 2 ^ 30))
  | .mem byte => (s.cxlBit byte, min len (2 ^ 30 - byte % 2 ^ 30))

/-- The byte that a place names. -/
def barByte : BarAt → Nat
  | .bar0 off | .bar2 off => off
  | .mem b => b

/-- A place some bytes on. -/
def barPlus (k : Nat) : BarAt → BarAt
  | .bar0 off => .bar0 (off + k)
  | .bar2 off => .bar2 (off + k)
  | .mem b => .mem (b + k)

/-- The rest of a host's write is still to be made. -/
def State.restOfWrite (s : State) (port : Nat) (at_ : BarAt) (data : Tlp) (k : Nat) : State :=
  if k < data.bytes.length then { s with agenda := .bar2Write port (barPlus k at_) { data with bytes := data.bytes.drop k } :: s.agenda } else s

/-- A host's write through a BAR or CXL.mem: one container of it enters the order at a time (R267); what of it lies at an entry that names no
granule is dropped (R392). A poisoned write to a register has no effect: DESIGN CHOICE (log 98). -/
def State.barWrite (s : State) (port : Nat) (at_ : BarAt) (data : Tlp) : State :=
  if data.bytes.isEmpty || !s.isEndpoint port then s
  else
    match at_ with
    | .bar0 off =>
      let k := toNext off data.bytes.length
      ((if data.poisoned then s else s.bar0Poke port off (data.bytes.take k))).restOfWrite port at_ data k
    | _ =>
      if !s.ready? || s.isFenced port then s
      else
        match s.barRun port data.bytes.length at_ with
        | (none, k) => (s.refuse port 0 none 0).restOfWrite port at_ data k
        | (some bit, _) =>
          let k := toNext (barByte at_) data.bytes.length
          (s.inboundPoke bit (data.bytes.take k) data.poisoned).restOfWrite port at_ data k

/-- The runs of a host's read; none where one of its entries names no granule (R392). -/
def State.barRuns (s : State) (port : Nat) : Nat → Nat → BarAt → Option (List (Nat × Nat))
  | 0, _, _ => some []
  | fuel + 1, len, at_ =>
    if len = 0 then some []
    else
      match s.barRun port len at_ with
      | (some bit, k) => (State.barRuns s port fuel (len - k) (barPlus k at_)).map fun rest => (bit, k) :: rest
      | (none, _) => none

/-- A host's read through a BAR or CXL.mem, at one point of the order (R393). -/
def State.barRead (s : State) (port : Nat) (at_ : BarAt) (len : Nat) : State :=
  if !s.isEndpoint port || s.isFenced port then s.send (.unsupported port)
  else
    match at_ with
    | .bar0 off =>
      match s.bar0Bytes port off len with
      | some b => s.send (.data port b false)
      | none => s.send (.unsupported port)
    | _ =>
      if !s.ready? then s.send (.unsupported port)
      else
        match s.barRuns port (len / 2 ^ 30 + 2) len at_ with
        | some runs => s.portRead port runs
        | none => (s.refuse port 0 none 0).send (.unsupported port)

/-! Inbound accesses of functions and of hosts in root-complex personality (R376). -/

/-- The context that a function is bound to. -/
def State.fnCtx (s : State) (port fn : Nat) : Option Nat :=
  let e := (s.csrAt 0x10001 (port * 256 + fn)).toNat
  if e.testBit 63 then some (e % 256) else none

/-- Where an inbound byte address stands, if the context's page table and the entry's rights allow it (R376). -/
def State.inbound (s : State) (ctx addr : Nat) (need : Rights) : Option Place :=
  if winStart ≤ 8 * addr then none
  else
    match s.walk ctx (8 * addr) with
    | some e => if hasRights (pte e 55 2) need then some (s.framePlace e (8 * addr)) else none
    | none => none

/-- An inbound write: one container of it enters the order at a time (R267). -/
def State.inboundWrite (s : State) (port fn addr : Nat) (data : List Byte) (poisoned : Bool) : State :=
  if data.isEmpty || s.isFenced port then s
  else
    match s.fnCtx port fn with
    | none => s.refuse port fn none (BitVec.ofNat 64 (8 * addr))
    | some ctx =>
      match s.inbound ctx addr 2 with
      | none => s.refuse port fn (some ctx) (BitVec.ofNat 64 (8 * addr))
      | some p =>
        let k := toNext addr data.length
        let d := data.take k
        let s1 := match p with
          | .here b => s.inboundPoke b d poisoned
          | .far q b => s.sendOwn ctx q (8 * addr) b (8 * k) (bytesVal d) (if poisoned then 1 else 0)
          | .io q b => s.send (.ioWrite q b k (bytesVal d) poisoned)
        if k < data.length then { s1 with agenda := .inboundWrite port fn (addr + k) (data.drop k) poisoned :: s1.agenda } else s1

/-- The runs of an inbound read, page by page; none where a page is refused. -/
def State.inboundRuns (s : State) (ctx : Nat) : Nat → Nat → Nat → Option (List (Place × Nat))
  | 0, _, _ => some []
  | fuel + 1, addr, len =>
    if len = 0 then some []
    else
      let k := min len (2 ^ 16 - addr % 2 ^ 16)
      match s.inbound ctx addr 1, s.inboundRuns ctx fuel (addr + k) (len - k) with
      | some p, some rest => some ((p, k) :: rest)
      | _, _ => none

/-- An inbound read: poison goes with the completion, and what of it is this package's is logged (R315, R316). -/
def State.inboundRead (s : State) (port fn addr len : Nat) : State :=
  if s.isFenced port then s.send (.unsupported port)
  else
    match s.fnCtx port fn with
    | none => (s.refuse port fn none (BitVec.ofNat 64 (8 * addr))).send (.unsupported port)
    | some ctx =>
      match s.inboundRuns ctx (len / 2 ^ 16 + 2) addr len with
      | none => (s.refuse port fn (some ctx) (BitVec.ofNat 64 (8 * addr))).send (.unsupported port)
      | some runs =>
        let bad := runs.findSome? fun r => match r.1 with | .here b => s.poisonIn b (8 * r.2) | _ => none
        (s.notePoison bad).send (.data port (runs.flatMap fun r => s.placeBytes r.1 r.2) (runs.any fun r => s.placeBad r.1 r.2))

/-- The value that a host's AtomicOp leaves (R374). -/
def hostNew (op : HostAtomic) (bits old v e : Nat) : Nat :=
  match op with
  | .fetchAdd => (old + v) % 2 ^ bits
  | .swap => v % 2 ^ bits
  | .cas => if old = e % 2 ^ bits then v % 2 ^ bits else old

/-- An AtomicOp on device memory at a place (R374): the old value returns; one of another package goes there, for a context and at its
address. One on an I/O page goes out through its port, whose device answers: a free value. -/
def State.hostAtomic (s : State) (port ctx va : Nat) (p : Place) (bits : Nat) (op : HostAtomic) (v e : Word) : State :=
  match p with
  | .here b =>
    match s.poisonIn b bits with
    | some _ => s.portRead port [(b, bits / 8)]
    | none =>
      let old := s.bits b bits
      (s.poke b bits (hostNew op bits old v.toNat e.toNat)).send (.data port (s.bytesAt b (bits / 8)) false)
  | .far q b =>
    s.sendAtomic (hostTag port (bits == 64)) ctx q va b (match op with | .fetchAdd => some .add | .swap => some .swap | .cas => none)
      (if bits = 64 then .w64 else .w32) v e
  | .io q b => (s.send (.ioAtomic q b bits op v e)).send (.data port (s.placeBytes p (bits / 8)) false)

/-- A host's AtomicOp at port A or B (R374): through BAR2 by an endpoint's host, through its context's page table in root-complex
personality. -/
def State.inboundAtomic (s : State) (port fn addr : Nat) (wide : Bool) (op : HostAtomic) (v e : Word) : State :=
  let bits := if wide then 64 else 32
  if 2 ≤ port || s.isFenced port then s.send (.unsupported port)
  else if !s.isEndpoint port then
    match s.fnCtx port fn with
    | none => (s.refuse port fn none (BitVec.ofNat 64 (8 * addr))).send (.unsupported port)
    | some ctx =>
      match s.inbound ctx addr 3 with
      | none => (s.refuse port fn (some ctx) (BitVec.ofNat 64 (8 * addr))).send (.unsupported port)
      | some p => s.hostAtomic port ctx (8 * addr) p bits op v e
  else if !s.ready? then s.send (.unsupported port)
  else
    match s.bar2Bit port addr with
    | none => (s.refuse port 0 none 0).send (.unsupported port)
    | some b => s.hostAtomic port 255 0 (.here b) bits op v e

/-! Enumeration and queue pairs (R375, R380, R390). -/

/-- The entries of the device table. -/
def State.devices (s : State) : List (BitVec 256) :=
  let d := (s.csrAt 0x1331 0).toNat
  (upFrom 0 (bitsOf d 44 8)).map fun i => BitVec.ofNat 256 (s.bits (d % 2 ^ 44 + 256 * i) 256)

/-- The port of an entry. -/
def devPort (e : BitVec 256) : Nat := bitsOf e.toNat 4 3

/-- Writes entry `i`, VALID last (R390). -/
def State.writeDev (s : State) (i : Nat) (e : BitVec 256) : State :=
  let a := (s.csrAt 0x1331 0).toNat % 2 ^ 44 + 256 * i
  (s.poke (a + 64) 192 (e.toNat / 2 ^ 64)).poke a 64 (e.toNat % 2 ^ 64)

/-- The functions that enumeration found under a root port, at most 16 (R374, R375, R390): the table is rewritten, COUNT with it, and each
function is bound to its context (R376). A port of an endpoint is no root port: it is trained, and nothing is enumerated. -/
def State.enumerate (s : State) (port : Nat) (under : List (BitVec 256)) : State :=
  if s.isEndpoint port then s.setTrained port true
  else
  let found := under.take 16
  let all := ((s.devices.filter fun e => devPort e != port) ++ found).take 96
  let s1 := (all.zip (upFrom 0 all.length)).foldl (fun a p => a.writeDev p.2 p.1) s
  let d := (s.csrAt 0x1331 0).toNat
  let s2 := (s1.csrPut 0x1331 0 (BitVec.ofNat 64 (setBitsOf d 44 8 all.length))).setTrained port true
  (found.zip (upFrom 0 found.length)).foldl (fun a p =>
    a.csrPut 0x10001 (port * 256 + p.2) (BitVec.ofNat 64 (2 ^ 63 + bitsOf p.1.toNat 44 8))) s2

/-- An I/O queue pair for a drive (R380): at most MAXQ, of depth 2 to the drive's largest; created through its admin queue. -/
def State.createPair (s : State) (port fn depth : Nat) (sq cq : Word) : State :=
  match (s.devices.filter fun e => devPort e == port)[fn]? with
  | none => s
  | some e =>
    let made := (s.csrAt 0x10009 (port * 256 + fn)).toNat
    let maxq := min 64 (bitsOf e.toNat 216 8)
    if bitsOf e.toNat 36 4 != 0 || maxq ≤ made || depth < 2 || 4096 < depth || bitsOf e.toNat 192 12 + 1 < depth then s
    else (s.csrPut 0x10009 (port * 256 + fn) (BitVec.ofNat 64 (made + 1))).send (.adminQueue port fn depth sq cq)

/-- `IOST_ACCEPTANCE`. R149: A port accepts a posted I/O write. -/
def execIostAcceptance (port : Nat) (s : State) : Host.Outcome State Fault Refusal :=
  .next (s.acceptPosted port)

/-- `IOLD_COMPLETION`. R149: An I/O read completion writes the destination. -/
def execIoldCompletion (n : Nat) (data : Word) (error : Bool) (s : State) : Host.Outcome State Fault Refusal :=
  .next (s.ioReturn n (if error then none else some data))

/-- `IOLD_TIMEOUT`. R149: No completion in 50 ms: all ones and a logged error. -/
def execIoldTimeout (n : Nat) (s : State) : Host.Outcome State Fault Refusal :=
  .next (if !(s.strand n).pend.any fun p => p.kind == .io then s
    else if s.past (s.strand n).since 40000000 then s.ioReturn n none else s.due [.ioldTimeout n])

/-- `IOST_FAILED_BEYOND_PORT`. R149: An IOST already accepted at its port fails beyond it, and the failure is logged with kind 4. -/
def execIostFailedBeyondPort (port : Nat) (ctx : BitVec 8) (addr : Word) (s : State) : Host.Outcome State Fault Refusal :=
  .next (s.logError 4 s.freeSev (7 * 2 ^ 16 + port) (some ctx.toNat) none addr none port)

/-- `BAR2_WRITE`. R392: A host write through BAR2 to an HBM granule. -/
def execBar2Write (port : Nat) (off : BarAt) (data : Tlp) (s : State) : Host.Outcome State Fault Refusal :=
  .next (s.barWrite port off data)

/-- `BAR2_READ`. R393: A host read through BAR2, performed at one point of the order. -/
def execBar2Read (port : Nat) (off : BarAt) (len : Nat) (s : State) : Host.Outcome State Fault Refusal :=
  .next (s.barRead port off len)

/-- `INBOUND_WRITE`. R376: A drive or host writes device memory after translation. -/
def execInboundWrite (port : Nat) (fn : Nat) (addr : Nat) (data : List Byte) (poisoned : Bool) (s : State) : Host.Outcome State Fault Refusal :=
  .next (s.inboundWrite port fn addr data poisoned)

/-- `INBOUND_READ`. R376: A drive or host reads device memory after translation. -/
def execInboundRead (port : Nat) (fn : Nat) (addr : Nat) (len : Nat) (s : State) : Host.Outcome State Fault Refusal :=
  .next (s.inboundRead port fn addr len)

/-- `INBOUND_ATOMICOP`. R374: A host's PCIe AtomicOp (FetchAdd, Swap or CAS) arriving at port A or B, for which the package is completer, is performed on device memory. -/
def execInboundAtomicop (port : Nat) (fn : Nat) (addr : Nat) (wide : Bool) (op : HostAtomic) (v : Word) (e : Word) (s : State) : Host.Outcome State Fault Refusal :=
  .next (s.inboundAtomic port fn addr wide op v e)

/-- `HLEASE_RENEW`. R378: RENEW restarts the host lease period or ends HOSTLESS. -/
def execHleaseRenew (port : Nat) (s : State) : Host.Outcome State Fault Refusal :=
  .next (s.renew port)

/-- `HLEASE_PERIOD_WRITE`. R377: Sets the renewal period; out-of-range writes ignored. -/
def execHleasePeriodWrite (port : Nat) (v : Word) (s : State) : Host.Outcome State Fault Refusal :=
  .next (s.setPeriod port v)

/-- `HOST_LEASE_EXPIRY`. R378: The period ends without renewal. -/
def execHostLeaseExpiry (s : State) : Host.Outcome State Fault Refusal :=
  .next s.leaseEnd

/-- `DUAL_ENABLE`. R378: Firmware sets DUAL; the lease becomes ACTIVE on A. -/
def execDualEnable (s : State) : Host.Outcome State Fault Refusal :=
  .next s.enableDual

/-- `DUAL_CLEAR`. R378: Firmware clears DUAL; fences lifted, SINGLE. -/
def execDualClear (s : State) : Host.Outcome State Fault Refusal :=
  .next s.clearDual

/-- `PORT_LINK_DOWN`. R378: A host port link goes down. -/
def execPortLinkDown (port : Nat) (s : State) : Host.Outcome State Fault Refusal :=
  .next (s.portDown port)

/-- `PORT_ENUMERATION`. R375: After training or retrain the root ports are enumerated. -/
def execPortEnumeration (port : Nat) (found : List (BitVec 256)) (s : State) : Host.Outcome State Fault Refusal :=
  .next (s.enumerate port found)

/-- `IO_QUEUE_PAIR_CREATION`. R380: On a supervisor request, management firmware creates an NVMe I/O queue pair for a drive's bound context through the drive's admin queue. -/
def execIoQueuePairCreation (port : Nat) (fn : Nat) (depth : Nat) (sq : Word) (cq : Word) (s : State) : Host.Outcome State Fault Refusal :=
  .next (s.createPair port fn depth sq cq)

end Sys2Proof.Machine
end

