-- ==== Sys2Proof/Machine/Csr.lean ====
section
/-! DEFINITION. The control registers: which there are, what each reads, what a write does (R9, R295, R303, R314, R319, R321, R324,
R338, R342, R354, R372, R377, R383, R387, R389, R394, R398 to R400). Numbers above 0xFFFF are the model's own places for what firmware
holds without a register of its own. -/

namespace Sys2Proof.Machine

/-- What the scope of a register is (R303). -/
inductive Scope where
  | thread | ctx | ctxTile | pkg | port_ | part | queue | unit | tile | route | cmap
  deriving DecidableEq, Repr

/-- The scope of a register number; none for a number that is reserved or above 0xFFFF (R303, R304). -/
def scopeOf (num : Nat) : Option Scope :=
  if within num 0x0 0x3 || within num 0x20 0x23 || within num 0x1800 0x1804 then some .thread
  else if num = 0x1100 || num = 0x1110 || num = 0x1310 || num = 0x1313 || num = 0x1820 then some .thread
  else if num = 0x10 || num = 0x12 || num = 0x1002 || num = 0x1003 then some .ctx
  else if num = 0x11 then some .ctxTile
  else if num = 0x1004 then some .port_
  else if num = 0x1000 || num = 0x1001 || num = 0x1200 || within num 0x1206 0x1208 || num = 0x1300 || num = 0x1312 || num = 0x1320
      || within num 0x1331 0x1334 || num = 0x1336 || within num 0x1400 0x1408 || within num 0x1410 0x1417
      || within num 0x1420 0x143F || num = 0x1823 || num = 0x1831 then some .pkg
  else if within num 0x1111 0x1112 || within num 0x1201 0x1205 || num = 0x1330 || num = 0x1335 || within num 0x1810 0x1814 then
    some .part
  else if within num 0x1101 0x1104 then some .queue
  else if num = 0x1821 || num = 0x1822 || num = 0x1824 then some .unit
  else if num = 0x1005 || num = 0x1209 || num = 0x1830 then some .tile
  else if num = 0x1311 then some .route
  else if num = 0x1314 then some .cmap
  else none

/-- The context that CTXSEL of a lantern thread names. -/
def State.ctxSel (s : State) (n : Nat) : Nat := (s.csrAt 0x1 n).toNat % 256

/-- The scope number of a register for lantern thread `n` (R303). -/
def State.scopeNum (s : State) (n : Nat) : Scope → Nat
  | .thread => n
  | .ctx => s.ctxSel n
  | .ctxTile => tileOf n * 256 + s.ctxSel n
  | .pkg => 0
  | .port_ => (s.ctx (s.ctxSel n)).part
  | .part => (s.csrAt 0x1110 n).toNat % 16
  | .queue => (s.csrAt 0x1100 n).toNat % 256
  | .unit => (s.csrAt 0x1820 n).toNat % 2 ^ 20
  | .tile => tileOf n
  | .route => (s.csrAt 0x1310 n).toNat % 1024
  | .cmap => (s.csrAt 0x1313 n).toNat % 1024

/-- The launches that wait in a partition (PWAIT, R354). -/
def Part.waiting (p : Part) : Nat := p.wait0.length + p.wait1.length + p.wait2.length + p.wait3.length

/-- What a register reads (R303 and the chapters that lay each down). DESIGN CHOICE (log 82): XLSTAT's field of eight bits reads 0 with
256 walks in flight. -/
def State.csrValue (s : State) (n num sc : Nat) : Word :=
  if num = 0x0 then BitVec.ofNat 64 (s.pkg.toNat * 2 ^ 9 + tileOf n * 4 + n % 4)
  else if num = 0x12 then BitVec.ofNat 64 (s.ctx sc).state.code
  else if num = 0x1005 then BitVec.ofNat 64 ((s.tile sc).walksDone + 2 ^ 32 * ((s.tile sc).walks.length % 256))
  else if num = 0x1112 then BitVec.ofNat 64 ((s.part sc).preempts % 2 ^ 16 + 2 ^ 16 * ((s.part sc).waiting % 2 ^ 16))
  else if num = 0x1209 then
    BitVec.ofNat 64 ((s.tile sc).callMisses % 2 ^ 40 +
      2 ^ 40 * (((s.reqs.filter fun r => r.tile == sc && r.state != .closed).length +
        (s.objs.filter fun p => (s.coldWaiter p.1).map tileOf == some sc).length) % 2 ^ 8))
  else if num = 0x1821 then s.hcount sc
  else if num = 0x1822 then s.hstat sc
  else if num = 0x1824 then (let c := unitClass sc; if c = 6 || c = 10 || c = 11 then (s.unit sc).wear else 0)
  else if num = 0x1830 then Config.sensor sc s.clk &&& 0xFFFFFFFF
  else if num = 0x1831 then
    (Config.sensor 96 s.clk &&& 0xFFFF) ||| BitVec.ofNat 64 (4600 * 2 ^ 16 + (if s.tiles.any fun p => p.2.limiting then 2 ^ 32 else 0))
  else s.csrAt num sc

/-- A control register as lantern thread `n` reads it; none where it is absent (R304). -/
def State.csrRead (s : State) (n num : Nat) : Option Word := (scopeOf num).map fun sc => s.csrValue n num (s.scopeNum n sc)

/-! Writes with a behaviour of their own. -/

/-- CTXDESC (R303): ignored while the context is not FREE. -/
def State.writeDescAddr (s : State) (c : Nat) (v : Word) : State := if (s.ctx c).state = .free then s.csrPut 0x10 c v else s

/-- ICWAYS (R295, R303): a write that clears every bit or overlaps another present context's ways on the tile is ignored. -/
def State.writeWays (s : State) (tile c : Nat) (v : Word) : State :=
  let m := v &&& 0xFFFF
  let others := (s.tileCtxs tile).filter (· != c)
  if m = 0 || others.any (fun x => s.csrAt 0x11 (tile * 256 + x) &&& m != 0) then s
  else s.csrPut 0x11 (tile * 256 + c) m

/-- Whether a claim arena may stand at a range (R338): no overlap with the window region, and every page has an entry with IO 0 whose
frame lies in HBM owned by a partition with the context's pod partition identifier. Whose a frame of another package is stands there: a
free value (log 77). -/
def State.arenaOk (s : State) (c base len : Nat) : Bool :=
  let id (p : Nat) : Word := s.csrAt 0x1330 p
  let mine := id (s.ctx c).part
  decide (base + len ≤ winStart) && (pagesOf base len).all fun k =>
    match s.walk c (2 ^ 19 * k) with
    | some e =>
      !e.getLsbD 60 && (match s.framePlace e (2 ^ 19 * k) with
        | .here b => (upFrom 0 16).any fun p => s.ownsBit p b && (p == (s.ctx c).part || (id p == mine && mine.getLsbD 16))
        | .far q b => mine.getLsbD 16 && Config.farOwner s.steps q.toNat b (mine.toNat % 2 ^ 16)
        | .io _ _ => false)
    | none => false

/-- CLAIMBASE (R338). -/
def State.writeClaimBase (s : State) (c : Nat) (v : Word) : State :=
  let b := v.toNat % 2 ^ 57
  if s.arenaOk c b (s.csrAt 0x1003 c).toNat then s.csrPut 0x1002 c (BitVec.ofNat 64 b) else s

/-- CLAIMLEN (R338, R337, R231): a write that is not ignored releases the arena that stood. -/
def State.writeClaimLen (s : State) (c : Nat) (v : Word) : State :=
  let l := v.toNat % 2 ^ 58
  if s.arenaOk c (s.csrAt 0x1002 c).toNat l then (s.arenaRelease c).csrPut 0x1003 c (BitVec.ofNat 64 l) else s

/-- PTBITS (R338): 10 to 24, otherwise ignored. -/
def State.writePtBits (s : State) (v : Word) : State :=
  let b := v.toNat % 32
  if 10 ≤ b && b ≤ 24 then s.csrPut 0x1001 0 (BitVec.ofNat 64 b) else s

/-- HWIN (R321): 1 to 600 seconds, otherwise ignored. -/
def State.writeHwin (s : State) (v : Word) : State :=
  let w := v.toNat % 1024
  if 1 ≤ w && w ≤ 600 then s.csrPut 0x1823 0 (BitVec.ofNat 64 w) else s

/-- LFSTAT (R314): writing 1 to VALID clears it, and LOST with it. -/
def State.writeLfstat (s : State) (n : Nat) (v : Word) : State := if v.getLsbD 0 then s.csrPut 0x1804 n 0 else s

/-- The bits of a plain read-write register that are not reserved; none for a register that supervisor code cannot write. -/
def writable (num : Nat) : Option Word :=
  if num = 0x1 then some 0xFF
  else if within num 0x20 0x23 then some (BitVec.allOnes 64)
  else if num = 0x1000 then some 0xFFFFFFFFFFF
  else if num = 0x1100 then some 0xFF
  else if num = 0x1110 then some 0xF
  else if num = 0x1310 || num = 0x1313 then some 0x3FF
  else if num = 0x1812 then some (BitVec.allOnes 64)
  else if num = 0x1820 then some 0xFFFFF
  else none

/-- A write of the register of a number and scope (R9, R303, R304): writes to read-only registers and reserved bits are ignored. -/
def State.regWrite (s : State) (num k : Nat) (v : Word) : State :=
  if num = 0x10 then s.writeDescAddr k v
  else if num = 0x11 then s.writeWays (k / 256) (k % 256) v
  else if num = 0x12 then s.writeCtxState k v
  else if num = 0x1001 then s.writePtBits v
  else if num = 0x1002 then s.writeClaimBase k v
  else if num = 0x1003 then s.writeClaimLen k v
  else if within num 0x1420 0x1423 then s.writeNonce (num - 0x1420) true v
  else if num = 0x1424 then s.requestReport v
  else if num = 0x1804 then s.writeLfstat k v
  else if num = 0x1814 then (if v.getLsbD 0 then s.csrPut 0x1814 k 0 else s)
  else if num = 0x1822 then s.writeHstat k v
  else if num = 0x1823 then s.writeHwin v
  else
    match writable num with
    | some m => s.csrPut num k (v &&& m)
    | none => s

/-- A write of a register by lantern thread `n`; none where the register is absent (R304). -/
def State.csrWrite (s : State) (n num : Nat) (v : Word) : Option State :=
  (scopeOf num).map fun sc => s.regWrite num (s.scopeNum n sc) v

/-! Writes by management firmware (R9, R354, R372, R389, R392). -/

/-- PWEIGHT as it is held (R354): a weight of 0 is taken as 1. -/
def weights (v : Word) : Word :=
  let w (i : Nat) : Nat := max 1 (bitsOf v.toNat (8 * i) 8)
  BitVec.ofNat 64 (w 0 + 2 ^ 8 * w 1)

/-- A granule belongs to a partition, or to none (R294): 0 stands for none, p + 1 for partition p. There are 1,536 (R14). -/
def State.giveGranule (s : State) (g : Nat) (v : Nat) : State :=
  if 1536 ≤ g then s
  else
  let s1 := (upFrom 0 16).foldl (fun a p => a.onPart p fun q => { q with granules := q.granules.filter (· != g) }) s
  if 1 ≤ v && v ≤ 16 then s1.onPart (v - 1) fun q => { q with granules := g :: q.granules } else s1

/-- The bits that firmware sets of a register that supervisor code only reads, and of the model's own numbers; none for a register that
hardware sets (R9, R338, R342, R354, R372, R387, R389, R319). -/
def configured (num : Nat) : Option Word :=
  if num = 0x1004 then some 0x3F
  else if num = 0x1102 then some 0xFFF1F01
  else if num = 0x1101 || num = 0x1104 || num = 0x1208 then some (BitVec.allOnes 64)
  else if num = 0x1201 || num = 0x1202 || num = 0x1206 || num = 0x1207 || num = 0x1332 || num = 0x1333 || num = 0x1810 then
    some 0xFFFFFFFFFFF
  else if num = 0x1203 || num = 0x1204 then some 0x83FF83FF83FF83FF
  else if num = 0x1205 then some 3
  else if num = 0x1311 then some 0x9F1F
  else if num = 0x1314 then some 0x83FF
  else if num = 0x1330 then some 0x1FFFF
  else if num = 0x1331 then some 0xFFFFFFFFFFFFF
  else if num = 0x1335 then some 0x8000FFFFFFFFFF07
  else if num = 0x1811 then some 0x1F
  else if num = 0x10002 then some 0x3F
  else if within num 0x10000 0x10001 || within num 0x1000A 0x1000C || num = 0x1000F then some (BitVec.allOnes 64)
  else none

/-- What firmware's write of a register sets off besides: the lists of trust take effect (R367), a queue that is enabled is scanned
(R341). -/
def State.takesEffect (s : State) (num sc : Nat) (v : Word) : State :=
  if num = 0x1201 || num = 0x1202 then s.dueOnce (.trustListChange sc)
  else if num = 0x1102 && v.getLsbD 0 then s.dueOnce (.queuePeriodicScan sc)
  else s

/-- Firmware writes container `k` of a partition's trust list, or of its revocation list, where the list stands (R370, R372): the change takes
effect (R367). -/
def State.writeList (s : State) (base p k : Nat) (v : Word) : State :=
  (s.poke ((s.csrAt base p).toNat % 2 ^ 44 + 64 * k) 64 v.toNat).dueOnce (.trustListChange p)

/-- A write of a register by firmware through the management complex (R9): what firmware configures, with reserved bits zero; the model's
own numbers, which place what it decides (R294, R372, R376, R384, R392, log 79); and otherwise as anyone's write. -/
def State.firmwareWrite (s : State) (num sc : Nat) (v : Word) : State :=
  if num = 0x1111 then s.csrPut num sc (weights v)
  else if num = 0x10003 then s.onTile sc fun t => { t with owner := if v = 0 then none else some ((v.toNat - 1) % 16) }
  else if num = 0x10004 then s.giveGranule sc v.toNat
  else if num = 0x10010 then s.writeList 0x1201 (sc / 512) (sc % 512) v
  else if num = 0x10011 then s.writeList 0x1202 (sc / 256) (sc % 256) v
  else
    match configured num with
    | some m => (s.csrPut num sc (v &&& m)).takesEffect num sc v
    | none => s.regWrite num sc v

/-- `CTXDESC_WRITE`. R303: Sets the descriptor address; ignored unless FREE. -/
def execCtxdescWrite (ctx : BitVec 8) (v : Word) (s : State) : Host.Outcome State Fault Refusal :=
  .next (s.writeDescAddr ctx.toNat v)

/-- `ICWAYS_WRITE`. R303: Sets instruction-cache ways, invalidating removed ways. -/
def execIcwaysWrite (tile : Nat) (ctx : BitVec 8) (v : Word) (s : State) : Host.Outcome State Fault Refusal :=
  .next (s.writeWays tile ctx.toNat v)

/-- `HSTAT_WRITE`. R321: W1C write; clearing LASTING also clears LOGGED. -/
def execHstatWrite (unit : Nat) (v : Word) (s : State) : Host.Outcome State Fault Refusal :=
  .next (s.writeHstat unit v)

/-- `LFSTAT_WRITE`. R314: W1C of VALID, also clearing LOST. -/
def execLfstatWrite (thread : Nat) (v : Word) (s : State) : Host.Outcome State Fault Refusal :=
  .next (s.writeLfstat thread v)

/-- `HWIN_WRITE`. R321: Sets the lasting window; out-of-range writes ignored. -/
def execHwinWrite (v : Word) (s : State) : Host.Outcome State Fault Refusal :=
  .next (s.writeHwin v)

/-- `PTBITS_WRITE`. R338: Sets the page-table bucket bits; out-of-range ignored. -/
def execPtbitsWrite (v : Word) (s : State) : Host.Outcome State Fault Refusal :=
  .next (s.writePtBits v)

/-- `CLAIMBASE_WRITE`. R338: Sets the claim arena base after checks. -/
def execClaimbaseWrite (ctx : BitVec 8) (v : Word) (s : State) : Host.Outcome State Fault Refusal :=
  .next (s.writeClaimBase ctx.toNat v)

/-- `CLAIMLEN_WRITE`. R338: Sets the claim arena length, pinning or releasing it. -/
def execClaimlenWrite (ctx : BitVec 8) (v : Word) (s : State) : Host.Outcome State Fault Refusal :=
  .next (s.writeClaimLen ctx.toNat v)

/-- `REGISTER_WRITE`. R9: Write to a register with no behaviour of its own. -/
def execRegisterWrite (num : Nat) (scope : Nat) (v : Word) (s : State) : Host.Outcome State Fault Refusal :=
  .next (s.firmwareWrite num scope v)

end Sys2Proof.Machine
end

