-- ==== Sys2Proof/Machine/Pointer.lean ====
section
/-! DEFINITION. Pointer arithmetic: major 0x0E (R40, R41, R104). -/

namespace Sys2Proof.Machine

/-- A pointer fault: the address word is the A operand, the extra word the class (R42). -/
def ptrFault (cause : Nat) (a : Word) (c : Cls) : Stop := .trap cause a (BitVec.ofNat 64 c.code.toNat)

/-- `PADD` and `PSUB`: `n` elements on (R40). -/
def ptrStep (a : Word) (n : Int) (c : Cls) : Res Word := do
  ensure (legal a.toNat c) (ptrFault 0x20 a c)
  let r := addrOf ((index a.toNat c : Int) + n) c
  ensure (0 ≤ r && r < (2 ^ 57 : Nat)) (ptrFault 0x27 a c)
  .ok (BitVec.ofInt 64 r)

/-- `PDIFF` (R40). -/
def ptrDiff (a b : Word) (c : Cls) : Res Word := do
  ensure (legal a.toNat c && legal b.toNat c) (ptrFault 0x20 a c)
  ensure (a.toNat < 2 ^ 57 && b.toNat < 2 ^ 57) (ptrFault 0x27 a c)
  .ok (BitVec.ofInt 64 ((index a.toNat c : Int) - index b.toNat c))

/-- The check mask of `PCHK` for a run of `n` elements from `a` (R41): bits 1 and 2 are decided from the greatest legal
address at or below a misaligned start. A negative `n` is an empty run: it sets bit 3, and bit 1 only for an `a` of 2^57 or more.
DESIGN CHOICE (log 85). -/
def ptrCheck (a : Word) (n : Int) (c : Cls) : Word :=
  let bad := !legal a.toNat c
  let start := alignDown a.toNat c
  let last := lastBit (addrOf ((index start c : Int) + n - 1) c).toNat c
  let far := (decide (0 < n) && decide (2 ^ 57 ≤ last)) || decide (2 ^ 57 ≤ a.toNat)
  let cross := decide (0 < n) && decide (start < 2 ^ 57) && decide (winStart ≤ last) && !oneWindow start last
  let inRes := resStart ≤ start && start < padStart && resStart ≤ last && last < padStart
  BitVec.ofNat 64 ((if bad then 1 else 0) + (if far then 2 else 0) + (if cross || (decide (0 < n) && inRes) then 4 else 0) +
    (if n < 0 then 8 else 0))

/-- `PWIN` (R40). -/
def ptrWin (a b : Word) (c : Cls) : Res Word := do
  ensure (legal a.toNat c) (ptrFault 0x20 a c)
  ensure (a.toNat < 2 ^ 21 && b.toNat < 2 ^ 22) (ptrFault 0x27 a c)
  .ok (BitVec.ofNat 64 (padStart + b.toNat / 2 ^ 12 % 2 ^ 10 * 2 ^ 33 + b.toNat % 2 ^ 12 * 2 ^ 21 + a.toNat))

/-- `PCORE` (R40). -/
def ptrCore (a : Word) : Word :=
  let v := a.toNat
  if padStart ≤ v && v < 2 ^ 57 then BitVec.ofNat 64 ((winPkg v).toNat * 2 ^ 12 + winCore v)
  else if winStart ≤ v && v < resStart then BitVec.ofNat 64 (2 ^ 62 + (winPkg v).toNat * 2 ^ 12 + winCore v)
  else BitVec.allOnes 64

/-- The common body of a pointer instruction: a trap writes nothing (R104). -/
def pointer (r : Res Word) (d : Sel) (len : Nat) (s : State) : Host.Outcome State Fault Refusal :=
  s.answer (r.map fun v => s.result d v len)

/-- `PADD`. R40: Advances a pointer by an element count of a class. -/
def execPadd (d : Sel) (a : Sel) (b : Src) (c : Cls) (s : State) : Host.Outcome State Fault Refusal :=
  pointer (ptrStep (s.rd a) (s.rdSrc b).toInt c) d (srcWords b) s

/-- `PSUB`. R40: Moves a pointer back by an element count. -/
def execPsub (d : Sel) (a : Sel) (b : Src) (c : Cls) (s : State) : Host.Outcome State Fault Refusal :=
  pointer (ptrStep (s.rd a) (-(s.rdSrc b).toInt) c) d (srcWords b) s

/-- `PDIFF`. R40: Element distance between two pointers. -/
def execPdiff (d : Sel) (a : Sel) (b : Src) (c : Cls) (s : State) : Host.Outcome State Fault Refusal :=
  pointer (ptrDiff (s.rd a) (s.rdSrc b) c) d (srcWords b) s

/-- `PALN`. R40: Greatest legal address of the class at or below A. -/
def execPaln (d : Sel) (a : Sel) (c : Cls) (s : State) : Host.Outcome State Fault Refusal :=
  pointer (.ok (BitVec.ofNat 64 (alignDown (s.rd a).toNat c))) d 3 s

/-- `PCHK`. R41: Returns the check mask for a run of elements. -/
def execPchk (d : Sel) (a : Sel) (b : Src) (c : Cls) (s : State) : Host.Outcome State Fault Refusal :=
  pointer (.ok (ptrCheck (s.rd a) (s.rdSrc b).toInt c)) d (srcWords b) s

/-- `PWIN`. R40: Forms a scratchpad-window address. -/
def execPwin (d : Sel) (a : Sel) (b : Src) (c : Cls) (s : State) : Host.Outcome State Fault Refusal :=
  pointer (ptrWin (s.rd a) (s.rdSrc b) c) d (srcWords b) s

/-- `PCORE`. R40: Decodes package and core from a window address. -/
def execPcore (d : Sel) (a : Sel) (s : State) : Host.Outcome State Fault Refusal :=
  pointer (.ok (ptrCore (s.rd a))) d 3 s

end Sys2Proof.Machine
end

