-- ==== Sys2Proof/Machine/Priv.lean ====
section
/-! DEFINITION. The privileged instructions: CSRR CSRW CSRS CSRC ERET TLBW TLBI WAKE LEASEQ (R304 to R308, R335, R336, R338). -/

namespace Sys2Proof.Machine

/-- `CSRR` (R304): `CSR_ABSENT` for a number that is reserved or above 0xFFFF. -/
def State.csrr (s : State) (d : Sel) (num : Word) (len : Nat) : Res State := do
  s.endChunk
  match s.csrRead s.cur num.toNat with
  | some v => .ok ((s.wr d v).done len).once
  | none => .error (s.trap 0xA1 0)

/-- `CSRW`, `CSRS` and `CSRC` (R304): what `f` makes of the register's value is written to it. -/
def State.csrUpdate (s : State) (num : Word) (f : Word → Word) (len : Nat) : Res State := do
  s.endChunk
  match s.csrRead s.cur num.toNat with
  | none => .error (s.trap 0xA1 0)
  | some v =>
    match (s.done len).once.csrWrite s.cur num.toNat (f v) with
    | some t => .ok t
    | none => .error (s.trap 0xA1 0)

/-- The entry image at a G address, as a load reads it (R306). That of another package is a free value, and whether it comes is free
(R318). -/
def State.entryImage (s : State) (a : Word) : Res (BitVec 128) := do
  let p ← s.access s.cur .g a.toNat .w128 1 0
  match p with
  | .here b => do
    s.checkPoison .g .w128 0 a.toNat b 128
    .ok (BitVec.ofNat 128 (s.bits b 128))
  | .far q b => do
    ensure (s.hasRoute q && !s.free.getLsbD 0) (.trap 0xC2 a (addrExtra .g .w128 0))
    ensure (!Config.farPoison s.steps q.toNat b) (.trap 0xC0 a (addrExtra .g .w128 0))
    .ok (BitVec.ofNat 128 (Config.farMemory s.steps q.toNat b))
  | .io _ _ => .error (.trap 0x28 a (addrExtra .g .w128 0))

/-- `TLBW` (R306, R335): into the tile's TLB, and with s[63] into that of a taper core of the tile. -/
def State.tlbw (s : State) (a v : Word) (len : Nat) : Res State := do
  s.endChunk
  let tile := tileOf s.cur
  let c := v.toNat % 2 ^ 12
  let e ← s.entryImage a
  ensure (!v.getLsbD 63 || (isTaper c && c / 32 == tile)) (s.trap 0xA3 0)
  ensure (s.imageOk (s.ctxSel s.cur) e) (s.trap 0xA3 0)
  .ok (((s.hit s.cur .g a.toNat).fill tile (if v.getLsbD 63 then [c] else []) e).done len).once

/-- Whether an entry maps the page that holds an address of a context, or is any entry of it (R306). -/
def removes (ctx : Nat) (a : Word) (e : BitVec 128) : Bool :=
  pte e 38 8 == ctx && (a == BitVec.allOnes 64 || entryHits e ctx a.toNat)

/-- The tiles that `TLBI` acts on. -/
def State.tlbiTiles (s : State) (v : Word) : List Nat := if v = 0 then [tileOf s.cur] else upFrom 0 96

/-- The strands of some tiles with an open chunk that may have translated through an entry to be removed (R336). -/
def State.chunksOpen (s : State) (tiles : List Nat) (ctx : Nat) : List Nat :=
  (s.strands.filter fun p => tiles.contains (tileOf p.1) && p.1 != s.cur && s.ctxOf p.1 == ctx && !p.2.chunk.fresh).map fun p => p.1

/-- Removes entries of a context from the TLBs of a tile and of its cores. What the context's walks in flight find is dropped, and their
accesses miss again (R336). -/
def State.tlbRemove (s : State) (ctx : Nat) (test : BitVec 128 → Bool) (tile : Nat) : State :=
  (upFrom (32 * tile) 32).foldl (fun a c => a.onCore c fun k => { k with tlb := k.tlb.filter fun e => !test e })
    (({ s with strands := s.strands.map fun p =>
        if tileOf p.1 = tile && s.ctxOf p.1 = ctx then (p.1, { p.2 with found := p.2.found.filter fun e => !test e }) else p } : State).onTile tile fun t =>
      { t with tlb := t.tlb.filter (fun e => !test e),
               walks := t.walks.map fun w => if w.ctx = ctx then { w with stale := true } else w })

/-- `TLBI` (R306, R336): entries of the CTXSEL context go from one tile or all; every chunk that translated through one has committed
or aborted by then: here those still open abort and are replayed. -/
def State.tlbi (s : State) (a v : Word) (len : Nat) : Res State := do
  s.endChunk
  ensure (v == 0 || v == 1) (s.trap 0xA3 0)
  let ctx := s.ctxSel s.cur
  let tiles := s.tlbiTiles v
  let s1 := (s.chunksOpen tiles ctx).foldl State.replay s
  .ok ((tiles.foldl (State.tlbRemove · ctx (removes ctx a)) s1).done len).once

/-- `WAKE` (R304): a HELD strand of the CTXSEL context in this package becomes READY; otherwise nothing. -/
def State.wake (s : State) (a : Word) (len : Nat) : Res State := do
  s.endChunk
  let n := a.toNat
  let t := s.strand n
  let hit := decide (n < 12288) && t.status == .held && t.bind.valid && t.bind.ctx == s.ctxSel s.cur
  let s1 := if hit then s.onStrand n fun t => { t with status := .ready } else s
  .ok (s1.done len).once

/-- What `LEASEQ` answers (R307, R338): the range of the served strand's launch, or the claim arena. -/
def State.leaseAt (s : State) (a : Nat) : Word :=
  let served : List (Nat × Nat × Rights) :=
    if s.csrAt 0x2 s.cur = 0 then []
    else
      match (s.tile (tileOf s.cur)).serving with
      | some n => ((s.launch (s.strand n).bind.launch).map Launch.ranges).getD []
      | none => []
  match (upFrom 0 served.length).find? fun i => inRange a 1 (served.getD i (0, 0, 0)) with
  | some i => BitVec.ofNat 64 (i % 16 + 2 ^ 4 * ((served.getD i (0, 0, 0)).2.2 % 16) + 2 ^ 63)
  | none =>
    match s.arena (s.ctxSel s.cur) with
    | some r => if inRange a 1 r then BitVec.ofNat 64 (2 ^ 4 * 7 + 2 ^ 62 + 2 ^ 63) else 0
    | none => 0

/-- `LEASEQ` (R307). -/
def State.leaseq (s : State) (d : Sel) (a : Word) (len : Nat) : Res State := do
  s.endChunk
  .ok ((s.wr d (s.leaseAt a.toNat)).done len).once

/-- `CSRR`. R304: Reads a control register. -/
def execCsrr (d : Sel) (n : Sel) (s : State) : Host.Outcome State Fault Refusal :=
  s.answer (s.csrr d (s.rd n) 1)

/-- `CSRR_LIT`. R304: CSRR with a literal CSR number. -/
def execCsrrLit (d : Sel) (n : Word) (s : State) : Host.Outcome State Fault Refusal :=
  s.answer (s.csrr d n 3)

/-- `CSRW`. R304: Writes a control register. -/
def execCsrw (n : Sel) (src : Sel) (s : State) : Host.Outcome State Fault Refusal :=
  s.answer (s.csrUpdate (s.rd n) (fun _ => s.rd src) 1)

/-- `CSRW_LIT`. R304: CSRW with a literal CSR number. -/
def execCsrwLit (n : Word) (src : Sel) (s : State) : Host.Outcome State Fault Refusal :=
  s.answer (s.csrUpdate n (fun _ => s.rd src) 3)

/-- `CSRS`. R304: Sets bits of a control register. -/
def execCsrs (n : Sel) (src : Sel) (s : State) : Host.Outcome State Fault Refusal :=
  s.answer (s.csrUpdate (s.rd n) (fun v => v ||| s.rd src) 1)

/-- `CSRS_LIT`. R304: CSRS with a literal CSR number. -/
def execCsrsLit (n : Word) (src : Sel) (s : State) : Host.Outcome State Fault Refusal :=
  s.answer (s.csrUpdate n (fun v => v ||| s.rd src) 3)

/-- `CSRC`. R304: Clears bits of a control register. -/
def execCsrc (n : Sel) (src : Sel) (s : State) : Host.Outcome State Fault Refusal :=
  s.answer (s.csrUpdate (s.rd n) (fun v => v &&& ~~~(s.rd src)) 1)

/-- `CSRC_LIT`. R304: CSRC with a literal CSR number. -/
def execCsrcLit (n : Word) (src : Sel) (s : State) : Host.Outcome State Fault Refusal :=
  s.answer (s.csrUpdate n (fun v => v &&& ~~~(s.rd src)) 3)

/-- `ERET`. R305: Resumes, ends or holds the served strand from its trap frame. -/
def execEret (a : Sel) (s : State) : Host.Outcome State Fault Refusal :=
  s.answer (s.eret (s.rd a) 1)

/-- `ERET_LIT`. R305: ERET with a literal mode. -/
def execEretLit (a : Word) (s : State) : Host.Outcome State Fault Refusal :=
  s.answer (s.eret a 3)

/-- `TLBW`. R306: Installs a checked TLB entry image. -/
def execTlbw (a : Sel) (src : Sel) (s : State) : Host.Outcome State Fault Refusal :=
  s.answer (s.tlbw (s.rd a) (s.rd src) 1)

/-- `TLBW_LIT`. R306: TLBW with a literal image address. -/
def execTlbwLit (a : Word) (src : Sel) (s : State) : Host.Outcome State Fault Refusal :=
  s.answer (s.tlbw a (s.rd src) 3)

/-- `TLBI`. R306: Invalidates TLB entries on a tile or the package. -/
def execTlbi (a : Sel) (src : Sel) (s : State) : Host.Outcome State Fault Refusal :=
  s.answer (s.tlbi (s.rd a) (s.rd src) 1)

/-- `TLBI_LIT`. R306: TLBI with a literal address. -/
def execTlbiLit (a : Word) (src : Sel) (s : State) : Host.Outcome State Fault Refusal :=
  s.answer (s.tlbi a (s.rd src) 3)

/-- `WAKE`. R304: Makes a HELD strand ready. -/
def execWake (a : Sel) (s : State) : Host.Outcome State Fault Refusal :=
  s.answer (s.wake (s.rd a) 1)

/-- `WAKE_LIT`. R304: WAKE with a literal strand number. -/
def execWakeLit (a : Word) (s : State) : Host.Outcome State Fault Refusal :=
  s.answer (s.wake a 3)

/-- `LEASEQ`. R307: Queries the lease range holding an address. -/
def execLeaseq (d : Sel) (a : Sel) (s : State) : Host.Outcome State Fault Refusal :=
  s.answer (s.leaseq d (s.rd a) 1)

/-- `LEASEQ_LIT`. R307: LEASEQ with a literal address. -/
def execLeaseqLit (d : Sel) (a : Word) (s : State) : Host.Outcome State Fault Refusal :=
  s.answer (s.leaseq d a 3)

end Sys2Proof.Machine
end

