-- ==== Sys2Proof/Machine/Dispatch.lean ====
section
/-! DEFINITION. What each instruction does: one arm per constructor of Instr. -/

namespace Sys2Proof.Machine

/-- The meaning of an instruction, and of each step of another agent. -/
def exec (i : Instr) (s : State) : Host.Outcome State Fault Refusal :=
  match i with
  | .add d a b => Sys2Proof.Machine.execAdd d a b s
  | .addLit d a b => Sys2Proof.Machine.execAddLit d a b s
  | .sub d a b => Sys2Proof.Machine.execSub d a b s
  | .subLit d a b => Sys2Proof.Machine.execSubLit d a b s
  | .and d a b => Sys2Proof.Machine.execAnd d a b s
  | .andLit d a b => Sys2Proof.Machine.execAndLit d a b s
  | .or d a b => Sys2Proof.Machine.execOr d a b s
  | .orLit d a b => Sys2Proof.Machine.execOrLit d a b s
  | .xor d a b => Sys2Proof.Machine.execXor d a b s
  | .xorLit d a b => Sys2Proof.Machine.execXorLit d a b s
  | .andn d a b => Sys2Proof.Machine.execAndn d a b s
  | .andnLit d a b => Sys2Proof.Machine.execAndnLit d a b s
  | .min d a b => Sys2Proof.Machine.execMin d a b s
  | .minLit d a b => Sys2Proof.Machine.execMinLit d a b s
  | .max d a b => Sys2Proof.Machine.execMax d a b s
  | .maxLit d a b => Sys2Proof.Machine.execMaxLit d a b s
  | .minu d a b => Sys2Proof.Machine.execMinu d a b s
  | .minuLit d a b => Sys2Proof.Machine.execMinuLit d a b s
  | .maxu d a b => Sys2Proof.Machine.execMaxu d a b s
  | .maxuLit d a b => Sys2Proof.Machine.execMaxuLit d a b s
  | .shl d a b => Sys2Proof.Machine.execShl d a b s
  | .shlLit d a b => Sys2Proof.Machine.execShlLit d a b s
  | .shr d a b => Sys2Proof.Machine.execShr d a b s
  | .shrLit d a b => Sys2Proof.Machine.execShrLit d a b s
  | .shra d a b => Sys2Proof.Machine.execShra d a b s
  | .shraLit d a b => Sys2Proof.Machine.execShraLit d a b s
  | .rot d a b => Sys2Proof.Machine.execRot d a b s
  | .rotLit d a b => Sys2Proof.Machine.execRotLit d a b s
  | .mul d a b => Sys2Proof.Machine.execMul d a b s
  | .mulLit d a b => Sys2Proof.Machine.execMulLit d a b s
  | .mulh d a b => Sys2Proof.Machine.execMulh d a b s
  | .mulhLit d a b => Sys2Proof.Machine.execMulhLit d a b s
  | .mulhu d a b => Sys2Proof.Machine.execMulhu d a b s
  | .mulhuLit d a b => Sys2Proof.Machine.execMulhuLit d a b s
  | .div d a b => Sys2Proof.Machine.execDiv d a b s
  | .divLit d a b => Sys2Proof.Machine.execDivLit d a b s
  | .divu d a b => Sys2Proof.Machine.execDivu d a b s
  | .divuLit d a b => Sys2Proof.Machine.execDivuLit d a b s
  | .rem d a b => Sys2Proof.Machine.execRem d a b s
  | .remLit d a b => Sys2Proof.Machine.execRemLit d a b s
  | .remu d a b => Sys2Proof.Machine.execRemu d a b s
  | .remuLit d a b => Sys2Proof.Machine.execRemuLit d a b s
  | .seteq d a b => Sys2Proof.Machine.execSeteq d a b s
  | .seteqLit d a b => Sys2Proof.Machine.execSeteqLit d a b s
  | .setlt d a b => Sys2Proof.Machine.execSetlt d a b s
  | .setltLit d a b => Sys2Proof.Machine.execSetltLit d a b s
  | .setltu d a b => Sys2Proof.Machine.execSetltu d a b s
  | .setltuLit d a b => Sys2Proof.Machine.execSetltuLit d a b s
  | .setne d a b => Sys2Proof.Machine.execSetne d a b s
  | .setneLit d a b => Sys2Proof.Machine.execSetneLit d a b s
  | .setge d a b => Sys2Proof.Machine.execSetge d a b s
  | .setgeLit d a b => Sys2Proof.Machine.execSetgeLit d a b s
  | .setgeu d a b => Sys2Proof.Machine.execSetgeu d a b s
  | .setgeuLit d a b => Sys2Proof.Machine.execSetgeuLit d a b s
  | .adds d a b => Sys2Proof.Machine.execAdds d a b s
  | .addsLit d a b => Sys2Proof.Machine.execAddsLit d a b s
  | .subs d a b => Sys2Proof.Machine.execSubs d a b s
  | .subsLit d a b => Sys2Proof.Machine.execSubsLit d a b s
  | .csel d a b => Sys2Proof.Machine.execCsel d a b s
  | .cselLit d a b => Sys2Proof.Machine.execCselLit d a b s
  | .absd d a b => Sys2Proof.Machine.execAbsd d a b s
  | .absdLit d a b => Sys2Proof.Machine.execAbsdLit d a b s
  | .addi d a imm => Sys2Proof.Machine.execAddi d a imm s
  | .andi d a imm => Sys2Proof.Machine.execAndi d a imm s
  | .ori d a imm => Sys2Proof.Machine.execOri d a imm s
  | .xori d a imm => Sys2Proof.Machine.execXori d a imm s
  | .shli d a amt => Sys2Proof.Machine.execShli d a amt s
  | .shri d a amt => Sys2Proof.Machine.execShri d a amt s
  | .shrai d a amt => Sys2Proof.Machine.execShrai d a amt s
  | .roti d a amt => Sys2Proof.Machine.execRoti d a amt s
  | .setlti d a imm => Sys2Proof.Machine.execSetlti d a imm s
  | .mov d a => Sys2Proof.Machine.execMov d a s
  | .movLit d a => Sys2Proof.Machine.execMovLit d a s
  | .neg d a => Sys2Proof.Machine.execNeg d a s
  | .negLit d a => Sys2Proof.Machine.execNegLit d a s
  | .not d a => Sys2Proof.Machine.execNot d a s
  | .notLit d a => Sys2Proof.Machine.execNotLit d a s
  | .clz d a => Sys2Proof.Machine.execClz d a s
  | .clzLit d a => Sys2Proof.Machine.execClzLit d a s
  | .ctz d a => Sys2Proof.Machine.execCtz d a s
  | .ctzLit d a => Sys2Proof.Machine.execCtzLit d a s
  | .popc d a => Sys2Proof.Machine.execPopc d a s
  | .popcLit d a => Sys2Proof.Machine.execPopcLit d a s
  | .brev d a => Sys2Proof.Machine.execBrev d a s
  | .brevLit d a => Sys2Proof.Machine.execBrevLit d a s
  | .sext d a => Sys2Proof.Machine.execSext d a s
  | .sextLit d a => Sys2Proof.Machine.execSextLit d a s
  | .zext d a => Sys2Proof.Machine.execZext d a s
  | .zextLit d a => Sys2Proof.Machine.execZextLit d a s
  | .movi d imm => Sys2Proof.Machine.execMovi d imm s
  | .moviLit d imm => Sys2Proof.Machine.execMoviLit d imm s
  | .extb d a b pos wid => Sys2Proof.Machine.execExtb d a b pos wid s
  | .extbs d a b pos wid => Sys2Proof.Machine.execExtbs d a b pos wid s
  | .insb d a b pos wid => Sys2Proof.Machine.execInsb d a b pos wid s
  | .padd d a b c => Sys2Proof.Machine.execPadd d a b c s
  | .psub d a b c => Sys2Proof.Machine.execPsub d a b c s
  | .pdiff d a b c => Sys2Proof.Machine.execPdiff d a b c s
  | .paln d a c => Sys2Proof.Machine.execPaln d a c s
  | .pchk d a b c => Sys2Proof.Machine.execPchk d a b c s
  | .pwin d a b c => Sys2Proof.Machine.execPwin d a b c s
  | .pcore d a => Sys2Proof.Machine.execPcore d a s
  | .fadd d a b => Sys2Proof.Machine.execFadd d a b s
  | .faddLit d a b => Sys2Proof.Machine.execFaddLit d a b s
  | .fsub d a b => Sys2Proof.Machine.execFsub d a b s
  | .fsubLit d a b => Sys2Proof.Machine.execFsubLit d a b s
  | .fmul d a b => Sys2Proof.Machine.execFmul d a b s
  | .fmulLit d a b => Sys2Proof.Machine.execFmulLit d a b s
  | .fdiv d a b => Sys2Proof.Machine.execFdiv d a b s
  | .fdivLit d a b => Sys2Proof.Machine.execFdivLit d a b s
  | .fmin d a b => Sys2Proof.Machine.execFmin d a b s
  | .fminLit d a b => Sys2Proof.Machine.execFminLit d a b s
  | .fmax d a b => Sys2Proof.Machine.execFmax d a b s
  | .fmaxLit d a b => Sys2Proof.Machine.execFmaxLit d a b s
  | .fminn d a b => Sys2Proof.Machine.execFminn d a b s
  | .fminnLit d a b => Sys2Proof.Machine.execFminnLit d a b s
  | .fmaxn d a b => Sys2Proof.Machine.execFmaxn d a b s
  | .fmaxnLit d a b => Sys2Proof.Machine.execFmaxnLit d a b s
  | .fma d a b => Sys2Proof.Machine.execFma d a b s
  | .fmaLit d a b => Sys2Proof.Machine.execFmaLit d a b s
  | .fms d a b => Sys2Proof.Machine.execFms d a b s
  | .fmsLit d a b => Sys2Proof.Machine.execFmsLit d a b s
  | .fsqrt d a => Sys2Proof.Machine.execFsqrt d a s
  | .frcp d a => Sys2Proof.Machine.execFrcp d a s
  | .fcmpeq d a b => Sys2Proof.Machine.execFcmpeq d a b s
  | .fcmpeqLit d a b => Sys2Proof.Machine.execFcmpeqLit d a b s
  | .fcmplt d a b => Sys2Proof.Machine.execFcmplt d a b s
  | .fcmpltLit d a b => Sys2Proof.Machine.execFcmpltLit d a b s
  | .fcmple d a b => Sys2Proof.Machine.execFcmple d a b s
  | .fcmpleLit d a b => Sys2Proof.Machine.execFcmpleLit d a b s
  | .fclass d a => Sys2Proof.Machine.execFclass d a s
  | .fcvt d a td ts x => Sys2Proof.Machine.execFcvt d a td ts x s
  | .fsx d a => Sys2Proof.Machine.execFsx d a s
  | .fsr d => Sys2Proof.Machine.execFsr d s
  | .br off => Sys2Proof.Machine.execBr off s
  | .beq a b off => Sys2Proof.Machine.execBeq a b off s
  | .beqExt a b off => Sys2Proof.Machine.execBeqExt a b off s
  | .beqLit a b off => Sys2Proof.Machine.execBeqLit a b off s
  | .beqExtLit a b off => Sys2Proof.Machine.execBeqExtLit a b off s
  | .bne a b off => Sys2Proof.Machine.execBne a b off s
  | .bneExt a b off => Sys2Proof.Machine.execBneExt a b off s
  | .bneLit a b off => Sys2Proof.Machine.execBneLit a b off s
  | .bneExtLit a b off => Sys2Proof.Machine.execBneExtLit a b off s
  | .blt a b off => Sys2Proof.Machine.execBlt a b off s
  | .bltExt a b off => Sys2Proof.Machine.execBltExt a b off s
  | .bltLit a b off => Sys2Proof.Machine.execBltLit a b off s
  | .bltExtLit a b off => Sys2Proof.Machine.execBltExtLit a b off s
  | .bge a b off => Sys2Proof.Machine.execBge a b off s
  | .bgeExt a b off => Sys2Proof.Machine.execBgeExt a b off s
  | .bgeLit a b off => Sys2Proof.Machine.execBgeLit a b off s
  | .bgeExtLit a b off => Sys2Proof.Machine.execBgeExtLit a b off s
  | .bltu a b off => Sys2Proof.Machine.execBltu a b off s
  | .bltuExt a b off => Sys2Proof.Machine.execBltuExt a b off s
  | .bltuLit a b off => Sys2Proof.Machine.execBltuLit a b off s
  | .bltuExtLit a b off => Sys2Proof.Machine.execBltuExtLit a b off s
  | .bgeu a b off => Sys2Proof.Machine.execBgeu a b off s
  | .bgeuExt a b off => Sys2Proof.Machine.execBgeuExt a b off s
  | .bgeuLit a b off => Sys2Proof.Machine.execBgeuLit a b off s
  | .bgeuExtLit a b off => Sys2Proof.Machine.execBgeuExtLit a b off s
  | .bwend a b off => Sys2Proof.Machine.execBwend a b off s
  | .bwendExt a b off => Sys2Proof.Machine.execBwendExt a b off s
  | .bwendLit a b off => Sys2Proof.Machine.execBwendLit a b off s
  | .bwendExtLit a b off => Sys2Proof.Machine.execBwendExtLit a b off s
  | .bnz a off => Sys2Proof.Machine.execBnz a off s
  | .bnzExt a off => Sys2Proof.Machine.execBnzExt a off s
  | .loop ctr cnt body => Sys2Proof.Machine.execLoop ctr cnt body s
  | .loopLit ctr cnt body => Sys2Proof.Machine.execLoopLit ctr cnt body s
  | .wset1 w b s0 n0 => Sys2Proof.Machine.execWset1 w b s0 n0 s
  | .wset2 w b s0 n0 s1 n1 => Sys2Proof.Machine.execWset2 w b s0 n0 s1 n1 s
  | .wset3 w b s0 n0 s1 n1 s2 n2 => Sys2Proof.Machine.execWset3 w b s0 n0 s1 n1 s2 n2 s
  | .wget d w item la => Sys2Proof.Machine.execWget d w item la s
  | .wclr w => Sys2Proof.Machine.execWclr w s
  | .calld idx => Sys2Proof.Machine.execCalld idx s
  | .ret => Sys2Proof.Machine.execRet s
  | .callx a => Sys2Proof.Machine.execCallx a s
  | .region => Sys2Proof.Machine.execRegion s
  | .yield => Sys2Proof.Machine.execYield s
  | .stop => Sys2Proof.Machine.execStop s
  | .trap a => Sys2Proof.Machine.execTrap a s
  | .brk => Sys2Proof.Machine.execBrk s
  | .nop => Sys2Proof.Machine.execNop s
  | .spawnd idx => Sys2Proof.Machine.execSpawnd idx s
  | .sync => Sys2Proof.Machine.execSync s
  | .range a => Sys2Proof.Machine.execRange a s
  | .rnext d => Sys2Proof.Machine.execRnext d s
  | .enq d a => Sys2Proof.Machine.execEnq d a s
  | .enqLit d a => Sys2Proof.Machine.execEnqLit d a s
  | .deq d a => Sys2Proof.Machine.execDeq d a s
  | .deqLit d a => Sys2Proof.Machine.execDeqLit d a s
  | .sendm tok a => Sys2Proof.Machine.execSendm tok a s
  | .sendmLit tok a => Sys2Proof.Machine.execSendmLit tok a s
  | .ldp am w base d la => Sys2Proof.Machine.execLdp am w base d la s
  | .ldpExt am w base d la off idx sx => Sys2Proof.Machine.execLdpExt am w base d la off idx sx s
  | .stp am w base src => Sys2Proof.Machine.execStp am w base src s
  | .stpExt am w base src off idx => Sys2Proof.Machine.execStpExt am w base src off idx s
  | .ldg am w base d la => Sys2Proof.Machine.execLdg am w base d la s
  | .ldgExt am w base d la off idx sx => Sys2Proof.Machine.execLdgExt am w base d la off idx sx s
  | .stg am w base src => Sys2Proof.Machine.execStg am w base src s
  | .stgExt am w base src off idx => Sys2Proof.Machine.execStgExt am w base src off idx s
  | .ldk am w base d la => Sys2Proof.Machine.execLdk am w base d la s
  | .ldkExt am w base d la off idx sx => Sys2Proof.Machine.execLdkExt am w base d la off idx sx s
  | .vldp am w base v la => Sys2Proof.Machine.execVldp am w base v la s
  | .vldpExt am w base v la off => Sys2Proof.Machine.execVldpExt am w base v la off s
  | .vstp am w base v => Sys2Proof.Machine.execVstp am w base v s
  | .vstpExt am w base v off desc => Sys2Proof.Machine.execVstpExt am w base v off desc s
  | .vldg am w base v la => Sys2Proof.Machine.execVldg am w base v la s
  | .vldgExt am w base v la off => Sys2Proof.Machine.execVldgExt am w base v la off s
  | .vstg am w base v => Sys2Proof.Machine.execVstg am w base v s
  | .vstgExt am w base v off desc => Sys2Proof.Machine.execVstgExt am w base v off desc s
  | .vgath w base v la off desc => Sys2Proof.Machine.execVgath w base v la off desc s
  | .vscat w base v off desc => Sys2Proof.Machine.execVscat w base v off desc s
  | .iold am w base d la => Sys2Proof.Machine.execIold am w base d la s
  | .ioldExt am w base d la off idx => Sys2Proof.Machine.execIoldExt am w base d la off idx s
  | .iost am w base src off idx => Sys2Proof.Machine.execIost am w base src off idx s
  | .fence => Sys2Proof.Machine.execFence s
  | .fencep => Sys2Proof.Machine.execFencep s
  | .fenceio => Sys2Proof.Machine.execFenceio s
  | .drain => Sys2Proof.Machine.execDrain s
  | .cpy tok la p1 p2 p3 p4 f => Sys2Proof.Machine.execCpy tok la p1 p2 p3 p4 f s
  | .cpym tok la p1 p2 p3 p4 p5 f => Sys2Proof.Machine.execCpym tok la p1 p2 p3 p4 p5 f s
  | .cpyr tok la p1 p2 p3 p4 f => Sys2Proof.Machine.execCpyr tok la p1 p2 p3 p4 f s
  | .cpys tok la slot p2 p3 p4 p5 f => Sys2Proof.Machine.execCpys tok la slot p2 p3 p4 p5 f s
  | .cpyc tok la p1 p2 p3 p4 dsp ssp kind => Sys2Proof.Machine.execCpyc tok la p1 p2 p3 p4 dsp ssp kind s
  | .cpyz tok la p1 p2 p3 p4 dsp ssp kind => Sys2Proof.Machine.execCpyz tok la p1 p2 p3 p4 dsp ssp kind s
  | .tpoll d t la => Sys2Proof.Machine.execTpoll d t la s
  | .twaita d m any la => Sys2Proof.Machine.execTwaita d m any la s
  | .vadd t k d a b rm => Sys2Proof.Machine.execVadd t k d a b rm s
  | .vsub t k d a b rm => Sys2Proof.Machine.execVsub t k d a b rm s
  | .vmul t k d a b rm => Sys2Proof.Machine.execVmul t k d a b rm s
  | .vfma t k d a b c rm => Sys2Proof.Machine.execVfma t k d a b c rm s
  | .vfms t k d a b c rm => Sys2Proof.Machine.execVfms t k d a b c rm s
  | .vmin t k d a b => Sys2Proof.Machine.execVmin t k d a b s
  | .vmax t k d a b => Sys2Proof.Machine.execVmax t k d a b s
  | .vminn t k d a b => Sys2Proof.Machine.execVminn t k d a b s
  | .vmaxn t k d a b => Sys2Proof.Machine.execVmaxn t k d a b s
  | .vabs t k d a sat => Sys2Proof.Machine.execVabs t k d a sat s
  | .vneg t k d a sat => Sys2Proof.Machine.execVneg t k d a sat s
  | .vadds t k d a b => Sys2Proof.Machine.execVadds t k d a b s
  | .vsubs t k d a b => Sys2Proof.Machine.execVsubs t k d a b s
  | .vmulh t k d a b => Sys2Proof.Machine.execVmulh t k d a b s
  | .vand t k d a b => Sys2Proof.Machine.execVand t k d a b s
  | .vor t k d a b => Sys2Proof.Machine.execVor t k d a b s
  | .vxor t k d a b => Sys2Proof.Machine.execVxor t k d a b s
  | .vandn t k d a b => Sys2Proof.Machine.execVandn t k d a b s
  | .vnot t k d a => Sys2Proof.Machine.execVnot t k d a s
  | .vshl t k d a amt => Sys2Proof.Machine.execVshl t k d a amt s
  | .vshr t k d a amt => Sys2Proof.Machine.execVshr t k d a amt s
  | .vshra t k d a amt => Sys2Proof.Machine.execVshra t k d a amt s
  | .vcmpeq t k m a b => Sys2Proof.Machine.execVcmpeq t k m a b s
  | .vcmpne t k m a b => Sys2Proof.Machine.execVcmpne t k m a b s
  | .vcmplt t k m a b => Sys2Proof.Machine.execVcmplt t k m a b s
  | .vcmple t k m a b => Sys2Proof.Machine.execVcmple t k m a b s
  | .vsel t k d a b => Sys2Proof.Machine.execVsel t k d a b s
  | .vclass t k d a => Sys2Proof.Machine.execVclass t k d a s
  | .vshuf t t2 k d a b => Sys2Proof.Machine.execVshuf t t2 k d a b s
  | .vbcast t k d a3 => Sys2Proof.Machine.execVbcast t k d a3 s
  | .vslide t k d a b n => Sys2Proof.Machine.execVslide t k d a b n s
  | .vidx t k d a3 => Sys2Proof.Machine.execVidx t k d a3 s
  | .vmovs t d a n => Sys2Proof.Machine.execVmovs t d a n s
  | .vmovv t d a2 n => Sys2Proof.Machine.execVmovv t d a2 n s
  | .vpack t t2 k d a n sat => Sys2Proof.Machine.execVpack t t2 k d a n sat s
  | .vunpk t t2 k d a n sat => Sys2Proof.Machine.execVunpk t t2 k d a n sat s
  | .vred t k op d a rm sat => Sys2Proof.Machine.execVred t k op d a rm sat s
  | .vcvt t t2 k d a b n rm sat => Sys2Proof.Machine.execVcvt t t2 k d a b n rm sat s
  | .vqnt t t2 k d a b g n rm => Sys2Proof.Machine.execVqnt t t2 k d a b g n rm s
  | .vdqnt t t2 k d a b g n rm => Sys2Proof.Machine.execVdqnt t t2 k d a b g n rm s
  | .vqdiv t t2 k d a b g n rm => Sys2Proof.Machine.execVqdiv t t2 k d a b g n rm s
  | .vsend a cons sp a3 => Sys2Proof.Machine.execVsend a cons sp a3 s
  | .vsendPlacement n => Sys2Proof.Machine.execVsendPlacement n s
  | .vitp t t2 k d x tbl rm => Sys2Proof.Machine.execVitp t t2 k d x tbl rm s
  | .tload tbl a1 => Sys2Proof.Machine.execTload tbl a1 s
  | .mand d a b => Sys2Proof.Machine.execMand d a b s
  | .mor d a b => Sys2Proof.Machine.execMor d a b s
  | .mxor d a b => Sys2Proof.Machine.execMxor d a b s
  | .mnot d a => Sys2Proof.Machine.execMnot d a s
  | .mcnt t d a => Sys2Proof.Machine.execMcnt t d a s
  | .mfirst t d a => Sys2Proof.Machine.execMfirst t d a s
  | .msetg d a1 p => Sys2Proof.Machine.execMsetg d a1 p s
  | .msetgPre d a1 => Sys2Proof.Machine.execMsetgPre d a1 s
  | .mgetg d a p => Sys2Proof.Machine.execMgetg d a p s
  | .slresv d m any la => Sys2Proof.Machine.execSlresv d m any la s
  | .slfree d m la => Sys2Proof.Machine.execSlfree d m la s
  | .mwld tok la slot off kdim ndim wf half => Sys2Proof.Machine.execMwld tok la slot off kdim ndim wf half s
  | .mstrm tok la src off m scale af acc tr => Sys2Proof.Machine.execMstrm tok la src off m scale af acc tr s
  | .mgrp tok la slot wmask counts scale af wf acc => Sys2Proof.Machine.execMgrp tok la slot wmask counts scale af wf acc s
  | .mdrn tok la dst region e df rm sat dsp acc clr => Sys2Proof.Machine.execMdrn tok la dst region e df rm sat dsp acc clr s
  | .mclr tok la e acc => Sys2Proof.Machine.execMclr tok la e acc s
  | .mcfg tok la cfg => Sys2Proof.Machine.execMcfg tok la cfg s
  | .mrmt tok la cap vr => Sys2Proof.Machine.execMrmt tok la cap vr s
  | .mcap d la ctx mask rights => Sys2Proof.Machine.execMcap d la ctx mask rights s
  | .addw tok la win src n sf => Sys2Proof.Machine.execAddw tok la win src n sf s
  | .wnorm tok la dst win n df rm => Sys2Proof.Machine.execWnorm tok la dst win n df rm s
  | .wzero tok la win n => Sys2Proof.Machine.execWzero tok la win n s
  | .amo am w base d la g op off v => Sys2Proof.Machine.execAmo am w base d la g op off v s
  | .red am w base g op off v => Sys2Proof.Machine.execRed am w base g op off v s
  | .cas am w base d la g off v => Sys2Proof.Machine.execCas am w base d la g off v s
  | .bari d h n la => Sys2Proof.Machine.execBari d h n la s
  | .bara d h la => Sys2Proof.Machine.execBara d h la s
  | .barw d h la => Sys2Proof.Machine.execBarw d h la s
  | .claim d hd v la => Sys2Proof.Machine.execClaim d hd v la s
  | .cwait d hd v la => Sys2Proof.Machine.execCwait d hd v la s
  | .fulfil d v hv la => Sys2Proof.Machine.execFulfil d v hv la s
  | .abandon d v la => Sys2Proof.Machine.execAbandon d v la s
  | .unpin d v la => Sys2Proof.Machine.execUnpin d v la s
  | .cpeek d hd v la => Sys2Proof.Machine.execCpeek d hd v la s
  | .csrr d n => Sys2Proof.Machine.execCsrr d n s
  | .csrrLit d n => Sys2Proof.Machine.execCsrrLit d n s
  | .csrw n a1 => Sys2Proof.Machine.execCsrw n a1 s
  | .csrwLit n a1 => Sys2Proof.Machine.execCsrwLit n a1 s
  | .csrs n a1 => Sys2Proof.Machine.execCsrs n a1 s
  | .csrsLit n a1 => Sys2Proof.Machine.execCsrsLit n a1 s
  | .csrc n a1 => Sys2Proof.Machine.execCsrc n a1 s
  | .csrcLit n a1 => Sys2Proof.Machine.execCsrcLit n a1 s
  | .eret a => Sys2Proof.Machine.execEret a s
  | .eretLit a => Sys2Proof.Machine.execEretLit a s
  | .tlbw a a1 => Sys2Proof.Machine.execTlbw a a1 s
  | .tlbwLit a a1 => Sys2Proof.Machine.execTlbwLit a a1 s
  | .tlbi a a1 => Sys2Proof.Machine.execTlbi a a1 s
  | .tlbiLit a a1 => Sys2Proof.Machine.execTlbiLit a a1 s
  | .wake a => Sys2Proof.Machine.execWake a s
  | .wakeLit a => Sys2Proof.Machine.execWakeLit a s
  | .leaseq d a => Sys2Proof.Machine.execLeaseq d a s
  | .leaseqLit d a => Sys2Proof.Machine.execLeaseqLit d a s
  | .chunkCommit n => Sys2Proof.Machine.execChunkCommit n s
  | .soloCommitGrant n => Sys2Proof.Machine.execSoloCommitGrant n s
  | .chunkInstructionLimit n => Sys2Proof.Machine.execChunkInstructionLimit n s
  | .storeBufferFull n => Sys2Proof.Machine.execStoreBufferFull n s
  | .loadReply n data => Sys2Proof.Machine.execLoadReply n data s
  | .atomicApplication pkg who tag bit w op v e => Sys2Proof.Machine.execAtomicApplication pkg who tag bit w op v e s
  | .atomicReply n data => Sys2Proof.Machine.execAtomicReply n data s
  | .copyCommandAcceptance core => Sys2Proof.Machine.execCopyCommandAcceptance core s
  | .copySectorWrite core => Sys2Proof.Machine.execCopySectorWrite core s
  | .copyCommandCompletion core => Sys2Proof.Machine.execCopyCommandCompletion core s
  | .matrixCommandAcceptance core => Sys2Proof.Machine.execMatrixCommandAcceptance core s
  | .matrixCommandStart core => Sys2Proof.Machine.execMatrixCommandStart core s
  | .matrixCommandCompletion core => Sys2Proof.Machine.execMatrixCommandCompletion core s
  | .remoteCommandArrival owner sender ctx cap image => Sys2Proof.Machine.execRemoteCommandArrival owner sender ctx cap image s
  | .steal thief => Sys2Proof.Machine.execSteal thief s
  | .spanSplit thief => Sys2Proof.Machine.execSpanSplit thief s
  | .taskEnd n => Sys2Proof.Machine.execTaskEnd n s
  | .workSearchRetry n => Sys2Proof.Machine.execWorkSearchRetry n s
  | .messageFrameArrival f => Sys2Proof.Machine.execMessageFrameArrival f s
  | .inboxSpill core => Sys2Proof.Machine.execInboxSpill core s
  | .inboxReplay core => Sys2Proof.Machine.execInboxReplay core s
  | .sendmAcceptTimeout n tok => Sys2Proof.Machine.execSendmAcceptTimeout n tok s
  | .stageGovernorEvaluation launch => Sys2Proof.Machine.execStageGovernorEvaluation launch s
  | .stageCoreMove core => Sys2Proof.Machine.execStageCoreMove core s
  | .tailwindBinChange tile => Sys2Proof.Machine.execTailwindBinChange tile s
  | .codeWaitExpiry n => Sys2Proof.Machine.execCodeWaitExpiry n s
  | .codeSourceAnswer req a => Sys2Proof.Machine.execCodeSourceAnswer req a s
  | .codeSourceTimeLimit req => Sys2Proof.Machine.execCodeSourceTimeLimit req s
  | .codeTranslationEnd req => Sys2Proof.Machine.execCodeTranslationEnd req s
  | .codeInstall req => Sys2Proof.Machine.execCodeInstall req s
  | .coldTextFetch handle => Sys2Proof.Machine.execColdTextFetch handle s
  | .codePoisonRefetch n clean => Sys2Proof.Machine.execCodePoisonRefetch n clean s
  | .codeShelfRead req bucket item => Sys2Proof.Machine.execCodeShelfRead req bucket item s
  | .codeRequestFlit req a => Sys2Proof.Machine.execCodeRequestFlit req a s
  | .tlbMiss n => Sys2Proof.Machine.execTlbMiss n s
  | .tlbProbe n size => Sys2Proof.Machine.execTlbProbe n size s
  | .tlbProbeReply n size entry => Sys2Proof.Machine.execTlbProbeReply n size entry s
  | .tlbFill n entry => Sys2Proof.Machine.execTlbFill n entry s
  | .tlbFail n => Sys2Proof.Machine.execTlbFail n s
  | .queueNotify q port => Sys2Proof.Machine.execQueueNotify q port s
  | .queuePeriodicScan q => Sys2Proof.Machine.execQueuePeriodicScan q s
  | .partitionServiceRound => Sys2Proof.Machine.execPartitionServiceRound s
  | .leaseResident launch => Sys2Proof.Machine.execLeaseResident launch s
  | .launchBind launch => Sys2Proof.Machine.execLaunchBind launch s
  | .launchForward q record args => Sys2Proof.Machine.execLaunchForward q record args s
  | .memberReport launch pkg status cause field addr extra => Sys2Proof.Machine.execMemberReport launch pkg status cause field addr extra s
  | .launchEnd launch => Sys2Proof.Machine.execLaunchEnd launch s
  | .leaseDrained launch => Sys2Proof.Machine.execLeaseDrained launch s
  | .launchPreemption part => Sys2Proof.Machine.execLaunchPreemption part s
  | .lanternFrameStart tile thr => Sys2Proof.Machine.execLanternFrameStart tile thr s
  | .lanternSlotBoundary tile thr => Sys2Proof.Machine.execLanternSlotBoundary tile thr s
  | .trapDelivery n cause addr extra => Sys2Proof.Machine.execTrapDelivery n cause addr extra s
  | .trapHandlerStart tile => Sys2Proof.Machine.execTrapHandlerStart tile s
  | .lanternThreadFault n cause addr extra => Sys2Proof.Machine.execLanternThreadFault n cause addr extra s
  | .preemptionRequest ctx => Sys2Proof.Machine.execPreemptionRequest ctx s
  | .strandPreemption n => Sys2Proof.Machine.execStrandPreemption n s
  | .contextSave ctx => Sys2Proof.Machine.execContextSave ctx s
  | .contextRestore ctx => Sys2Proof.Machine.execContextRestore ctx s
  | .ctxResident ctx => Sys2Proof.Machine.execCtxResident ctx s
  | .ctxSuspend ctx => Sys2Proof.Machine.execCtxSuspend ctx s
  | .ctxResume ctx => Sys2Proof.Machine.execCtxResume ctx s
  | .ctxSwapOut ctx => Sys2Proof.Machine.execCtxSwapOut ctx s
  | .ctxTeardown ctx => Sys2Proof.Machine.execCtxTeardown ctx s
  | .ctxTeardownComplete ctx => Sys2Proof.Machine.execCtxTeardownComplete ctx s
  | .ctxdescWrite ctx v => Sys2Proof.Machine.execCtxdescWrite ctx v s
  | .icwaysWrite tile ctx v => Sys2Proof.Machine.execIcwaysWrite tile ctx v s
  | .hstatWrite unit v => Sys2Proof.Machine.execHstatWrite unit v s
  | .lfstatWrite thread v => Sys2Proof.Machine.execLfstatWrite thread v s
  | .hwinWrite v => Sys2Proof.Machine.execHwinWrite v s
  | .ptbitsWrite v => Sys2Proof.Machine.execPtbitsWrite v s
  | .claimbaseWrite ctx v => Sys2Proof.Machine.execClaimbaseWrite ctx v s
  | .claimlenWrite ctx v => Sys2Proof.Machine.execClaimlenWrite ctx v s
  | .registerWrite num scope v => Sys2Proof.Machine.execRegisterWrite num scope v s
  | .hleaseRenew port => Sys2Proof.Machine.execHleaseRenew port s
  | .hleasePeriodWrite port v => Sys2Proof.Machine.execHleasePeriodWrite port v s
  | .hostLeaseExpiry => Sys2Proof.Machine.execHostLeaseExpiry s
  | .dualEnable => Sys2Proof.Machine.execDualEnable s
  | .dualClear => Sys2Proof.Machine.execDualClear s
  | .portLinkDown port => Sys2Proof.Machine.execPortLinkDown port s
  | .portEnumeration port found => Sys2Proof.Machine.execPortEnumeration port found s
  | .bar2Write port off data => Sys2Proof.Machine.execBar2Write port off data s
  | .bar2Read port off len => Sys2Proof.Machine.execBar2Read port off len s
  | .inboundWrite port fn addr data poisoned => Sys2Proof.Machine.execInboundWrite port fn addr data poisoned s
  | .inboundRead port fn addr len => Sys2Proof.Machine.execInboundRead port fn addr len s
  | .iostAcceptance port => Sys2Proof.Machine.execIostAcceptance port s
  | .ioldCompletion n data error => Sys2Proof.Machine.execIoldCompletion n data error s
  | .ioldTimeout n => Sys2Proof.Machine.execIoldTimeout n s
  | .remoteAccessArrival pkg who tag bit w store => Sys2Proof.Machine.execRemoteAccessArrival pkg who tag bit w store s
  | .remoteReplyTimeout n => Sys2Proof.Machine.execRemoteReplyTimeout n s
  | .flitRetry link => Sys2Proof.Machine.execFlitRetry link s
  | .podLinkDown link => Sys2Proof.Machine.execPodLinkDown link s
  | .flitForward dest hops body => Sys2Proof.Machine.execFlitForward dest hops body s
  | .routeFailover dest => Sys2Proof.Machine.execRouteFailover dest s
  | .ckptStart => Sys2Proof.Machine.execCkptStart s
  | .checkpointQuiesced => Sys2Proof.Machine.execCheckpointQuiesced s
  | .checkpointQuiesceTimeout => Sys2Proof.Machine.execCheckpointQuiesceTimeout s
  | .checkpointWritten => Sys2Proof.Machine.execCheckpointWritten s
  | .checkpointWriteError => Sys2Proof.Machine.execCheckpointWriteError s
  | .checkpointFlushed => Sys2Proof.Machine.execCheckpointFlushed s
  | .ckptRestore => Sys2Proof.Machine.execCkptRestore s
  | .restoreComplete image => Sys2Proof.Machine.execRestoreComplete image s
  | .attestationNonceWrite a0 v => Sys2Proof.Machine.execAttestationNonceWrite a0 v s
  | .attreq v => Sys2Proof.Machine.execAttreq v s
  | .attestationReportReady => Sys2Proof.Machine.execAttestationReportReady s
  | .powerOn p => Sys2Proof.Machine.execPowerOn p s
  | .thermalHalt => Sys2Proof.Machine.execThermalHalt s
  | .thermalLimit tile => Sys2Proof.Machine.execThermalLimit tile s
  | .throttleBinStep core => Sys2Proof.Machine.execThrottleBinStep core s
  | .correctedError unit addr => Sys2Proof.Machine.execCorrectedError unit addr s
  | .uncorrectableError unit bit src => Sys2Proof.Machine.execUncorrectableError unit bit src s
  | .strandStateError n recoverable => Sys2Proof.Machine.execStrandStateError n recoverable s
  | .patrolScrub bit => Sys2Proof.Machine.execPatrolScrub bit s
  | .barometerDecay tile => Sys2Proof.Machine.execBarometerDecay tile s
  | .wearUpdate unit => Sys2Proof.Machine.execWearUpdate unit s
  | .trustListChange part => Sys2Proof.Machine.execTrustListChange part s
  | .powerFailure => Sys2Proof.Machine.execPowerFailure s
  | .thermalLimitCleared tile => Sys2Proof.Machine.execThermalLimitCleared tile s
  | .iostFailedBeyondPort port ctx addr => Sys2Proof.Machine.execIostFailedBeyondPort port ctx addr s
  | .claimRequestArrival r => Sys2Proof.Machine.execClaimRequestArrival r s
  | .inboundAtomicop port fn addr wide op v e => Sys2Proof.Machine.execInboundAtomicop port fn addr wide op v e s
  | .ioQueuePairCreation port fn depth sq cq => Sys2Proof.Machine.execIoQueuePairCreation port fn depth sq cq s
  | .rollbackFuseBlow count => Sys2Proof.Machine.execRollbackFuseBlow count s

end Sys2Proof.Machine
end

