-- ==== Sys2Proof/Machine/Issue.lean ====
section
/-! DEFINITION. Fetch, the checks before an instruction issues (R65, R310), the choice of what steps next, and one step of
the package. -/

namespace Sys2Proof.Machine
/-- The register that a source names, if it is no literal. -/
def srcNames (x : Src) : List Nat :=
  match x with
  | .sel a => [a.code.toNat]
  | .lit _ => []

/-- The register that a shift amount names. -/
def amtNames (x : VAmt) : List Nat :=
  match x with
  | .reg b => [128 + b.toNat]
  | .imm _ => []

/-- The register that a `VITP` source names. -/
def vinNames (x : VIn) : List Nat :=
  match x with
  | .reg a => [128 + a.toNat]
  | .vin => []

/-- The register that an index field names, which only the scaled mode uses (R58). -/
def idxNames (am : BitVec 2) (i : Sel) : List Nat := if am = 2 then [i.code.toNat] else []

/-- The register that a header-plane field names, which only a grouped side uses (R156). -/
def headNames (f : CopyFlags) (p4 : Sel) : List Nat := if f.sfmt.isGrouped || f.dfmt.isGrouped then [p4.code.toNat] else []

/-- The register that `MDRN`'s clear exponent names, which only CLR uses (R195). -/
def clearNames (clr : Bool) (e : Sel) : List Nat := if clr then [e.code.toNat] else []

/-- The registers that an instruction names, as sources or destinations: selector codes, and 128 + n for vector register n
(R50, R60). -/
def touches : Instr → List Nat
  | .add d a b | .sub d a b | .and d a b | .or d a b | .xor d a b | .andn d a b | .min d a b | .max d a b
   | .minu d a b | .maxu d a b | .shl d a b | .shr d a b | .shra d a b | .rot d a b | .mul d a b | .mulh d a b
   | .mulhu d a b | .div d a b | .divu d a b | .rem d a b | .remu d a b | .seteq d a b | .setlt d a b | .setltu d a b
   | .setne d a b | .setge d a b | .setgeu d a b | .adds d a b | .subs d a b | .csel d a b | .absd d a b | .fadd d a b
   | .fsub d a b | .fmul d a b | .fdiv d a b | .fmin d a b | .fmax d a b | .fminn d a b | .fmaxn d a b | .fma d a b
   | .fms d a b | .fcmpeq d a b | .fcmplt d a b | .fcmple d a b => [d.code.toNat, a.code.toNat, b.code.toNat]
  | .addLit d a _ | .subLit d a _ | .andLit d a _ | .orLit d a _ | .xorLit d a _ | .andnLit d a _ | .minLit d a _
   | .maxLit d a _ | .minuLit d a _ | .maxuLit d a _ | .shlLit d a _ | .shrLit d a _ | .shraLit d a _ | .rotLit d a _
   | .mulLit d a _ | .mulhLit d a _ | .mulhuLit d a _ | .divLit d a _ | .divuLit d a _ | .remLit d a _
   | .remuLit d a _ | .seteqLit d a _ | .setltLit d a _ | .setltuLit d a _ | .setneLit d a _ | .setgeLit d a _
   | .setgeuLit d a _ | .addsLit d a _ | .subsLit d a _ | .cselLit d a _ | .absdLit d a _ | .addi d a _ | .andi d a _
   | .ori d a _ | .xori d a _ | .shli d a _ | .shri d a _ | .shrai d a _ | .roti d a _ | .setlti d a _ | .mov d a
   | .neg d a | .not d a | .clz d a | .ctz d a | .popc d a | .brev d a | .sext d a | .zext d a | .paln d a _
   | .pcore d a | .faddLit d a _ | .fsubLit d a _ | .fmulLit d a _ | .fdivLit d a _ | .fminLit d a _ | .fmaxLit d a _
   | .fminnLit d a _ | .fmaxnLit d a _ | .fmaLit d a _ | .fmsLit d a _ | .fsqrt d a | .frcp d a | .fcmpeqLit d a _
   | .fcmpltLit d a _ | .fcmpleLit d a _ | .fclass d a | .fsx d a | .enq d a | .deq d a | .leaseq d a =>
    [d.code.toNat, a.code.toNat]
  | .movLit d _ | .negLit d _ | .notLit d _ | .clzLit d _ | .ctzLit d _ | .popcLit d _ | .brevLit d _ | .sextLit d _
   | .zextLit d _ | .movi d _ | .moviLit d _ | .fsr d | .wget d _ _ _ | .rnext d | .enqLit d _ | .deqLit d _
   | .mcnt _ d _ | .mfirst _ d _ | .mgetg d _ _ | .csrrLit d _ | .leaseqLit d _ => [d.code.toNat]
  | .extb d a b _ _ | .extbs d a b _ _ | .insb d a b _ _ | .padd d a b _ | .psub d a b _ | .pdiff d a b _
   | .pchk d a b _ | .pwin d a b _ => [d.code.toNat, a.code.toNat] ++ srcNames b
  | .fcvt d a _ _ _ => [d.code.toNat] ++ srcNames a
  | .beq a b _ | .beqExt a b _ | .bne a b _ | .bneExt a b _ | .blt a b _ | .bltExt a b _ | .bge a b _ | .bgeExt a b _
   | .bltu a b _ | .bltuExt a b _ | .bgeu a b _ | .bgeuExt a b _ | .bwend a b _ | .bwendExt a b _ =>
    [a.code.toNat, b.code.toNat]
  | .beqLit a _ _ | .beqExtLit a _ _ | .bneLit a _ _ | .bneExtLit a _ _ | .bltLit a _ _ | .bltExtLit a _ _
   | .bgeLit a _ _ | .bgeExtLit a _ _ | .bltuLit a _ _ | .bltuExtLit a _ _ | .bgeuLit a _ _ | .bgeuExtLit a _ _
   | .bwendLit a _ _ | .bwendExtLit a _ _ | .bnz a _ | .bnzExt a _ | .callx a | .trap a | .range a | .eret a | .wake a =>
    [a.code.toNat]
  | .loop _ cnt _ => [cnt.code.toNat]
  | .wset1 _ b s0 n0 => [b.code.toNat, s0.code.toNat, n0.code.toNat]
  | .wset2 _ b s0 n0 s1 n1 => [b.code.toNat, s0.code.toNat, n0.code.toNat, s1.code.toNat, n1.code.toNat]
  | .wset3 _ b s0 n0 s1 n1 s2 n2 =>
    [b.code.toNat, s0.code.toNat, n0.code.toNat, s1.code.toNat, n1.code.toNat, s2.code.toNat, n2.code.toNat]
  | .sendm tok a => [tok.toNat, a.code.toNat]
  | .sendmLit tok _ => [tok.toNat]
  | .ldp _ _ base d _ | .ldg _ _ base d _ | .ldk _ _ base d _ | .iold _ _ base d _ => [base.code.toNat, d.code.toNat]
  | .ldpExt am _ base d _ _ idx _ | .ldgExt am _ base d _ _ idx _ | .ldkExt am _ base d _ _ idx _
   | .ioldExt am _ base d _ _ idx => [base.code.toNat, d.code.toNat] ++ idxNames am idx
  | .stp _ _ base src | .stg _ _ base src => [base.code.toNat, src.code.toNat]
  | .stpExt am _ base src _ idx | .stgExt am _ base src _ idx | .iost am _ base src _ idx =>
    [base.code.toNat, src.code.toNat] ++ idxNames am idx
  | .vldp _ _ base v _ | .vldpExt _ _ base v _ _ | .vstp _ _ base v | .vldg _ _ base v _ | .vldgExt _ _ base v _ _
   | .vstg _ _ base v => [base.code.toNat, 128 + v.toNat]
  | .vstpExt _ _ base v _ desc | .vstgExt _ _ base v _ desc | .vgath _ base v _ _ desc | .vscat _ base v _ desc =>
    [base.code.toNat, 128 + v.toNat, desc.code.toNat]
  | .cpy tok _ p1 p2 p3 p4 f | .cpyr tok _ p1 p2 p3 p4 f =>
    [tok.toNat, p1.code.toNat, p2.code.toNat, p3.code.toNat] ++ headNames f p4
  | .cpym tok _ p1 p2 p3 p4 p5 f =>
    [tok.toNat, p1.code.toNat, p2.code.toNat, p3.code.toNat, p5.code.toNat] ++ headNames f p4
  | .cpys tok _ _ p2 p3 p4 p5 f => [tok.toNat, p2.code.toNat, p3.code.toNat, p5.code.toNat] ++ headNames f p4
  | .cpyc tok _ p1 p2 p3 p4 _ _ _ | .cpyz tok _ p1 p2 p3 p4 _ _ _ =>
    [tok.toNat, p1.code.toNat, p2.code.toNat, p3.code.toNat, p4.code.toNat]
  | .tpoll d t _ => [d.code.toNat, t.toNat]
  | .twaita d m _ _ => [d.code.toNat, m.code.toNat]
  | .vadd _ _ d a b _ | .vsub _ _ d a b _ | .vmul _ _ d a b _ | .vmin _ _ d a b | .vmax _ _ d a b | .vminn _ _ d a b
   | .vmaxn _ _ d a b | .vadds _ _ d a b | .vsubs _ _ d a b | .vmulh _ _ d a b | .vand _ _ d a b | .vor _ _ d a b
   | .vxor _ _ d a b | .vandn _ _ d a b | .vsel _ _ d a b | .vshuf _ _ _ d a b | .vslide _ _ d a b _
   | .vcvt _ _ _ d a b _ _ _ | .vqnt _ _ _ d a b _ _ _ | .vdqnt _ _ _ d a b _ _ _ | .vqdiv _ _ _ d a b _ _ _ =>
    [128 + d.toNat, 128 + a.toNat, 128 + b.toNat]
  | .vfma _ _ d a b c _ | .vfms _ _ d a b c _ => [128 + d.toNat, 128 + a.toNat, 128 + b.toNat, 128 + c.toNat]
  | .vabs _ _ d a _ | .vneg _ _ d a _ | .vnot _ _ d a | .vclass _ _ d a | .vpack _ _ _ d a _ _ | .vunpk _ _ _ d a _ _ =>
    [128 + d.toNat, 128 + a.toNat]
  | .vshl _ _ d a amt | .vshr _ _ d a amt | .vshra _ _ d a amt => [128 + d.toNat, 128 + a.toNat] ++ amtNames amt
  | .vcmpeq _ _ _ a b | .vcmpne _ _ _ a b | .vcmplt _ _ _ a b | .vcmple _ _ _ a b => [128 + a.toNat, 128 + b.toNat]
  | .vbcast _ _ d s | .vidx _ _ d s | .vmovv _ d s _ => [128 + d.toNat, s.code.toNat]
  | .vmovs _ d a _ | .vred _ _ _ d a _ _ => [d.code.toNat, 128 + a.toNat]
  | .vsend a cons _ s => [128 + a.toNat] ++ (if cons.getLsbD 2 then [s.code.toNat] else [])
  | .vitp _ _ _ d x _ _ => [128 + d.toNat] ++ vinNames x
  | .tload _ s | .msetg _ s _ | .msetgPre _ s | .csrwLit _ s | .csrsLit _ s | .csrcLit _ s | .tlbwLit _ s
   | .tlbiLit _ s => [s.code.toNat]
  | .slresv d m _ _ | .slfree d m _ => [d.toNat, m.code.toNat]
  | .mwld tok _ _ off kdim ndim _ _ => [tok.toNat, off.code.toNat, kdim.code.toNat, ndim.code.toNat]
  | .mstrm tok _ _ off m scale _ _ _ => [tok.toNat, off.code.toNat, m.code.toNat, scale.code.toNat]
  | .mgrp tok _ _ wmask counts scale _ _ _ => [tok.toNat, wmask.code.toNat, counts.code.toNat, scale.code.toNat]
  | .mdrn tok _ dst region e _ _ _ _ _ clr => [tok.toNat, dst.code.toNat, region.code.toNat] ++ clearNames clr e
  | .mclr tok _ e _ => [tok.toNat, e.code.toNat]
  | .mcfg tok _ cfg => [tok.toNat, cfg.code.toNat]
  | .mrmt tok _ cap vr => [tok.toNat, cap.code.toNat, 128 + vr.toNat]
  | .mcap d _ ctx mask _ => [d.toNat, ctx.code.toNat, mask.code.toNat]
  | .addw tok _ win src n _ => [tok.toNat, win.code.toNat, src.code.toNat, n.code.toNat]
  | .wnorm tok _ dst win n _ _ => [tok.toNat, dst.code.toNat, win.code.toNat, n.code.toNat]
  | .wzero tok _ win n => [tok.toNat, win.code.toNat, n.code.toNat]
  | .amo _ _ base d _ _ _ _ v | .cas _ _ base d _ _ _ v => [base.code.toNat, d.code.toNat, v.code.toNat]
  | .red _ _ base _ _ _ v => [base.code.toNat, v.code.toNat]
  | .bari d h n _ => [d.code.toNat, h.code.toNat, n.code.toNat]
  | .bara d h _ | .barw d h _ => [d.code.toNat, h.code.toNat]
  | .claim d hd v _ | .cwait d hd v _ | .cpeek d hd v _ => [d.code.toNat, hd.code.toNat, 128 + v.toNat]
  | .fulfil d v hv _ => [d.code.toNat, 128 + v.toNat, hv.code.toNat]
  | .abandon d v _ | .unpin d v _ => [d.code.toNat, 128 + v.toNat]
  | .csrr d n => [d.code.toNat, n.code.toNat]
  | .csrw n s | .csrs n s | .csrc n s => [n.code.toNat, s.code.toNat]
  | .tlbw a s | .tlbi a s => [a.code.toNat, s.code.toNat]
  | _ => []

/-- The vector registers and others that an instruction reads without naming them (R60): frames, the image of a region, the
digest of `CALLX`, the registers that a descriptor names, and the span registers. -/
def State.hidden (s : State) (i : Instr) : List Nat :=
  let r := s.me.regs
  let image := (maskBits (s.regionMask s.cur r.handle (r.off + 1))).filterMap fun b =>
    if b < 64 then some b else if b < 96 then some (64 + b) else if b < 104 then some (b - 32) else none
  let ring (v : Word) : List Nat := if v.getLsbD 16 then [] else [128 + bitsOf v.toNat 8 5]
  let vector (v : Word) : List Nat := [128 + bitsOf v.toNat 8 5]
  let msg (v : Word) : List Nat := (if v.getLsbD 42 then [] else [128 + bitsOf v.toNat 37 5]) ++ [128 + bitsOf v.toNat 32 5]
  match i with
  | .calld _ | .ret => [100, 101]
  | .sync | .stop => [101]
  | .callx a => [100, 101, 128 + (s.rd a).toNat % 32]
  | .spawnd _ => [100, 101] ++ image
  | .range a => [100, a.code.toNat + 1, a.code.toNat + 2] ++ image
  | .rnext _ => [100, 104, 105]
  | .enq _ a | .deq _ a => ring (s.rd a)
  | .enqLit _ a | .deqLit _ a => ring a
  | .sendm _ a => msg (s.rd a)
  | .sendmLit _ a => msg a
  | .vgath _ _ _ _ _ d | .vscat _ _ _ _ d => vector (s.rd d)
  | _ => []

/-- The operands whose values name further registers: `hidden` and `masked` read them. -/
def naming : Instr → List Nat
  | .callx a | .enq _ a | .deq _ a | .sendm _ a => [a.code.toNat]
  | .vgath _ _ _ _ _ d | .vscat _ _ _ _ d => [d.code.toNat]
  | .twaita _ m _ _ => [m.code.toNat]
  | _ => []

/-- The token registers that `TWAITA` names by its mask, which it reads without the scoreboard (R154). -/
def State.masked (s : State) (i : Instr) : List Nat :=
  match i with
  | .twaita _ m _ _ => s.tokenMask s.cur (s.rd m)
  | _ => []

/-- The name that an instruction reads without the scoreboard, unless it is its destination as well (R60, R154). -/
def unwaited (i : Instr) : Option Nat :=
  match i with
  | .tpoll d t _ => if d.code.toNat = t.toNat then none else some t.toNat
  | _ => none

/-- A condition of R58 that fails: post-increment of a read-only base, or of a load's own destination (R141); a scaled index
without an extension; a walk mode whose base is no walk register; a scaled index where the major has none (R144, R216). `IOLD` counts as
a load for the second. DEDUCED (log 87). -/
def modeFails : Instr → Bool
  | .ldp am _ b d _ | .ldg am _ b d _ | .ldk am _ b d _ | .iold am _ b d _ =>
    (am == 1 && (!b.writable || b == d)) || am == 2 || (am == 3 && !b.isW)
  | .ldpExt am _ b d _ _ _ _ | .ldgExt am _ b d _ _ _ _ | .ldkExt am _ b d _ _ _ _ | .ioldExt am _ b d _ _ _ =>
    (am == 1 && (!b.writable || b == d)) || (am == 3 && !b.isW)
  | .stp am _ b _ | .stg am _ b _ => (am == 1 && !b.writable) || am == 2 || (am == 3 && !b.isW)
  | .stpExt am _ b _ _ _ | .stgExt am _ b _ _ _ | .iost am _ b _ _ _ => (am == 1 && !b.writable) || (am == 3 && !b.isW)
  | .vldp am _ b _ _ | .vldg am _ b _ _ | .vldpExt am _ b _ _ _ | .vldgExt am _ b _ _ _ | .vstp am _ b _ | .vstg am _ b _
  | .vstpExt am _ b _ _ _ | .vstgExt am _ b _ _ _ | .amo am _ b _ _ _ _ _ _ | .red am _ b _ _ _ _ | .cas am _ b _ _ _ _ _ =>
    (am == 1 && !b.writable) || am == 2 || (am == 3 && !b.isW)
  | _ => false

/-- Whether an instruction ends the lookahead shadow without being checked against it (R60, rule 5). -/
def endsShadow : Instr → Bool
  | .region | .calld _ | .callx _ | .spawnd _ | .ret => true
  | _ => false

/-- Whether an instruction's names lie within a strand's budgets (R45), `RANGE`'s three registers among them (R248). -/
def State.inBudget (s : State) (i : Instr) : Bool :=
  (touches i).all (fun k => (64 ≤ k || k < s.gBudget s.cur) && (k < 128 || k < 128 + s.vBudget s.cur)) &&
  (match i with
   | .range a => a.code.toNat + 2 < s.gBudget s.cur
   | _ => true)

/-- The text of the acting strand's object from its PC, or why it cannot be fetched (R116, R137). `none` stands for absent
cold text. A word of major 0x00 is illegal whatever its LEN (R66). -/
def State.fetch (s : State) : Res (Option (List CodeWord)) :=
  let r := s.me.regs
  match s.obj r.handle with
  | none => .error (.trap 0x43 (pcWord r.handle r.off) 0)
  | some o =>
    if o.textLen ≤ r.off then .error (.trap 0x43 (pcWord r.handle r.off) 0)
    else if o.hotLen ≤ r.off && !o.coldHere then .ok none
    else
      let n := if majorOf (s.textWord r.handle r.off) = 0 then 1 else wordLen (s.textWord r.handle r.off)
      if o.textLen < r.off + n then .error (.trap 0x43 (pcWord r.handle o.textLen) 0)
      else if o.hotLen < r.off + n && !o.coldHere then .ok none
      else .ok (some ((upFrom r.off n).map fun k => s.textWord r.handle k))

/-- Whether a container of the words at the acting strand's PC is poisoned (R137): of the line that is fetched, only the containers of
the instruction's own words stop it. DESIGN CHOICE (log 86). -/
def State.textPoison (s : State) (n : Nat) : Bool :=
  match s.obj s.me.regs.handle with
  | some o => (upFrom s.me.regs.off n).any fun k => (s.poisonIn (o.wordBit k) 32).isSome
  | none => false

/-- Steps 1 to 10 of R65 on fetched words. -/
noncomputable def State.decoded (s : State) (ws : List CodeWord) : Res Instr :=
  if majorOf (ws.headD 0) = 0x3F && !isLantern s.cur then .error (s.trap 0xA0 0)
  else
    match decode ws with
    | .ok i => do
      ensure (s.inBudget i) (s.illegal 7)
      ensure (!modeFails i) (s.illegal 8)
      .ok i
    | .error (.reason r) => .error (s.illegal r)
    | .error (.late r i) => do
      ensure (s.inBudget i) (s.illegal 7)
      ensure (!modeFails i) (s.illegal 8)
      .error (s.illegal r)
    | .error .short => .error (s.illegal 2)

/-- An operand that names further registers and is pending is waited for, unless the lookahead shadow guards it: only then is it known
what the instruction reads (R60). -/
def State.checkNaming (s : State) (i : Instr) : Res Unit :=
  let h := s.me.shadow
  match (naming i).find? fun k => s.me.pending k && !(h.left != 0 && (h.reg == k || h.also == some k)) with
  | some k => .error (.hold (.pending k))
  | none => .ok ()

/-- The lookahead check (R60, R61). -/
def State.checkShadow (s : State) (i : Instr) : Res Unit :=
  let h := s.me.shadow
  let names := touches i ++ s.hidden i ++ s.masked i
  ensure (h.left == 0 || endsShadow i || !(names.contains h.reg || h.also.any fun k => names.contains k))
    (.trap 0x02 (pcWord h.handle h.off) (BitVec.ofNat 64 (h.reg + 2 ^ 8 * (h.size - h.left + 1))))

/-- `LOOP_SHAPE` case 1 (R120), then `REGION_OVERRUN` (R125), for an instruction of `n` words. -/
def State.checkCounts (s : State) (i : Instr) (n : Nat) : Res Unit := do
  let r := s.me.regs
  match r.loops.head? with
  | some l => ensure (!(r.off < l.stop && l.stop < r.off + n)) (.trap 0x04 (BitVec.ofNat 64 l.stop) 1)
  | none => .ok ()
  ensure (isLantern s.cur || i == .region || r.count < 1024) (s.trap 0x03 0)

/-- The scoreboard (R60, R152): a register that the instruction names and that is pending. -/
def State.checkPending (s : State) (i : Instr) : Res Unit :=
  match (touches i ++ s.hidden i).find? fun k => s.me.pending k && unwaited i != some k with
  | some k => .error (.hold (.pending k))
  | none => .ok ()

/-- `DATA_POISON` of a mailbox operand, for the lowest poisoned container (R316). -/
def State.mailboxPoison (s : State) (i : Instr) : Option Stop :=
  let box (k : Nat) : Bool := 92 ≤ k && k < 100 && (s.poisonIn (boxBase (coreOf s.cur) + 64 * (k - 92)) 64).isSome
  ((touches i).filter box).min?.map fun k =>
    .trap 0xC0 (BitVec.ofNat 64 (winStart + s.pkg.toNat * 2 ^ 21 + coreOf s.cur * 2 ^ 9 + 64 * (k - 92))) (addrExtra .g .w64 0)

/-- Whether an address cause that an instruction raises is a fault of its own, step 8 of R310, and no fault of steps 4 to 6. -/
def ownPlace : Instr → Bool
  | .padd _ _ _ _ | .psub _ _ _ _ | .pdiff _ _ _ _ | .pwin _ _ _ _ => true
  | _ => false

/-- Whether an instruction of strand `n` has met a fault of steps 4 to 6 of R310, or waits for a translation or for the end of its chunk,
behind which they stand: each comes before the poison of a mailbox operand. -/
def State.placeFault (t : State) (n : Nat) (i : Instr) : Bool :=
  match (t.strand n).hold, t.agenda.getLast? with
  | .translate _ _, _ | .commit, _ => true
  | _, some (.trapDelivery m c _ _) | _, some (.lanternThreadFault m c _ _) =>
    m == n && 0x20 ≤ c.toNat && c.toNat ≤ 0x2A && !ownPlace i
  | _, _ => false

/-- The unit of a taper core that an instruction needs, and for how many cycles it occupies it: 0 the divide unit (R94, R113), 1 the vector
unit, 2 the interpolation engine (R170). `TLOAD` itself knows for how long. -/
def unitOf : Instr → Option (Nat × Nat)
  | .div _ _ _ | .divu _ _ _ | .rem _ _ _ | .remu _ _ _ | .divLit _ _ _ | .divuLit _ _ _ | .remLit _ _ _ | .remuLit _ _ _ => some (0, 18)
  | .fdiv _ _ _ | .fdivLit _ _ _ | .fsqrt _ _ => some (0, 10)
  | .frcp _ _ => some (0, 6)
  | .vqdiv _ _ _ _ _ _ _ _ _ => some (1, 8)
  | .vadd _ _ _ _ _ _ | .vsub _ _ _ _ _ _ | .vmul _ _ _ _ _ _ | .vmin _ _ _ _ _ | .vmax _ _ _ _ _ | .vminn _ _ _ _ _ | .vmaxn _ _ _ _ _
   | .vadds _ _ _ _ _ | .vsubs _ _ _ _ _ | .vmulh _ _ _ _ _ | .vand _ _ _ _ _ | .vor _ _ _ _ _ | .vxor _ _ _ _ _ | .vandn _ _ _ _ _
   | .vsel _ _ _ _ _ | .vshuf _ _ _ _ _ _ | .vslide _ _ _ _ _ _ | .vcvt _ _ _ _ _ _ _ _ _ | .vqnt _ _ _ _ _ _ _ _ _
   | .vdqnt _ _ _ _ _ _ _ _ _ | .vfma _ _ _ _ _ _ _ | .vfms _ _ _ _ _ _ _ | .vabs _ _ _ _ _ | .vneg _ _ _ _ _ | .vnot _ _ _ _
   | .vclass _ _ _ _ | .vpack _ _ _ _ _ _ _ | .vunpk _ _ _ _ _ _ _ | .vshl _ _ _ _ _ | .vshr _ _ _ _ _ | .vshra _ _ _ _ _
   | .vcmpeq _ _ _ _ _ | .vcmpne _ _ _ _ _ | .vcmplt _ _ _ _ _ | .vcmple _ _ _ _ _ | .vbcast _ _ _ _ | .vidx _ _ _ _
   | .vmovv _ _ _ _ | .vmovs _ _ _ _ | .vred _ _ _ _ _ _ _ | .mand _ _ _ | .mor _ _ _ | .mxor _ _ _ | .mnot _ _ | .mcnt _ _ _
   | .mfirst _ _ _ | .msetg _ _ _ | .msetgPre _ _ | .mgetg _ _ _ => some (1, 1)
  | .vitp t _ _ _ _ _ _ => some (interpUnit, (t.lanes + 15) / 16)
  | .tload _ _ => some (interpUnit, 0)
  | _ => none

/-- An instruction that needs an occupied unit of its core stalls at issue (R94, R170). A lantern core's instructions need none. -/
def State.checkUnit (s : State) (i : Instr) : Res Unit :=
  match unitOf i with
  | some (u, _) => ensure (isLantern s.cur || s.unitFree (coreOf s.cur) u) (.hold (.unit u))
  | none => .ok ()

/-- An instruction that strand `n` has issued occupies its unit beyond its own cycle (R94, R170). DESIGN CHOICE (log 88): one that traps (R79)
leaves the unit free, since it has no effect (R310). -/
def occupies (n : Nat) (i : Instr) (o : Host.Outcome State Fault Refusal) : Host.Outcome State Fault Refusal :=
  match unitOf i, o with
  | some (u, k), .next t => .next (if k ≤ 1 || isLantern n || (t.strand n).status != .ready then t else t.occupy (coreOf n) u k)
  | _, o => o

/-- What issuing comes to before the instruction acts: the instruction, or what happens in its place. -/
inductive Issue where
  | go (i : Instr)
  | stop (e : Stop)
  | cold
  | refetch
  | limit
  deriving DecidableEq, Repr

/-- The checks of R310 up to step 3, the chunk's 256th instruction (R261), the scoreboard and the units. -/
noncomputable def State.ready (s : State) : Issue :=
  match s.fetch with
  | .error e => .stop e
  | .ok none => .cold
  | .ok (some ws) =>
    if s.textPoison ws.length then .refetch
    else
      match (do
        let i ← s.decoded ws
        s.checkNaming i
        s.checkShadow i
        s.checkCounts i ws.length
        s.checkPending i
        s.checkUnit i
        .ok i : Res Instr) with
      | .error e => .stop e
      | .ok i => if 255 ≤ s.me.chunk.count then .limit else .go i

/-- Strand `n` as the acting strand, with the first word of its instruction. -/
def State.act (s : State) (n : Nat) : State :=
  let t := (s.strand n).regs
  ({ s with cur := n, ir := s.textWord t.handle t.off }).onMe fun u => { u with hold := .none }

/-- The acting strand's instruction acts. With a poisoned mailbox operand it traps (R316), if no earlier fault comes first (R310). -/
def State.actsOn (s : State) (i : Instr) : Host.Outcome State Fault Refusal :=
  match s.mailboxPoison i, exec i s with
  | some e, .next t => .next (if t.placeFault s.cur i then t else s.stop e)
  | _, o => o

/-- Strand `n` issues (R17). -/
noncomputable def State.issue (s : State) (n : Nat) : Host.Outcome State Fault Refusal :=
  let a := s.act n
  match a.ready with
  | .go i => occupies n i (a.actsOn i)
  | .stop e => .next (a.stop e)
  | .cold => .next (if a.me.chunk.fresh then a.coldMiss n a.me.regs.handle else a.holdFor .commit)
  | .refetch => .next ((a.onMe fun t => { t with hold := .refetch }).due [.codePoisonRefetch n (a.free.getLsbD 0)])
  | .limit => .next ((a.onMe fun t => { t with hold := .commit }).due [.chunkInstructionLimit n])

/-! The choice of the next step. -/

/-- Whether the reason for which strand `n` does not issue is gone. -/
def State.clear (s : State) (n : Nat) : Bool :=
  let t := s.strand n
  match t.hold with
  | .none => true
  | .pending r => !t.pending r
  | .tokens m any =>
    let named := s.tokenMask n (BitVec.ofNat 64 m)
    if any then named.any fun i => !t.pending i else named.all fun i => !t.token i
  | .commit | .vsend _ | .translate _ _ | .stopped | .refetch | .grant => false
  | .copyQueue => (s.core (coreOf n)).copyRoom
  | .matrixQueue => (s.core (coreOf n)).matRoom
  | .engines => !s.engineBusy n
  | .io => t.ioLeft == 0 && t.pend.all fun p => p.kind != .io
  | .remote => s.farSettled n
  | .cell b => s.peek n b 64 == 0
  | .ring b => !s.ringBusy b
  | .port => (s.core (coreOf n)).outPort.length < 4
  | .slots m => !(maskSlots m).any fun i => (s.core (coreOf n)).slotsUsed.contains i
  | .turn os => os.all fun m => (s.strand m).status != .ready || (s.strand m).hold != .none
  | .ioReply => t.pend.all fun p => p.kind != .io
  | .reply => t.pend.all fun p => p.snap.isNone && p.kind != .peek
  | .unit u => s.unitFree (coreOf n) u
  | .granted g => s.granted != some g

/-- Whether strand `n` is ready to issue (R17): it sees no window of its commands in part (R89). -/
def State.canIssue (s : State) (n : Nat) : Bool := (s.strand n).status == .ready && s.clear n && !s.between n

/-- The core whose service strand a step is of: it issues while it spills the inbox or replays the heap (R16, R257). -/
def Event.service (e : Event) : Option Nat :=
  match e with
  | .inboxSpill c | .inboxReplay c => some c
  | _ => none

/-- What can step: a strand, or an entry of the agenda. -/
inductive Turn where
  | strand (n : Nat)
  | event (i : Nat)
  deriving DecidableEq, Repr

/-- The next step of a core's service strand, if it is active (R16). -/
def State.serviceStep (s : State) (c : Nat) : Option Turn :=
  ((upFrom 0 s.agenda.length).find? fun i => (s.agenda[i]?.bind Event.service) == some c).map Turn.event

/-- What a taper core issues from slot `k`, if it is ready: the service strand is the fifth (R17). -/
def State.slotTurn (s : State) (c k : Nat) : Option Turn :=
  if k = 4 then s.serviceStep c else if s.canIssue (4 * c + k) then some (.strand (4 * c + k)) else none

/-- What a taper core issues: from the first ready strand in slot order after the one that issued last, the service strand behind slot
3 (R17). -/
def State.nextOf (s : State) (c : Nat) : Option Turn :=
  (upFrom 1 5).findSome? fun i => s.slotTurn c (((s.core c).last + i) % 5)

/-- What may issue now: one strand of each taper core, and each lantern thread that is ready. -/
def State.issuers (s : State) : List Turn :=
  ((s.strands.map (fun p => coreOf p.1) ++ s.agenda.filterMap Event.service).eraseDups).flatMap fun c =>
    if c % 32 = 31 then ((upFrom (4 * c) 4).filter fun n => s.canIssue n).map Turn.strand else (s.nextOf c).toList

/-- The port of a posted write from outside, to memory or to a register of BAR0 (R267, R268, R393). -/
def Event.writes (e : Event) : Option Nat :=
  match e with
  | .bar2Write p _ _ | .inboundWrite p _ _ _ _ | .queueNotify _ (some p) | .hleaseRenew p | .hleasePeriodWrite p _ => some p
  | _ => none

/-- The port of an access from outside, which comes behind the posted writes made there before it (R267, R268, R393). -/
def Event.comesBy (e : Event) : Option Nat :=
  match e with
  | .bar2Write p _ _ | .inboundWrite p _ _ _ _ | .bar2Read p _ _ | .inboundRead p _ _ _ | .inboundAtomicop p _ _ _ _ _ _
  | .queueNotify _ (some p) | .hleaseRenew p | .hleasePeriodWrite p _ => some p
  | _ => none

/-- Whether a step waits for an earlier one of the agenda: the replies to the loads of a strand, and to its atomics, come in
the order of issue, and what comes through a port comes behind the writes that came through it before. -/
def Event.follows (e f : Event) : Bool :=
  match e, f with
  | .loadReply n _, .loadReply m _ | .atomicReply n _, .atomicReply m _ => n == m
  | e, f => e.comesBy.isSome && f.writes == e.comesBy

/-- Whether a step goes on in a halted package (R402): the next power-on, and after a thermal halt what the management complex does, whose
clock alone runs. -/
def State.goesOnHalted (s : State) (e : Event) : Bool :=
  match e with
  | .powerOn _ | .powerFailure => true
  | .registerWrite _ _ _ | .rollbackFuseBlow _ | .attestationNonceWrite _ _ | .attreq _ | .attestationReportReady | .wearUpdate _
   | .dualEnable | .dualClear => s.csrAt 0x1400 0 == 0x1E
  | _ => false

/-- Everything that may step now. A halted package waits for power-on (R402). -/
def State.turns (s : State) : List Turn :=
  let events := (upFrom 0 s.agenda.length).filter fun i =>
    match s.agenda[i]? with
    | some e => !(s.agenda.take i).any e.follows && (!s.halted || s.goesOnHalted e) && e.service.isNone
    | none => false
  (if s.halted then [] else s.issuers) ++ events.map Turn.event

/-- One of several, by the free choice of the step. -/
def State.pick (s : State) (ts : List Turn) : Option Turn :=
  match ts with
  | [] => none
  | [t] => some t
  | t :: r => (t :: r)[Config.freeChoice s.steps % (r.length + 1)]?

/-- A party waits (R263): a strand does not issue until then (R17), and another agent's step stays due. -/
def State.waitsFor (s : State) (g : Nat) : Turn → State
  | .strand n => s.onStrand n fun t => { t with hold := .granted g }
  | .event _ => s

/-- A write to a line that the granted chunk has read does not happen while the grant stands: the party waits (R263). -/
def State.granted? (s : State) (w : Turn) (o : Host.Outcome State Fault Refusal) : Host.Outcome State Fault Refusal :=
  match o, s.granted with
  | .next t, some g =>
    if (s.strand g).chunk.conflict.isNone && (t.strand g).chunk.conflict.isSome then .next (s.waitsFor g w) else .next t
  | o, _ => o

/-- Time goes on: a free number of cycles. -/
def State.tick (s : State) : State := { s with clk := s.clk + BitVec.ofNat 64 (Config.freeTicks s.steps), steps := s.steps + 1 }

/-- One turn. -/
noncomputable def State.turn (s : State) (t : Turn) : Host.Outcome State Fault Refusal :=
  match t with
  | .strand n => s.issue n
  | .event i =>
    match s.agenda[i]? with
    | some e => exec (eventInstr e) { s with agenda := s.agenda.eraseIdx i }
    | none => .next s

/-- The outcome with time gone on. -/
def ticked (o : Host.Outcome State Fault Refusal) : Host.Outcome State Fault Refusal :=
  match o with
  | .next t => .next t.tick
  | o => o

/-- One step of the package: one strand issues, or one other agent acts; with nothing to do, time goes on. -/
noncomputable def State.advance (s : State) : Host.Outcome State Fault Refusal :=
  match s.pick s.turns with
  | some t => ticked (s.granted? t (s.turn t))
  | none => if s.halted then .fault .halted else .next s.tick

/-! A placed instruction. -/

/-- A code object of five words of hot text at bit 0 of HBM, which every partition has verified. -/
def placedObj : Obj :=
  { digest := 1, gneed := 16, vneed := 8, entry := 0, hotLen := 5, coldLen := 0, base := 0, coldBase := 0, coldHere := true,
    coldHash := 0, hotBits := 160, coldBits := 0, cold := [], coldAt := 0, imports := [], regions := [], signer := 0, translator := 0, live := 1, verified := 0xFFFF,
    retired := false, order := 0, bytes := [] }

/-- The strand that runs a placed instruction: slot 0 of core 0, or thread 3 of tile 0 for major 0x3F (R293). -/
def placedAt (w : Nat) : Nat := if w / 4 % 64 = 63 then 127 else 0

/-- A bound strand with full budgets at the first word of object 1, with no loop, no shadow and nothing pending. -/
def Strand.placed (t : Strand) : Strand :=
  let r := { t.regs with handle := 1, off := 0, loops := [], count := 0 }
  { t with status := .ready, regs := r, shadow := Shadow.none, pend := [], chunk := Chunk.start r, hold := .none,
           bind := { t.bind with valid := true, gbud := 64, vbud := 32 } }

/-- `s` with a placed instruction that the next step fetches. -/
def State.placed (s : State) (nbits w : Nat) : State :=
  let n := placedAt w
  { s with mem := s.mem.setBits 0 160 (w % 2 ^ nbits), poison := [], objs := [(1, placedObj)], agenda := [], halted := false,
           granted := none, strands := SMap.put Strand.reset [] n (s.strand n).placed }

end Sys2Proof.Machine
end

