-- ==== Sys2Proof/Machine/Step.lean ====
section
/-! DEFINITION. One step of the machine, and how a test places the instruction that the next step fetches. -/

namespace Sys2Proof.Machine

/-- One step: see `State.advance`. -/
noncomputable def step (s : State) : Host.Outcome State Fault Refusal := s.advance

/-- `s` with the instruction as the text of code object 1, at the bottom of HBM, and one strand standing at it: slot 0 of core
0, or thread 3 of tile 0's lantern core for major 0x3F, with nothing else due. See `State.placed`. -/
def State.withFetchWord (s : State) (nbits w : Nat) : State := s.placed nbits w

end Sys2Proof.Machine
end

