-- ==== Sys2Proof/Machine/Portable.lean ====
section
/-! DEFINITION. The scalar level of a Bolrad container: what its operations mean (R275 to R280, R282, R283, R285), and how a strand
performs them, by the native instructions of their expansions. The package runs no container, only translations, whose agreement with this
meaning rests on their signature (R284, R288): no step calls what stands here. A tile or loop record means its covered range of the scalar
level and nothing else. -/

namespace Sys2Proof.Machine

/-- An instruction of the scalar level: OPC, TYPE, MOD and its operand words (R277). -/
structure POp where
  opc : Nat
  ty : Nat
  md : Nat
  ws : List Nat
  deriving DecidableEq, Repr

/-- A function: the type bytes of its virtual registers, its constants, its imports, the registers of its interface, its code and its
digest (R272). -/
structure PFn where
  types : List Nat
  consts : List Nat
  imports : List Digest
  args : List Nat
  results : List Nat
  code : List POp
  digest : Digest
  deriving DecidableEq, Repr

/-- The first `n` instructions of a byte string (R277). -/
def popsOf : Nat → List Byte → List POp
  | 0, _ => []
  | n + 1, b =>
    let k := le b 3 1
    { opc := le b 0 1, ty := le b 1 1, md := le b 2 1, ws := (upFrom 0 k).map fun i => le b (4 + 4 * i) 4 } ::
      popsOf n (b.drop (4 + 4 * k))

/-- The function that a canonical container holds (R272); an import of zeros names the function itself (R275). -/
def fnOf (b : List Byte) : PFn :=
  let dir := directoryOf b
  let own := functionDigest b
  let words (sec : List Byte) (off n w : Nat) : List Nat := (upFrom 0 n).map fun i => le sec (off + w * i) w
  let face := sectionOf dir b 2
  let nargs := countOf dir b 2
  let t := tablesOf b
  { types := t.types, consts := words (sectionOf dir b 3) 4 t.consts 8,
    imports := (words (sectionOf dir b 1) 4 t.imports 32).map fun d => if d = 0 then own else BitVec.ofNat 256 d,
    args := words face 4 nargs 4, results := words face (4 + 4 * nargs) (le face 0 4) 4,
    code := popsOf t.code (sectionOf dir b 5), digest := own }

/-- The virtual registers of an activation, by number, with the next instruction, the FP status, and the results of spawned calls
that stand until `sync` (R276, R278). -/
structure PFrame where
  regs : SMap Nat
  pc : Nat
  fps : Flags
  joined : List (Nat × Nat)
  deriving DecidableEq, Repr

/-- What an instruction of the scalar level does beyond its own registers (R278, R284, R285): an access with its order and scope, a call,
a native instruction of a service. Spaces are 0 P, 1 G, 2 K. -/
inductive PAct where
  | go
  | load (space order scope : Nat) (c : Cls) (a : Nat)
  | store (space order scope : Nat) (c : Cls) (a v : Nat)
  | atomic (g : Bool) (op : AOp) (c : Cls) (a v : Nat)
  | cas (g : Bool) (c : Cls) (a e n : Nat)
  | runs (ga gb : Bool) (t : Ty) (a b n c : Nat)
  | fence (kind scope : Nat)
  | call (callee : Digest) (args : List Nat)
  | spawn (callee : Digest) (args : List Nat)
  | sync
  | native (n : Nat) (ops : List Nat)
  | ret (results : List Nat)
  | trap (cause : Nat)
  deriving DecidableEq, Repr

/-- The width in bits of a type byte (R272). -/
def typeBits (t : Nat) : Nat :=
  match Ty.ofCode (BitVec.ofNat 5 t), decide (t < 32) with
  | some ty, true => ty.bits
  | _, _ => if t = 34 then 256 else if t = 35 then 1 else 64

/-- The element type of a type byte; a pointer counts as n64. -/
def elemTy (t : Nat) : Ty := if t < 32 then (Ty.ofCode (BitVec.ofNat 5 t)).getD .n64 else .n64

/-- The type byte of the register that an operand word names, or a given one for a constant. -/
def PFn.typeOr (f : PFn) (d w : Nat) : Nat := if w / 2 ^ 30 = 0 then f.types.getD (w % 2 ^ 30) d else d

/-- The bits of a source operand: a register's pattern, or a constant's 64 bits (R277). -/
def PFn.val (f : PFn) (r : PFrame) (w : Nat) : Nat :=
  if w / 2 ^ 30 = 1 then f.consts.getD (w % 2 ^ 30) 0 else SMap.look 0 r.regs (w % 2 ^ 30)

/-- A source operand as an integer of its register's type; a constant's 64 bits are signed (R40). -/
def PFn.intVal (f : PFn) (r : PFrame) (w : Nat) : Int :=
  if w / 2 ^ 30 = 1 then signed 64 (f.val r w) else (elemTy (f.typeOr 13 w)).int (f.val r w)

/-- Writes a register: the low bits of a value that its type holds. -/
def PFn.wr (f : PFn) (w v : Nat) (r : PFrame) : PFrame :=
  { r with regs := SMap.put 0 r.regs (w % 2 ^ 30) (v % 2 ^ typeBits (f.typeOr 13 w)) }

/-- Writes several registers in order. -/
def PFn.wrAll (f : PFn) (l : List (Nat × Nat)) (r : PFrame) : PFrame := l.foldl (fun q p => f.wr p.1 p.2 q) r

/-- Division and remainder at an integer type: R96 at its width. -/
def divAt (t : Ty) (p q : Nat) : Nat := if q % 2 ^ t.bits = 0 then 2 ^ t.bits - 1 else wrapTo t.bits (Int.tdiv (t.int p) (t.int q))

def remAt (t : Ty) (p q : Nat) : Nat := if q % 2 ^ t.bits = 0 then p else wrapTo t.bits (Int.tmod (t.int p) (t.int q))

/-- A shift: the amount as the operand stands; at or above the width it gives 0, or sign fill (R278). -/
def shiftAt (opc : Nat) (t : Ty) (p amount : Nat) : Nat :=
  let n := min amount t.bits
  if opc = 0x0A then p * 2 ^ n else if opc = 0x0B then p / 2 ^ n else wrapTo t.bits (signed t.bits p / (2 ^ n : Nat))

/-- A count within the type's width (R278). -/
def countAt (opc : Nat) (t : Ty) (p : Nat) : Nat :=
  if opc = 0x11 then lowestBit (reverseBits p t.bits) 0 t.bits
  else if opc = 0x12 then lowestBit p 0 t.bits
  else countBits p t.bits

/-- A comparison (R109, R278), by MOD: equality and inequality raise NV for signalling NaNs only. -/
def compareAt (md : Nat) (t : Ty) (p q : Nat) : Bool × Flags :=
  if md = 0 then laneCompare t (fun x y => x == y) FV.eqNum true p q
  else if md = 1 then laneCompare t (fun x y => x != y) (fun x y => !x.eqNum y) true p q
  else if md = 2 then laneCompare t (fun x y => x < y) FV.ltNum false p q
  else laneCompare t (fun x y => x ≤ y) (fun x y => x.ltNum y || x.eqNum y) false p q

/-- A square root at a floating type, rounded once (R108). -/
def sqrtAt (t : Ty) (p : Nat) : Nat × Flags :=
  let x := unpack t p
  let v := x.sqrt
  let r := roundTo t .ne true v.1
  (r.1, v.2 ||| r.2 ||| sigFlag x)

/-- A conversion (R82, R278): MOD is SAT for a pair of integer types and a rounding mode otherwise. -/
def convertAt (md : Nat) (td ts : Ty) (p : Nat) : Nat × Flags :=
  if td.isInt && ts.isInt then convert td ts .ne (md == 1) p
  else convert td ts ((Rm.ofCode (BitVec.ofNat 3 md)).getD .ne) true p

/-- The value of a register operation at a type, with its flags: OPC, MOD and the sources as they stand (R278). -/
def computeAt (opc md : Nat) (t ts : Ty) (v : List Nat) : Nat × Flags :=
  let p := v.getD 0 0 % 2 ^ t.bits
  let q := v.getD 1 0 % 2 ^ t.bits
  match opc with
  | 0x01 => arith t .ne (· + ·) (FV.add .ne) p q
  | 0x02 => arith t .ne (· - ·) (fun x y => FV.add .ne x y.neg) p q
  | 0x03 => arith t .ne (· * ·) FV.mul p q
  | 0x04 => (wrapTo t.bits (t.int p * t.int q / (2 ^ t.bits : Nat)), 0)
  | 0x05 => if t.isFloat then fpBin t .ne FV.div p q else (divAt t p q, 0)
  | 0x06 => (remAt t p q, 0)
  | 0x07 => (p &&& q, 0)
  | 0x08 => (p ||| q, 0)
  | 0x09 => (p ^^^ q, 0)
  | 0x0A | 0x0B | 0x0C => (shiftAt opc t p (v.getD 1 0), 0)
  | 0x0D => laneMinMax t false false p q
  | 0x0E => laneMinMax t true false p q
  | 0x0F => minMax t false true p q
  | 0x10 => minMax t true true p q
  | 0x11 | 0x12 | 0x13 => (countAt opc t p, 0)
  | 0x14 => let r := compareAt md t p q; (if r.1 then 1 else 0, r.2)
  | 0x16 => fpFma t .ne false p q (v.getD 2 0 % 2 ^ t.bits)
  | 0x17 => sqrtAt t p
  | 0x18 => convertAt md t ts (v.getD 0 0 % 2 ^ ts.bits)
  | _ => (v.getD 0 0, 0)

/-- A product of `dot` (R279): exact for f16, rounded once into f32 for the others. -/
def dotProduct (t : Ty) (p q : Nat) : Nat × Flags :=
  let x := unpack t p
  let y := unpack t q
  let m := x.mul y
  let r := roundTo .f32 .ne true m.1
  (r.1, m.2 ||| r.2 ||| sigFlag x ||| sigFlag y)

/-- The least power of two at or above `n`, and its exponent, from `2 ^ k` within `fuel` doublings. -/
def powerUpTo (n k : Nat) : Nat → Nat
  | 0 => k
  | fuel + 1 => if n ≤ 2 ^ k then k else powerUpTo n (k + 1) fuel

/-- `dot` (R279): the products meet in the tree of R178 over `n` leaves rounded up to a power of two, and the top is added to `c`. -/
def dotValue (t : Ty) (a b : List Nat) (c : Nat) : Nat × Flags :=
  let ps := (a.zip b).map fun e => dotProduct t e.1 e.2
  let k := powerUpTo ps.length 0 64
  let leaves := ps.map (fun p => some p.1) ++ List.replicate (2 ^ k - ps.length) none
  let fl := ps.foldl (fun f p => f ||| p.2) 0
  let top := treeReduce (fpBin .f32 .ne (FV.add .ne)) k leaves fl
  match ps.isEmpty, top.1 with
  | false, some x => let r := fpBin .f32 .ne (FV.add .ne) c x; (r.1, r.2 ||| top.2)
  | _, _ => (c, 0)

/-- The frame at entry: arguments in their registers, zero in every other (R276); the FP status is the caller's. -/
def PFn.enter (f : PFn) (args : List Nat) (fps : Flags) : PFrame :=
  f.wrAll (f.args.zip args) { regs := [], pc := 0, fps := fps, joined := [] }

/-- What an activation does next: the action, the frame with every effect on its own registers but those that an answer brings, and
the registers that the answer goes to. -/
structure PStep where
  act : PAct
  frame : PFrame
  dests : List Nat
  deriving DecidableEq, Repr

/-- Ends a register operation: its flags are raised, an enabled condition traps (R79), and otherwise the result is written. -/
def PFn.finish (f : PFn) (r : PFrame) (d : Nat) (v : Nat × Flags) : PStep :=
  match enabledCause r.fps v.2 with
  | some c => { act := .trap c, frame := { r with fps := r.fps ||| causeFlag c }, dests := [] }
  | none => { act := .go, frame := f.wr d v.1 { r with fps := r.fps ||| v.2, pc := r.pc + 1 }, dests := [] }

/-- A pointer operation, which may trap (R40). -/
def PFn.pointerOp (f : PFn) (r : PFrame) (d : Nat) (v : Res Word) : PStep :=
  match v with
  | .ok x => { act := .go, frame := f.wr d x.toNat { r with pc := r.pc + 1 }, dests := [] }
  | .error (.trap c _ _) => { act := .trap c, frame := r, dests := [] }
  | .error _ => { act := .go, frame := r, dests := [] }

/-- The services of `intr` by MOD (R278): 9 and 10 act on the FP status here, 16 traps, and the rest is the native instruction with its
operands in native order. -/
def PFn.service (f : PFn) (r : PFrame) (md : Nat) (ws : List Nat) : PStep :=
  let n := (intrShapes.getD md (0, 0)).1
  let ops := (ws.drop n).map (f.val r)
  let on := { r with pc := r.pc + 1 }
  if md = 9 then { act := .go, frame := f.wr (ws.getD 0 0) r.fps.toNat on, dests := [] }
  else if md = 10 then
    { act := .go, frame := f.wr (ws.getD 0 0) r.fps.toNat { on with fps := BitVec.ofNat 8 (ops.getD 0 0) }, dests := [] }
  else { act := .native md ops, frame := on, dests := ws.take n }

/-- One instruction of an activation (R278). -/
def PFn.op (f : PFn) (r : PFrame) (i : POp) : PStep :=
  let w (k : Nat) : Nat := i.ws.getD k 0
  let x (k : Nat) : Nat := f.val r (w k)
  let t := elemTy i.ty
  let on := { r with pc := r.pc + 1 }
  let does (a : PAct) (d : List Nat) : PStep := { act := a, frame := on, dests := d }
  let jumpTo (pc : Nat) : PStep := { act := .go, frame := { r with pc := pc % 2 ^ 30 }, dests := [] }
  let imported (k : Nat) : Digest := f.imports.getD (w k % 2 ^ 30) 0
  let rest (k : Nat) : List Nat := (i.ws.drop k).map (f.val r)
  match i.opc with
  | 0x15 => f.finish r (w 0) (if x 1 % 2 = 1 then x 2 else x 3, 0)
  | 0x1A => does (.load (i.md % 4) (i.md / 4 % 8) (i.md / 32) t.cls (x 1)) [w 0]
  | 0x1B => does (.store (i.md % 4) (i.md / 4 % 8) (i.md / 32) t.cls (x 0) (x 1 % 2 ^ t.bits)) []
  | 0x1C =>
    let n := i.ws.length - 2
    let op := (AOp.ofCode (BitVec.ofNat 4 i.md)).getD .swap
    does (.atomic (i.md / 16 % 2 == 1) op t.cls (x n) (x (n + 1) % 2 ^ t.bits)) (i.ws.take n)
  | 0x1D => does (.cas (f.typeOr 33 (w 1) == 33) t.cls (x 1) (x 2 % 2 ^ t.bits) (x 3 % 2 ^ t.bits)) [w 0]
  | 0x1E => f.pointerOp r (w 0) (ptrStep (BitVec.ofNat 64 (x 1)) (f.intVal r (w 2)) ((Cls.ofCode (BitVec.ofNat 4 i.md)).getD .w64))
  | 0x1F => f.pointerOp r (w 0) (ptrDiff (BitVec.ofNat 64 (x 1)) (BitVec.ofNat 64 (x 2)) ((Cls.ofCode (BitVec.ofNat 4 i.md)).getD .w64))
  | 0x20 => does (.fence (i.md % 4) (i.md / 32)) []
  | 0x21 => jumpTo (w 0)
  | 0x22 => if x 0 % 2 = 1 then jumpTo (w 1) else does .go []
  | 0x23 => does (.call (imported i.md) (rest (i.md + 1))) (i.ws.take i.md)
  | 0x24 => does (.call (BitVec.ofNat 256 (x i.md)) (rest (i.md + 1))) (i.ws.take i.md)
  | 0x25 => { act := .ret (rest 0), frame := r, dests := [] }
  | 0x26 => does (.spawn (imported i.md) (rest (i.md + 1))) (i.ws.take i.md)
  | 0x27 => { act := .sync, frame := { f.wrAll r.joined on with joined := [] }, dests := [] }
  | 0x28 =>
    does (.runs (f.typeOr 33 (w 1) == 33) (f.typeOr 33 (w 2) == 33) (elemTy i.md) (x 1) (x 2) (f.intVal r (w 3)).toNat (x 4 % 2 ^ 32)) [w 0]
  | 0x29 => f.service r i.md i.ws
  | _ =>
    let ts := elemTy (f.typeOr i.ty (w 1))
    let src := rest 1
    if isI i.ty || isF i.ty then f.finish r (w 0) (computeAt i.opc i.md t ts src) else f.finish r (w 0) (src.getD 0 0, 0)

/-- The answer to an action (R278): values for its destinations; for `spawn` they stand until `sync`; for the two runs of `dot`, one
after the other, they are its elements, whose value is computed here. -/
def PFn.receive (f : PFn) (p : PStep) (vs : List Nat) : PStep :=
  match p.act with
  | .spawn _ _ => { p with act := .go, frame := { p.frame with joined := p.frame.joined ++ p.dests.zip vs }, dests := [] }
  | .runs _ _ t _ _ n c => f.finish { p.frame with pc := p.frame.pc - 1 } (p.dests.getD 0 0) (dotValue t (vs.take n) (vs.drop n) c)
  | _ => { p with act := .go, frame := f.wrAll (p.dests.zip vs) p.frame, dests := [] }

/-- The next step of an activation; past its last instruction it does nothing more. -/
def PFn.next (f : PFn) (r : PFrame) : Option PStep := (f.code[r.pc]?).map (f.op r)

/-- Goes on, at most `fuel` instructions, until an action needs something beyond the function's own registers. -/
def PFn.run (f : PFn) : Nat → PFrame → Option PStep
  | 0, _ => none
  | n + 1, r =>
    match f.next r with
    | some p => if p.act = .go then f.run n p.frame else some p
    | none => none

/-! Performing the actions on a strand (R278, R285): its results come in g0 and g1, and the operands stand in g2, g3 and v0. -/

/-- The registers of the expansions. -/
def pg (k : Nat) : Sel := .g (BitVec.ofNat 6 k)

/-- The native instruction of a service of `intr` (R278). -/
noncomputable def serviceInstr (md : Nat) : Instr :=
  match md with
  | 0 => .bari (pg 0) (pg 2) (pg 3) 0
  | 1 => .bara (pg 0) (pg 2) 0
  | 2 => .barw (pg 0) (pg 2) 0
  | 3 => .claim (pg 0) (pg 1) 0 0
  | 4 => .cwait (pg 0) (pg 1) 0 0
  | 5 => .fulfil (pg 0) 0 (pg 2) 0
  | 6 => .abandon (pg 0) 0 0
  | 7 => .unpin (pg 0) 0 0
  | 8 => .cpeek (pg 0) (pg 1) 0 0
  | 11 => .sendm 0 (pg 2)
  | 12 => .enq (pg 0) (pg 2)
  | 13 => .deq (pg 0) (pg 2)
  | 14 => .yield
  | 15 => .stop
  | _ => .trap (pg 2)

/-- The native fence of a scope (R285). -/
noncomputable def scopeFence (scope : Nat) : Instr := if scope = 3 then .fencep else .fence

/-- The native instructions of an action with `n` destinations (R278, R285). -/
noncomputable def PAct.code (n : Nat) : PAct → List Instr
  | .load space order scope c _ =>
    (if space = 0 then .ldpExt 0 c (pg 2) (pg 0) 0 0 .nil false
     else if space = 1 then .ldgExt 0 c (pg 2) (pg 0) 0 0 .nil false
     else .ldkExt 0 c (pg 2) (pg 0) 0 0 .nil false) :: (if order = 1 then [scopeFence scope] else [])
  | .store space order scope c _ _ =>
    (if order = 2 && scope = 3 then [.fencep] else []) ++
      [if space = 0 then .stpExt 0 c (pg 2) (pg 3) 0 .nil else .stgExt 0 c (pg 2) (pg 3) 0 .nil]
  | .atomic g op c _ _ => [if n = 0 then .red 0 c (pg 2) g op 0 (pg 3) else .amo 0 c (pg 2) (pg 0) 0 g op 0 (pg 3)]
  | .cas g c _ _ _ => [.cas 0 c (pg 2) (pg 0) 0 g 0 (pg 3)]
  | .fence _ scope => [scopeFence scope]
  | .native md _ => [serviceInstr md]
  | _ => []

/-- The operands of an action in the registers of its expansion. -/
def PAct.operands (a : PAct) (r : Regs) : Regs :=
  let g (k v : Nat) (q : Regs) : Regs := q.set k (BitVec.ofNat 64 v)
  match a with
  | .load _ _ _ _ x => g 2 x r
  | .store _ _ _ _ x v | .atomic _ _ _ x v => g 3 v (g 2 x r)
  | .cas _ _ x old new => g 0 old (g 3 new (g 2 x r))
  | .native md ops =>
    if 3 ≤ md && md ≤ 8 then g 2 (ops.getD 1 0) (r.setVec 0 (BitVec.ofNat 1024 (ops.getD 0 0)))
    else g 3 (ops.getD 1 0) (g 2 (ops.getD 0 0) r)
  | _ => r

/-- The actions that a strand performs one after another for one: `dot` loads the elements of its runs (R279). -/
def PAct.parts : PAct → List PAct
  | .runs ga gb t a b n _ =>
    (upFrom 0 n).map (fun k => .load ga.toNat 0 0 t.cls (elemAddr a t.cls k)) ++
      (upFrom 0 n).map fun k => .load gb.toNat 0 0 t.cls (elemAddr b t.cls k)
  | a => [a]

/-- How many values an action answers, of an instruction with `n` destinations. -/
def PAct.answers (n : Nat) : PAct → Nat
  | .load _ _ _ _ _ => 1
  | .store _ _ _ _ _ _ | .fence _ _ => 0
  | _ => n

/-- A run of the scalar level on a strand: the innermost activation; the instruction whose action is under way, the actions that it has still
to begin, the one begun with the native instructions that have not issued, the values answered; the callers, newest first, each with its
call; the results at the end. -/
structure PThread where
  fn : PFn
  frame : PFrame
  under : Option PStep
  todo : List PAct
  begun : Option PAct
  code : List Instr
  got : List Nat
  callers : List (PFn × PStep)
  results : Option (List Nat)
  deriving DecidableEq, Repr

/-- A run of a function that begins. -/
def PThread.start (f : PFn) (args : List Nat) (fps : Flags) : PThread :=
  { fn := f, frame := f.enter args fps, under := none, todo := [], begun := none, code := [], got := [], callers := [], results := none }

/-- An activation returns (R278): its results go where its call says, the FP status stays, and the last one ends the run. -/
def PThread.leave (p : PThread) (vs : List Nat) : PThread :=
  match p.callers with
  | [] => { p with results := some vs }
  | (f, c) :: rest =>
    { p with fn := f, frame := (f.receive { c with frame := { c.frame with fps := p.frame.fps } } vs).frame, callers := rest }

/-- A call (R278), to a function that a library gives: without one its code is unavailable (R135). A spawned callee runs at once, which is one
of the orders of R240. -/
def PThread.call (lib : List (Digest × PFn)) (p : PThread) (c : PStep) (callee : Digest) (args : List Nat) (s : State) : PThread × State :=
  match lib.lookup callee with
  | some g => ({ p with fn := g, frame := g.enter args c.frame.fps, callers := (p.fn, c) :: p.callers }, s)
  | none => (p, s.raise s.cur 0x40 0 (callee.extractLsb' 0 64))

/-- An instruction of the innermost activation. -/
def PThread.instruction (lib : List (Digest × PFn)) (p : PThread) (s : State) : PThread × State :=
  match p.fn.next p.frame with
  | none => (p, s)
  | some c =>
    match c.act with
    | .go | .sync => ({ p with frame := c.frame }, s)
    | .trap k => ({ p with frame := c.frame }, (s.onRegs fun r => { r with fps := c.frame.fps }).raise s.cur k 0 0)
    | .ret vs => (p.leave vs, s)
    | .call d vs | .spawn d vs => p.call lib c d vs s
    | a => ({ p with under := some c, todo := a.parts, got := [] }, s)

/-- The action under way goes on: its next native instruction issues, its values are taken, the next one begins, or all are answered. -/
noncomputable def PThread.action (p : PThread) (c : PStep) (s : State) : PThread × State :=
  match p.code, p.begun, p.todo with
  | i :: rest, _, _ =>
    match exec i (s.onMe fun t => { t with hold := .none }) with
    | .next t => (if t.me.hold = .none then { p with code := rest } else p, t)
    | _ => (p, s)
  | [], some a, _ =>
    ({ p with begun := none, got := p.got ++ (upFrom 0 (a.answers c.dests.length)).map fun k => (s.me.regs.get k).toNat }, s)
  | [], none, a :: rest => ({ p with todo := rest, begun := some a, code := a.code c.dests.length }, s.onRegs a.operands)
  | [], none, [] =>
    let q := p.fn.receive c p.got
    match q.act with
    | .trap k => ({ p with frame := q.frame, under := none }, (s.onRegs fun r => { r with fps := q.frame.fps }).raise s.cur k 0 0)
    | _ => ({ p with frame := q.frame, under := none }, s)

/-- One step of a run on the acting strand: it waits while that does not run, and for the results of its native instructions. -/
noncomputable def PThread.step (lib : List (Digest × PFn)) (p : PThread) (s : State) : PThread × State :=
  if s.me.status != .ready || p.results.isSome || s.me.pending 0 || s.me.pending 1 then (p, s)
  else
    match p.under with
    | none => p.instruction lib s
    | some c => p.action c s

end Sys2Proof.Machine
end

