-- ==== Sys2Proof/Safety.lean ====
section
/-! DEFINITION. What counts as a sound state and a safe run, in the terms that claims use. -/

namespace Sys2Proof

namespace Machine

/-! How claims say what an instruction leaves. -/

/-- An operand register of the acting strand, by selector code. -/
def State.reg (s : State) (code : Nat) : Word := s.me.regs.get code

/-- Whether the innermost loop of a strand ends at the word after an instruction of `len` words (R118). -/
def Regs.ends (r : Regs) (len : Nat) : Bool :=
  match r.loops with
  | [] => false
  | l :: _ => l.stop == r.off + len

/-- Whether a selector code is that of a loop counter. -/
def isCounter (k : Nat) : Bool := 88 ≤ k && k < 92

/-- An instruction of the acting strand left everything but that strand's registers as it was: memory, poison, the clock, the
control registers, the other strands and all else. Only these count it: the strand's region and chunk counts and its lookahead
shadow (R125, R261, R60), the slot its core issued last (R17), and the `YIELD`s of its core that wait for it (R138). -/
structure Ran (s t : State) : Prop where
  rest : t = { s with strands := t.strands, cores := t.cores }
  others : ∀ n, n ≠ s.cur → t.strand n = if coreOf n = coreOf s.cur then (s.strand n).turned s.cur else s.strand n
  cores : ∀ c, t.core c = if c = coreOf s.cur then { s.core c with last := s.cur % 4 } else s.core c
  own : t.me = { (s.me.counted.turned s.cur) with regs := t.me.regs }

/-- `q` is `r` after sequential execution past an instruction of `len` words: where no loop ends there the PC is the next
word; at the end of a loop the loop counters and the active loops change, and nothing else (R52, R118). -/
structure Went (r q : Regs) (len : Nat) : Prop where
  rest : q = { r with x := q.x, off := q.off, loops := q.loops }
  next : r.ends len = false → q = { r with off := r.off + len }
  kept : ∀ k, isCounter k = false → q.get k = r.get k

/-- An instruction of `len` words that raises `fl`, writes `v` to its operand `d` and to the last-result file (R46, R95), and
leaves every other register. A write to nil, or to an operand that is never written, is discarded (R50). -/
structure Wrote (s t : State) (d : Sel) (v : Word) (fl : Flags) (len : Nat) : Prop where
  ran : Ran s t
  rest : t.me.regs = { s.me.regs with x := t.me.regs.x, fps := s.me.regs.fps ||| fl, off := t.me.regs.off,
                                      loops := t.me.regs.loops, count := s.me.regs.count + 1 }
  dest : d.writable = true → d ≠ .nil → t.reg d.code.toNat = v
  z0 : t.reg 72 = v
  z1 : t.reg 73 = s.reg 72
  kept : ∀ k, k ≠ 72 → k ≠ 73 → (k = d.code.toNat → d.writable = false ∨ d = .nil) →
    (isCounter k = false ∨ s.me.regs.ends len = false) → t.reg k = s.reg k
  next : s.me.regs.ends len = false → t.me.regs.off = s.me.regs.off + len ∧ t.me.regs.loops = s.me.regs.loops

/-- The instruction completes so. -/
def Gives (i : Instr) (s : State) (d : Sel) (v : Word) (fl : Flags) (len : Nat) : Prop :=
  ∃ t, exec i s = .next t ∧ Wrote s t d v fl len

/-- A function of two values, in its register and its literal form (R95). -/
def Binary (r : Sel → Sel → Sel → Instr) (l : Sel → Sel → Word → Instr) (f : Word → Word → Word) : Prop :=
  ∀ s d a b v, Gives (r d a b) s d (f (s.rd a) (s.rd b)) 0 1 ∧ Gives (l d a v) s d (f (s.rd a) v) 0 3

/-- The same for a value that depends on the state in other ways, with the flags it raises. -/
def BinaryAt (r : Sel → Sel → Sel → Instr) (l : Sel → Sel → Word → Instr) (f : State → Sel → Word → Word → Word × Flags) :
    Prop :=
  ∀ s d a b v, Gives (r d a b) s d (f s d (s.rd a) (s.rd b)).1 (f s d (s.rd a) (s.rd b)).2 1 ∧
    Gives (l d a v) s d (f s d (s.rd a) v).1 (f s d (s.rd a) v).2 3

/-- A function of one value, in its register and its literal form (R101). -/
def Unary (r : Sel → Sel → Instr) (l : Sel → Word → Instr) (f : Word → Word) : Prop :=
  ∀ s d a v, Gives (r d a) s d (f (s.rd a)) 0 1 ∧ Gives (l d v) s d (f v) 0 3

/-- A function of one value and an immediate (R99, R100). -/
def Immediate {n : Nat} (i : Sel → Sel → BitVec n → Instr) (f : Word → BitVec n → Word) : Prop :=
  ∀ s d a m, Gives (i d a m) s d (f (s.rd a) m) 0 1

/-- 1 when a condition holds, else 0. -/
def oneIf (p : Prop) [Decidable p] : Word := if p then 1 else 0

/-- A trap of the acting strand: it is to be delivered, the strand issues nothing more and its lookahead shadow ends (R298, R314).
The trap leaves memory, every register and everything else as it was, but for the sticky flag that an enabled FP condition
sets (R79). -/
structure Trapped (s t : State) (cause : Nat) (addr extra : Word) (fl : Flags) : Prop where
  rest : t = { s with strands := t.strands, agenda := t.agenda }
  others : ∀ n, n ≠ s.cur → t.strand n = s.strand n
  own : t.me = { s.me with status := .trapping, shadow := Shadow.none, hold := .none, wait := .none, found := [],
                           regs := { s.me.regs with fps := s.me.regs.fps ||| fl } }
  due : t.agenda = s.agenda ++ [if isLantern s.cur then .lanternThreadFault s.cur (BitVec.ofNat 8 cause) addr extra
    else .trapDelivery s.cur (BitVec.ofNat 8 cause) addr extra]

/-- The instruction takes that trap. -/
def Traps (i : Instr) (s : State) (cause : Nat) (addr extra : Word) (fl : Flags) : Prop :=
  ∃ t, exec i s = .next t ∧ Trapped s t cause addr extra fl

/-- Whether raising flags takes no trap: the condition of a flag raised is not enabled (R77, R79). -/
def State.calm (s : State) (fl : Flags) : Prop :=
  (s.me.regs.fps.getLsbD 6 = true → fl.getLsbD 0 = false) ∧ (s.me.regs.fps.getLsbD 7 = true → fl.getLsbD 1 = false)

/-- A floating-point function of two values, in both forms: it completes where no condition that it raises is enabled. -/
def Floating (r : Sel → Sel → Sel → Instr) (l : Sel → Sel → Word → Instr) (f : State → Sel → Nat → Nat → Nat × Flags) :
    Prop :=
  ∀ s d a b v,
    (s.calm (f s d (f32Of (s.rd a)) (f32Of (s.rd b))).2 →
      Gives (r d a b) s d (BitVec.ofNat 64 (f s d (f32Of (s.rd a)) (f32Of (s.rd b))).1)
        (f s d (f32Of (s.rd a)) (f32Of (s.rd b))).2 1) ∧
    (s.calm (f s d (f32Of (s.rd a)) (f32Of v)).2 →
      Gives (l d a v) s d (BitVec.ofNat 64 (f s d (f32Of (s.rd a)) (f32Of v)).1) (f s d (f32Of (s.rd a)) (f32Of v)).2 3)

/-- After an instruction of `len` words whose own writes leave the acting strand's registers as `r`: they are counted, execution
goes on at the next word, and everything else is as `Ran` says. -/
structure After (s t : State) (r : Regs) (len : Nat) : Prop where
  ran : Ran s t
  regs : Went { r with count := s.me.regs.count + 1 } t.me.regs len

/-- After a taken branch to word `w` of the text, from registers `r` (R118). -/
structure Jumped (s t : State) (r : Regs) (w : Nat) : Prop where
  ran : Ran s t
  regs : t.me.regs = ({ r with count := s.me.regs.count + 1 } : Regs).jump w

/-- A branch of `len` words with an offset: not taken, it changes nothing and goes on; taken, it goes to a target in the text,
and traps at one outside (R114 to R116). -/
def BranchesAt (i : Instr) (s : State) (taken : Prop) (off : Int) (len : Nat) : Prop :=
  let target : Int := (s.me.regs.off : Int) + off
  let inside := 0 ≤ target ∧ target < (s.textLen s.me.regs.handle : Int)
  (¬taken → ∃ t, exec i s = .next t ∧ After s t s.me.regs len) ∧
  (taken → inside → ∃ t, exec i s = .next t ∧ Jumped s t s.me.regs target.toNat) ∧
  (taken → ¬inside → Traps i s 0x43 (BitVec.ofInt 64 ((s.me.regs.handle : Int) * 2 ^ 24 + target)) 0 0)

/-- A conditional branch in its four forms (R114, R115). -/
def Branches (n : Sel → Sel → BitVec 7 → Instr) (e : Sel → Sel → BitVec 32 → Instr) (l : Sel → Word → BitVec 7 → Instr)
    (el : Sel → Word → BitVec 32 → Instr) (c : Word → Word → Prop) : Prop :=
  ∀ (s : State) a b v (o : BitVec 7) (x : BitVec 32),
    BranchesAt (n a b o) s (c (s.rd a) (s.rd b)) o.toInt 1 ∧ BranchesAt (e a b x) s (c (s.rd a) (s.rd b)) x.toInt 3 ∧
    BranchesAt (l a v o) s (c (s.rd a) v) o.toInt 3 ∧ BranchesAt (el a v x) s (c (s.rd a) v) x.toInt 5

/-- The instruction, or the step of another agent, answers a next state of which `P` holds. -/
def Completes (i : Instr) (s : State) (P : State → Prop) : Prop := ∃ t, exec i s = .next t ∧ P t

/-- The acting strand issued an instruction that changes nothing beyond it and makes the steps `es` due: memory, poison, the
control registers and all else are as before, and of the other strands and the cores only the order of issue (R17, R138). -/
structure Local (s t : State) (es : List Event) : Prop where
  rest : t = { s with strands := t.strands, cores := t.cores, agenda := s.agenda ++ es }
  others : ∀ n, n ≠ s.cur → t.strand n = if coreOf n = coreOf s.cur then (s.strand n).turned s.cur else s.strand n
  cores : ∀ c, t.core c = if c = coreOf s.cur then { s.core c with last := s.cur % 4 } else s.core c

/-- The acting strand does not issue now, for a reason; nothing else changes (R17). -/
structure Held (s t : State) (h : Hold) (es : List Event) : Prop where
  rest : t = { s with strands := t.strands, agenda := s.agenda ++ es }
  others : ∀ n, n ≠ s.cur → t.strand n = s.strand n
  own : t.me = { s.me with hold := h }

/-- A message for another package leaves by its route, or is held while that fails over (R387). -/
structure Sent (s t : State) (p : BitVec 10) (o : Out) : Prop where
  held : s.failover.contains p = true → t.out = s.out ∧ t.heldOut = s.heldOut ++ [(p, o)]
  left : s.failover.contains p = false → (s.routeTo p).isSome = true → t.out = s.out ++ [o] ∧ t.heldOut = s.heldOut

/-- Every bit of memory outside a run is as it was. -/
def State.keeps (s t : State) (bit len : Nat) : Prop := ∀ b, b < bit ∨ bit + len ≤ b → t.bits b 1 = s.bits b 1

/-- Memory holds these containers from a bit on. -/
def State.holds (t : State) (bit : Nat) (ws : List Word) : Prop := ∀ k w, ws[k]? = some w → t.bits (bit + 64 * k) 64 = w.toNat

/-- The other strands keep their registers and what they are doing. -/
def State.spares (s t : State) : Prop :=
  ∀ n, n ≠ s.cur → (t.strand n).regs = (s.strand n).regs ∧ (t.strand n).status = (s.strand n).status

/-- A vector instruction wrote the lanes of `d` chosen by `on` and raised `fl`: the other lanes, the other registers and memory
are as they were, and the bits of a container that lie in no lane are zero (R166, R168). -/
structure LanesSet (s u : State) (t : Ty) (d : VReg) (on : Nat → Bool) (f : Nat → Nat × Flags) (fl : Flags) : Prop where
  after : After s u { s.me.regs with v := u.me.regs.v, fps := s.me.regs.fps ||| fl } 3
  lanes : ∀ i, i < t.lanes → lane (u.vec d).toNat t i = if on i then (f i).1 % 2 ^ t.bits else lane (s.vec d).toNat t i
  spare : t.cls.packed = true → ∀ c b, c < 16 → t.bits * t.cls.perContainer ≤ b → b < 64 → (u.vec d).getLsbD (64 * c + b) = false
  others : ∀ v, v ≠ d → u.vec v = s.vec v

/-- A condition enabled in the status register is among the flags: `FP_INVALID` before `FP_DIVZERO`, with its own sticky flag
and the status as updated (R79). -/
def TrapsFp (i : Instr) (s : State) (fl : Flags) : Prop :=
  let st := s.me.regs.fps
  (st.getLsbD 6 = true → fl.getLsbD 0 = true → Traps i s 0x08 (s.ir.setWidth 64) ((st ||| fNV).setWidth 64) fNV) ∧
  ((st.getLsbD 6 = true → fl.getLsbD 0 = false) → st.getLsbD 7 = true → fl.getLsbD 1 = true →
    Traps i s 0x09 (s.ir.setWidth 64) ((st ||| fDZ).setWidth 64) fDZ)

/-- The flags are those that the chosen lanes raise. -/
def flagsOf (fl : Flags) (n : Nat) (on : Nat → Bool) (f : Nat → Flags) : Prop :=
  ∀ b, fl.getLsbD b = true ↔ ∃ j, j < n ∧ on j = true ∧ (f j).getLsbD b = true

/-- The instruction writes the chosen lanes, or traps on an enabled condition that one of them raises (R168, R169). -/
def Lanes (i : Instr) (s : State) (t : Ty) (d : VReg) (on : Nat → Bool) (f : Nat → Nat × Flags) : Prop :=
  ∃ fl, flagsOf fl t.lanes on (fun j => (f j).2) ∧ (s.calm fl → ∃ u, exec i s = .next u ∧ LanesSet s u t d on f fl) ∧ TrapsFp i s fl

/-- The instruction writes a mask register: the chosen lanes give their bit, and every other bit is zero (R174). -/
def MaskSet (i : Instr) (s : State) (t : Ty) (m : MReg) (on : Nat → Bool) (f : Nat → Bool × Flags) : Prop :=
  ∃ fl, flagsOf fl t.lanes on (fun j => (f j).2) ∧ TrapsFp i s fl ∧
    (s.calm fl → ∃ u, exec i s = .next u ∧ After s u { s.me.regs with m := u.me.regs.m, fps := s.me.regs.fps ||| fl } 3 ∧
      (∀ j, j < 1024 → (u.me.regs.mask m.toNat).getLsbD j = (decide (j < t.lanes) && on j && (f j).1)) ∧
      ∀ k, k ≠ m.toNat → u.me.regs.mask k = s.me.regs.mask k)

/-- An engine command of the acting strand was issued (R152, R158): its token reads 0 and is pending, a new chunk begins after the
instruction, and memory, the control registers and what the other strands do are unchanged. -/
structure Tokened (s t : State) (tok : BitVec 6) : Prop where
  mem : t.mem = s.mem
  csr : t.csr = s.csr
  out : t.out = s.out
  others : s.spares t
  regs : Went { (s.me.regs.set tok.toNat 0) with count := s.me.regs.count + 1 } t.me.regs 3
  pend : t.me.token tok.toNat = true
  chunk : t.me.chunk = Chunk.start t.me.regs

/-- The instruction was performed once with these registers as its effect: a new chunk begins after it, and memory and what the
other strands do are unchanged. -/
structure Once (s t : State) (r : Regs) (len : Nat) : Prop where
  mem : t.mem = s.mem
  others : s.spares t
  regs : Went { r with count := s.me.regs.count + 1 } t.me.regs len
  chunk : t.me.chunk = Chunk.start t.me.regs

end Machine

/-- Every map of a state is in its canonical form: keys strictly rising, no entry at what an unlisted key reads as. -/
def Machine.State.canonical (s : Machine.State) : Bool :=
  s.mem.wf && Machine.SMap.wf false s.poison && Machine.SMap.wf Machine.Strand.reset s.strands &&
  Machine.SMap.wf Machine.Core.reset s.cores && Machine.SMap.wf Machine.Tile.reset s.tiles

/-- A run that never refuses an instruction: every step answers a next state or the one fault of a halted package. -/
def neverRefuses (n : Nat) : Prop :=
  ∀ s : Machine.State, ∀ r, Host.Core.run core n s ≠ .refused r

end Sys2Proof
end

