-- ==== Sys2Proof/Certificates/Slice0/Obligations.lean ====
section
/-! DEFINITION. The statements for the provers. -/

open Sys2Proof Sys2Proof.Machine

/-! Scalar integer instructions. -/

/-- R95: the functions of majors 0x01 to 0x04 that need no case of their own. Each reads a and b, writes the exact result
modulo 2^64 to d and to the last-result file, and leaves every other register, every flag and all of memory. -/
def Obligations.ScalarFunctions : Prop :=
  Binary .add .addLit (fun a b => BitVec.ofInt 64 (a.toInt + b.toInt)) ∧
  Binary .sub .subLit (fun a b => BitVec.ofInt 64 (a.toInt - b.toInt)) ∧
  Binary .and .andLit (fun a b => a &&& b) ∧
  Binary .or .orLit (fun a b => a ||| b) ∧
  Binary .xor .xorLit (fun a b => a ^^^ b) ∧
  Binary .andn .andnLit (fun a b => a &&& ~~~b) ∧
  Binary .min .minLit (fun a b => if a.toInt < b.toInt then a else b) ∧
  Binary .max .maxLit (fun a b => if b.toInt < a.toInt then a else b) ∧
  Binary .minu .minuLit (fun a b => if a.toNat < b.toNat then a else b) ∧
  Binary .maxu .maxuLit (fun a b => if b.toNat < a.toNat then a else b) ∧
  Binary .shl .shlLit (fun a b => BitVec.ofNat 64 (a.toNat * 2 ^ (b.toNat % 64))) ∧
  Binary .shr .shrLit (fun a b => BitVec.ofNat 64 (a.toNat / 2 ^ (b.toNat % 64))) ∧
  Binary .shra .shraLit (fun a b => BitVec.ofInt 64 (a.toInt / 2 ^ (b.toNat % 64))) ∧
  Binary .rot .rotLit (fun a b => (a ++ a).extractLsb' (b.toNat % 64) 64) ∧
  Binary .mul .mulLit (fun a b => BitVec.ofInt 64 (a.toInt * b.toInt)) ∧
  Binary .mulh .mulhLit (fun a b => BitVec.ofInt 64 (a.toInt * b.toInt / 2 ^ 64)) ∧
  Binary .mulhu .mulhuLit (fun a b => BitVec.ofNat 64 (a.toNat * b.toNat / 2 ^ 64)) ∧
  Binary .seteq .seteqLit (fun a b => oneIf (a = b)) ∧
  Binary .setne .setneLit (fun a b => oneIf (a ≠ b)) ∧
  Binary .setlt .setltLit (fun a b => oneIf (a.toInt < b.toInt)) ∧
  Binary .setltu .setltuLit (fun a b => oneIf (a.toNat < b.toNat)) ∧
  Binary .setge .setgeLit (fun a b => oneIf (b.toInt ≤ a.toInt)) ∧
  Binary .setgeu .setgeuLit (fun a b => oneIf (b.toNat ≤ a.toNat)) ∧
  Binary .absd .absdLit (fun a b => BitVec.ofNat 64 (a.toInt - b.toInt).natAbs)

/-- R96: division by zero gives all ones and the dividend as remainder, and the one overflow wraps; none traps, and none
changes a flag. -/
def Obligations.ScalarDivision : Prop :=
  Binary .div .divLit (fun a b => if b = 0 then BitVec.allOnes 64
    else if a.toInt = -2 ^ 63 ∧ b.toInt = -1 then a else BitVec.ofInt 64 (Int.tdiv a.toInt b.toInt)) ∧
  Binary .rem .remLit (fun a b => if b = 0 then a
    else if a.toInt = -2 ^ 63 ∧ b.toInt = -1 then 0 else BitVec.ofInt 64 (a.toInt - b.toInt * Int.tdiv a.toInt b.toInt)) ∧
  Binary .divu .divuLit (fun a b => if b = 0 then BitVec.allOnes 64 else BitVec.ofNat 64 (a.toNat / b.toNat)) ∧
  Binary .remu .remuLit (fun a b => if b = 0 then a else BitVec.ofNat 64 (a.toNat % b.toNat))

/-- R97: the saturating sum and difference set SA exactly when the clamp acts, change no other flag, and never trap, whatever is
enabled. -/
def Obligations.ScalarSaturation : Prop :=
  let clamp (x : Int) : Word × Flags :=
    if x < -2 ^ 63 then (BitVec.ofInt 64 (-2 ^ 63), fSA) else if 2 ^ 63 ≤ x then (BitVec.ofInt 64 (2 ^ 63 - 1), fSA)
    else (BitVec.ofInt 64 x, 0)
  BinaryAt .adds .addsLit (fun _ _ a b => clamp (a.toInt + b.toInt)) ∧
  BinaryAt .subs .subsLit (fun _ _ a b => clamp (a.toInt - b.toInt))

/-- R98, R99, R100, R102: the selection by the destination's old value, the immediate forms, and `MOVI`. -/
def Parts.ScalarImmediates : Prop :=
  BinaryAt .csel .cselLit (fun s d a b => (if s.rd d ≠ 0 then a else b, 0)) ∧
  (∀ s : State, s.rd .nil = 0) ∧
  Immediate .addi (fun a i => BitVec.ofInt 64 (a.toInt + i.toInt)) ∧
  Immediate .andi (fun a i => a &&& BitVec.ofInt 64 i.toInt) ∧
  Immediate .ori (fun a i => a ||| BitVec.ofInt 64 i.toInt) ∧
  Immediate .xori (fun a i => a ^^^ BitVec.ofInt 64 i.toInt) ∧
  Immediate .setlti (fun a i => oneIf (a.toInt < i.toInt)) ∧
  Immediate .shli (fun a n => BitVec.ofNat 64 (a.toNat * 2 ^ n.toNat)) ∧
  Immediate .shri (fun a n => BitVec.ofNat 64 (a.toNat / 2 ^ n.toNat)) ∧
  Immediate .shrai (fun a n => BitVec.ofInt 64 (a.toInt / 2 ^ n.toNat)) ∧
  Immediate .roti (fun a n => (a ++ a).extractLsb' n.toNat 64) ∧
  (∀ s d m, Gives (.movi d m) s d (BitVec.ofInt 64 m.toInt) 0 1) ∧
  (∀ s d v, Gives (.moviLit d v) s d v 0 3)

/-- R101: the functions of one value, the counts of bits said by what they count. -/
def Parts.ScalarUnary : Prop :=
  Unary .mov .movLit (fun a => a) ∧
  Unary .neg .negLit (fun a => BitVec.ofInt 64 (-a.toInt)) ∧
  Unary .not .notLit (fun a => ~~~a) ∧
  (∃ f, Unary .clz .clzLit f ∧ ∀ a : Word, (f a).toNat ≤ 64 ∧ (∀ i, 64 - (f a).toNat ≤ i → a.getLsbD i = false) ∧
    ((f a).toNat < 64 → a.getLsbD (63 - (f a).toNat) = true)) ∧
  (∃ f, Unary .ctz .ctzLit f ∧ ∀ a : Word, (f a).toNat ≤ 64 ∧ (∀ i, i < (f a).toNat → a.getLsbD i = false) ∧
    ((f a).toNat < 64 → a.getLsbD (f a).toNat = true)) ∧
  Unary .popc .popcLit (fun a => BitVec.ofNat 64 ((List.range 64).countP fun i => a.getLsbD i)) ∧
  (∃ f, Unary .brev .brevLit f ∧ ∀ (a : Word) (i : Nat), i < 64 → (f a).getLsbD i = a.getLsbD (63 - i)) ∧
  Unary .sext .sextLit (fun a => BitVec.ofInt 64 (a.setWidth 32).toInt) ∧
  Unary .zext .zextLit (fun a => BitVec.ofNat 64 (a.toNat % 2 ^ 32))

/-- R103: the bit-field instructions, bit by bit, for every width that decodes. Bits beyond 63 read as zero and are dropped
when written. -/
def Obligations.BitFields : Prop :=
  ∀ (s : State) (d a : Sel) (b : Src) (pos : BitVec 6) (wid : BitVec 7), wid ≠ 0 → pos.toNat + wid.toNat ≤ 64 →
    let p := pos.toNat + (s.rdSrc b).toNat % 64
    let len := srcWords b
    let field (j : Nat) : Bool := decide (p + j < 64) && (s.rd a).getLsbD (p + j)
    (∃ v, Gives (.extb d a b pos wid) s d v 0 len ∧
      ∀ j, j < 64 → v.getLsbD j = (decide (j < wid.toNat) && field j)) ∧
    (∃ v, Gives (.extbs d a b pos wid) s d v 0 len ∧
      ∀ j, j < 64 → v.getLsbD j = if j < wid.toNat then field j else field (wid.toNat - 1)) ∧
    (∃ v, Gives (.insb d a b pos wid) s d v 0 len ∧
      ∀ i, i < 64 → v.getLsbD i = if p ≤ i ∧ i < p + wid.toNat then (s.rd a).getLsbD (i - p) else (s.rd d).getLsbD i)

/-! Pointer arithmetic. -/

/-- R40, R41, R104: where the operands are legal and the result in range, each pointer instruction writes its result; the mask of
`PCHK` and the core of `PCORE` need no condition. `PCHK` judges the run of n elements that begins at the greatest legal address at or
below A: whether A is illegal, whether the run or A is beyond 2^57, whether the run meets the windows and lies in no single one of them,
and whether n is negative. That a negative run is empty is the model's choice of log 85. -/
def Parts.PointerResults : Prop :=
  ∀ (s : State) (d a : Sel) (b : Src) (c : Cls),
    let x := (s.rd a).toNat
    let y := (s.rdSrc b).toNat
    let n := (s.rdSrc b).toInt
    let step (n : Int) : Int := addrOf ((index x c : Int) + n) c
    (legal x c = true → 0 ≤ step n → step n < 2 ^ 57 → Gives (.padd d a b c) s d (BitVec.ofInt 64 (step n)) 0 (srcWords b)) ∧
    (legal x c = true → 0 ≤ step (-n) → step (-n) < 2 ^ 57 →
      Gives (.psub d a b c) s d (BitVec.ofInt 64 (step (-n))) 0 (srcWords b)) ∧
    (legal x c = true → legal y c = true → x < 2 ^ 57 → y < 2 ^ 57 →
      Gives (.pdiff d a b c) s d (BitVec.ofInt 64 ((index x c : Int) - index y c)) 0 (srcWords b)) ∧
    (∃ v, Gives (.paln d a c) s d v 0 3 ∧ legal v.toNat c = true ∧ v.toNat ≤ x ∧
      ∀ z, legal z c = true → z ≤ x → z ≤ v.toNat) ∧
    (∃ v, Gives (.pchk d a b c) s d v 0 (srcWords b) ∧ v.toNat < 16 ∧ v.getLsbD 0 = !legal x c ∧
      v.getLsbD 3 = decide (n < 0) ∧
      ∀ st, legal st c = true → st ≤ x → (∀ z, legal z c = true → z ≤ x → z ≤ st) →
        let last := lastBit (addrOf ((index st c : Int) + n - 1) c).toNat c
        (v.getLsbD 1 = true ↔ 2 ^ 57 ≤ x ∨ (0 < n ∧ 2 ^ 57 ≤ last)) ∧
        (v.getLsbD 2 = true ↔ 0 < n ∧ st < 2 ^ 57 ∧ 0x1FFF00000000000 ≤ last ∧
          ¬(∃ b, b % 2 ^ 6 = 0 ∧ 0x1FFF00000000000 ≤ b ∧ b < 0x1FFF00080000000 ∧ b ≤ st ∧ last < b + 2 ^ 6) ∧
          ¬(∃ b, b % 2 ^ 21 = 0 ∧ 0x1FFF80000000000 ≤ b ∧ b ≤ st ∧ last < b + 2 ^ 21))) ∧
    (legal x c = true → x < 2 ^ 21 → y < 2 ^ 22 → Gives (.pwin d a b c) s d
      (BitVec.ofNat 64 (0x1FFF80000000000 + y / 2 ^ 12 * 2 ^ 33 + y % 2 ^ 12 * 2 ^ 21 + x)) 0 (srcWords b)) ∧
    (Gives (.pcore d a) s d
      (if 0x1FFF80000000000 ≤ x ∧ x < 2 ^ 57 then BitVec.ofNat 64 (x / 2 ^ 33 % 2 ^ 10 * 2 ^ 12 + x / 2 ^ 21 % 2 ^ 12)
       else if 0x1FFF00000000000 ≤ x ∧ x < 0x1FFF00080000000 then
         BitVec.ofNat 64 (2 ^ 62 + x / 2 ^ 21 % 2 ^ 10 * 2 ^ 12 + x / 2 ^ 9 % 2 ^ 12)
       else BitVec.allOnes 64) 0 3)

/-- R40, R42: a misaligned operand traps `MISALIGNED` and a result or operand out of range traps `PTR_RANGE`, with the A operand as
address word and the class as extra word, and nothing written. -/
def Parts.PointerFaults : Prop :=
  ∀ (s : State) (d a : Sel) (b : Src) (c : Cls),
    let x := (s.rd a).toNat
    let y := (s.rdSrc b).toNat
    let n := (s.rdSrc b).toInt
    let step (n : Int) : Int := addrOf ((index x c : Int) + n) c
    let faults (i : Instr) (cause : Nat) : Prop := Traps i s cause (s.rd a) (BitVec.ofNat 64 c.code.toNat) 0
    (legal x c = false → faults (.padd d a b c) 0x20 ∧ faults (.psub d a b c) 0x20 ∧ faults (.pwin d a b c) 0x20) ∧
    (legal x c = true → step n < 0 ∨ 2 ^ 57 ≤ step n → faults (.padd d a b c) 0x27) ∧
    (legal x c = true → step (-n) < 0 ∨ 2 ^ 57 ≤ step (-n) → faults (.psub d a b c) 0x27) ∧
    (legal x c = false ∨ legal y c = false → faults (.pdiff d a b c) 0x20) ∧
    (legal x c = true → legal y c = true → 2 ^ 57 ≤ x ∨ 2 ^ 57 ≤ y → faults (.pdiff d a b c) 0x27) ∧
    (legal x c = true → 2 ^ 21 ≤ x ∨ 2 ^ 22 ≤ y → faults (.pwin d a b c) 0x27)

/-! Scalar floating point. -/

/-- Says something of every floating-point instruction of two values, arithmetic and comparison, in its register and its literal
form, with the value and the flags of its function. `unpack` gives a pattern's value (R70) and `roundTo` rounds once (R75); `fpBin` is
a function of two values under both. -/
def Parts.eachFloat
    (P : (Sel → Sel → Sel → Instr) → (Sel → Sel → Word → Instr) → (State → Sel → Nat → Nat → Nat × Flags) → Prop) : Prop :=
  let cmp (quiet : Bool) (test : FV → FV → Bool) (p q : Nat) : Nat × Flags :=
    let x := unpack .f32 p
    let y := unpack .f32 q
    (if (x.isNan || y.isNan) = false ∧ test x y = true then 1 else 0,
      if (if quiet then x.sNan || y.sNan else x.isNan || y.isNan) = true then fNV else 0)
  P .fadd .faddLit (fun _ _ x y => fpBin .f32 .ne (FV.add .ne) x y) ∧
  P .fsub .fsubLit (fun _ _ x y => fpBin .f32 .ne (fun p q => FV.add .ne p q.neg) x y) ∧
  P .fmul .fmulLit (fun _ _ x y => fpBin .f32 .ne FV.mul x y) ∧
  P .fdiv .fdivLit (fun _ _ x y => fpBin .f32 .ne FV.div x y) ∧
  P .fmin .fminLit (fun _ _ x y => minMax .f32 false false x y) ∧
  P .fmax .fmaxLit (fun _ _ x y => minMax .f32 true false x y) ∧
  P .fminn .fminnLit (fun _ _ x y => minMax .f32 false true x y) ∧
  P .fmaxn .fmaxnLit (fun _ _ x y => minMax .f32 true true x y) ∧
  P .fma .fmaLit (fun s d x y => fpFma .f32 .ne false x y (f32Of (s.rd d))) ∧
  P .fms .fmsLit (fun s d x y => fpFma .f32 .ne true x y (f32Of (s.rd d))) ∧
  P .fcmpeq .fcmpeqLit (fun _ _ p q => cmp true FV.eqNum p q) ∧
  P .fcmplt .fcmpltLit (fun _ _ p q => cmp false FV.ltNum p q) ∧
  P .fcmple .fcmpleLit (fun _ _ p q => cmp false (fun x y => FV.ltNum x y || FV.eqNum x y) p q)

/-- The same for the instructions of one value: square root, reciprocal, conversion. -/
def Parts.eachFloatOne (P : Instr → Sel → (State → Nat × Flags) → Nat → Prop) : Prop :=
  ∀ (d a : Sel) (b : Src) (td ts : Ty) (x : BitVec 4),
    P (.fsqrt d a) d (fun s => fpBin .f32 .ne (fun p _ => FV.sqrt p) (f32Of (s.rd a)) 0) 1 ∧
    P (.frcp d a) d (fun s => fpBin .f32 .ne (fun p _ => FV.div (.fin false 1 1) p) (f32Of (s.rd a)) 0) 1 ∧
    P (.fcvt d b td ts x) d (fun s => scalarConvert td ts x (s.rdSrc b)) (srcWords b)

/-- R105 to R112, R81: the floating-point instructions write their result and raise their flags where no condition that they
raise is enabled, and leave every other register. A comparison gives 1 or 0, 0 when an operand is a NaN, and raises at most NV (R109);
`FCLASS` sets exactly the bit of its operand's class, from negative infinity at bit 0 to quiet NaN at bit 9, and no flag, whatever is
enabled (R110). -/
def Parts.FloatResults : Prop :=
  Parts.eachFloat Floating ∧
  Parts.eachFloatOne (fun i d r len => ∀ s : State, s.calm (r s).2 → Gives i s d (BitVec.ofNat 64 (r s).1) (r s).2 len) ∧
  (∀ (s : State) d a, let p := f32Of (s.rd a)
    let e := p / 2 ^ 23 % 2 ^ 8
    let f := p % 2 ^ 23
    let k := if e = 255 ∧ f ≠ 0 then (if f < 2 ^ 22 then 8 else 9)
      else if p / 2 ^ 31 % 2 = 1 then (if e = 255 then 0 else if e = 0 ∧ f = 0 then 3 else if e = 0 then 2 else 1)
      else (if e = 255 then 7 else if e = 0 ∧ f = 0 then 4 else if e = 0 then 5 else 6)
    Gives (.fclass d a) s d (BitVec.ofNat 64 (2 ^ k)) 0 1)

/-- R79: with ENV or EDZ set, an operation that raises the enabled condition traps, `FP_INVALID` before `FP_DIVZERO`; the trap
writes no destination, z0 or z1, sets the corresponding sticky flag only, and its extra word holds the status register as
updated. Stated for every floating-point instruction that raises a flag, in every form. -/
def Parts.FloatTraps : Prop :=
  Parts.eachFloat (fun r l f => ∀ s d a b v, TrapsFp (r d a b) s (f s d (f32Of (s.rd a)) (f32Of (s.rd b))).2 ∧
    TrapsFp (l d a v) s (f s d (f32Of (s.rd a)) (f32Of v)).2) ∧
  Parts.eachFloatOne (fun i _ r _ => ∀ s : State, TrapsFp i s (r s).2)

/-- R80: `FSX` exchanges the status register, `FSR` reads it; each completes in every state, raises no flag and never traps. -/
def Parts.StatusRegister : Prop :=
  (∀ (s : State) d a, ∃ t, exec (.fsx d a) s = .next t ∧
    After s t { ((s.me.regs.wr d (s.me.regs.fps.setWidth 64)).pushZ (s.me.regs.fps.setWidth 64)) with
      fps := (s.rd a).setWidth 8 } 3) ∧
  (∀ (s : State) d, ∃ t, exec (.fsr d) s = .next t ∧ Wrote s t d (s.me.regs.fps.setWidth 64) 0 3)

/-! Control flow. -/

/-- R114, R115, R116: a branch is taken exactly when its condition holds; it writes no register, no flag and no memory; a target
outside the text traps `TEXT_BOUNDS` at the branch. The model's choices that this rests on: log 36. -/
def Obligations.Branches : Prop :=
  (∀ s o, BranchesAt (.br o) s True o.toInt 1) ∧
  Machine.Branches .beq .beqExt .beqLit .beqExtLit (fun a b => a = b) ∧
  Machine.Branches .bne .bneExt .bneLit .bneExtLit (fun a b => a ≠ b) ∧
  Machine.Branches .blt .bltExt .bltLit .bltExtLit (fun a b => a.toInt < b.toInt) ∧
  Machine.Branches .bge .bgeExt .bgeLit .bgeExtLit (fun a b => b.toInt ≤ a.toInt) ∧
  Machine.Branches .bltu .bltuExt .bltuLit .bltuExtLit (fun a b => a.toNat < b.toNat) ∧
  Machine.Branches .bgeu .bgeuExt .bgeuLit .bgeuExtLit (fun a b => b.toNat ≤ a.toNat) ∧
  (∀ (s : State) a (o : BitVec 7) (x : BitVec 32),
    BranchesAt (.bnz a o) s (s.rd a ≠ 0) o.toInt 1 ∧ BranchesAt (.bnzExt a x) s (s.rd a ≠ 0) x.toInt 3)

/-- R115, R121: `BWEND` tests the end flags of a bound walk register under a mask, and traps `WALK_STATE` for an unbound one. -/
def Parts.WalkBranches : Prop :=
  ∀ (s : State) (n : BitVec 3) (b : Sel) (v : Word) (o : BitVec 7) (x : BitVec 32),
    let w := s.me.regs.walk n.toNat
    let hit (m : Word) : Prop := w.ends &&& m.setWidth 3 ≠ 0
    (w.bound = true → BranchesAt (.bwend (.w n) b o) s (hit (s.rd b)) o.toInt 1 ∧
      BranchesAt (.bwendExt (.w n) b x) s (hit (s.rd b)) x.toInt 3 ∧
      BranchesAt (.bwendLit (.w n) v o) s (hit v) o.toInt 3 ∧ BranchesAt (.bwendExtLit (.w n) v x) s (hit v) x.toInt 5) ∧
    (w.bound = false → ∀ i ∈ [Instr.bwend (.w n) b o, .bwendExt (.w n) b x, .bwendLit (.w n) v o, .bwendExtLit (.w n) v x],
      Traps i s 0x05 (s.ir.setWidth 64) 0 0)

/-- R118: what a pass end and a taken branch do with the active loops. At the end of the innermost loop its counter goes down by
one and execution goes back to the body's start; at zero, or when it is walk-terminated and finished, the loop ends with its
counter zero, and an enclosing loop with the same end has its own pass end at once. A branch into the body leaves the loop
active, one to its end is a pass end, and one outside ends it with its counter zero and meets the next loop in the same way.
Every active loop's start is below its end, which `Parts.LoopShapes` keeps. The model's choices that this rests on: logs 11, 22. -/
def Parts.LoopRules : Prop :=
  ∀ (r : Regs) (l : Loop) (rest : List Loop) (len w : Nat), r.loops = l :: rest → l.start < l.stop →
    let c := r.get (88 + l.ctr.toNat)
    let over_ : Prop := c = 1 ∨ (l.walk.isSome = true ∧ l.finished = true)
    let left : Regs := { (r.set (88 + l.ctr.toNat) 0) with loops := rest }
    (r.off + len = l.stop → ¬over_ → r.advance len =
      { (r.set (88 + l.ctr.toNat) (c - 1)) with loops := { l with finished := false } :: rest, off := l.start }) ∧
    (r.off + len = l.stop → over_ → (∀ o, rest.head? = some o → o.stop ≠ l.stop) →
      r.advance len = { left with off := l.stop }) ∧
    (r.off + len = l.stop → over_ → (∃ o, rest.head? = some o ∧ o.stop = l.stop) →
      r.advance len = ({ left with off := l.stop } : Regs).advance 0) ∧
    (r.off + len ≠ l.stop → r.advance len = { r with off := r.off + len }) ∧
    (l.start ≤ w → w < l.stop → r.jump w = { r with off := w }) ∧
    (r.jump l.stop = ({ r with off := l.stop } : Regs).advance 0) ∧
    (w < l.start ∨ l.stop < w → r.jump w = left.jump w) ∧
    (∀ q : Regs, q.loops = [] → q.jump w = { q with off := w })

/-- R117, R118, R132: every active loop's start is below its end: pass ends and branches keep that, `LOOP` begins such a loop, as its body is
not empty, and a return or an `ERET` brings back no other, whatever its record holds. -/
def Parts.LoopShapes : Prop :=
  let shaped (r : Regs) : Prop := ∀ l ∈ r.loops, l.start < l.stop
  (∀ (r : Regs) (k : Nat), shaped r → shaped (r.advance k) ∧ shaped (r.jump k)) ∧
  (∀ (r : Regs) (ws : List Word) (held : List Loop), loopsValid ws = true → shaped (r.restoreLoops ws held)) ∧
  (∀ (s t : State) (ctr : BitVec 2) (c : Sel) (v : Word) (body : BitVec 15), shaped s.me.regs →
    exec (.loop ctr c body) s = .next t ∨ exec (.loopLit ctr v body) s = .next t → shaped t.me.regs) ∧
  (∀ (s : State) (n : Nat) (r : Regs) (ws : List Word), s.frameOk n ws = true → shaped (r.reload ws)) ∧ shaped Regs.zero

/-- R117, R120: `LOOP`, from a register and with a literal count, completes wherever its counter is free, its body ends within the enclosing
one and within the text, and a walk register that it names is bound: it starts a loop of `BODY + 1` words with its counter at the count, or
for a count of zero goes to the end with the counter zero. A counter in use, a body that ends beyond the enclosing one, an end beyond the
text and an unbound walk register trap, in the order of R117. The model's choices that this rests on: log 36. -/
def Parts.LoopStarts : Prop :=
  ∀ (s : State) (ctr : BitVec 2) (cnt : Sel) (n : BitVec 3) (v : Word) (body : BitVec 15), let r := s.me.regs
    let stop (len : Nat) : Nat := r.off + len + body.toNat + 1
    let free : Prop := ∀ l ∈ r.loops, l.ctr ≠ ctr
    let nested (len : Nat) : Prop := ∀ l, r.loops.head? = some l → stop len ≤ l.stop
    let starts (i : Instr) (len k : Nat) (walk : Option (BitVec 3)) : Prop :=
      stop len ≤ s.textLen r.handle → free → nested len →
      (0 < k → ∃ t, exec i s = .next t ∧ Ran s t ∧
        t.me.regs = { (r.set (88 + ctr.toNat) (BitVec.ofNat 64 k)) with
          loops := { ctr := ctr, start := r.off + len, stop := stop len, walk := walk, finished := false } :: r.loops,
          off := r.off + len, count := r.count + 1 }) ∧
      (k = 0 → ∃ t, exec i s = .next t ∧ Jumped s t (r.set (88 + ctr.toNat) 0) (stop len))
    let traps (i : Instr) (len : Nat) : Prop :=
      (s.textLen r.handle < stop len → Traps i s 0x43 (s.ir.setWidth 64) 0 0) ∧
      (stop len ≤ s.textLen r.handle → ∀ l, r.loops.find? (fun l => l.ctr == ctr) = some l → Traps i s 0x04 (BitVec.ofNat 64 l.stop) 2 0) ∧
      (stop len ≤ s.textLen r.handle → free → ∀ l, r.loops.head? = some l → l.stop < stop len →
        Traps i s 0x04 (BitVec.ofNat 64 l.stop) 3 0)
    starts (.loopLit ctr v body) 3 v.toNat none ∧
    ((∀ n, cnt ≠ .w n) → starts (.loop ctr cnt body) 1 (s.rd cnt).toNat none) ∧
    ((r.walk n.toNat).bound = true → starts (.loop ctr (.w n) body) 1 (r.walk n.toNat).elements (some n)) ∧
    traps (.loopLit ctr v body) 3 ∧ traps (.loop ctr cnt body) 1 ∧
    ((r.walk n.toNat).bound = false → stop 1 ≤ s.textLen r.handle → free → nested 1 →
      Traps (.loop ctr (.w n) body) s 0x05 (s.ir.setWidth 64) 0 0)

/-- R122: `WSET1` to `WSET3` bind a walk register with counts from 1 to 2^20, missing counts 1 and missing strides 0, at its base;
`WCLR` unbinds it; a count outside the range traps `WALK_STATE` with the number of its field and nothing changed. -/
def Parts.WalkRegisters : Prop :=
  ∀ (s : State) (w : BitVec 3) (b s0 n0 s1 n1 s2 n2 : Sel),
    let ok (k : Sel) : Prop := 1 ≤ (s.rd k).toNat ∧ (s.rd k).toNat ≤ 2 ^ 20
    let bound (v0 : Word) (c0 : Nat) (v1 : Word) (c1 : Nat) (v2 : Word) (c2 : Nat) : Walk :=
      { bound := true, base := s.rd b, s0 := v0, s1 := v1, s2 := v2, n0 := c0, n1 := c1, n2 := c2, i0 := 0, i1 := 0, i2 := 0,
        ends := 0 }
    let sets (i : Instr) (v : Walk) : Prop := ∃ t, exec i s = .next t ∧
      After s t { s.me.regs with w := SMap.put Walk.unbound s.me.regs.w w.toNat v } 3
    (ok n0 → sets (.wset1 w b s0 n0) (bound (s.rd s0) (s.rd n0).toNat 0 1 0 1)) ∧
    (ok n0 → ok n1 → sets (.wset2 w b s0 n0 s1 n1) (bound (s.rd s0) (s.rd n0).toNat (s.rd s1) (s.rd n1).toNat 0 1)) ∧
    (ok n0 → ok n1 → ok n2 → sets (.wset3 w b s0 n0 s1 n1 s2 n2)
      (bound (s.rd s0) (s.rd n0).toNat (s.rd s1) (s.rd n1).toNat (s.rd s2) (s.rd n2).toNat)) ∧
    sets (.wclr w) Walk.unbound ∧
    (¬ok n0 → Traps (.wset1 w b s0 n0) s 0x05 (s.ir.setWidth 64) 3 0 ∧ Traps (.wset2 w b s0 n0 s1 n1) s 0x05 (s.ir.setWidth 64) 3 0 ∧
      Traps (.wset3 w b s0 n0 s1 n1 s2 n2) s 0x05 (s.ir.setWidth 64) 3 0) ∧
    (ok n0 → ¬ok n1 → Traps (.wset2 w b s0 n0 s1 n1) s 0x05 (s.ir.setWidth 64) 5 0 ∧
      Traps (.wset3 w b s0 n0 s1 n1 s2 n2) s 0x05 (s.ir.setWidth 64) 5 0) ∧
    (ok n0 → ok n1 → ¬ok n2 → Traps (.wset3 w b s0 n0 s1 n1 s2 n2) s 0x05 (s.ir.setWidth 64) 7 0)

/-- R122, R126, R138: `NOP` changes nothing; `WGET` writes the item of its number and no flag or z register; `REGION` ends the
chunk, so that it waits for an open one, clears z0 and z1, and stands at a region entry; `TRAP` and `BRK` take their traps.
The model's choices that this rests on: log 14 for the hold of a `REGION` whose chunk is open. -/
def Parts.SmallForms : Prop :=
  ∀ s : State,
    (∃ t, exec .nop s = .next t ∧ After s t s.me.regs 1) ∧
    (∀ a, Traps (.trap a) s 0x06 (s.ir.setWidth 64) (s.rd a) 0) ∧
    Traps .brk s 0x07 (s.ir.setWidth 64) 0 0 ∧
    (∀ d w (item : BitVec 7) la, let v := (s.me.regs.walk w.toNat).items.getD item.toNat 0
      Completes (.wget d w item la) s fun t => Local s t [] ∧
        Went { (s.me.regs.wr d v) with count := s.me.regs.count + 1 } t.me.regs 3 ∧
        (la = 0 → t.me.shadow = s.me.counted.shadow) ∧
        (la ≠ 0 → t.me.shadow = { reg := d.code.toNat, also := none, left := la.toNat, size := la.toNat,
                                  handle := s.me.regs.handle, off := s.me.regs.off })) ∧
    (s.me.chunk.fresh = true → Completes .region s fun t => Local s t [] ∧
      t.me = Strand.atEntry { s.me with regs := s.me.regs.zeroZ.advance 1 }) ∧
    (s.me.chunk.fresh = false → Completes .region s fun t => Held s t .commit [.chunkCommit s.cur])

/-- R125, R126, R183: at a region entry the region count is zero, the entry is the PC, the chunk and its checkpoint are new, no
shadow is open, the queued `VSEND` entries but those of the matrix unit are gone, and a strand asked to stop stops. -/
def Parts.RegionEntry : Prop :=
  ∀ t : Strand, let u := t.atEntry
    u.regs = { t.regs with count := 0, entryHandle := t.regs.handle, entryOff := t.regs.off, entryFull := false } ∧
    u.chunk = { count := 0, stores := [], reads := [], conflict := none, aborts := 0, ckpt := u.regs } ∧
    u.shadow.left = 0 ∧ u.vItp = [] ∧ u.vMsg = [] ∧ u.vRing = [] ∧ u.vMat = t.vMat ∧
    u.hold = (if t.stopReq then .stopped else .none) ∧ u.pend.length = t.pend.length ∧ u.status = t.status

/-- R129 to R131: a call by digest that resolves in the package makes the frame record below sp the frame, clears
z0, z1 and the loop counters, leaves no loop active, and goes to the object's entry as a region entry. The record's stores are the first
of the new chunk: the strand reads the record there, and every bit outside it as before. Every other register, and memory itself, is
unchanged. -/
def Parts.Calls : Prop :=
  ∀ (s : State) (i : Instr) (d : Digest) (base h : Nat) (o : Obj), let r := s.me.regs
    let rec_ := r.record (r.off + 1) false
    ((∃ idx, i = .calld idx ∧ s.importOf idx.toNat = .ok d) ∨
      (∃ a, i = .callx a ∧ (s.rd a).toNat < 32 ∧ (s.rd a).toNat < s.vBudget s.cur ∧ d = (r.vec (s.rd a).toNat).setWidth 256)) →
    s.me.chunk.fresh = true → s.checkFrame 0 = .ok base → (s.resolveCode s.cur d).2 = some (h, o) →
    Completes i s fun t =>
      t = { s with strands := t.strands, cores := t.cores, tiles := t.tiles, objs := t.objs } ∧
      t.me = (Strand.atEntry { s.me with regs := r.called base h o.entry }).begins [padStore s.cur base rec_] ∧
      t.me.regs.fp = base ∧ t.me.regs.sp = base ∧ t.me.regs.loops = [] ∧ t.me.regs.handle = h ∧ t.me.regs.off = o.entry ∧
      (∀ k, k < 72 → t.me.regs.get k = r.get k) ∧
      (∀ k w, rec_[k]? = some w → t.padRead s.cur (base + 64 * k) = w) ∧
      (∀ b, b < padBase (coreOf s.cur) + base ∨ padBase (coreOf s.cur) + base + 128 + 128 * r.loops.length ≤ b →
        t.peek s.cur b 1 = s.peek s.cur b 1) ∧ s.spares t

/-- R130, R135: a call whose digest nothing in the package answers enters code wait with its registers, and so its PC, as they
were; where a request for the same code is open, memory and the control registers are unchanged too. -/
def Parts.CallMisses : Prop :=
  ∀ (s : State) (i : Instr) (d : Digest) (base : Nat),
    ((∃ idx, i = .calld idx ∧ s.importOf idx.toNat = .ok d) ∨
     (∃ a, i = .callx a ∧ (s.rd a).toNat < 32 ∧ (s.rd a).toNat < s.vBudget s.cur ∧ d = (s.me.regs.vec (s.rd a).toNat).setWidth 256)) →
    s.me.chunk.fresh = true → s.checkFrame 0 = .ok base → (s.resolveCode s.cur d).2 = none →
    Completes i s fun t => t.me.regs = s.me.regs ∧ t.me.status = .codeWait ∧ t.me.wait = .code d ∧ s.spares t ∧
      ((s.reqs.any fun q => q.isFor d (s.partOf s.cur) (s.gBudget s.cur) (s.vBudget s.cur)) = true →
        t.mem = s.mem ∧ t.csr = s.csr)

/-- R132, R244: `RET` through an ordinary token sets sp above the record and fp to the saved frame, makes the saved loops
active, one that its walk has finished meanwhile as finished (R119), clears z0 and z1 and goes on at the return point as a region entry. `x` is the token's container.
The model's choices that this rests on: logs 11, 22. -/
def Parts.Returns : Prop :=
  ∀ (s : State), let r := s.me.regs
    let x := (s.padRead s.cur r.fp).toNat
    let n := x / 2 ^ 51
    let loops := s.padReads s.cur (r.fp + 128) (2 * n)
    let back := ((r.restoreLoops loops (r.heldAt r.fp)).set 100 (BitVec.ofNat 64 (r.fp + 128 + 128 * n))).set 101 (s.padRead s.cur (r.fp + 64))
    s.me.chunk.fresh = true → r.role = .off → s.checkPad r.fp 64 = .ok () → n ≤ 4 →
    x.testBit 48 = false → x.testBit 49 = false → x.testBit 50 = false →
    s.checkPad (r.fp + 64) (64 + 128 * n) = .ok () → (s.obj (x / 2 ^ 24 % 2 ^ 24)).isSome = true → loopsValid loops = true →
    Completes .ret s fun t =>
      t = { s with strands := t.strands, cores := t.cores, objs := t.objs } ∧
      t.me = Strand.atEntry { s.me with regs := ({ back.zeroZ with
        handle := x / 2 ^ 24 % 2 ^ 24, waiting := r.waiting.filter fun w => r.fp + 128 + 128 * n ≤ w.1 } : Regs).arrive (x % 2 ^ 24) } ∧
      (∀ k, k < 72 → t.me.regs.get k = r.get k) ∧ (∀ k, t.me.regs.vec k = r.vec k) ∧ t.me.regs.fps = r.fps ∧ s.spares t

/-- R138, R246, R132: `STOP` ends the task, and `RET` of a first frame that is no stolen continuation ends it too: the strand
issues nothing more and its end is due, with no register written but z0 and z1 by `RET`. An active range makes both trap
`RANGE_STATE`. -/
def Parts.TaskEnds : Prop :=
  ∀ (s : State), s.me.chunk.fresh = true → let r := s.me.regs
    let ends (i : Instr) (byStop : Bool) (q : Regs) : Prop := Completes i s fun t => t.me.status = .ending ∧ t.me.byStop = byStop ∧
      t.me.regs = q ∧ t.me.handback = false ∧ Event.taskEnd s.cur ∈ t.agenda ∧ (r.wicks = [] → t.mem = s.mem) ∧ s.spares t
    (r.role = .off → ends .stop true r) ∧
    (r.role ≠ .off → Traps .stop s 0x66 (s.ir.setWidth 64) 5 0) ∧
    (r.role = .off → s.checkPad r.fp 64 = .ok () → (s.padRead s.cur r.fp).toNat.testBit 50 = true →
      (s.padRead s.cur r.fp).toNat < 2 ^ 51 → s.me.kind ≠ .continuation → ends .ret false r.zeroZ) ∧
    (r.role ≠ .off → s.checkPad r.fp 64 = .ok () → Traps .ret s 0x66 (s.ir.setWidth 64) 5 0)

/-- R242: `SPAWND` calls as `CALLD` does, with a lit continuation block between the caller's stack top and the record: header,
join cell's window address and image of the live registers, and the block becomes the newest; the older one's NEWER names it. All are
stores of the new chunk. The model's choices that this rests on: log 22. -/
def Parts.Spawns : Prop :=
  ∀ (s : State) (idx : BitVec 20) (d : Digest) (base h : Nat) (o : Obj), let r := s.me.regs
    let m := s.regionMask s.cur r.handle (r.off + 1)
    let blk := r.sp - 128 - imageBits m
    let older := match r.wicks.head? with | some w => w.1 | none => noBlock
    let block := [wickHeader true false older noBlock, s.joinCell s.cur] ++ r.image m
    let rec_ := r.record (r.off + 1) true
    let q := r.called base h o.entry
    s.me.chunk.fresh = true → s.importOf idx.toNat = .ok d → s.checkFrame (128 + imageBits m) = .ok base →
    (s.resolveCode s.cur d).2 = some (h, o) →
    Completes (.spawnd idx) s fun t =>
      t = { s with strands := t.strands, cores := t.cores, tiles := t.tiles, objs := t.objs } ∧
      t.me = (Strand.atEntry { s.me with
          regs := { q with wicks := (blk, base) :: r.wicks, waiting := r.frozen blk ++ q.waiting } }).begins
        ([padStore s.cur blk block] ++ (r.wicks.head?.toList.map fun w => newerStore s.cur w.1 blk) ++ [padStore s.cur base rec_]) ∧
      (r.wicks = [] →
        (∀ k w, block[k]? = some w → t.padRead s.cur (blk + 64 * k) = w) ∧ (∀ k w, rec_[k]? = some w → t.padRead s.cur (base + 64 * k) = w) ∧
        ∀ b, b < padBase (coreOf s.cur) + base ∨ padBase (coreOf s.cur) + r.sp ≤ b → t.peek s.cur b 1 = s.peek s.cur b 1) ∧
      s.spares t

/-- R247, R249: `SYNC` goes on when the frame's join cell is zero, an acquire, after which no write so far races with the strand's loads,
and waits at it otherwise; a stolen continuation's first frame waits at the thief's cell. The model's choices that this rests on: log 24. -/
def Parts.Syncs : Prop :=
  ∀ (s : State) (b : Nat), s.me.chunk.fresh = true →
    ((s.stolenFrame s.cur = true ∧ s.cellBit (s.joinCell s.cur) = some b) ∨
      (s.stolenFrame s.cur = false ∧ let p := (BitVec.ofNat 64 s.me.regs.fp - 64 : Word).toNat
        s.checkPad p 64 = .ok () ∧ b = padBase (coreOf s.cur) + p)) →
    (s.bits b 64 = 0 → ∃ t, exec .sync s = .next t ∧ After (s.onMe Strand.acquires) t s.me.regs 1 ∧ t.me.chunk.raced = []) ∧
    (s.bits b 64 ≠ 0 → Completes .sync s fun t => Held s t (.cell b) [])

/-- R248, R250: `RANGE` opens a span over three g registers, with its block below sp, whose stores are of the new chunk; `RNEXT` takes the next index and skips the
branch that follows it, and at the end of an owner's range, once every split-off part has ended in its cell as the strand reads it, restores
sp, an acquire (R249).
The model's choices that this rests on: logs 26, 28. -/
def Parts.Ranges : Prop :=
  ∀ (s : State), let r := s.me.regs
    (∀ a : Sel, let i := a.code.toNat
      let m := s.regionMask s.cur r.handle (r.off + 1)
      let b := r.sp - 128 - imageBits m
      s.me.chunk.fresh = true → r.role = .off → r.loops = [] → r.get (i + 2) ≠ 0 → 128 + imageBits m ≤ r.sp →
      s.me.bind.floor (s.cur % 4) ≤ b → b % 64 = 0 → r.sp ≤ s.me.bind.spSize →
      Completes (.range a) s fun t =>
        t.me.regs.role = .owner ∧ t.me.regs.grain = r.get (i + 2) ∧ t.me.regs.get 104 = r.get i ∧
        t.me.regs.get 105 = (if (r.get (i + 1)).toNat < (r.get i).toNat then r.get i else r.get (i + 1)) ∧
        t.me.regs.sp = b ∧ t.me.regs.block = b ∧ t.me.regs.bodyOff = r.off + 1 ∧ t.me.regs.off = r.off + 1 ∧
        (∀ k, k < 64 → t.me.regs.get k = r.get k) ∧ t.me.regs.fps = r.fps ∧
        t.mem = s.mem ∧ (∀ k w, ([0, 0] ++ r.image m)[k]? = some w → t.padRead s.cur (b + 64 * k) = w) ∧
        (∀ j, j < padBase (coreOf s.cur) + b ∨ padBase (coreOf s.cur) + r.sp ≤ j → t.peek s.cur j 1 = s.peek s.cur j 1) ∧ s.spares t) ∧
    (∀ d : Sel,
      (r.role ≠ .off → (r.get 104).toNat < (r.get 105).toNat →
        r.off + 1 + wordLen (s.textWord r.handle (r.off + 1)) < s.textLen r.handle →
        ∃ t, exec (.rnext d) s = .next t ∧ Jumped s t ((r.wr d (r.get 104)).set 104 (r.get 104 + 1))
          (r.off + 1 + wordLen (s.textWord r.handle (r.off + 1)))) ∧
      (r.role = .owner → (r.get 105).toNat ≤ (r.get 104).toNat → s.checkPad r.block 256 = .ok () →
        s.peek s.cur (padBase (coreOf s.cur) + r.block) 64 = 0 →
        ∃ t, exec (.rnext d) s = .next t ∧ t.me.chunk.raced = [] ∧ After (s.onMe Strand.acquires) t { (r.set 100 (BitVec.ofNat 64 (r.block + 128 +
          imageBits (imageMask [s.padRead s.cur (r.block + 128), s.padRead s.cur (r.block + 192)])))) with role := .off } 1) ∧
      (r.role = .owner → (r.get 105).toNat ≤ (r.get 104).toNat → s.checkPad r.block 256 = .ok () →
        s.peek s.cur (padBase (coreOf s.cur) + r.block) 64 ≠ 0 →
        Completes (.rnext d) s fun t => Held s t (.cell (padBase (coreOf s.cur) + r.block)) []) ∧
      (r.role = .off → Traps (.rnext d) s 0x66 (s.ir.setWidth 64) 4 0))

/-- R138: `YIELD` ends the chunk and goes on when each other strand of the core that could issue has issued; with none, at
once. -/
def Parts.Yields : Prop :=
  ∀ s : State, s.me.chunk.fresh = true → Completes .yield s fun t => Local s t [] ∧
    Went { s.me.regs with count := s.me.regs.count + 1 } t.me.regs 1 ∧
    (s.others = [] → t.me.hold = .none) ∧ (s.others ≠ [] → t.me.hold = .turn s.others) ∧
    (∀ n, n ∈ s.others ↔ n ≠ s.cur ∧ coreOf n = coreOf s.cur ∧ (s.strand n).status = .ready ∧ (s.strand n).hold = .none)

/-- R252, R253: `ENQ` puts the low 512 bits of its vector, or of the oldest queued `VSEND` entry, which it takes, at the tail of a ring
with room and raises TAIL; `DEQ` takes the item
at the head of a ring that holds one and raises HEAD; d is then 0. A full or an empty ring gives 1 and changes nothing; with no entry queued `ENQ`
traps `VECTOR_QUEUE`. Both wait until the strand's accesses to other packages are performed (R219), and while an operation on an item of
another package is under way at the entry; one on such an item leaves the ring as it is and waits for its reply. -/
def Parts.RingOperations : Prop :=
  ∀ (s : State) (i : Instr) (d a : Sel) (v x : Word) (len : Nat) (ring : Ring) (b : Nat), s.me.chunk.fresh = true →
    let r := s.me.regs
    let n := v.toNat / 2 ^ 8 % 2 ^ 5
    let vin := v.getLsbD 16
    let entry : Vec := if vin then s.me.vRing.headD 0 else r.vec n
    let after (t : State) (q : Regs) : Prop := Went { q with count := r.count + 1 } t.me.regs len ∧
      t.me.chunk = Chunk.start t.me.regs ∧ t.csr = s.csr ∧ s.spares t
    let ready : Prop := s.farSettled s.cur = true ∧ s.ringBusy ring.bit = false
    let waits : Prop := (s.farSettled s.cur = false → Completes i s fun t => Held s t .remote []) ∧
      (s.farSettled s.cur = true → s.ringBusy ring.bit = true → Completes i s fun t => Held s t (.ring ring.bit) [])
    let far (q : Regs) : Prop := Completes i s fun t => Went { q with count := r.count + 1 } t.me.regs len ∧ t.mem = s.mem ∧
      t.me.hold = .reply ∧ t.me.vRing = s.me.vRing ∧ s.spares t
    ((i = .enq d a ∧ v = s.rd a ∧ len = 1) ∨ (i = .enqLit d x ∧ v = x ∧ len = 3) → s.ringCheck v true = .ok ring →
      (vin = true → s.me.vRing = [] → Traps i s 0x0C (s.ir.setWidth 64) 2 0) ∧
      ((vin = true → s.me.vRing ≠ []) → waits) ∧
      (ready → ring.cap ≤ ring.tail.toNat - ring.head.toNat → (vin = true → s.me.vRing ≠ []) →
        Completes i s fun t => after t (r.wr d 1) ∧ t.mem = s.mem ∧ t.me.vRing = s.me.vRing) ∧
      (ready → ring.tail.toNat - ring.head.toNat < ring.cap → (vin = true → s.me.vRing ≠ []) →
        ∀ pkg c, s.access s.cur .g (ring.item ring.tail) .w512 2 0 = .ok (.far pkg c) → s.hasRoute pkg = true → far (r.wr d 0)) ∧
      (ready → ring.tail.toNat - ring.head.toNat < ring.cap → (vin = true → s.me.vRing ≠ []) →
        s.access s.cur .g (ring.item ring.tail) .w512 2 0 = .ok (.here b) → b % 64 = 0 → ring.bit % 64 = 0 →
        b + 512 ≤ ring.bit ∨ ring.bit + 256 ≤ b →
        Completes i s fun t => after t (r.wr d 0) ∧ t.bits b 512 = entry.toNat % 2 ^ 512 ∧
          t.me.vRing = (if vin then s.me.vRing.drop 1 else s.me.vRing) ∧
          t.bits (ring.bit + 192) 64 = (ring.tail + 1).toNat ∧
          ∀ k, (k < b ∨ b + 512 ≤ k) → (k < ring.bit + 192 ∨ ring.bit + 256 ≤ k) → t.bits k 1 = s.bits k 1)) ∧
    ((i = .deq d a ∧ v = s.rd a ∧ len = 1) ∨ (i = .deqLit d x ∧ v = x ∧ len = 3) → s.ringCheck v false = .ok ring →
      waits ∧
      (ready → ring.tail.toNat ≤ ring.head.toNat → Completes i s fun t => after t (r.wr d 1) ∧ t.mem = s.mem) ∧
      (ready → ring.head.toNat < ring.tail.toNat →
        ∀ pkg c, s.access s.cur .g (ring.item ring.head) .w512 1 0 = .ok (.far pkg c) → far (r.wr d 0)) ∧
      (ready → ring.head.toNat < ring.tail.toNat → s.access s.cur .g (ring.item ring.head) .w512 1 0 = .ok (.here b) →
        s.poisonFor s.cur b 512 = none → ring.bit % 64 = 0 →
        Completes i s fun t => after t ((r.setVec n (BitVec.ofNat 1024 (s.bits b 512))).wr d 0) ∧
          t.bits (ring.bit + 128) 64 = (ring.head + 1).toNat ∧ s.keeps t (ring.bit + 128) 64))

/-- R255, R256: `SENDM` puts a frame into an outbound port with room, its token 0 until the frame is accepted or refused; with no room, or with
an access of the strand to another package not performed, it waits, and changes nothing. A frame for another package leaves at once, or
when its route has failed over (R387). -/
def Parts.Messages : Prop :=
  ∀ (s : State) (i : Instr) (k : BitVec 6) (a : Sel) (v x : Word) (len : Nat),
    (i = .sendm k a ∧ v = s.rd a ∧ len = 1) ∨ (i = .sendmLit k x ∧ v = x ∧ len = 3) →
    s.me.chunk.fresh = true → s.msgCheck v = .ok () →
    let port := (s.core (coreOf s.cur)).outPort
    let f := s.frameOf k v
    (s.farSettled s.cur = false → Completes i s fun t => Held s t .remote []) ∧
    (s.farSettled s.cur = true → port.length < 4 → Completes i s fun t => t.mem = s.mem ∧ t.csr = s.csr ∧ s.spares t ∧
      (t.core (coreOf s.cur)).outPort = port ++ [f] ∧
      Went { (s.me.regs.set k.toNat 0) with count := s.me.regs.count + 1 } t.me.regs len ∧
      t.me.frames = s.me.frames + 1 ∧ t.me.pending k.toNat = true ∧
      (f.pkg = s.pkg → Event.messageFrameArrival f ∈ t.agenda) ∧
      (f.pkg ≠ s.pkg → Event.sendmAcceptTimeout s.cur k ∈ t.agenda ∧
        (s.failover.contains f.pkg = true → (f.pkg, Out.frame f) ∈ t.heldOut) ∧
        (s.failover.contains f.pkg = false → (s.routeTo f.pkg).isSome = true → Out.frame f ∈ t.out))) ∧
    (s.farSettled s.cur = true → 4 ≤ port.length → Completes i s fun t => Held s t .port [])

/-! Memory. -/

/-- R58, R121: the effective address of each addressing mode. -/
def Parts.EffectiveAddresses : Prop :=
  ∀ (s : State) (sp : Space) (c : Cls) (b x : Sel) (o : BitVec 48),
    let a := (s.rd b).toNat
    s.effAddr sp 0 c b o x = .ok (s.rd b + BitVec.ofInt 64 o.toInt).toNat ∧
    s.effAddr sp 1 c b o x = .ok a ∧
    (legal a c = true → s.effAddr sp 2 c b o x = .ok (BitVec.ofInt 64 (addrOf ((index a c : Int) + (s.rd x).toInt) c)).toNat) ∧
    (legal a c = false → s.effAddr sp 2 c b o x = .error (.trap 0x20 (s.rd b) (addrExtra sp c 0))) ∧
    (∀ n : BitVec 3, (s.me.regs.walk n.toNat).bound = true → s.effAddr sp 3 c (.w n) o x = .ok (s.rd (.w n)).toNat) ∧
    (∀ n : BitVec 3, (s.me.regs.walk n.toNat).bound = false → s.effAddr sp 3 c (.w n) o x = .error (s.trap 0x05 0))

/-- R28, R29, R39, R42, R43: the address checks and their order: no address beyond the space, then alignment, which a mailbox has only at a
whole container of w64, then the end of P or K, then for a run that it lies in one window or below them, then that the window's package,
core and range exist, then that its core holds strands of the context and the scratchpad goes so far; the address word is the address and
the extra word gives class and space. What another package's core holds is a free value here (log 44). -/
def Parts.AddressChecks : Prop :=
  ∀ (s : State) (a : Nat) (c : Cls),
    let fails (sp : Space) (cause : Nat) : Prop :=
      s.checkAddr s.cur sp a c 0 = .error (.trap cause (BitVec.ofNat 64 a) (BitVec.ofNat 64 (c.code.toNat + 2 ^ 4 * sp.code)))
    (legal a c = false → fails .p 0x20 ∧ fails .k 0x20) ∧
    (legal a c = true → s.me.bind.spSize < a + c.bits → fails .p 0x21) ∧
    (legal a c = true → a + c.bits ≤ s.me.bind.spSize → s.checkAddr s.cur .p a c 0 = .ok ()) ∧
    (legal a c = true → 2 ^ 16 < a + c.bits → fails .k 0x26) ∧
    (legal a c = true → a + c.bits ≤ 2 ^ 16 → s.checkAddr s.cur .k a c 0 = .ok ()) ∧
    (2 ^ 57 ≤ a → fails .g 0x22) ∧
    (a < 2 ^ 57 → legal a c = false → fails .g 0x20) ∧
    (a < winStart → legal a c = true → s.checkAddr s.cur .g a c 0 = .ok ()) ∧
    (resStart ≤ a → a < padStart → legal a c = true → fails .g 0x24) ∧
    (0x1FFF00000000000 ≤ a → a < 0x1FFF00080000000 → c ≠ .w64 ∨ a % 64 ≠ 0 → fails .g 0x20) ∧
    (∀ pkg core : Nat, legal a c = true →
      (0x1FFF00000000000 ≤ a ∧ a < 0x1FFF00080000000 ∧ c = .w64 ∧ pkg = a / 2 ^ 21 % 2 ^ 10 ∧ core = a / 2 ^ 9 % 2 ^ 12) ∨
      (0x1FFF80000000000 ≤ a ∧ a < 2 ^ 57 ∧ pkg = a / 2 ^ 33 % 2 ^ 10 ∧ core = a / 2 ^ 21 % 2 ^ 12) →
      let absent : Prop := s.isMember (BitVec.ofNat 10 pkg) = false ∨ core % 32 = 31 ∨ 3072 ≤ core
      let holds : Prop := ∃ k, k < 4 ∧ (s.strand (4 * core + k)).bind.valid = true ∧ (s.strand (4 * core + k)).bind.ctx = s.ctxOf s.cur
      let within : Prop := a < 0x1FFF80000000000 ∨ a % 2 ^ 21 + c.bits ≤ s.padSize core
      (absent → fails .g 0x24) ∧
      (¬absent → pkg = s.pkg.toNat → ¬holds ∨ ¬within → fails .g 0x25) ∧
      (¬absent → pkg = s.pkg.toNat → holds → within → s.checkAddr s.cur .g a c 0 = .ok ()) ∧
      (¬absent → pkg ≠ s.pkg.toNat → s.checkAddr s.cur .g a c 0 = .ok () ∨ fails .g 0x25)) ∧
    (∀ len : Nat, c.bits ≤ len → a < 2 ^ 57 → legal a c = true → (0x1FFF00000000000 ≤ a → a < 0x1FFF00080000000 → c = .w64 ∧ a % 64 = 0) →
      let last := lastBit (a + len - c.bits) c
      let crosses : Prop := (a < 0x1FFF00000000000 ∧ 0x1FFF00000000000 ≤ last) ∨
        (0x1FFF00000000000 ≤ a ∧ a < 0x1FFF00080000000 ∧ a / 2 ^ 6 ≠ last / 2 ^ 6) ∨
        (0x1FFF00080000000 ≤ a ∧ a < 0x1FFF80000000000 ∧ 0x1FFF80000000000 ≤ last) ∨
        (0x1FFF80000000000 ≤ a ∧ a / 2 ^ 21 ≠ last / 2 ^ 21)
      (crosses → s.runShape .g a len c 0 = .error (.trap 0x23 (BitVec.ofNat 64 a) (BitVec.ofNat 64 (c.code.toNat + 2 ^ 4)))) ∧
      (¬crosses → s.runShape .g a len c 0 = .ok ()))

/-- R141, R142, R145, R60: a load of a place in this package reads it through the strand's own stores, and its value is due; the
destination is pending, the base is updated (R58, R123), and no memory changes. A load of P that no window write races with reads what is
there (R264). Of the rest only the order of use of the TLBs changes (`State.hit`, R333). The model's choices that this rests on:
logs 15, 31. -/
def Parts.Loads : Prop :=
  ∀ (s : State) (i : Instr) (sp : Space) (am : BitVec 2) (w : Cls) (b d x : Sel) (v : VReg) (o : BitVec 48) (sx : Bool)
    (la : BitVec 4) (off : BitVec 48) (idx : Sel) (name : Nat) (wide : Bool) (len a bit : Nat),
    (off = 0 ∧ idx = .nil ∧ wide = false ∧ len = 1 ∧
      ((name = d.code.toNat ∧ ((i = .ldp am w b d la ∧ sp = .p) ∨ (i = .ldg am w b d la ∧ sp = .g) ∨ (i = .ldk am w b d la ∧ sp = .k))) ∨
       (name = 128 + v.toNat ∧ ((i = .vldp am w b v la ∧ sp = .p) ∨ (i = .vldg am w b v la ∧ sp = .g))))) ∨
    (off = o ∧ len = 3 ∧
      ((name = d.code.toNat ∧ idx = x ∧ wide = sx ∧ ((i = .ldpExt am w b d la o x sx ∧ sp = .p) ∨
         (i = .ldgExt am w b d la o x sx ∧ sp = .g) ∨ (i = .ldkExt am w b d la o x sx ∧ sp = .k))) ∨
       (name = 128 + v.toNat ∧ idx = .nil ∧ wide = false ∧
         ((i = .vldpExt am w b v la o ∧ sp = .p) ∨ (i = .vldgExt am w b v la o ∧ sp = .g))))) →
    s.operand sp am w b off idx 1 = .ok (a, .here bit) → s.poisonFor s.cur bit w.bits = none →
    let x := if sp = .p then s.ownPeek s.cur bit w.bits else s.peek s.cur bit w.bits
    (s.me.chunk.raced = [] → x = s.peek s.cur bit w.bits) ∧
    Completes i s fun t =>
      Local (s.hit s.cur sp a) t [.loadReply s.cur (.value (BitVec.ofNat 1024 x))] ∧
      t.me.pend = s.me.pend ++ [{ reg := name, kind := .load, sx := wide, bits := w.bits, far := none, snap := none,
                                  part := none, old := false }] ∧
      Went { (s.updateBase am w b).me.regs with count := s.me.regs.count + 1 } t.me.regs len ∧
      t.me.chunk.stores = s.me.chunk.stores ∧
      (la ≠ 0 → t.me.shadow = { reg := name, also := none, left := la.toNat, size := la.toNat, handle := s.me.regs.handle,
                                off := s.me.regs.off })

/-- R141, R142: the reply of a strand's oldest load writes its whole destination, extended as the instruction says, and nothing
else of the machine. The model's choices that this rests on: log 15. -/
def Parts.LoadReplies : Prop :=
  ∀ (s : State) (n : Nat) (x : BitVec 1024) (p : Pend) (rest : List Pend),
    (s.strand n).pend = p :: rest → p.kind = .load → p.far = none → p.snap = none → p.part = none →
    Completes (.loadReply n (.value x)) s fun t =>
      t = { s with strands := t.strands } ∧ (∀ m, m ≠ n → t.strand m = s.strand m) ∧
      (t.strand n).pend.length = rest.length ∧ (t.strand n).chunk.stores = (s.strand n).chunk.stores ∧
      (∀ k : Nat, k < 32 → p.reg = 128 + k → p.sx = false → p.bits ≤ 1024 →
        (t.strand n).regs = (s.strand n).regs.setVec k (BitVec.ofNat 1024 (x.toNat % 2 ^ p.bits))) ∧
      (∀ d : Sel, d.writable = true → p.reg = d.code.toNat → 1 ≤ p.bits → p.bits ≤ 64 →
        (t.strand n).regs = (s.strand n).regs.wr d
          (if p.sx then BitVec.ofInt 64 (signed p.bits x.toNat) else BitVec.ofNat 64 (x.toNat % 2 ^ p.bits)))

/-- R141, R143: a store is buffered: the strand reads its value back at once (R142), every bit outside what it stores to reads
as before, and memory itself is unchanged until the chunk commits. The model's choices that this rests on: log 31. -/
def Parts.Stores : Prop :=
  ∀ (s : State) (i : Instr) (sp : Space) (am : BitVec 2) (w : Cls) (b c x : Sel) (o off : BitVec 48) (idx : Sel)
    (len a bit : Nat),
    (off = 0 ∧ idx = .nil ∧ len = 1 ∧ ((i = .stp am w b c ∧ sp = .p) ∨ (i = .stg am w b c ∧ sp = .g))) ∨
    (off = o ∧ idx = x ∧ len = 3 ∧ ((i = .stpExt am w b c o x ∧ sp = .p) ∨ (i = .stgExt am w b c o x ∧ sp = .g))) →
    s.operand sp am w b off idx 2 = .ok (a, .here bit) →
    s.me.chunk.stores = [] ∨ entriesUsed (s.me.chunk.stores ++ elemStores none bit w (s.rd c).toNat) ≤ 64 →
    (w.packed = true → (bit % 64) % w.bits = 0 ∧ bit % 64 < w.bits * w.perContainer) →
    Completes i s fun t => Local (s.hit s.cur sp a) t [] ∧
      Went { (s.updateBase am w b).me.regs with count := s.me.regs.count + 1 } t.me.regs len ∧
      t.me.pend = s.me.pend ∧
      t.peek s.cur bit w.bits = (s.rd c).toNat % 2 ^ w.bits ∧
      ∀ k, k < bit ∨ bit + w.bits ≤ k →
        (w.packed = true → k < bit / 64 * 64 + w.bits * w.perContainer ∨ bit / 64 * 64 + 64 ≤ k) →
        t.peek s.cur k 1 = s.peek s.cur k 1

/-- R145, R146: a vector store without a descriptor stores the low bits of its register; a masked one the active lanes only.
The model's choices that this rests on: log 31. -/
def Parts.VectorStores : Prop :=
  ∀ (s : State) (i : Instr) (sp : Space) (am : BitVec 2) (w : Cls) (b x : Sel) (v : VReg) (o off : BitVec 48) (m : Word)
    (len a bit : Nat),
    (off = 0 ∧ m = 0 ∧ len = 1 ∧ ((i = .vstp am w b v ∧ sp = .p) ∨ (i = .vstg am w b v ∧ sp = .g))) ∨
    (off = o ∧ m = s.rd x ∧ len = 3 ∧ ((i = .vstpExt am w b v o x ∧ sp = .p) ∨ (i = .vstgExt am w b v o x ∧ sp = .g))) →
    s.operand sp am w b off .nil 2 = .ok (a, .here bit) → s.checkDesc m false = .ok () → s.me.chunk.stores = [] →
    w.bits ≤ 1024 →
    let k := m.toNat % 8
    let c := (Cls.ofCode (BitVec.ofNat 4 (m.toNat / 16))).getD .w1
    let stored (j : Nat) : Bool := k == 0 || (upFrom 0 (lanesIn c w.bits)).any fun l =>
      (s.me.regs.mask k).getLsbD l && decide (laneBit c l ≤ j) && decide (j < laneBit c l + c.bits)
    Completes i s fun t => Local (s.hit s.cur sp a) t [] ∧
      Went { (s.updateBase am w b).me.regs with count := s.me.regs.count + 1 } t.me.regs len ∧
      (∀ j, j < w.bits → t.peek s.cur (bit + j) 1 = if stored j then (if (s.vec v).getLsbD j then 1 else 0) else s.peek s.cur (bit + j) 1) ∧
      ∀ j, j < bit ∨ bit + w.bits ≤ j → t.peek s.cur j 1 = s.peek s.cur j 1

/-- R147: `VGATH` reads each active lane at its own address and writes zero elsewhere, its value due as one reply; `VSCAT` buffers
the lanes in ascending order; a misaligned base traps `MISALIGNED`, and a descriptor outside the map of R146, by a reserved bit, a lane class
or an index register beyond the budget, `VMEM_OPERAND`: both change nothing. The model's choices that this rests on: logs 15, 31. -/
def Obligations.GathersAndScatters : Prop :=
  ∀ (s : State) (w : Cls) (b x : Sel) (v : VReg) (la : BitVec 4) (o : BitVec 48) (ls : List (Nat × Nat × Nat)),
    let placed := ls.map fun l => (l.1, l.2.1, Place.here l.2.2)
    let a := s.rd b + o.signExtend 64
    (s.lanes w b o (s.rd x) 1 = .ok placed → (∀ l ∈ ls, s.poisonFor s.cur l.2.2 w.bits = none) →
      Completes (.vgath w b v la o x) s fun t => t.mem = s.mem ∧ t.csr = s.csr ∧
        t.agenda = s.agenda ++ [.loadReply s.cur (.value (BitVec.ofNat 1024
          (ls.foldl (fun a l => setBitsOf a (laneBit w l.1) w.bits (s.peek s.cur l.2.2 w.bits)) 0)))] ∧
        t.me.pend = s.me.pend ++ [{ reg := 128 + v.toNat, kind := .load, sx := false, bits := 1024, far := none,
                                    snap := none, part := none, old := false }] ∧
        Went { s.me.regs with count := s.me.regs.count + 1 } t.me.regs 3) ∧
    (s.lanes w b o (s.rd x) 2 = .ok placed → s.me.chunk.stores = [] →
      Completes (.vscat w b v o x) s fun t => Local (ls.foldl (fun a l => a.hit s.cur .g l.2.1) s) t [] ∧
        t.me.chunk.stores = ls.flatMap (fun l => elemStores none l.2.2 w (bitsOf (s.vec v).toNat (laneBit w l.1) w.bits)) ∧
        Went { s.me.regs with count := s.me.regs.count + 1 } t.me.regs 3) ∧
    (legal a.toNat w = false → Traps (.vgath w b v la o x) s 0x20 a (addrExtra .g w 0) 0 ∧
      Traps (.vscat w b v o x) s 0x20 a (addrExtra .g w 0) 0) ∧
    (legal a.toNat w = true → 2 ^ 13 ≤ (s.rd x).toNat ∨ (s.rd x).getLsbD 3 = true ∨ (s.rd x).toNat / 2 ^ 4 % 2 ^ 4 ≠ 0 ∨
        s.vBudget s.cur ≤ (s.rd x).toNat / 2 ^ 8 % 2 ^ 5 →
      Traps (.vgath w b v la o x) s 0x0A (s.ir.setWidth 64) 0 0 ∧ Traps (.vscat w b v o x) s 0x0A (s.ir.setWidth 64) 0 0)

/-- R149: `IOLD` sends one read once every earlier `IOST` of the strand has been accepted, and the strand goes on when it
returns; `IOST` posts one write behind its port's earlier ones. Both are performed once: the chunk begins anew. -/
def Parts.IoWindows : Prop :=
  ∀ (s : State) (am : BitVec 2) (w : Cls) (b d x : Sel) (la : BitVec 4) (o : BitVec 48) (a port byte : Nat),
    s.me.chunk.fresh = true →
    (∀ i off idx len, (i = .iold am w b d la ∧ off = 0 ∧ idx = .nil ∧ len = 1) ∨ (i = .ioldExt am w b d la o x ∧ off = o ∧ idx = x ∧ len = 3) →
      s.ioOperand am w b off idx 1 = .ok (a, port, byte) →
      (s.me.ioLeft = 0 → Completes i s fun t => t.mem = s.mem ∧ t.csr = s.csr ∧ s.spares t ∧
        t.out = s.out ++ [.ioRead s.cur port byte (w.bits / 8)] ∧ t.agenda = s.agenda ++ [.ioldTimeout s.cur] ∧
        t.me.hold = .ioReply ∧ t.me.since = s.clk ∧ t.me.pending d.code.toNat = true ∧ t.me.chunk = Chunk.start t.me.regs ∧
        Went { (s.updateBase am w b).me.regs with count := s.me.regs.count + 1 } t.me.regs len) ∧
      (s.me.ioLeft ≠ 0 → Completes i s fun t => Held s t .io [])) ∧
    (s.ioOperand am w b o x 2 = .ok (a, port, byte) →
      Completes (.iost am w b d o x) s fun t => t.mem = s.mem ∧ t.csr = s.csr ∧ s.spares t ∧ t.out = s.out ∧
        SMap.look [] t.posted port = SMap.look [] s.posted port ++
          [{ strand := s.cur, byte := byte, bytes := w.bits / 8, value := (s.rd d).toNat % 2 ^ w.bits }] ∧
        t.agenda = s.agenda ++ [.iostAcceptance port] ∧ t.me.ioLeft = s.me.ioLeft + 1 ∧ t.me.chunk = Chunk.start t.me.regs ∧
        Went { (s.updateBase am w b).me.regs with count := s.me.regs.count + 1 } t.me.regs 3)

/-- R150: each fence waits for its chunk's commit and for what it names, the acknowledgements of its remote stores among it, and then
changes nothing.
The model's choices that this rests on: log 14. -/
def Parts.Fences : Prop :=
  ∀ (s : State) (i : Instr) (ok : Prop) (h : Hold),
    (i = .fence ∧ (ok ↔ True) ∧ h = .commit) ∨ (i = .fencep ∧ (ok ↔ (∀ p ∈ s.me.pend, p.far = none) ∧ ∀ f ∈ s.farStores, f.tag = s.cur → f.inst ≠ s.me.inst) ∧ h = .remote) ∨
    (i = .fenceio ∧ (ok ↔ s.me.ioLeft = 0 ∧ ∀ p ∈ s.me.pend, p.kind ≠ .io) ∧ h = .io) ∨
    (i = .drain ∧ (ok ↔ (∀ c ∈ (s.core (coreOf s.cur)).copyQ, c.strand ≠ s.cur) ∧
      (∀ c ∈ (s.core (coreOf s.cur)).matQ, c.remote = false → c.strand ≠ s.cur) ∧ ∀ p ∈ s.me.pend, p.kind ≠ .token) ∧
      h = .engines) →
    (s.me.chunk.fresh = false → Completes i s fun t => Held s t .commit [.chunkCommit s.cur]) ∧
    (s.me.chunk.fresh = true → ok → ∃ t, exec i s = .next t ∧ After s t s.me.regs 1) ∧
    (s.me.chunk.fresh = true → ¬ok → Completes i s fun t => Held s t h [])

/-- R154: `TPOLL` reads 0 from a register that is pending, and its value else; `TWAITA` waits until none of the general registers that its
mask names is a token that has yet to be written, or until any of them is not pending, and gives those that are not pending. -/
def Parts.Tokens : Prop :=
  ∀ (s : State) (d m : Sel) (k : BitVec 6) (any : Bool) (la : BitVec 4),
    let named := (List.range (s.gBudget s.cur)).filter fun j => (s.rd m).getLsbD j
    let free := named.filter fun j => !s.me.pending j
    (Completes (.tpoll d k la) s fun t => Local s t [] ∧
      Went { (s.me.regs.wr d (if s.me.pending k.toNat then 0 else s.me.regs.get k.toNat)) with count := s.me.regs.count + 1 } t.me.regs 3) ∧
    (named = [] ∨ (any = true ∧ free ≠ []) ∨ (any = false ∧ ∀ j ∈ named, s.me.token j = false) → s.gBudget s.cur ≤ 64 →
      ∃ v : Word, (∀ j, j < 64 → v.getLsbD j = free.contains j) ∧
        Completes (.twaita d m any la) s fun t => Local s t [] ∧
          Went { (s.me.regs.wr d v) with count := s.me.regs.count + 1 } t.me.regs 3) ∧
    (named ≠ [] → (any = true ∧ free = []) ∨ (any = false ∧ ∃ j ∈ named, s.me.token j = true) →
      Completes (.twaita d m any la) s fun t => Held s t (.tokens (s.rd m).toNat any) [])

/-! The vector unit. -/

/-- R168, R169, R171, R172: the arithmetic of lanes. An integer lane takes the exact result modulo its width, or clamped to its
type with SA where the instruction saturates; a floating lane is rounded once. Inactive lanes, the other registers and memory
keep their values, and an enabled condition of a lane traps with nothing written. -/
def Obligations.VectorArithmetic : Prop :=
  ∀ (s : State) (t : Ty) (k : MReg) (d a b c : VReg) (rm : Rm) (sat : Bool),
    let on (i : Nat) : Bool := s.active k.toNat i
    let A (i : Nat) : Nat := lane (s.vec a).toNat t i
    let B (i : Nat) : Nat := lane (s.vec b).toNat t i
    let C (i : Nat) : Nat := lane (s.vec c).toNat t i
    let wrap (x : Int) : Nat × Flags := ((x % (2 ^ t.bits : Nat)).toNat, 0)
    let clamp (x : Int) : Nat × Flags :=
      if x < t.lo then ((t.lo % (2 ^ t.bits : Nat)).toNat, fSA) else if t.hi < x then ((t.hi % (2 ^ t.bits : Nat)).toNat, fSA) else wrap x
    let int (x : Nat) : Int := t.int x
    let pick (x y : Nat) (p : Bool) : Nat × Flags := (if p then x else y, 0)
    Lanes (.vadd t k d a b rm) s t d on
      (fun i => if t.isFloat then fpBin t rm (FV.add rm) (A i) (B i) else wrap (int (A i) + int (B i))) ∧
    Lanes (.vsub t k d a b rm) s t d on
      (fun i => if t.isFloat then fpBin t rm (fun x y => FV.add rm x y.neg) (A i) (B i) else wrap (int (A i) - int (B i))) ∧
    Lanes (.vmul t k d a b rm) s t d on
      (fun i => if t.isFloat then fpBin t rm FV.mul (A i) (B i) else wrap (int (A i) * int (B i))) ∧
    Lanes (.vfma t k d a b c rm) s t d on
      (fun i => if t.isFloat then fpFma t rm false (A i) (B i) (C i) else wrap (int (A i) * int (B i) + int (C i))) ∧
    Lanes (.vfms t k d a b c rm) s t d on
      (fun i => if t.isFloat then fpFma t rm true (A i) (B i) (C i) else wrap (int (C i) - int (A i) * int (B i))) ∧
    Lanes (.vmin t k d a b) s t d on
      (fun i => if t.isFloat then minMax t false false (A i) (B i) else pick (A i) (B i) (decide (int (A i) < int (B i)))) ∧
    Lanes (.vmax t k d a b) s t d on
      (fun i => if t.isFloat then minMax t true false (A i) (B i) else pick (A i) (B i) (decide (int (B i) < int (A i)))) ∧
    Lanes (.vminn t k d a b) s t d on
      (fun i => if t.isFloat then minMax t false true (A i) (B i) else pick (A i) (B i) (decide (int (A i) < int (B i)))) ∧
    Lanes (.vmaxn t k d a b) s t d on
      (fun i => if t.isFloat then minMax t true true (A i) (B i) else pick (A i) (B i) (decide (int (B i) < int (A i)))) ∧
    Lanes (.vabs t k d a sat) s t d on (fun i =>
      if t.isFloat then
        (if (unpack t (A i)).isNan then (canonNan t, sigFlag (unpack t (A i))) else (A i % 2 ^ (t.bits - 1), 0))
      else if sat then clamp ((int (A i)).natAbs : Int) else wrap ((int (A i)).natAbs : Int)) ∧
    Lanes (.vneg t k d a sat) s t d on (fun i =>
      if t.isFloat then
        (if (unpack t (A i)).isNan then (canonNan t, sigFlag (unpack t (A i))) else ((A i + 2 ^ (t.bits - 1)) % 2 ^ t.bits, 0))
      else if sat then clamp (-int (A i)) else wrap (-int (A i))) ∧
    Lanes (.vadds t k d a b) s t d on (fun i => clamp (int (A i) + int (B i))) ∧
    Lanes (.vsubs t k d a b) s t d on (fun i => clamp (int (A i) - int (B i))) ∧
    Lanes (.vmulh t k d a b) s t d on (fun i => wrap (int (A i) * int (B i) / (2 ^ t.bits : Nat)))

/-- R173: bitwise functions and shifts of lanes; a shift by the width of the lane or more shifts everything out. -/
def Parts.VectorBits : Prop :=
  ∀ (s : State) (t : Ty) (k : MReg) (d a b : VReg) (amt : VAmt),
    let on (i : Nat) : Bool := s.active k.toNat i
    let A (i : Nat) : Nat := lane (s.vec a).toNat t i
    let B (i : Nat) : Nat := lane (s.vec b).toNat t i
    let n (i : Nat) : Nat := match amt with
      | .reg c => lane (s.vec c).toNat t i
      | .imm m => m.toNat
    Lanes (.vand t k d a b) s t d on (fun i => (A i &&& B i, 0)) ∧
    Lanes (.vor t k d a b) s t d on (fun i => (A i ||| B i, 0)) ∧
    Lanes (.vxor t k d a b) s t d on (fun i => (A i ^^^ B i, 0)) ∧
    Lanes (.vandn t k d a b) s t d on (fun i => (A i &&& (2 ^ t.bits - 1 - B i), 0)) ∧
    Lanes (.vnot t k d a) s t d on (fun i => (2 ^ t.bits - 1 - A i, 0)) ∧
    Lanes (.vshl t k d a amt) s t d on (fun i => (A i * 2 ^ n i, 0)) ∧
    Lanes (.vshr t k d a amt) s t d on (fun i => (A i / 2 ^ n i, 0)) ∧
    Lanes (.vshra t k d a amt) s t d on (fun i => ((signed t.bits (A i) / (2 ^ n i : Nat) % (2 ^ t.bits : Nat)).toNat, 0))

/-- R174, R175: selection, permutation, broadcast, slide and index writes of lanes, and the moves of one lane. -/
def Parts.VectorMoves : Prop :=
  ∀ (s : State) (t t2 : Ty) (k : MReg) (d a b : VReg) (x : Sel) (n : BitVec 11),
    let on (i : Nat) : Bool := s.active k.toNat i
    let A (i : Nat) : Nat := lane (s.vec a).toNat t i
    let B (i : Nat) : Nat := lane (s.vec b).toNat t i
    Lanes (.vsel t k d a b) s t d (fun _ => true) (fun i => (if on i then A i else B i, 0)) ∧
    Lanes (.vclass t k d a) s t d on (fun i => (fclassBits t (A i), 0)) ∧
    Lanes (.vshuf t t2 k d a b) s t d on (fun i => let j := lane (s.vec b).toNat t2 i; (if j < t.lanes then A j else 0, 0)) ∧
    Lanes (.vbcast t k d x) s t d on (fun _ => ((s.rd x).toNat, 0)) ∧
    Lanes (.vslide t k d a b n) s t d on
      (fun i => (if i + n.toNat < t.lanes then A (i + n.toNat) else B (i + n.toNat - t.lanes), 0)) ∧
    Lanes (.vidx t k d x) s t d on (fun i => ((s.rd x).toNat + i, 0)) ∧
    (n.toNat < t.lanes → Lanes (.vmovv t d x n) s t d (fun i => i == n.toNat) (fun _ => ((s.rd x).toNat, 0))) ∧
    (∀ e : Sel, Gives (.vmovs t e a n) s e
      (if t.isSigned then BitVec.ofInt 64 (t.int (A n.toNat)) else BitVec.ofNat 64 (A n.toNat)) 0 3)

/-- R174: comparisons of lanes write a whole mask register; a NaN compares false, `VCMPNE` excepted, and raises NV where it is
signalling or the comparison orders. -/
def Parts.VectorCompares : Prop :=
  ∀ (s : State) (t : Ty) (k m : MReg) (a b : VReg),
    let on (i : Nat) : Bool := s.active k.toNat i
    let cmp (p : Int → Int → Bool) (f : FV → FV → Bool) (quiet : Bool) (i : Nat) : Bool × Flags :=
      let x := lane (s.vec a).toNat t i
      let y := lane (s.vec b).toNat t i
      if t.isFloat then
        let u := unpack t x
        let v := unpack t y
        (f u v, if (if quiet then u.sNan || v.sNan else u.isNan || v.isNan) then fNV else 0)
      else (p (t.int x) (t.int y), 0)
    MaskSet (.vcmpeq t k m a b) s t m on (cmp (fun x y => decide (x = y)) FV.eqNum true) ∧
    MaskSet (.vcmpne t k m a b) s t m on (cmp (fun x y => decide (x ≠ y)) (fun x y => !FV.eqNum x y) true) ∧
    MaskSet (.vcmplt t k m a b) s t m on (cmp (fun x y => decide (x < y)) FV.ltNum false) ∧
    MaskSet (.vcmple t k m a b) s t m on (cmp (fun x y => decide (x ≤ y)) (fun x y => FV.ltNum x y || FV.eqNum x y) false)

/-- R176, R179: conversions of lanes and the quantising instructions, with which lanes of the destination and the source meet.
`convert`, `quantRecip`, `quantDiv` and `dequantise` are the conversions of R82 and R83. -/
def Parts.VectorConversions : Prop :=
  ∀ (s : State) (t t2 : Ty) (k : MReg) (d a b : VReg) (g : Grp) (n : BitVec 11) (rm : Rm) (sat : Bool),
    let on (i : Nat) : Bool := s.active k.toNat i
    let part (i : Nat) : Bool := decide (n.toNat ≤ i) && decide (i - n.toNat < t2.lanes) && s.active k.toNat i
    let A (i : Nat) : Nat := lane (s.vec a).toNat t2 i
    let B (i : Nat) : Nat := lane (s.vec b).toNat t2 i
    let head (q : Ty) (j : Nat) : FV × Int := header (s.vec b).toNat (j / g.size) q
    Lanes (.vpack t t2 k d a n sat) s t d part (fun i => convert t t2 .ne sat (A (i - n.toNat))) ∧
    Lanes (.vunpk t t2 k d a n sat) s t d on
      (fun i => if n.toNat + i < t2.lanes then convert t t2 .ne sat (A (n.toNat + i)) else (0, 0)) ∧
    Lanes (.vcvt t t2 k d a b n rm sat) s t d on (fun i =>
      if n.toNat + i < t2.lanes then convert t t2 rm sat (A (n.toNat + i))
      else if n.toNat + i < 2 * t2.lanes then convert t t2 rm sat (B (n.toNat + i - t2.lanes)) else (0, 0)) ∧
    Lanes (.vqnt t t2 k d a b g n rm) s t d part
      (fun i => quantRecip (unpack t2 (A (i - n.toNat))) (head t i).1 (head t i).2 t rm) ∧
    Lanes (.vqdiv t t2 k d a b g n rm) s t d part
      (fun i => quantDiv (unpack t2 (A (i - n.toNat))) (head t i).1 (head t i).2 t rm) ∧
    Lanes (.vdqnt t t2 k d a b g n rm) s t d on (fun i => if n.toNat + i < t2.lanes
      then dequantise t rm true (head t2 (n.toNat + i)).1 (t2.int (A (n.toNat + i))) (head t2 (n.toNat + i)).2 else (0, 0))

/-- R177, R178: a reduction over the active lanes. The integer sum without saturation is the exact sum modulo 2^64 whatever the
tree; the bitwise ones need no order; no active lane gives 0; and a floating one follows the tree of `reduce`. -/
def Parts.VectorReductions : Prop :=
  ∀ (s : State) (t : Ty) (k : MReg) (d : Sel) (a : VReg) (rm : Rm) (sat : Bool) (op : BitVec 4),
    let on := (List.range t.lanes).filter fun i => s.active k.toNat i
    let A (i : Nat) : Int := t.int (lane (s.vec a).toNat t i)
    let r := reduce s t k op.toNat a rm sat
    (s.calm r.2 → Gives (.vred t k op d a rm sat) s d (BitVec.ofNat 64 r.1) r.2 3) ∧
    TrapsFp (.vred t k op d a rm sat) s r.2 ∧
    (on = [] → r.1 = 0) ∧
    (t.isFloat = false →
      (op = 0 → sat = false → BitVec.ofNat 64 r.1 = BitVec.ofInt 64 (on.foldl (fun x i => x + A i) 0) ∧ r.2 = 0) ∧
      (op = 6 → BitVec.ofNat 64 r.1 = on.foldl (fun x i => x ||| BitVec.ofInt 64 (A i)) 0 ∧ r.2 = 0) ∧
      (op = 7 → BitVec.ofNat 64 r.1 = on.foldl (fun x i => x ^^^ BitVec.ofInt 64 (A i)) 0 ∧ r.2 = 0) ∧
      (op = 1 → on ≠ [] → ∃ i ∈ on, BitVec.ofNat 64 r.1 = BitVec.ofInt 64 (A i) ∧ ∀ j ∈ on, A i ≤ A j) ∧
      (op = 2 → on ≠ [] → ∃ i ∈ on, BitVec.ofNat 64 r.1 = BitVec.ofInt 64 (A i) ∧ ∀ j ∈ on, A j ≤ A i))

/-- R188: the mask instructions. A mask result leaves every other register as it was; a scalar one goes to d and z0. -/
def Parts.MaskInstructions : Prop :=
  ∀ (s : State) (t : Ty) (d a b : MReg) (x e : Sel) (p : BitVec 4),
    let M (k : MReg) : Vec := s.me.regs.mask k.toNat
    let masks (i : Instr) (f : Nat → Bool) : Prop := ∃ u, exec i s = .next u ∧ After s u { s.me.regs with m := u.me.regs.m } 3 ∧
      (∀ j, j < 1024 → (u.me.regs.mask d.toNat).getLsbD j = f j) ∧ ∀ k, k ≠ d.toNat → u.me.regs.mask k = s.me.regs.mask k
    masks (.mand d a b) (fun j => (M a).getLsbD j && (M b).getLsbD j) ∧
    masks (.mor d a b) (fun j => (M a).getLsbD j || (M b).getLsbD j) ∧
    masks (.mxor d a b) (fun j => (M a).getLsbD j != (M b).getLsbD j) ∧
    masks (.mnot d a) (fun j => !(M a).getLsbD j) ∧
    masks (.msetg d x p) (fun j => if 64 * p.toNat ≤ j ∧ j < 64 * p.toNat + 64 then (s.rd x).getLsbD (j - 64 * p.toNat) else (M d).getLsbD j) ∧
    masks (.msetgPre d x) (fun j => decide (j < (s.rd x).toNat)) ∧
    Gives (.mgetg e a p) s e ((M a).extractLsb' (64 * p.toNat) 64) 0 3 ∧
    Gives (.mcnt t e a) s e (BitVec.ofNat 64 ((List.range t.lanes).countP fun j => (M a).getLsbD j)) 0 3 ∧
    (∃ v : Word, Gives (.mfirst t e a) s e v 0 3 ∧
      ((∀ j, j < t.lanes → (M a).getLsbD j = false) → v = BitVec.allOnes 64) ∧
      (∀ j, j < t.lanes → (M a).getLsbD j = true → v.toNat ≤ j ∧ (M a).getLsbD v.toNat = true))

/-- R184 to R187: `VITP` evaluates the piecewise quadratic of a loaded table in each active lane, from a register or from the
oldest entry of the queue, which it takes; an empty queue traps `VECTOR_QUEUE` and an empty table `TABLE_STATE`, which comes first where
both are empty, the model's choice of log 84. -/
def Parts.Interpolation : Prop :=
  ∀ (s : State) (t t2 : Ty) (k : MReg) (d a : VReg) (q : BitVec 2) (rm : Rm),
    let on (i : Nat) : Bool := s.active k.toNat i
    let tbl := SMap.look none (s.core (coreOf s.cur)).tables q.toNat
    (∀ img, tbl = some img →
      Lanes (.vitp t t2 k d (.reg a) q rm) s t d on (fun i => interpolate img t rm (unpack t2 (lane (s.vec a).toNat t2 i)))) ∧
    (∀ img v vs, tbl = some img → s.me.vItp = v :: vs → s.me.regs.fps.toNat < 64 →
      Completes (.vitp t t2 k d .vin q rm) s fun u => Local s u [] ∧ u.me.vItp = vs ∧
        (∀ i, i < t.lanes → lane (u.vec d).toNat t i = if on i then
          (interpolate img t rm (unpack t2 (lane v.toNat t2 i))).1 % 2 ^ t.bits else lane (s.vec d).toNat t i) ∧
        (∀ v, v ≠ d → u.vec v = s.vec v) ∧ u.me.regs.x = (s.me.regs.advance 3).x) ∧
    (∀ img, tbl = some img → s.me.vItp = [] → Traps (.vitp t t2 k d .vin q rm) s 0x0C (s.ir.setWidth 64) 2 0) ∧
    (tbl = none → ∀ x, Traps (.vitp t t2 k d x q rm) s 0x0B (s.ir.setWidth 64) 2 0)

/-- R184, R185: `TLOAD` reads a header of two containers and as many segments as it names into a table of the core; an
undefined header bit traps `TABLE_STATE`. The header is read as a load of the strand reads it, and so as it stands where no window write
races (R264). The model's choices that this rests on: logs 15, 40, 84. -/
def Parts.TableLoads : Prop :=
  ∀ (s : State) (q : BitVec 2) (x : Sel),
    let p := (s.rd x).toNat
    let bit := padBase (coreOf s.cur) + p
    let h := s.ownPeek s.cur bit 128
    let n := 128 * (h / 2 ^ 64 % 2 ^ 8 + 1)
    p % 64 = 0 → s.checkPad p 128 = .ok () →
    (s.me.chunk.raced = [] → h = s.peek s.cur bit 128) ∧
    (h < 2 ^ 73 → p + 128 + n ≤ s.me.bind.spSize → s.poisonIn (bit + 128) n = none →
      Completes (.tload q x) s fun t => t = { s with strands := t.strands, cores := t.cores } ∧ s.spares t ∧
        Went { s.me.regs with count := s.me.regs.count + 1 } t.me.regs 3 ∧
        (∃ img, SMap.look none (t.core (coreOf s.cur)).tables q.toNat = some img ∧ img % 2 ^ 128 = h ∧ img / 2 ^ 128 = s.bits (bit + 128) n) ∧
        ∀ c, c ≠ coreOf s.cur → (t.core c).tables = (s.core c).tables) ∧
    (p + 128 + n ≤ s.me.bind.spSize → 2 ^ 73 ≤ h → Traps (.tload q x) s 0x0B (s.ir.setWidth 64) 1 0)

/-- R180 to R182: `VSEND` waits for its chunk and for its consumers; then its value joins the queues that it names, each in order,
and, for bit 2, a copy command of 1024 bits to its address; a queue of bits 0, 3 or 4 that is full traps `VECTOR_QUEUE`. -/
def Obligations.VectorSends : Prop :=
  (∀ (s : State) (a : VReg) (cons : BitVec 5) (sp : Bool) (x : Sel) (v : Sending), s.me.chunk.fresh = true →
    (s.vsendCheck a cons sp x = .ok v → v.data = s.vec a ∧ v.cons = cons ∧ v.va = (s.rd x).toNat ∧
      Completes (.vsend a cons sp x) s fun t =>
        t = { (if cons.getLsbD 2 then s.hit s.cur (if sp then .g else .p) (s.rd x).toNat else s) with
              strands := t.strands, agenda := s.agenda ++ [.vsendPlacement s.cur] } ∧
        (∀ n, n ≠ s.cur → t.strand n = s.strand n) ∧ t.me = { s.me with sending := some v, hold := .vsend cons.toNat }) ∧
    (cons.getLsbD 2 = false → (cons.getLsbD 0 = true ∧ 2 ≤ s.me.vItp.length) ∨ (cons.getLsbD 3 = true ∧ s.me.vMsg ≠ []) ∨
        (cons.getLsbD 4 = true ∧ s.me.vRing ≠ []) →
      Traps (.vsend a cons sp x) s 0x0C (s.ir.setWidth 64) 1 0)) ∧
  ∀ (s : State) (n : Nat) (v : Sending), let t := s.strand n
    t.sending = some v → t.hold = .vsend v.cons.toNat → (v.cons.getLsbD 1 = true → t.vMat.length < 2) →
    (v.cons.getLsbD 2 = true → (s.core (coreOf n)).copyRoom = true) → (v.place.isSome = v.cons.getLsbD 2) →
    Completes (.vsendPlacement n) s fun u => u.mem = s.mem ∧ u.csr = s.csr ∧ u.cur = s.cur ∧
      (u.strand n).sending = none ∧ (u.strand n).hold = .none ∧
      (u.strand n).vItp = (if v.cons.getLsbD 0 then t.vItp ++ [v.data] else t.vItp) ∧
      (u.strand n).vMat = (if v.cons.getLsbD 1 then t.vMat ++ [v.data] else t.vMat) ∧
      (u.strand n).vMsg = (if v.cons.getLsbD 3 then t.vMsg ++ [v.data] else t.vMsg) ∧
      (u.strand n).vRing = (if v.cons.getLsbD 4 then t.vRing ++ [v.data] else t.vRing) ∧
      (u.core (coreOf n)).copyQ.length = (s.core (coreOf n)).copyQ.length + (if v.cons.getLsbD 2 then 1 else 0) ∧
      Went { t.regs with count := t.regs.count + 1 } (u.strand n).regs 3

/-! The copy engine. -/

/-- R155 to R162: a copy command whose checks pass is issued when its queue has an entry free: its token reads 0 and is pending and
the command waits for its chunk's commit. A full queue makes it wait and a length above 2^24 traps `COPY_SHAPE`. One of length 0 passes,
whatever else it names. A plain `CPY`
within the scratchpad passes whenever both runs are aligned and lie within the declared size. -/
def Parts.CopyCommands : Prop :=
  ∀ (s : State) (tok : BitVec 6) (la : BitVec 4) (p1 p2 p3 p4 p5 : Sel) (slot : BitVec 7) (f : CopyFlags) (dsp ssp kind : Bool),
    let k := s.core (coreOf s.cur)
    s.me.chunk.fresh = true →
    (∀ i fn check c,
      (i = .cpy tok la p1 p2 p3 p4 f ∧ fn = .cpy ∧ check = s.copyCommand .cpy p1 0 p2 p3 p4 0 f) ∨
      (i = .cpym tok la p1 p2 p3 p4 p5 f ∧ fn = .cpym ∧ check = s.copyCommand .cpym p1 0 p2 p3 p4 (s.rd p5) f) ∨
      (i = .cpyr tok la p1 p2 p3 p4 f ∧ fn = .cpyr ∧ check = s.copyCommand .cpyr p1 0 p2 p3 p4 0 f) ∨
      (i = .cpys tok la slot p2 p3 p4 p5 f ∧ fn = .cpys ∧ check = s.copyCommand .cpys .nil slot.toNat p2 p3 p4 (s.rd p5) f) ∨
      (i = .cpyc tok la p1 p2 p3 p4 dsp ssp kind ∧ fn = .cpyc ∧ check = s.byteCheck .cpyc p1 p2 p3 p4 dsp ssp kind) ∨
      (i = .cpyz tok la p1 p2 p3 p4 dsp ssp kind ∧ fn = .cpyz ∧ check = s.byteCheck .cpyz p1 p2 p3 p4 dsp ssp kind) →
      (k.copyRoom = true → check = .ok c →
        c.fn = fn ∧ c.strand = s.cur ∧ c.len = (s.rd p3).toNat ∧ c.accepted = false ∧ c.done = 0 ∧ c.status = 0 ∧
        Completes i s fun t => Tokened s t tok ∧ t.agenda = s.agenda ++ [.copyCommandAcceptance (coreOf s.cur)] ∧
          (t.core (coreOf s.cur)).copyQ = k.copyQ ++ [{ c with tok := tok.toNat }]) ∧
      (k.copyRoom = false → Completes i s fun t => Held s t .copyQueue [])) ∧
    (s.rd p3 = 0 → ∀ fn n q, ∃ c, s.copyCommand fn p1 n p2 p3 p4 q f = .ok c ∧ c.len = 0 ∧ c.fn = fn) ∧
    (k.copyRoom = true → 2 ^ 24 < (s.rd p3).toNat → Traps (.cpy tok la p1 p2 p3 p4 f) s 0x80 (s.ir.setWidth 64) 0 0) ∧
    (∀ a b, f.sfmt = .ty a → f.dfmt = .ty b → f.ssp = false → f.dsp = false → p1.isW = false → p2.isW = false →
      1 ≤ (s.rd p3).toNat → (s.rd p3).toNat ≤ 2 ^ 24 → legal (s.rd p2).toNat a.cls = true → legal (s.rd p1).toNat b.cls = true →
      (s.rd p2).toNat + runBits (s.rd p2).toNat a.cls (s.rd p3).toNat ≤ s.me.bind.spSize →
      (s.rd p1).toNat + runBits (s.rd p1).toNat b.cls (s.rd p3).toNat ≤ s.me.bind.spSize →
      ∃ c, s.copyCommand .cpy p1 0 p2 p3 p4 0 f = .ok c ∧ c.rows = 1 ∧ c.src.starts = [(s.rd p2).toNat] ∧
        c.dst.starts = [(s.rd p1).toNat])

/-- R158, R159, R152, R153: the engine accepts a command after its chunk, makes each sector of its destination visible with the
source's values, those of a source sector that it has read before as it read them then, goes on to the next sector in a step of its own, and
at the end, once its writes in other
packages are acknowledged, writes the token: result, status, flags and 1. The model's choices that this rests on: log 17. -/
def Parts.CopyEngine : Prop :=
  (∀ (s : State) (n : Nat) (c : CopyCmd) (cs : List CopyCmd), (s.core n).copyQ = c :: cs → c.accepted = false →
    Completes (.copyCommandAcceptance n) s fun t => t = { s with cores := t.cores, agenda := s.agenda ++ [.copySectorWrite n] } ∧
      t.core n = { s.core n with copyQ := { c with accepted := true } :: cs } ∧ ∀ m, m ≠ n → t.core m = s.core m) ∧
  (∀ (s : State) (n : Nat) (c : CopyCmd) (e : Ty) (sa sb da len : Nat),
    let db := padBase (coreOf c.strand) + da
    (s.core n).copyQ = [c] → c.accepted = true → c.fn = .cpy → c.flags.sfmt = .ty e → c.flags.dfmt = .ty e →
    e.cls.packed = false → c.rows = 1 → c.hdr.starts = [] → c.mask = 1 → c.done < c.len →
    c.sent = 0 → c.bad = false → s.awaited c = false →
    c.src = { g := false, walked := false, starts := [sa], segs := [{ va := sa, bits := len, place := .here sb }] } →
    c.dst = { g := false, walked := false, starts := [da], segs := [{ va := da, bits := len, place := .here db }] } →
    let from_ (b n : Nat) : Nat :=
      if SMap.look 0 c.held (b / 256) = 0 then s.bits b n else bitsOf (SMap.look 0 c.held (b / 256)) (b % 256) n
    sa % e.bits = 0 → da % e.bits = 0 → sb % e.bits = 0 → c.len * e.bits ≤ len → s.poison = [] →
    (∀ q i, i < 4 → (SMap.look 0 c.held q).testBit (257 + i) = false) →
    Completes (.copySectorWrite n) s fun t => ∃ d m, (t.core n).copyQ = [d] ∧ d.done = c.done ∧ d.sent = 1 ∧ c.done < m ∧ m ≤ c.len ∧
      (∀ k, c.done ≤ k → k < m → t.bits (db + k * e.bits) e.bits = from_ (sb + k * e.bits) e.bits) ∧
      (∀ b, b < db + c.done * e.bits ∨ db + m * e.bits ≤ b → t.bits b 1 = s.bits b 1) ∧ t.csr = s.csr ∧
      Completes (.copySectorWrite n) t fun u => ∃ x, (u.core n).copyQ = [x] ∧ x.done = m ∧ x.sent = 0 ∧ x.status = c.status ∧
        u.mem = t.mem ∧ u.csr = t.csr) ∧
  (∀ (s : State) (n : Nat) (c : CopyCmd) (p : Pend), (s.core n).copyQ = [c] → c.accepted = true → c.finished = true →
    c.fn ≠ .vsend → (s.strand c.strand).pend = [p] → p.kind = .token → p.reg = c.tok → c.tok < 64 → p.snap = none → p.part = none →
    let mine (f : FarStore) : Prop := f.tag = copyTag (coreOf c.strand) ∧ f.strand = c.strand ∧ f.tok = c.tok
    ((∀ f ∈ s.farStores, ¬mine f) →
      Completes (.copyCommandCompletion n) s fun t => t = { s with strands := t.strands, cores := t.cores } ∧
        (t.core n).copyQ = [] ∧ (t.strand c.strand).pend = [] ∧
        (t.strand c.strand).regs = (s.strand c.strand).regs.set c.tok (BitVec.ofNat 64 c.token) ∧
        (c.fn ≠ .cpyz ∨ c.status ≠ 0 → c.token = 2 ^ 32 * (c.result % 2 ^ 32) + 2 ^ 8 * c.status + (if c.nv then 4 else 0) + (if c.sa then 2 else 0) + 1) ∧
        ∀ m, m ≠ c.strand → t.strand m = s.strand m) ∧
    ((∃ f ∈ s.farStores, mine f) → Completes (.copyCommandCompletion n) s fun t => t = s.due [.copyCommandCompletion n]))

/-! The matrix unit. -/

/-- R195 to R212: a matrix command is issued when its shape is right, its slots are reserved by the strand and its addresses pass:
its token reads 0 and is pending, and the command waits for its chunk's commit. -/
def Parts.MatrixCommands : Prop :=
  ∀ (s : State) (tok : BitVec 6) (la : BitVec 4) (i : Instr) (op final : MatOp) (slot : BitVec 7) (a b c : Sel) (vr : VReg)
    (f g : Fmt) (rm : Rm) (x1 x2 x3 x4 : Bool) (d : Side),
    let A := (s.rd a).toNat
    let B := (s.rd b).toNat
    let C := (s.rd c).toNat
    s.me.chunk.fresh = true → (s.core (coreOf s.cur)).matRoom = true →
    (i = .mwld tok la slot a b c f x1 ∧ op = .mwld slot.toNat A B C f x1 ∧ slot.toNat < 16 ∧ A % 64 = 0 ∧ 1 ≤ B ∧ B ≤ 64 ∧ 1 ≤ C ∧
      C ≤ 64 ∧ (x1 = true → isWide f = true) ∧ A + tileBits f B C ≤ 65536) ∨
    (i = .mstrm tok la slot a b c f x1 x2 ∧ op = .mstrm slot.toNat A B (C % 2 ^ 32) f x1 x2 ∧ slot.toNat ≤ 16 ∧
      (slot.toNat = 16 → x2 = false) ∧ A % 64 = 0 ∧ 1 ≤ B ∧ B ≤ 64) ∨
    (i = .mgrp tok la slot a b c f g x1 ∧ op = .mgrp slot.toNat A B (C % 2 ^ 32) f g x1 ∧ slot.toNat < 16 ∧ A < 2 ^ 16 ∧ A ≠ 0 ∧
      A.testBit slot.toNat = false ∧ isWide g = false) ∨
    (i = .mdrn tok la a b c f rm x1 x2 x3 x4 ∧ s.sideOf x2 a = .ok d ∧
      op = .mdrn d (B % 64) (B / 2 ^ 8 % 64) (B / 2 ^ 16 % 128) (B / 2 ^ 24 % 128) (if x4 then (s.rd c).toInt else 0) f rm x1 x3 x4 ∧
      (x4 = true → -512 ≤ (s.rd c).toInt ∧ (s.rd c).toInt ≤ 511) ∧ s.region B = .ok (B % 64, B / 2 ^ 8 % 64, B / 2 ^ 16 % 128, B / 2 ^ 24 % 128) ∧
      (d.walked = true → d.starts.length = B / 2 ^ 16 % 128)) ∨
    (i = .mclr tok la a x1 ∧ op = .mclr (s.rd a).toInt x1 ∧ -512 ≤ (s.rd a).toInt ∧ (s.rd a).toInt ≤ 511) ∨
    (i = .mcfg tok la a ∧ op = .mcfg (s.rd a) ∧ s.mcfgShape A = .ok (.mcfg (s.rd a))) ∨
    (i = .mrmt tok la a vr ∧ op = .mrmt (A / 2 ^ 16 % 2 ^ 12) (s.rd a) (s.vec vr)) →
    (∀ j ∈ op.slots, SMap.look 0 (s.mat (coreOf s.cur)).slots j = s.cur + 1) → s.matAddrs op = .ok final →
    Completes i s fun t => Tokened s t tok ∧ t.agenda = s.agenda ++ [.matrixCommandAcceptance (coreOf s.cur)] ∧
      (t.core (coreOf s.cur)).mat = s.mat (coreOf s.cur) ∧
      (t.core (coreOf s.cur)).matQ = (s.core (coreOf s.cur)).matQ ++
        [{ op := final, strand := s.cur, tok := tok.toNat, remote := false, accepted := none, started := false, busy := false,
           rowsTaken := 0, todo := [], status := 0, nv := false, sa := false }]

/-- R196, R215, R192: a matrix command waits for an entry of its queue; a shape that fails traps `MATRIX_SHAPE` with the number of
its field, before a slot that the strand does not hold traps `SLOT_STATE` with the slot.
The model's choices that this rests on: log 50. -/
def Parts.MatrixChecks : Prop :=
  ∀ (s : State) (tok : BitVec 6) (la : BitVec 4) (slot : BitVec 7) (a b c : Sel) (f g : Fmt) (x y : Bool),
    let k := s.core (coreOf s.cur)
    let shape (i : Instr) (p : Nat) : Prop := Traps i s 0x8D (s.ir.setWidth 64) (BitVec.ofNat 64 p) 0
    let size (v : Sel) : Prop := 1 ≤ (s.rd v).toNat ∧ (s.rd v).toNat ≤ 64
    let mwld := Instr.mwld tok la slot a b c f false
    let mstrm := Instr.mstrm tok la slot a b c f x y
    s.me.chunk.fresh = true →
    (k.matRoom = false → ∀ i ∈ [mwld, mstrm, .mclr tok la a x, .mcfg tok la a], Completes i s fun t => Held s t .matrixQueue []) ∧
    (k.matRoom = true →
      (16 ≤ slot.toNat → shape mwld 1) ∧
      (slot.toNat < 16 → (s.rd a).toNat % 64 ≠ 0 → shape mwld 2 ∧ shape mstrm 2) ∧
      (slot.toNat < 16 → (s.rd a).toNat % 64 = 0 → ¬size b → shape mwld 3 ∧ shape mstrm 3) ∧
      (slot.toNat < 16 → (s.rd a).toNat % 64 = 0 → size b → ¬size c → shape mwld 4) ∧
      (slot.toNat < 16 → (s.rd a).toNat % 64 = 0 → size b → SMap.look 0 k.mat.slots slot.toNat ≠ s.cur + 1 →
        Traps mstrm s 0x87 (s.ir.setWidth 64) (BitVec.ofNat 64 slot.toNat) 0) ∧
      ((s.rd a).toInt < -512 ∨ 511 < (s.rd a).toInt → shape (.mclr tok la a x) 1) ∧
      (slot.toNat < 16 → 2 ^ 16 ≤ (s.rd a).toNat ∨ (s.rd a) = 0 → shape (.mgrp tok la slot a b c f g x) 2))

/-- R193, R211: `SLRESV` reserves the slots of its mask, all of them where all are free and the quota has room, else none; or, if asked, the
free ones in ascending order while the quota has room. With those it holds already the strand never exceeds the quota by it. `SLFREE`
clears and frees those of its mask that the strand holds; `MCAP` makes a capability over slots that it holds. -/
def Parts.OperandSlots : Prop :=
  ∀ (s : State) (d : BitVec 6) (m c : Sel) (any : Bool) (la : BitVec 4) (rights : BitVec 3),
    let core := coreOf s.cur
    let slots (t : State) (j : Nat) : Nat := SMap.look 0 (t.mat core).slots j
    let M := (s.rd m).toNat
    let set (t : State) (v : Word) : Prop := Went { (s.me.regs.wr (.g d) v) with count := s.me.regs.count + 1 } t.me.regs 3 ∧
      t.me.chunk = Chunk.start t.me.regs ∧ s.spares t
    s.me.chunk.fresh = true →
    (M < 2 ^ 16 → Completes (.slresv d m any la) s fun t => t.mem = s.mem ∧ ∃ v : Word, set t v ∧ v.toNat < 2 ^ 16 ∧
      (∀ j, v.getLsbD j = true → M.testBit j = true ∧ slots s j = 0 ∧ slots t j = s.cur + 1) ∧
      (∀ j, v.getLsbD j = false → slots t j = slots s j) ∧
      (let held := (List.range 16).countP fun j => slots s j == s.cur + 1
       let free (j : Nat) : Bool := M.testBit j && slots s j == 0
       (v ≠ 0 → held + ((List.range 16).countP fun j => v.getLsbD j) ≤ s.me.bind.quota) ∧
       let fits : Prop := (∀ j, j < 16 → M.testBit j = true → slots s j = 0) ∧
         held + ((List.range 16).countP fun j => M.testBit j) ≤ s.me.bind.quota
       (any = false → fits → v.toNat = M) ∧ (any = false → ¬fits → v = 0) ∧
       (any = true → ∀ j, j < 16 →
         (v.getLsbD j = true ↔ free j = true ∧ held + ((List.range j).countP free) < s.me.bind.quota)))) ∧
    (M < 2 ^ 16 → (∀ j, j < 16 → M.testBit j = true → slots s j = s.cur + 1 → ¬(s.core core).slotsUsed.contains j) →
      Completes (.slfree d m la) s fun t => ∃ v : Word, set t v ∧ t.csr = s.csr ∧
        (∀ j, v.getLsbD j = (decide (j < 16) && M.testBit j && slots s j == s.cur + 1)) ∧
        (∀ j, v.getLsbD j = true → slots t j = 0 ∧ t.bits (slotBase core j) 65536 = 0) ∧
        (∀ j, v.getLsbD j = false → slots t j = slots s j) ∧
        ∀ b, b < slotBase core 0 ∨ slotBase core 16 ≤ b → t.bits b 1 = s.bits b 1) ∧
    ((s.rd c).toNat < 2 ^ 8 → M < 2 ^ 16 → Completes (.mcap d la c m rights) s fun t => t.mem = s.mem ∧
      ∃ v : Word, set t v ∧ (∀ j, j < 16 → v.getLsbD j = (M.testBit j && slots s j == s.cur + 1)) ∧
        v.toNat / 2 ^ 16 % 2 ^ 12 = core % 2 ^ 12 ∧ v.toNat / 2 ^ 28 % 2 ^ 3 = rights.toNat ∧
        v.toNat / 2 ^ 32 % 2 ^ 8 = (s.rd c).toNat ∧ (v, s.cur) ∈ (t.core core).caps) ∧
    (2 ^ 16 ≤ M → Traps (.slresv d m any la) s 0x8D (s.ir.setWidth 64) 1 0 ∧ Traps (.slfree d m la) s 0x8D (s.ir.setWidth 64) 1 0)

/-- R210: the window commands are issued for up to 2^24 values whose bases are containers and whose runs pass, for no value with any
aligned bases, and for more they trap `MATRIX_SHAPE`. The model's choices that this rests on: log 53. -/
def Parts.WindowCommands : Prop :=
  ∀ (s : State) (tok : BitVec 6) (la : BitVec 4) (a b n : Sel) (f : Fmt) (rm : Rm) (i : Instr) (op : MatOp),
    let A := (s.rd a).toNat
    let B := (s.rd b).toNat
    let N := (s.rd n).toNat
    let base := padBase (coreOf s.cur)
    let runs (x k : Nat) (c : Cls) (need : Rights) : Prop := x % 64 = 0 ∧ (N ≠ 0 → ∃ g, s.checkRun false x k c need 0 = .ok g)
    s.me.chunk.fresh = true → (s.core (coreOf s.cur)).matRoom = true →
    (N ≤ 2 ^ 24 →
      (i = .addw tok la a b n f ∧ op = .addw (base + A) (base + B) N f ∧ runs A 384 .w64 2 ∧
        runs B (packedBits (fmtCls f) N) (fmtCls f) 1) ∨
      (i = .wnorm tok la a b n f rm ∧ op = .wnorm (base + A) (base + B) N f rm ∧ runs A (packedBits (fmtCls f) N) (fmtCls f) 2 ∧
        runs B (384 * N) .w64 1) ∨
      (i = .wzero tok la a n ∧ op = .wzero (base + A) N ∧ runs A (384 * N) .w64 2) →
      Completes i s fun t => Tokened s t tok ∧
        (t.core (coreOf s.cur)).matQ = (s.core (coreOf s.cur)).matQ ++
          [{ op := op, strand := s.cur, tok := tok.toNat, remote := false, accepted := none, started := false, busy := false,
             rowsTaken := 0, todo := [], status := 0, nv := false, sa := false }]) ∧
    (2 ^ 24 < N → Traps (.addw tok la a b n f) s 0x8D (s.ir.setWidth 64) 3 0 ∧ Traps (.wnorm tok la a b n f rm) s 0x8D (s.ir.setWidth 64) 3 0 ∧
      Traps (.wzero tok la a n) s 0x8D (s.ir.setWidth 64) 2 0)

/-- R197, R200, R206, R198, R152: the unit accepts commands, starts them in order of acceptance where nothing under way shares what they
use, and writes the token when nothing is left to do. `MWLD` fills the shadow plane from its slot, `MCLR` clears its
accumulator, and neither touches the active plane. The model's choices that this rests on: log 50. -/
def Parts.MatrixUnit : Prop :=
  (∀ (s : State) (n : Nat) (k : MatCmd) (ks : List MatCmd), (s.core n).matQ = k :: ks → k.accepted = none →
    Completes (.matrixCommandAcceptance n) s fun t => t = { s with cores := t.cores, agenda := s.agenda ++ [.matrixCommandStart n] } ∧
      t.core n = { s.core n with matQ := { k with accepted := some s.steps } :: ks } ∧ ∀ m, m ≠ n → t.core m = s.core m) ∧
  (∀ (s : State) (n : Nat) (k : MatCmd), (s.core n).matQ = [k] → (s.core n).port = [] → k.accepted.isSome = true → k.started = false →
    k.busy = false →
    (∀ slot off kdim ndim wf half, k.op = .mwld slot off kdim ndim wf half → kdim ≤ 64 → ndim ≤ 64 →
      Completes (.matrixCommandStart n) s fun t => t.mem = s.mem ∧ t.strands = s.strands ∧ (t.mat n).active = (s.mat n).active ∧
        (t.mat n).acc0 = (s.mat n).acc0 ∧ (t.mat n).acc1 = (s.mat n).acc1 ∧ (t.mat n).newer = true ∧ (t.mat n).shadow.fmt = wf ∧
        (∀ x y, x < kdim → y < ndim → (t.mat n).shadow.code x y =
          s.bits (slotBase n slot + off + (addrOf ((y * kdim + x : Nat) : Int) (fmtCls wf)).toNat) (fmtCls wf).bits) ∧
        (∀ x y, x < 64 → kdim ≤ x ∨ ndim ≤ y → (t.mat n).shadow.code x y = 0)) ∧
    (∀ e acc, k.op = .mclr e acc →
      Completes (.matrixCommandStart n) s fun t => t.mem = s.mem ∧ t.strands = s.strands ∧
        t.mat n = (s.mat n).setAcc acc (Acc.clear (if (s.mat n).mode acc = 0 then e else 0)))) ∧
  (∀ (s : State) (n : Nat) (k : MatCmd) (p : Pend),
    ((s.core n).matQ = [k] ∧ (s.core n).port = []) ∨ ((s.core n).matQ = [] ∧ (s.core n).port = [k]) → k.accepted.isSome = true →
    k.started = true → k.busy = false → k.todo = [] → (s.strand k.strand).pend = [p] → p.kind = .token → p.reg = k.tok →
    k.tok < 64 → p.snap = none → p.part = none →
    (∀ f ∈ s.farStores, ¬(f.tag = matTag n ∧ f.strand = k.strand ∧ f.tok = k.tok)) →
    Completes (.matrixCommandCompletion n) s fun t => t = { s with strands := t.strands, cores := t.cores } ∧ (t.core n).matQ = [] ∧
      (t.core n).port = [] ∧ (t.strand k.strand).regs = (s.strand k.strand).regs.set k.tok
        (BitVec.ofNat 64 (2 ^ 8 * k.status + (if k.nv then 4 else 0) + (if k.sa then 2 else 0) + 1)) ∧
      (t.strand k.strand).pend = [] ∧ ∀ m, m ≠ k.strand → t.strand m = s.strand m)

/-- R86, R87, R203: in the wrapping integer mode a row of a stream adds to each element of its accumulator row the exact dot product
of the weights' column with the activations, modulo 2^48, but to none whose NaN bit is set, and changes no other element and no
exponent. -/
def Parts.IntegerStreams : Prop :=
  ∀ (p : Plane) (w af : Ty) (sx : FV) (x : Nat → Nat) (row : Nat) (a : Acc), p.fmt = .ty w → 1 ≤ p.kdim →
    let t := p.row 1 af sx x row a
    let dot (b : Nat) : Int := (List.range p.kdim).foldl (fun z k => z + w.int (p.code k b) * af.int (x k)) 0
    (∀ b, b < p.ndim → p.ndim ≤ 64 → SMap.look 0 t.m (b + 64 * row) =
      if SMap.look false a.nan (b + 64 * row) then SMap.look 0 a.m (b + 64 * row)
      else signed 48 ((SMap.look 0 a.m (b + 64 * row) + dot b) % 2 ^ 48).toNat) ∧
    (∀ i, (∀ b, b < p.ndim → i ≠ b + 64 * row) → SMap.look 0 t.m i = SMap.look 0 a.m i) ∧
    t.e = a.e ∧ t.nan = a.nan ∧ t.ovf = a.ovf

/-- R212, R213: the port of a remote command's owner accepts it where it has room, and one whose owner holds no unit is denied. The
command is checked when it starts: one that fails reports the check's status and does nothing, and one that passes is done as a
local one is. A capability of another owner or context is denied. The model's choices that this rests on: log 53. -/
def Parts.RemoteCommands : Prop :=
  (∀ (s : State) (owner sender : Nat) (ctx : BitVec 8) (cap : Word) (img : BitVec 1024) (k : MatCmd) (p : Pend),
    (s.core (coreOf sender)).matQ = [k] → k.strand = sender → k.started = true → k.busy = true → k.op = .mrmt owner cap img →
    owner ≠ coreOf sender →
    (isTaper owner = true → (s.core owner).port.length < 4 → s.closing owner = false →
      Completes (.remoteCommandArrival owner sender ctx cap img) s fun t =>
        t = { s with cores := t.cores, agenda := s.agenda ++ [.matrixCommandStart owner] } ∧ (t.core (coreOf sender)).matQ = [] ∧
        ∃ c, (t.core owner).port = (s.core owner).port ++ [c] ∧ c.op = k.op ∧ c.strand = sender ∧ c.tok = k.tok ∧ c.remote = true ∧
          c.accepted = some s.steps ∧ c.started = false ∧ c.busy = false) ∧
    (isTaper owner = true → 4 ≤ (s.core owner).port.length →
      Completes (.remoteCommandArrival owner sender ctx cap img) s fun t => t = s.due [.remoteCommandArrival owner sender ctx cap img]) ∧
    (isTaper owner = false → (s.strand sender).pend = [p] → p.kind = .token → p.reg = k.tok → k.tok < 64 → p.snap = none → p.part = none →
      Completes (.remoteCommandArrival owner sender ctx cap img) s fun t => t = { s with strands := t.strands, cores := t.cores } ∧
        (t.core (coreOf sender)).matQ = [] ∧ (t.strand sender).pend = [] ∧
        (t.strand sender).regs = (s.strand sender).regs.set k.tok (BitVec.ofNat 64 (2 ^ 8 * 0x89 + 1)))) ∧
  (∀ (s : State) (owner : Nat) (cap : Word) (img : BitVec 1024) (k : MatCmd),
    (s.core owner).matQ = [] → (s.core owner).port = [k] → k.op = .mrmt owner cap img → k.remote = true → k.accepted.isSome = true →
    k.started = false → k.busy = false → k.status = 0 →
    let check := s.remoteCheck owner (s.strand k.strand).bind.ctx (s.partOf k.strand) cap img.toNat
    (∀ st, check = .inl st → Completes (.matrixCommandStart owner) s fun t =>
      t = { s with cores := t.cores, agenda := s.agenda ++ [.matrixCommandCompletion owner] } ∧
      t.core owner = { s.core owner with port := [{ k with started := true, status := st }] }) ∧
    (∀ e acc, check = .inr (.mclr e acc) → Completes (.matrixCommandStart owner) s fun t => t.mem = s.mem ∧ t.strands = s.strands ∧
      (t.core owner).port = [{ k with op := .mclr e acc, started := true }] ∧
      t.mat owner = (s.mat owner).setAcc acc (Acc.clear (if (s.mat owner).mode acc = 0 then e else 0)))) ∧
  ∀ (s : State) (owner ctx part img : Nat) (cap : Word),
    (upFrom (4 * owner) 4).all (fun n => !(s.strand n).bind.valid) = true ∨ bitsOf cap.toNat 16 12 ≠ owner ∨ bitsOf cap.toNat 32 8 ≠ ctx →
      s.remoteCheck owner ctx part cap img = .inl 0x89

/-! Atomics, barriers and claims. -/

/-- R217: the new value of an atomic function at its width, from the old one and the operand. -/
def Parts.AtomicFunctions : Prop :=
  ∀ (w : Cls) (old v : Nat), old < 2 ^ w.bits → v < 2 ^ w.bits →
    let s (x : Nat) : Int := signed w.bits x
    aopNew .add w old v = (old + v) % 2 ^ w.bits ∧
    s (aopNew .smin w old v) = min (s old) (s v) ∧ s (aopNew .smax w old v) = max (s old) (s v) ∧
    aopNew .nmin w old v = min old v ∧ aopNew .nmax w old v = max old v ∧
    (∀ j, (aopNew .and w old v).testBit j = (old.testBit j && v.testBit j)) ∧
    (∀ j, (aopNew .or w old v).testBit j = (old.testBit j || v.testBit j)) ∧
    (∀ j, (aopNew .xor w old v).testBit j = (old.testBit j != v.testBit j)) ∧
    aopNew .swap w old v = v ∧
    (∀ o t, (o = .bfadd ∧ t = Ty.bf16) ∨ (o = .fadd ∧ t = (if w = .w16 then Ty.f16 else Ty.f32)) →
      aopNew o w old v = (fpBin t .ne (FV.add .ne) old v).1) ∧
    (∀ t, t = (if w = .w16 then Ty.f16 else Ty.f32) →
      aopNew .fmax w old v = (minMax t true true old v).1 ∧ aopNew .fmin w old v = (minMax t false true old v).1)

/-- R218, R219: an atomic of a place in this package is applied at once, in one step: the element becomes the function's value,
or for `CAS` the new value where the old one is as expected, every bit outside it stays, and `AMO` and `CAS` have their old
value due. It ends the chunk, and is performed once. The model's choices that this rests on: log 15. -/
def Parts.Atomics : Prop :=
  ∀ (s : State) (i : Instr) (g : Bool) (am : BitVec 2) (w : Cls) (b d v : Sel) (la : BitVec 4) (o : BitVec 48) (f : AOp)
    (dest : Option Sel) (new : Nat → Nat) (a bit : Nat),
    let V := (s.rd v).toNat % 2 ^ w.bits
    let old := s.bits bit w.bits
    (i = .amo am w b d la g f o v ∧ dest = some d ∧ new = fun x => aopNew f w x V) ∨
    (i = .red am w b g f o v ∧ dest = none ∧ new = fun x => aopNew f w x V) ∨
    (i = .cas am w b d la g o v ∧ dest = some d ∧ new = fun x => if x = (s.rd d).toNat % 2 ^ w.bits then V else x) →
    s.me.chunk.fresh = true → s.operand (if g then .g else .p) am w b o .nil 7 = .ok (a, .here bit) → s.farSettled s.cur = true →
    s.poisonFor s.cur bit w.bits = none → bit % w.bits = 0 → w.packed = false → w.bits ≤ 64 →
    Completes i s fun t =>
      t.bits bit w.bits = new old % 2 ^ w.bits ∧ s.keeps t bit w.bits ∧ t.csr = s.csr ∧ s.spares t ∧
      Went { (s.updateBase am w b).me.regs with count := s.me.regs.count + 1 } t.me.regs 3 ∧ t.me.chunk = Chunk.start t.me.regs ∧
      (∀ e, dest = some e → Event.atomicReply s.cur (.value (BitVec.ofNat 1024 old)) ∈ t.agenda ∧ t.me.pending e.code.toNat = true) ∧
      (dest = none → t.me.pend.length = s.me.pend.length)

/-- R218, R220, R316: the reply of an atomic of this package writes the old value, sign-extended for the signed minimum and maximum;
one that another package asks for is applied here where its home admits it, and its old value goes back; one that its home refuses
or that meets poison changes nothing, and its cause, or which container is poisoned, goes back. The model's choices that this rests on: log 19. -/
def Parts.AtomicReplies : Prop :=
  (∀ (s : State) (n : Nat) (x : BitVec 1024) (p : Pend) (rest : List Pend) (d : Sel), n < pkgTag →
    (s.strand n).pend = p :: rest → p.kind = .atomic → p.far = none → p.snap = none → p.part = none → p.reg = d.code.toNat →
    d.writable = true → 1 ≤ p.bits → p.bits ≤ 64 →
    Completes (.atomicReply n (.value x)) s fun t => t = { s with strands := t.strands } ∧ (∀ m, m ≠ n → t.strand m = s.strand m) ∧
      (t.strand n).pend.length = rest.length ∧
      (t.strand n).regs = (s.strand n).regs.wr d
        (if p.sx then BitVec.ofInt 64 (signed p.bits x.toNat) else BitVec.ofNat 64 (x.toNat % 2 ^ p.bits))) ∧
  ∀ (s : State) (pkg : BitVec 10) (who : Issuer) (tag bit : Nat) (w : Cls) (op : AOp) (v e : Word),
    w.packed = false → w.bits ≤ 64 → bit % w.bits = 0 →
    (s.homeFails who bit w.bits = none → s.poisonIn bit w.bits = none →
      Completes (.atomicApplication pkg who tag bit w (some op) v e) s fun t =>
        t.bits bit w.bits = aopNew op w (s.bits bit w.bits) (v.toNat % 2 ^ w.bits) % 2 ^ w.bits ∧ s.keeps t bit w.bits ∧
        Sent s t pkg (.reply pkg tag (.value (BitVec.ofNat 1024 (s.bits bit w.bits)))) ∧ t.csr = s.csr) ∧
    (∀ r, (∃ c, s.homeFails who bit w.bits = some c ∧ r = .failed c) ∨
        (s.homeFails who bit w.bits = none ∧ ∃ k, s.poisonIn bit w.bits = some k ∧ r = .poisoned k) →
      Completes (.atomicApplication pkg who tag bit w (some op) v e) s fun t => t = s.sendTo pkg (.reply pkg tag r) ∧
        Sent s t pkg (.reply pkg tag r))

/-- R223 to R227: `BARI` starts an entry with its count and leaves its episode; an arrival that is not the last counts itself;
the last one begins the next episode and wakes every strand of the context that sleeps on the old one; `BARW` sleeps
otherwise, and its destination is written when it wakes (R235). The destination is the episode. The model's choices that this rests on: logs 27, 30. -/
def Obligations.Barriers : Prop :=
  ∀ (s : State) (d h n : Sel) (la : BitVec 4) (b : Nat) (e : Barrier),
    let ctx := s.ctxOf s.cur
    let entry (t : State) (x : Barrier) : Prop := Barrier.of (t.bits b 128) = x ∧ s.keeps t b 128 ∧ t.csr = s.csr
    let wrote (t : State) : Prop := Went { (s.me.regs.wr d (BitVec.ofNat 64 e.gen)) with count := s.me.regs.count + 1 } t.me.regs 3
    s.me.chunk.fresh = true → s.barrier (s.rd h) = .ok (b, e) → b % 64 = 0 → s.poisonIn b 128 = none →
    (1 ≤ (s.rd n).toNat → (s.rd n).toNat ≤ 2 ^ 20 → e.valid = false ∨ e.arrived = 0 →
      Completes (.bari d h n la) s fun t => wrote t ∧ s.spares t ∧
        entry t { gen := e.gen, arrived := 0, count := (s.rd n).toNat, valid := true }) ∧
    (e.valid = true → e.arrived < e.count → e.arrived + 1 ≠ e.count →
      (Completes (.bara d h la) s fun t => wrote t ∧ s.spares t ∧ entry t { e with arrived := e.arrived + 1 } ∧ t.me.status = s.me.status) ∧
      (Completes (.barw d h la) s fun t => Went { s.me.regs with count := s.me.regs.count + 1 } t.me.regs 3 ∧ s.spares t ∧
        entry t { e with arrived := e.arrived + 1 } ∧
        t.me.status = .sleep ∧ t.me.wait = .barrier (s.rd h).toNat e.gen d.code.toNat)) ∧
    (e.valid = true → e.arrived + 1 = e.count → s.me.status = .ready → ∀ i ∈ [Instr.bara d h la, .barw d h la],
      Completes i s fun t => wrote t ∧ t.me.status = .ready ∧ entry t { e with arrived := 0, gen := (e.gen + 1) % 2 ^ 24 } ∧
        ∀ m, m ≠ s.cur →
          (∀ k, (s.strand m).status = .sleep → (s.strand m).bind.ctx = ctx → (s.strand m).wait = .barrier (s.rd h).toNat e.gen k →
            (t.strand m).status = .ready ∧ (t.strand m).wait = .none ∧ (t.strand m).regs = (s.strand m).regs.wrName k e.gen) ∧
          ((∀ k, (s.strand m).wait ≠ .barrier (s.rd h).toNat e.gen k) →
            (t.strand m).status = (s.strand m).status ∧ (t.strand m).regs = (s.strand m).regs)) ∧
    (e.valid = false → Traps (.bara d h la) s 0x62 (s.ir.setWidth 64) 4 0 ∧ Traps (.barw d h la) s 0x62 (s.ir.setWidth 64) 4 0)

/-- R229, R231: a claim function sends its request to the home of its name and the strand goes on when the reply has come, past a
`CPEEK` of this package at once (R234); a partition without a pod identifier, or a name without a home, is answered at once: BUSY, or ABSENT for `UNPIN` and `CPEEK`.
`FULFIL` of a handle outside the arena traps, and it waits until the strand's accesses to other packages are performed (R234, R266). The model's choices that this rests on: log 20, and log 83 where `CLAIM` or `CPEEK`
has one register for both destinations. -/
def Parts.ClaimFunctions : Prop :=
  ∀ (s : State) (i : Instr) (fn : ClaimFn) (d : Sel) (hd : Option Sel) (h hv : Sel) (v : VReg) (la : BitVec 4) (x : Word),
    (i = .claim d h v la ∧ fn = .claim ∧ hd = some h ∧ x = 0) ∨ (i = .cwait d h v la ∧ fn = .cwait ∧ hd = some h ∧ x = 0) ∨
    (i = .fulfil d v hv la ∧ fn = .fulfil ∧ hd = none ∧ x = s.rd hv) ∨ (i = .abandon d v la ∧ fn = .abandon ∧ hd = none ∧ x = 0) ∨
    (i = .unpin d v la ∧ fn = .unpin ∧ hd = none ∧ x = 0) ∨ (i = .cpeek d h v la ∧ fn = .cpeek ∧ hd = some h ∧ x = 0) →
    let q := s.claimReq fn v x
    let home := s.csrAt 0x1314 (q.name.toNat % 1024)
    let member := (s.csrAt 0x1330 (s.partOf s.cur)).getLsbD 16
    s.me.chunk.fresh = true → (s.me.pend.all fun p => p.kind != .peek) = true →
    (fn = .fulfil → ∃ b l r, s.arena (s.ctxOf s.cur) = some (b, l, r) ∧ b ≤ x.toNat ∧ x.toNat < b + l ∧ x.toNat < 2 ^ 57) →
    (fn = .fulfil → s.farSettled s.cur = false → Completes i s fun t => Held s t .remote []) ∧
    ((fn = .fulfil → s.farSettled s.cur = true) → member = true → home.getLsbD 15 = true →
      Completes i s fun t => Once s t s.me.regs (3) ∧ t.csr = s.csr ∧
        (if fn = .cpeek ∧ home.setWidth 10 = s.pkg then t.me.hold = s.me.hold else t.me.hold = .reply ∧ t.me.since = s.clk) ∧
        t.me.pending d.code.toNat = true ∧ (∀ e, hd = some e → t.me.pending e.code.toNat = true) ∧
        (home.setWidth 10 = s.pkg → t.agenda = s.agenda ++ [.claimRequestArrival q] ∧ t.out = s.out) ∧
        (home.setWidth 10 ≠ s.pkg → t.agenda = s.agenda ++ [.remoteReplyTimeout s.cur] ∧ Sent s t (home.setWidth 10) (.claim (home.setWidth 10) q))) ∧
    ((fn = .fulfil → s.farSettled s.cur = true) → member = false ∨ home.getLsbD 15 = false →
      (fn = .claim → Completes i s fun t => Once s t ((s.me.regs.wr d 3).wr h 0) 3) ∧
      (fn = .cpeek → Completes i s fun t => Once s t ((s.me.regs.wr d 4).wr h 0) 3) ∧
      (fn = .unpin → Completes i s fun t => Once s t (s.me.regs.wr d 4) 3) ∧
      (fn = .cwait ∨ fn = .fulfil ∨ fn = .abandon → Traps i s 0x63 (s.ir.setWidth 64) 0 0))

/-- R230 to R232, R234: the transitions of a claim entry at its home, and what the claiming strand learns: MAKER on a free name,
WAITER on one that is being made, the handle and a pin on one that is made, BUSY with no record left; `FULFIL` by the
maker publishes the handle, `ABANDON` by the maker frees a name that none waits for, and `UNPIN` returns one pin.
The model's choices that this rests on: log 29. -/
def Parts.ClaimTransitions : Prop :=
  ∀ (s : State) (r : ClaimReq) (p q : Pend) (d hd : Sel) (two : Bool) (k1 k2 : Nat),
    let t0 := s.strand r.strand
    let learns (claims : List (Nat × Claim)) (code : Nat) (handle : Word) : Prop :=
      Completes (.claimRequestArrival r) s fun t => t.mem = s.mem ∧ t.csr = s.csr ∧ t.claims = claims ∧ t.out = s.out ∧
        (t.strand r.strand).regs = (if two then (t0.regs.wr d (BitVec.ofNat 64 code)).wr hd handle else t0.regs.wr d (BitVec.ofNat 64 code))
    let put (c : Claim) : List (Nat × Claim) := replaceClaim r (some c) s.claims
    let making : Claim := { name := r.name, ppid := r.ppid, domain := r.domain, made := false, owed := false, maker := reqWho r,
                            handle := 0, pins := 0, used := s.steps, recs := [] }
    let waiter : WaitRec := { who := reqWho r, resolved := false, asleep := [] }
    let kind : PendKind := if r.fn = .cpeek then .peek else .claim
    r.pkg = s.pkg → t0.task = r.task → (r.fn ≠ .cpeek → t0.wait = .claim r.name k1 k2) → t0.pend = (if two then [p, q] else [p]) →
    p.kind = kind → q.kind = kind → p ≠ q → p.snap.isSome = decide (r.fn ≠ .cpeek) → q.snap.isSome = decide (r.fn ≠ .cpeek) →
    p.part = none → q.part = none → d.writable = true → hd.writable = true → p.reg = d.code.toNat → q.reg = hd.code.toNat →
    ((∀ e ∈ s.claims, e.2.matches r = false) →
      (r.fn = .claim → s.recordsOf (homeTile r.name) < 8192 →
        (s.claims.filter fun e => e.1 == homeTile r.name && bucketOfName e.2.name == bucketOfName r.name).length < 4 →
        learns (s.claims ++ [(homeTile r.name, making)]) 0 0) ∧
      (r.fn = .cpeek ∨ r.fn = .unpin → learns s.claims 4 0)) ∧
    (∀ e, s.claims.find? (fun e => e.2.matches r) = some e →
      let c := e.2
      (c.made = true →
        (r.fn = .claim → c.pins < 2 ^ 16 - 1 → learns (put { c with pins := c.pins + 1, used := s.steps }) 2 c.handle) ∧
        (r.fn = .cpeek → learns s.claims 2 c.handle) ∧
        (r.fn = .unpin → 0 < c.pins → learns (put { c with pins := c.pins - 1 }) 0 0) ∧
        (r.fn = .unpin → c.pins = 0 → learns s.claims 6 0)) ∧
      (c.made = false → c.maker.same (reqWho r) = false →
        (r.fn = .claim → (c.recs.any fun w => w.who.same (reqWho r)) = false → s.recordsOf (homeTile r.name) < 8192 →
          learns (put { c with recs := c.recs ++ [waiter] }) 1 0) ∧
        (r.fn = .claim → (c.recs.any fun w => w.who.same (reqWho r)) = false → 8192 ≤ s.recordsOf (homeTile r.name) →
          learns s.claims 3 0) ∧
        (r.fn = .cpeek → learns s.claims 5 0)) ∧
      (c.made = false → c.maker.same (reqWho r) = true → c.recs = [] →
        (r.fn = .fulfil → learns (put { making with made := true, name := c.name, ppid := c.ppid, domain := c.domain, handle := r.handle }) 0 0) ∧
        (r.fn = .abandon → learns (replaceClaim r none s.claims) 0 0)))

/-! Privileged instructions and control registers. -/

/-- R304: `CSRR` reads a control register, `CSRW`, `CSRS` and `CSRC` write it, set bits and clear bits; a number that is reserved traps
`CSR_ABSENT`. Stated of the supervisor's scratch registers CSR 0x20 to 0x23, and of every number that is absent. -/
def Parts.ControlRegisters : Prop :=
  ∀ (s : State) (d n x : Sel) (v : Word), s.me.chunk.fresh = true →
    let forms (a : Instr) (b : Instr) (k : Word) (i : Instr) (len : Nat) : Prop := (i = a ∧ k = s.rd n ∧ len = 1) ∨ (i = b ∧ k = v ∧ len = 3)
    let at_ (k : Word) : Word := s.csrAt k.toNat s.cur
    let puts (i : Instr) (k w : Word) (len : Nat) : Prop := Completes i s fun t => Once s t s.me.regs len ∧
      t.csrAt k.toNat s.cur = w ∧ ∀ m sc, m * 2 ^ 20 + sc ≠ k.toNat * 2 ^ 20 + s.cur → t.csrAt m sc = s.csrAt m sc
    (∀ i k len, forms (.csrr d n) (.csrrLit d v) k i len →
      (∀ w, s.csrRead s.cur k.toNat = some w → Completes i s fun t => Once s t (s.me.regs.wr d w) len ∧ t.csr = s.csr) ∧
      (s.csrRead s.cur k.toNat = none → Traps i s 0xA1 (s.ir.setWidth 64) 0 0)) ∧
    (∀ i k len, 0x20 ≤ k.toNat → k.toNat ≤ 0x23 → s.cur < 2 ^ 20 →
      s.csrRead s.cur k.toNat = some (at_ k) ∧
      (forms (.csrw n x) (.csrwLit v x) k i len → puts i k (s.rd x) len) ∧
      (forms (.csrs n x) (.csrsLit v x) k i len → puts i k (at_ k ||| s.rd x) len) ∧
      (forms (.csrc n x) (.csrcLit v x) k i len → puts i k (at_ k &&& ~~~(s.rd x)) len)) ∧
    (∀ i k len, scopeOf k.toNat = none → forms (.csrw n x) (.csrwLit v x) k i len ∨ forms (.csrs n x) (.csrsLit v x) k i len ∨
      forms (.csrc n x) (.csrcLit v x) k i len → Traps i s 0xA1 (s.ir.setWidth 64) 0 0) ∧
    (∀ k, 0x10000 ≤ k → scopeOf k = none)

/-- R306, R336, R304, R307: `TLBW` installs a checked entry image in its tile's TLB, and where asked in that of one core of the tile;
`TLBI` removes the entries of the CTXSEL context's page from the tile and drops what the context's walks in flight find, `WAKE` makes a held strand of that context ready, and `LEASEQ` writes what it finds and no more. -/
def Parts.TranslationControl : Prop :=
  ∀ (s : State) (d x y : Sel) (v : Word), s.me.chunk.fresh = true →
    let forms (a : Instr) (b : Instr) (k : Word) (i : Instr) (len : Nat) : Prop := (i = a ∧ k = s.rd x ∧ len = 1) ∨ (i = b ∧ k = v ∧ len = 3)
    let tile := tileOf s.cur
    (∀ i k len e, forms (.tlbw x y) (.tlbwLit v y) k i len → s.entryImage k = .ok e →
      let core := (s.rd y).toNat % 2 ^ 12
      let toCore : Prop := (s.rd y).getLsbD 63 = true
      let good : Prop := toCore → isTaper core = true ∧ core / 32 = tile
      (good → s.imageOk (s.ctxSel s.cur) e = true →
        Completes i s fun t => Once s t s.me.regs len ∧ t.csr = s.csr ∧ (t.tile tile).tlb.head? = some e ∧
          (toCore → (t.core core).tlb.head? = some e) ∧
          ∀ c, ¬(toCore ∧ c = core) → ∀ e, e ∈ (t.core c).tlb ↔ e ∈ (s.core c).tlb) ∧
      (¬good ∨ s.imageOk (s.ctxSel s.cur) e = false → Traps i s 0xA3 (s.ir.setWidth 64) 0 0)) ∧
    (∀ i k len, forms (.tlbi x y) (.tlbiLit v y) k i len →
      (s.rd y = 0 → s.chunksOpen [tile] (s.ctxSel s.cur) = [] → Completes i s fun t => Once s t s.me.regs len ∧ t.csr = s.csr ∧
        (∀ e ∈ (t.tile tile).tlb, e ∈ (s.tile tile).tlb ∧ removes (s.ctxSel s.cur) k e = false) ∧
        (∀ w ∈ (t.tile tile).walks, w.ctx = s.ctxSel s.cur → w.stale = true) ∧
        (∀ c, c / 32 = tile → ∀ e ∈ (t.core c).tlb, removes (s.ctxSel s.cur) k e = false) ∧
        (∀ c, c / 32 ≠ tile → (t.core c).tlb = (s.core c).tlb)) ∧
      (2 ≤ (s.rd y).toNat → Traps i s 0xA3 (s.ir.setWidth 64) 0 0)) ∧
    (∀ i k len, forms (.wake x) (.wakeLit v) k i len → k.toNat ≠ s.cur →
      Completes i s fun t => t.mem = s.mem ∧ t.csr = s.csr ∧ t.me.chunk = Chunk.start t.me.regs ∧
        Went { s.me.regs with count := s.me.regs.count + 1 } t.me.regs len ∧
        (∀ n, n ≠ s.cur → (t.strand n).regs = (s.strand n).regs ∧ (t.strand n).status =
          if n = k.toNat ∧ n < 12288 ∧ (s.strand n).status = .held ∧ (s.strand n).bind.valid = true ∧
            (s.strand n).bind.ctx = s.ctxSel s.cur then .ready else (s.strand n).status)) ∧
    (∀ i k len, forms (.leaseq d x) (.leaseqLit d v) k i len →
      Completes i s fun t => Once s t (s.me.regs.wr d (s.leaseAt k.toNat)) len ∧ t.csr = s.csr)

/-- R305: `ERET` of mode 0 or 2 on thread 1 resumes the strand served from its trap frame, READY or HELD, mode 1 ends its task, and the
thread waits for the next; the entry of a resumed strand has the full live-in mask (R125). On another thread, with none served,
for another mode, and for a frame that cannot be read or reloaded it traps `TRAP_FRAME`.
The model's choices that this rests on: logs 56, 57. -/
def Parts.ExceptionReturns : Prop :=
  ∀ (s : State) (x : Sel) (v : Word), s.me.chunk.fresh = true → ∀ i k len,
    (i = .eret x ∧ k = s.rd x ∧ len = 1) ∨ (i = .eretLit v ∧ k = v ∧ len = 3) →
    let tile := tileOf s.cur
    let own : Prop := s.cur = lanternStrand tile 1 ∧ s.csrAt 0x2 s.cur ≠ 0
    (own → ∀ n ws, (s.tile tile).serving = some n → n ≠ s.cur →
      (k = 0 ∨ k = 2 → s.readFrame n = some ws → s.frameOk n ws = true →
        Completes i s fun t => t.mem = s.mem ∧ (t.tile tile).serving = none ∧ t.csrAt 0x2 s.cur = 0 ∧ t.csrAt 0x3 s.cur = 0 ∧
          t.me.status = .free ∧ (t.strand n).status = (if k = 2 then .held else .ready) ∧
          (t.strand n).regs.handle = (ws.getD 1 0).toNat / 2 ^ 24 % 2 ^ 24 ∧ (t.strand n).regs.off = (ws.getD 1 0).toNat % 2 ^ 24 ∧
          (t.strand n).regs.fps = (ws.getD 4 0).setWidth 8 ∧ (t.strand n).regs.get 72 = 0 ∧ (t.strand n).regs.get 73 = 0 ∧
          (t.strand n).regs.get 100 = ws.getD 5 0 ∧ (t.strand n).regs.get 101 = ws.getD 6 0 ∧ (t.strand n).regs.count = 0 ∧
          (t.strand n).regs.entryFull = true) ∧
      (k = 0 ∨ k = 2 → s.readFrame n = none ∨ (s.readFrame n = some ws ∧ s.frameOk n ws = false) → Traps i s 0xA2 (s.ir.setWidth 64) 3 0) ∧
      (k = 1 → (s.strand n).regs.wicks = [] → Completes i s fun t => t.mem = s.mem ∧ (t.tile tile).serving = none ∧ t.me.status = .free ∧
        (t.strand n).status = .ending ∧ Event.taskEnd n ∈ t.agenda)) ∧
    (s.cur % 4 ≠ 1 ∨ s.csrAt 0x2 s.cur = 0 → Traps i s 0xA2 (s.ir.setWidth 64) 1 0) ∧
    (s.cur % 4 = 1 → s.csrAt 0x2 s.cur ≠ 0 → 2 < k.toNat → Traps i s 0xA2 (s.ir.setWidth 64) 2 0)

/-- R298, R309, R314: a trap that is delivered commits the chunk, writes the trap frame of the strand at the instruction, and
migrates the strand to thread 1 of its tile, which starts its handler, in a slot of its partition, with CTXSEL, TFRAME and TSTRAND
set; a service of another partition is interrupted for it, and resumed in its own slot (R353); a lease error, and a frame whose write
fails, end the task with no handler; on a lantern thread the record goes to LFAULT and the thread starts again.
The model's choices that this rests on: logs 56, 80. -/
def Parts.TrapDelivery : Prop :=
  (∀ (s : State) (n : Nat) (cause : BitVec 8) (addr extra : Word), let t0 := s.strand n
    let f : FaultRec := { cause := cause.toNat, handle := t0.regs.handle, off := t0.regs.off, addr := addr, extra := extra }
    t0.status = .trapping → t0.killed = false → t0.chunk.fresh = true → t0.chunk.conflict = none → t0.pend = [] → s.granted = none →
    (cause.toNat ≠ 0x29 → cause.toNat ≠ 0x2A → cause.toNat ≠ 0xC1 →
      (∀ B, t0.frameErr = false → (∀ k, k < (s.trapFrame n f).length → s.ctxBit (s.ctxOf n) (s.trapArea n + 64 * k) = some (B + 64 * k)) →
      Completes (.trapDelivery n cause addr extra) s fun t => (t.strand n).status = .migrated ∧ (t.strand n).fault = some f ∧
        (t.strand n).regs = t0.regs ∧ n ∈ (t.tile (tileOf n)).trapQ ∧ Event.trapHandlerStart (tileOf n) ∈ t.agenda ∧
        t.holds B (s.trapFrame n f) ∧ s.keeps t B (64 * (s.trapFrame n f).length) ∧ t.csr = s.csr)) ∧
    (cause.toNat = 0x29 ∨ cause.toNat = 0x2A ∨ (t0.frameErr = true ∧ cause.toNat ≠ 0xC1) → t0.regs.wicks = [] →
      Completes (.trapDelivery n cause addr extra) s fun t => (t.strand n).status = .ending ∧ (t.strand n).byStop = true ∧
        t.mem = s.mem ∧ Event.taskEnd n ∈ t.agenda)) ∧
  (∀ (s : State) (tile n p : Nat), let h := lanternStrand tile 1
    let waits := (s.tile tile).trapQ.find? fun n => s.partOf n == p
    s.slotOwner tile 1 = some p → h < 2 ^ 20 →
    ((s.tile tile).serving = none → s.csrAt 0x2 h = 0 → (s.tile tile).shelved.lookup p = none → waits = some n → n ≠ h →
      Completes (.trapHandlerStart tile) s fun t => t.mem = s.mem ∧ (t.tile tile).serving = some n ∧
        t.csrAt 0x1 h = BitVec.ofNat 64 (s.ctxOf n) ∧ t.csrAt 0x2 h = BitVec.ofNat 64 (s.trapArea n) ∧
        t.csrAt 0x3 h = BitVec.ofNat 64 (s.pkg.toNat * 2 ^ 14 + n) ∧ (t.strand h).status = .ready ∧ (t.strand n) = s.strand n) ∧
    (∀ v, (s.tile tile).serving = none → s.csrAt 0x2 h = 0 → (s.tile tile).shelved.lookup p = some v →
      Completes (.trapHandlerStart tile) s fun t => t.mem = s.mem ∧ (t.tile tile).serving = v.strand ∧ t.strand h = v.thread ∧
        ∀ m, m ≠ h → t.strand m = s.strand m) ∧
    ((s.tile tile).serving = some n → s.partOf n = p → Completes (.trapHandlerStart tile) s fun t => t = s) ∧
    ((s.tile tile).serving = some n → s.partOf n ≠ p → s.interruptible h = true → (s.strand h).chunk.fresh = true →
      (s.strand h).chunk.conflict = none → (s.strand h).pend = [] → (s.tile tile).shelved = [] → waits = none →
      Completes (.trapHandlerStart tile) s fun t => t.mem = s.mem ∧ (t.tile tile).serving = none ∧
        ∃ v, (t.tile tile).shelved = [(s.partOf n, v)] ∧ v.strand = some n ∧ v.thread.regs = (s.strand h).regs)) ∧
  (∀ (s : State) (n : Nat) (cause : BitVec 8) (addr extra : Word), let t0 := s.strand n
    t0.status = .trapping → t0.chunk.fresh = true → t0.chunk.conflict = none → t0.pend = [] → s.granted = none → n % 4 ≠ 1 → n < 2 ^ 20 →
    (s.csrAt 0x1804 n).getLsbD 0 = false →
    Completes (.lanternThreadFault n cause addr extra) s fun t => t.mem = s.mem ∧ (t.strand n).status = .ready ∧
      t.csrAt 0x1800 n = BitVec.ofNat 64 cause.toNat ∧ t.csrAt 0x1801 n = pcWord (t0.regs.handle % 2 ^ 24) (t0.regs.off % 2 ^ 24) ∧
      t.csrAt 0x1802 n = addr ∧ t.csrAt 0x1803 n = extra ∧ t.csrAt 0x1804 n = 1)

/-! Chunks at the arbiter. -/

/-- R262, R263: a chunk that waits for the arbiter commits when nothing conflicts with it: its stores enter memory in program order, the
next chunk begins, and the open chunks that read a line of them are in conflict; in conflict itself, it aborts: its stores are
discarded but for a frame record with which it began, and its registers go back to the checkpoint, `shi` excepted; after the eighth abort
it waits for a grant, which one strand at a time holds. The model's choices that this rests on: logs 13, 14, 21 for the frame record, and
84 for the `VSEND` entries that go back to their queue. -/
def Obligations.ChunkOrder : Prop :=
  ∀ (s : State) (n : Nat), let t0 := s.strand n
    let c := t0.chunk
    (∀ i e, (i, e) ∈ [(Instr.chunkCommit n, Event.chunkCommit n), (.chunkInstructionLimit n, .chunkInstructionLimit n),
        (.storeBufferFull n, .storeBufferFull n)] → t0.hold = .commit →
      (c.conflict = none → c.waits = false → s.granted = none → s.grantQ = [] → s.poison = [] → (∀ st ∈ c.stores, st.pkg = none) →
        Completes i s fun t => t.mem = overlay c.stores s.mem ∧ t.csr = s.csr ∧ (t.strand n).regs = t0.regs ∧
          (t.strand n).chunk = Chunk.start t0.regs ∧ (t.strand n).hold = .none ∧
          ∀ m, m ≠ n → (t.strand m).regs = (s.strand m).regs ∧ (t.strand m).status = (s.strand m).status ∧
            ((t.strand m).chunk.conflict.isSome = true ↔ (s.strand m).chunk.conflict.isSome = true ∨
              ∃ st ∈ c.stores, ∃ l ∈ linesOf st.bit st.bits, l ∈ (s.strand m).chunk.reads ∧
                (st.mask = 2 ^ st.bits - 1 ∨ touchesUnit 512 st.mask st.bit st.bits l = true))) ∧
      (c.conflict.isSome = true →
        Completes i s fun t => t.mem = s.mem ∧ t.csr = s.csr ∧ (t.strand n).regs = c.ckpt.set 105 (t0.regs.get 105) ∧
          (t.strand n).chunk.stores = c.kept ∧ (t.strand n).chunk.reads = [] ∧ (t.strand n).chunk.conflict = none ∧
          (t.strand n).chunk.aborts = c.aborts + 1 ∧ (t.strand n).vItp = c.taken ++ t0.vItp ∧ (∀ m, m ≠ n → t.strand m = s.strand m) ∧
          (c.aborts < 7 ∨ s.granted = some n → (t.strand n).hold = .none) ∧
          (7 ≤ c.aborts → s.granted ≠ some n → (t.strand n).hold = .grant ∧ Event.soloCommitGrant n ∈ t.agenda)) ∧
      (c.conflict = none → s.chunkBarred n = true → Completes i s fun t => t = s.due [e])) ∧
    (t0.hold = .grant →
      (s.granted = none → Completes (.soloCommitGrant n) s fun t => t = { s with granted := some n, strands := t.strands } ∧
        t.strand n = { t0 with hold := .none } ∧ ∀ m, m ≠ n → t.strand m = s.strand m) ∧
      (s.granted.isSome = true → n ∉ s.grantQ → Completes (.soloCommitGrant n) s fun t => t = { s with grantQ := s.grantQ ++ [n] }))

/-! Work between tasks. -/

/-- R239, R243, R251: a free strand that found work takes it, in one step: a lit wick, whose continuation it runs from a record of
the task arena, or the upper half of a span. The model's choices that this rests on: log 25. -/
def Parts.StealsAndSplits : Prop :=
  ∀ (s : State) (n v L i tp : Nat) (l : Launch), s.canSeek n = true → L = (s.strand n).bind.launch → s.launch L = some l →
    s.freeRecord l = some (i, tp) →
    let started (t : State) : Prop := (t.strand n).status = .ready ∧ (t.strand n).regs.get 102 = BitVec.ofNat 64 tp ∧
      (t.strand n).regs.get 100 = BitVec.ofNat 64 (s.firstFp n) ∧ (t.strand n).regs.get 101 = BitVec.ofNat 64 (s.firstFp n) ∧
      (t.strand n).victim = (s.strand v).inst ∧ (t.strand n).inst = s.tasks + 1 ∧ t.launch L = some { l with arena := i :: l.arena }
    (∀ blk base, s.findWork n = some (v, false) → s.oldestLit v = some (blk, base) →
      Completes (.steal n) s fun t => started t ∧ (t.strand n).kind = .continuation ∧ (t.strand n).task = (s.strand v).task ∧
        (t.strand n).origin = (if s.ownWick v (s.padRead v (blk + 64)) then (s.strand v).origin else (s.strand v).inst) ∧
        (t.strand n).regs.handle = bitsOf (s.padRead v base).toNat 24 24 ∧ (t.strand v).regs = (s.strand v).regs ∧
        (t.strand v).status = (s.strand v).status) ∧
    (s.findWork n = some (v, true) → let r := (s.strand v).regs
      let mid := r.get 104 + BitVec.ofNat 64 (((r.get 105 - r.get 104).toNat + 1) / 2)
      Completes (.spanSplit n) s fun t => started t ∧ (t.strand n).kind = .span ∧ (t.strand n).regs.role = .thief ∧
        (t.strand n).regs.get 104 = mid ∧ (t.strand n).regs.get 105 = r.get 105 ∧ (t.strand n).regs.grain = r.grain ∧
        (t.strand n).regs.handle = r.bodyHandle ∧ (t.strand n).regs.off = r.bodyOff ∧
        (t.strand v).regs = r.set 105 mid ∧ (t.strand v).status = (s.strand v).status)

/-- R151, R239, R240, R297: a task that ends and has drained leaves its strand FREE with its binding and no register kept; a free strand
starts the oldest frame that waits on its core, takes a span or a wick it finds, or tries again after 2 µs.
The model's choices that this rests on: log 80. -/
def Parts.TaskTurns : Prop :=
  ∀ (s : State) (n : Nat), let t0 := s.strand n
    let c := coreOf n
    (t0.status = .ending → s.drained n = false → Completes (.taskEnd n) s fun t => t = s.due [.taskEnd n]) ∧
    (t0.status = .ending → s.drained n = true → t0.byStop = false → (t0.kind = .continuation → t0.handback = false) →
      (s.core c).inbox = [] → (s.core c).stage = 15 →
      (∀ p ∈ (s.ctx t0.bind.ctx).frames, p.2.core ≠ c) →
      Completes (.taskEnd n) s fun t => (t.strand n).status = .free ∧ (t.strand n).bind = t0.bind ∧
        (t.strand n).regs = Regs.zero ∧ (t.strand n).pend = [] ∧ Event.launchEnd t0.bind.launch ∈ t.agenda) ∧
    (t0.status = .free → s.past t0.since 1600 = false → Completes (.workSearchRetry n) s fun t => t = s.due [.workSearchRetry n]) ∧
    (s.canSeek n = true → isLantern n = false → s.past t0.since 1600 = true →
      (∀ f, s.waiting c t0.bind.ctx = some f → Completes (.workSearchRetry n) s fun t =>
        (t.strand n).kind = .message ∧ ((t.strand n).status = .ready ∨ (t.strand n).status = .codeWait) ∧
        (∀ j, j < 6 → (t.strand n).regs.get j = f.payload.extractLsb' (64 * j) 64) ∧
        (t.strand n).regs.get 6 = f.header.extractLsb' 0 64 ∧ (t.strand n).regs.get 7 = f.header.extractLsb' 64 64 ∧
        (f ∈ (s.core c).inbox → (t.core c).inbox = (s.core c).inbox.erase f)) ∧
      (∀ l, s.waiting c t0.bind.ctx = none → s.launch t0.bind.launch = some l → (s.core c).stage = 15 → (s.freeRecord l).isSome = true →
        (∀ v, s.findWork n = some (v, true) → Completes (.workSearchRetry n) s fun t => t = s.due [.spanSplit n]) ∧
        (∀ v, s.findWork n = some (v, false) → Completes (.workSearchRetry n) s fun t => t = s.due [.steal n]) ∧
        (s.findWork n = none → Completes (.workSearchRetry n) s fun t => (t.strand n).since = s.clk ∧ (t.strand n).regs = t0.regs ∧
          (t.strand n).status = .free ∧ Event.workSearchRetry n ∈ t.agenda ∧ t.mem = s.mem)))

/-- R255 to R257, R356: a frame from another package is started on a free strand, kept in the inbox or the area of its context in memory, or
refused with its status: a frame in that area is of the core's launch, or of the one that is off the core; the service strand moves frames
between the two; a frame that is not answered in 10 ms completes with `REMOTE_LOST`. The model's choices that this rests on: logs 42, 54. -/
def Parts.MessageFrames : Prop :=
  ∀ (s : State) (f : Frame), let x := f.ctx.toNat
    let c := f.core
    let q := (s.core c).inbox
    let own := (s.ctx x).frames
    let away := s.awayLaunch c x
    let told (status : Nat) (t : State) : Prop := t.mem = s.mem ∧ Sent s t f.srcPkg (.frameReply f status)
    let get (P : State → Prop) : Prop := Completes (.messageFrameArrival f) s P
    (f.srcPkg ≠ s.pkg →
      ((s.ctx x).state = .teardown → get fun t => told 0x90 t ∧ t.ctxs = s.ctxs ∧ t.cores = s.cores) ∧
      ((s.ctx x).state = .free → get fun t => told 0x91 t ∧ t.ctxs = s.ctxs ∧ t.cores = s.cores) ∧
      ((s.ctx x).state = .swappedOut → own.length < heapCap → get fun t => told 0 t ∧ (t.ctx x).frames = own ++ [(away, f)]) ∧
      ((s.ctx x).state = .swappedOut → heapCap ≤ own.length → get fun t => told 0x92 t ∧ t.ctxs = s.ctxs) ∧
      ((s.ctx x).state = .resident → s.coreHolds c x = false →
        (away = none → get fun t => told 0x91 t ∧ t.ctxs = s.ctxs) ∧
        (away.isSome = true → own.length < heapCap → get fun t => told 0 t ∧ (t.ctx x).frames = own ++ [(away, f)])) ∧
      ((s.ctx x).state = .resident → s.coreHolds c x = true → (∀ g ∈ own, heapFor c (s.coreLaunch c) g = false) →
        (q = [] → (∀ n, n / 4 = c → s.canSeek n = false) → get fun t => told 0 t ∧ (t.core c).inbox = [f]) ∧
        (q = [] → ∀ n, n / 4 = c → s.canSeek n = true → (∀ m, m / 4 = c → m < n → s.canSeek m = false) →
          isLantern n = false → get fun t =>
          (t.strand n).kind = .message ∧ (t.core c).inbox = [] ∧ ∀ j, j < 6 → (t.strand n).regs.get j = f.payload.extractLsb' (64 * j) 64) ∧
        (q ≠ [] → q.length < 64 → get fun t => told 0 t ∧ (t.core c).inbox = q ++ [f]) ∧
        (64 ≤ q.length → own.length < heapCap → get fun t =>
          told 0 t ∧ (t.core c).inbox = q ∧ (t.ctx x).frames = own ++ [(s.coreLaunch c, f)] ∧ Event.inboxSpill c ∈ t.agenda))) ∧
    (f.srcPkg = s.pkg → f.pkg ≠ s.pkg → ∀ g p, (s.core (coreOf f.sender)).outPort.find? (fun g => sameWay g f) = some g →
      (s.strand f.sender).pend = [p] → p.kind = .frame → p.reg = g.tok.toNat → p.part = none →
      get fun t => (t.core (coreOf f.sender)).outPort = (s.core (coreOf f.sender)).outPort.erase g ∧
        (t.strand f.sender).regs = (s.strand f.sender).regs.wrName p.reg (1 + 2 ^ 8 * (f.payload.toNat % 2 ^ 8))) ∧
    (∀ c, (s.core c).inbox ≠ [] → let y := s.inboxCtx c
      (s.ctx y).frames.length + (s.core c).inbox.length ≤ heapCap →
      Completes (.inboxSpill c) s fun t => (t.core c).inbox = [] ∧ (t.core c).service = true ∧ (t.core c).last = 4 ∧ t.mem = s.mem ∧
        (t.ctx y).frames = ((s.ctx y).frames.filter fun g => !heapFor c (s.coreLaunch c) g) ++
          ((s.core c).inbox.map fun f => (s.coreLaunch c, f)) ++ ((s.ctx y).frames.filter (heapFor c (s.coreLaunch c))) ∧
        Event.inboxReplay c ∈ t.agenda) ∧
    (∀ c y, s.coreCtx c = some y → (∀ n, n / 4 = c → s.canSeek n = false) →
      let mine := (s.ctx y).frames.filter (heapFor c (s.coreLaunch c))
      let now := mine.take (64 - (s.core c).inbox.length)
      Completes (.inboxReplay c) s fun t => (t.core c).inbox = (s.core c).inbox ++ now.map Prod.snd ∧ (t.core c).service = decide (now.length < mine.length) ∧
        (t.core c).last = 4 ∧
        (∀ g, (t.ctx y).frames.count g = (s.ctx y).frames.count g - now.count g) ∧ t.mem = s.mem) ∧
    (∀ n tok g p asked, (s.core (coreOf n)).outPort.find? (fun g => g.sender == n && g.tok == tok && g.pkg != s.pkg) = some g →
      (s.strand n).pend = [p] → p.kind = .frame → p.reg = tok.toNat → p.part = none → p.site = some (asked, 0) →
      (s.past asked 8000000 = false → Completes (.sendmAcceptTimeout n tok) s fun t => t = s.due [.sendmAcceptTimeout n tok]) ∧
      (s.past asked 8000000 = true → Completes (.sendmAcceptTimeout n tok) s fun t =>
        (t.core (coreOf n)).outPort = (s.core (coreOf n)).outPort.erase g ∧
        (t.strand n).regs = (s.strand n).regs.wrName p.reg 0xC201))

/-- R254: an evaluation of the stage governor marks at most one core, of a stage at or under its low mark and above its minimum,
for a stage at or above its high mark and under its maximum, and marks one where both are found; a marked core
moves once its strands are all free, and its slots' bind records say so (R348). The model's choices that this rests on: log 65. -/
def Parts.StageGovernor : Prop :=
  (∀ (s : State) (i : Nat) (l : Launch), s.launch i = some l → l.ended = false →
    (l.preempted = true ∨ s.past l.since 8000 = false → Completes (.stageGovernorEvaluation i) s fun t => t = s.due [.stageGovernorEvaluation i]) ∧
    (l.preempted = false → s.past l.since 8000 = true →
      let count (st : Nat) := (s.stageCores l st).length
      let gives (st : Nat) : Prop := st < l.stages ∧ s.stageItems l st ≤ bitsOf (l.stageWord st 5) 32 32 ∧
        bitsOf (l.stageWord st 4) 16 12 < count st ∧ ∃ c ∈ s.stageCores l st, (s.core c).moveTo = none
      let takes (st : Nat) : Prop := st < l.stages ∧ bitsOf (l.stageWord st 5) 0 32 ≤ s.stageItems l st ∧
        count st < bitsOf (l.stageWord st 4) 32 12
      Completes (.stageGovernorEvaluation i) s fun t =>
        let moved : Prop := ∃ c a b, gives a ∧ takes b ∧ a ≠ b ∧ c ∈ s.stageCores l a ∧ (s.core c).moveTo = none ∧
          t.core c = { s.core c with moveTo := some b } ∧ (∀ k, k ≠ c → t.core k = s.core k) ∧ Event.stageCoreMove c ∈ t.agenda
        t.launch i = some { l with since := s.clk } ∧ Event.stageGovernorEvaluation i ∈ t.agenda ∧ t.mem = s.mem ∧ t.csr = s.csr ∧
          t.strands = s.strands ∧ (t.cores = s.cores ∨ moved) ∧
          ((∃ a b, gives a ∧ takes b ∧ ¬takes a) → moved))) ∧
  (∀ (s : State) (c b : Nat), (s.core c).moveTo = some b →
    ((∃ n, n / 4 = c ∧ (s.strand n).status ≠ .free) → Completes (.stageCoreMove c) s fun t => t = s.due [.stageCoreMove c]) ∧
    ((∀ n, n / 4 = c → (s.strand n).status = .free) →
      Completes (.stageCoreMove c) s fun t => (t.core c).stage = b ∧ (t.core c).moveTo = none ∧
        ∀ n, n / 4 = c → (t.strand n).bind = { (s.strand n).bind with stage := b }))

/-- R228, R324: a core without a task, or with sleepers only, frees two clock bins; those are shared out over the cores of the
tile whose context has an open barrier episode, at most eight to each and as evenly as can be; none while a limit stands, under which a core that runs is throttled. -/
def Parts.Tailwind : Prop :=
  ∀ (s : State) (tile : Nat), let cores := upFrom (32 * tile) 31
    let taker (c : Nat) : Bool := !s.quiet c && (upFrom (4 * c) 4).any fun n =>
      (s.strand n).status != .free && s.openEpisode (s.strand n).bind.ctx
    let takers := cores.filter taker
    let slowed (c : Nat) : Prop := c ∈ cores ∧ s.limited c = true ∧ s.quiet c = false ∧ (s.core c).throttle < 8
    Completes (.tailwindBinChange tile) s fun t => t = { s with cores := t.cores, agenda := t.agenda } ∧
      (∀ c, slowed c → Event.throttleBinStep c ∈ t.agenda) ∧ (∀ x ∈ t.agenda, x ∈ s.agenda ∨ ∃ c, slowed c ∧ x = .throttleBinStep c) ∧
      (∀ c, c ∉ cores → t.core c = s.core c) ∧
      (∀ c ∈ cores, t.core c = { s.core c with bins := (t.core c).bins } ∧ (t.core c).bins ≤ 8 ∧
        (taker c = false → (t.core c).bins = 0) ∧ ((∃ p ∈ s.tiles, p.2.limiting = true) → (t.core c).bins = 0)) ∧
      ((∀ p ∈ s.tiles, p.2.limiting = false) → ∀ c ∈ takers,
        (∀ k ∈ takers, (t.core c).bins ≤ (t.core k).bins + 1) ∧
        ((t.core c).bins < 8 → (takers.map fun k => (t.core k).bins).sum = 2 * (cores.filter s.quiet).length))

/-! Code residency. -/

/-- R96, R276 to R279: at an integer type a scalar-level operation writes the exact result wrapped to the type's width, a shift by the
width or more gives 0 or sign fill, and every other register and flag stays; `dot` adds the tree of its products to c, and is c for no
elements. -/
def Parts.ScalarLevel : Prop :=
  (∀ (f : PFn) (r : PFrame) (ty d a b : Nat), ty ≤ 13 → d < 2 ^ 30 → a < 2 ^ 30 → b < 2 ^ 30 → f.types[d]? = some ty →
    let t := elemTy ty
    let p := SMap.look 0 r.regs a % 2 ^ t.bits
    let q := SMap.look 0 r.regs b % 2 ^ t.bits
    let does (opc v : Nat) : Prop :=
      let o := f.op r { opc := opc, ty := ty, md := 0, ws := [d, a, b] }
      o.act = .go ∧ o.dests = [] ∧ o.frame.pc = r.pc + 1 ∧ o.frame.fps = r.fps ∧ o.frame.joined = r.joined ∧
      ∀ k, SMap.look 0 o.frame.regs k = if k = d then v else SMap.look 0 r.regs k
    let wrapped (x : Int) : Nat := (x % (2 ^ t.bits : Nat)).toNat
    does 0x01 (wrapped (t.int p + t.int q)) ∧ does 0x02 (wrapped (t.int p - t.int q)) ∧ does 0x03 (wrapped (t.int p * t.int q)) ∧
    does 0x04 (wrapped (t.int p * t.int q / (2 ^ t.bits : Nat))) ∧
    does 0x05 (if q = 0 then 2 ^ t.bits - 1 else wrapped ((t.int p).tdiv (t.int q))) ∧
    does 0x06 (if q = 0 then p else wrapped ((t.int p).tmod (t.int q))) ∧
    does 0x07 (p &&& q) ∧ does 0x08 (p ||| q) ∧ does 0x09 (p ^^^ q) ∧
    (t.bits ≤ SMap.look 0 r.regs b → does 0x0A 0 ∧ does 0x0B 0 ∧
      does 0x0C (if 2 * p < 2 ^ t.bits then 0 else 2 ^ t.bits - 1))) ∧
  (∀ t c, dotValue t [] [] c = (c, 0)) ∧
  (∀ t p q c, (dotValue t [p] [q] c).1 = (fpBin .f32 .ne (FV.add .ne) c (dotProduct t p q).1).1) ∧
  (∀ t p q u v w x c, (dotValue t [p, u, w] [q, v, x] c).1 =
    (fpBin .f32 .ne (FV.add .ne) c (fpBin .f32 .ne (FV.add .ne)
      (fpBin .f32 .ne (FV.add .ne) (dotProduct t p q).1 (dotProduct t u v).1).1 (dotProduct t w x).1).1).1)

/-- R353, R368, R369, R388, R391: in a slot of its partition on thread 2 the answer of the source that a request asks now is checked, kept or
passed over, and the next source that the partition has is asked, in order; with none left the container kept is translated, or the request
fails. Out of a slot the answer is held, and a source is not yet asked. An answer of another source, or to a request that asks none, is
discarded; the shelf is read twice, a bucket and then the item that it names; and a neighbour's own request is answered.
The model's choices that this rests on: logs 59, 93. -/
def Parts.CodeAnswers : Prop :=
  ∀ (s : State) (i : Nat) (r : CodeReq),
    (∀ pkg d cls ppid g v, Completes (.codeRequestFlit i (.ask pkg d cls ppid g v)) s fun t =>
      t = s.sendTo pkg (.codeAnswer pkg d (s.codeFor d cls ppid g v)) ∧ Sent s t pkg (.codeAnswer pkg d (s.codeFor d cls ppid g v)) ∧
        (cls ≠ s.chipClass → s.codeFor d cls ppid g v = .none)) ∧
    (s.reqs[i]? = some r →
    let slot := s.hasSlot r.tile 2 r.part
    let next (k : Nat) : Option Nat := (upFrom k (10 - k)).find? fun j => s.hasSource r.part j
    let asks (e : Instr) (q : CodeReq) (k : Nat) : Prop := Completes e s fun t =>
      match next k with
      | some j =>
        let asked : CodeReq := { q with source := j, asked := true, askedAt := s.clk, bucket := none, answer := none }
        (slot = false ∨ (j = 8 ∧ s.hostBusy = true) →
          t.reqs[i]? = some { q with source := j, asked := false, answer := none } ∧ Event.codeSourceTimeLimit i ∈ t.agenda) ∧
        (slot = true → (j = 8 → s.hostBusy = false) →
          (j = 8 → (∃ n, t.reqs[i]? = some { asked with seq := n }) ∧ t.out = s.out ++ [.msix s.activePort 62]) ∧
          (j ≠ 8 → t.reqs[i]? = some asked) ∧
          (j < 8 → Sent s t ((s.neighbour r.part j).getD 0) (.code ((s.neighbour r.part j).getD 0) r.digest s.chipClass
            ((s.csrAt 0x1330 r.part).toNat % 2 ^ 16) r.gbud r.vbud)) ∧
          (j = 9 → t.out = s.out ++ [.shelf (s.csrAt 0x1335 r.part) (64 * (r.digest.toNat % 2 ^ 14)) 64]))
      | none =>
        (q.kept.isSome = true →
          t.reqs[i]? = some { q with source := 10, asked := false, answer := none, state := .translate } ∧
            Event.codeTranslationEnd i ∈ t.agenda) ∧
        (q.kept = none → t.reqs[i]? =
          some { q with source := 10, asked := false, answer := none, state := if r.strands.isEmpty then .closed else .failed })
    let on (e : Instr) (a : Answer) : Prop :=
      r.state = .ask → r.asked = true → r.answer = none → s.past r.askedAt (sourceLimit r.source + 1) = false →
      (slot = false → Completes e s fun t => t.reqs[i]? = some { r with answer := some a } ∧ t.out = s.out ∧
        Event.codeSourceAnswer i { source := r.source, answer := a } ∈ t.agenda) ∧
      (slot = true →
        (a = .none → asks e r (r.source + 1)) ∧
        (∀ b, a = .record b →
          (Completes e s fun t => s.recordFails b r.digest r.part r.gbud r.vbud = none →
            t.reqs[i]? = some { r with state := .install, record := some b } ∧ t.mem = s.mem ∧
              Event.codeInstall i ∈ t.agenda) ∧
          (∀ k, s.recordFails b r.digest r.part r.gbud r.vbud = some k → next (r.source + 1) ≠ some 8 →
            asks e r (r.source + 1) ∧ Completes e s fun t => t.pkgLog.length = s.pkgLog.length + 1)) ∧
        (∀ b, a = .container b →
          (canonical b = true → functionDigest b = r.digest → r.kept = none → asks e { r with kept := some b } (r.source + 1)) ∧
          (canonical b = false ∨ functionDigest b ≠ r.digest ∨ r.kept.isSome = true → asks e r (r.source + 1))))
    (∀ a, on (.codeSourceAnswer i { source := r.source, answer := a }) a) ∧
    (∀ k a, k ≠ r.source ∨ r.asked = false ∨ r.state ≠ .ask →
      Completes (.codeSourceAnswer i { source := k, answer := a }) s fun t => t = s) ∧
    (∀ pkg a, r.source < 8 → s.neighbour r.part r.source = some pkg → on (.codeRequestFlit i (.answer pkg a)) a) ∧
    (∀ pkg a, s.neighbour r.part r.source ≠ some pkg ∨ 8 ≤ r.source → Completes (.codeRequestFlit i (.answer pkg a)) s fun t => t = s) ∧
    (r.source = 9 → r.state = .ask → r.asked = true → r.answer = none → s.past r.askedAt (sourceLimit 9 + 1) = false → ∀ (b : BitVec 512) m,
      (r.bucket = none → s.bucketOk r.digest b.toNat = true → Completes (.codeShelfRead i b m) s fun t =>
        t.reqs[i]? = some { r with bucket := some b.toNat } ∧
          t.out = s.out ++ [.shelfItem (s.csrAt 0x1335 r.part) (b.extractLsb' 288 64) (b.toNat / 2 ^ 352 % 2 ^ 32)]) ∧
      (r.bucket = none → s.bucketOk r.digest b.toNat = false → on (.codeShelfRead i b m) .none) ∧
      (∀ k, r.bucket = some k → on (.codeShelfRead i b m) (shelfAnswer k m))) ∧
    (r.state = .ask → r.answer = none → r.asked = true → s.past r.askedAt (sourceLimit r.source) = true → r.source ≠ 8 →
      asks (.codeSourceTimeLimit i) r (r.source + 1)) ∧
    (r.state = .ask → r.answer = none → r.asked = false → asks (.codeSourceTimeLimit i) r r.source) ∧
    (r.state = .ask → r.answer = none → r.asked = true → s.past r.askedAt (sourceLimit r.source) = false →
      Completes (.codeSourceTimeLimit i) s fun t => t = s.dueOnce (.codeSourceTimeLimit i)))

/-- R353, R363, R364, R369: in a slot of the request's partition a translation ends in a record signed by the package that names it and the
translator, or fails the request, as does a record that does not pass; an accepted record is installed with its text in the code store,
or is verified for one more partition, and the strands that wait for it go on; without room it waits.
The model's choices that this rests on: logs 48, 60. -/
def Parts.CodeInstalls : Prop :=
  ∀ (s : State) (i : Nat) (r : CodeReq), s.reqs[i]? = some r →
    let goOn (t : State) : Prop := (∃ q, t.reqs[i]? = some q ∧ q.state = .closed ∧ q.strands = []) ∧
      ∀ n ∈ r.strands, (s.strand n).status = .codeWait → (s.strand n).wait = .code r.digest → (s.strand n).hold ≠ .stopped →
        (t.strand n).status = .ready ∧ (t.strand n).regs = (s.strand n).regs
    let slot := s.hasSlot r.tile 2 r.part
    let failed : Prop := Completes (.codeTranslationEnd i) s fun t => t.reqs[i]? = some { r with state := .failed } ∧
      t.pkgLog.length = s.pkgLog.length + 1
    (r.state = .translate → slot = false →
      Completes (.codeTranslationEnd i) s fun t => t = (s.due [.codeTranslationEnd i]).wakeLantern r.tile 2) ∧
    (r.state = .translate → slot = true →
      (∀ b, s.translation r = some b → s.ownFails r b = none → Completes (.codeTranslationEnd i) s fun t =>
        t.reqs[i]? = some { r with state := .install, record := some b } ∧ Event.codeInstall i ∈ t.agenda ∧ t.mem = s.mem) ∧
      (∀ b k, s.translation r = some b → s.ownFails r b = some k → r.strands ≠ [] → failed) ∧
      (s.translation r = none → r.strands ≠ [] → failed)) ∧
    (∀ b, s.translation r = some b → 264 ≤ b.length →
      le b 12 1 = r.budgets.1 % 2 ^ 8 ∧ le b 13 1 = r.budgets.2 % 2 ^ 8 ∧ recDigest b 16 = r.digest ∧
        recDigest b 112 = keyDigest s.packageKey ∧ recDigest b 144 = Config.translatorId) ∧
    (r.state = .install → slot = false → Completes (.codeInstall i) s fun t => t = (s.due [.codeInstall i]).wakeLantern r.tile 2) ∧
    (r.state = .install → slot = true → (∀ n ∈ r.strands, (s.strand n).start = none) →
      (∀ b u, r.record = some b → s.install b r.part = (u, none) → Completes (.codeInstall i) s fun t => t = u.due [.codeInstall i]) ∧
      (∀ b u h, r.record = some b → s.install b r.part = (u, some h) →
        Completes (.codeInstall i) s fun t => goOn t ∧ ∃ o, t.obj h = some o ∧ o.digest = recDigest b 16 ∧ o.entry = le b 176 4 ∧
          o.hotLen = recHot b ∧ o.live = 0 ∧ o.verified = BitVec.ofNat 16 (2 ^ r.part) ∧
          (recCold b = 0 → t.bits o.base o.hotBits = packBits 8 ((recHotPart b).map BitVec.toNat))) ∧
      (∀ h o, r.record = none → s.verifiable r.digest r.part r.gbud r.vbud = some h → s.obj h = some o →
        Completes (.codeInstall i) s fun t => goOn t ∧ t.mem = s.mem ∧
          t.obj h = some { o with verified := o.verified ||| BitVec.ofNat 16 (2 ^ r.part) }))

/-- R135, R137, R353, R365, R367: 250 ms of code wait end in `CODE_UNAVAILABLE`; in a slot of the partition of a strand that waits for it, cold
text is copied in and checked; a poisoned line is fetched
once more, and traps `CODE_POISON` if it is poisoned still; a change of a partition's lists takes back what no longer passes and
flushes its tiles' call caches. The model's choices that this rests on: log 59. -/
def Parts.CodeFaults : Prop :=
  ∀ (s : State) (n : Nat), let t0 := s.strand n
    let here : Word := (s.textWord t0.regs.handle t0.regs.off).setWidth 64
    (t0.status = .codeWait → t0.hold ≠ .stopped →
      (s.past t0.since 200000000 = false → Completes (.codeWaitExpiry n) s fun t => t = s.due [.codeWaitExpiry n]) ∧
      (s.past t0.since 200000000 = true → ∀ d, t0.wait = .code d → isLantern n = false →
        Completes (.codeWaitExpiry n) s fun t => (t.strand n).status = .trapping ∧ (t.strand n).regs = t0.regs ∧ t.mem = s.mem ∧
          Event.trapDelivery n 0x40 here (d.setWidth 64) ∈ t.agenda ∧ ∀ r ∈ t.reqs, n ∉ r.strands)) ∧
    (t0.hold = .refetch → isLantern n = false →
      (Completes (.codePoisonRefetch n false) s fun t => (t.strand n).status = .trapping ∧ (t.strand n).regs = t0.regs ∧
        t.mem = s.mem ∧ t.agenda = s.agenda ++ [.trapDelivery n 0x41 here 0]) ∧
      (∀ o, s.obj t0.regs.handle = some o → Completes (.codePoisonRefetch n true) s fun t => t.strand n = { t0 with hold := .none } ∧
        t.mem = s.mem ∧ SMap.look false t.poison (o.wordBit t0.regs.off / 64) = false ∧
        ∀ k, SMap.look false t.poison k = true → SMap.look false s.poison k = true)) ∧
    (∀ h, s.coldWaiter h = none → Completes (.coldTextFetch h) s fun t => t = s) ∧
    (∀ h o w, s.obj h = some o → o.coldHere = false → s.coldWaiter h = some w → s.hasSlot (tileOf w) 2 (s.partOf w) = false →
      Completes (.coldTextFetch h) s fun t => t = (s.due [.coldTextFetch h]).wakeLantern (tileOf w) 2) ∧
    (∀ h o w, s.obj h = some o → o.coldHere = false → s.coldWaiter h = some w → s.hasSlot (tileOf w) 2 (s.partOf w) = true →
      (∀ p ∈ s.objs, p.1 = h → p.2.live ≠ 0) →
      let asked := s.send (.coldRead o.coldAt (4 * o.coldLen))
      let read (t : State) : Prop := t.out = s.out ++ [.coldRead o.coldAt (4 * o.coldLen)]
      (sm3 o.cold = o.coldHash → s.free.getLsbD 0 = true → ∀ u,
        (∀ b, asked.makeRoom (32 * o.coldLen) false s.objs.length = (u, some b) →
          Completes (.coldTextFetch h) s fun t => read t ∧
            (t.obj h).map Obj.coldHere = some true ∧ (t.obj h).map Obj.coldBase = some b ∧
            t.bits b (8 * o.cold.length) = packBits 8 (o.cold.map BitVec.toNat) ∧
            ∀ m, (s.strand m).status = .codeWait → (s.strand m).wait = .cold h → (s.strand m).hold ≠ .stopped → (t.strand m).status = .ready) ∧
        (asked.makeRoom (32 * o.coldLen) false s.objs.length = (u, none) → Completes (.coldTextFetch h) s fun t => t = u.due [.coldTextFetch h])) ∧
      (sm3 o.cold ≠ o.coldHash ∨ s.free.getLsbD 0 = false → Completes (.coldTextFetch h) s fun t => read t ∧
        t.objs = s.objs ∧ t.pkgLog.length = s.pkgLog.length + 1)) ∧
    (∀ p, Completes (.trustListChange p) s fun t => t.mem = s.mem ∧ t.csr = s.csr ∧ t.strands = s.strands ∧
      (∀ h, t.obj h = (s.obj h).map fun o => if s.stillTrusted p o then o else
        { o with verified := o.verified &&& ~~~(BitVec.ofNat 16 (2 ^ p)) }) ∧
      ∀ k, t.tile k = if (s.tile k).owner = some p then { s.tile k with calls := [] } else s.tile k)

/-! Translation. -/

/-- R330, R331, R333, R334, R336, R353: a miss starts a walk of three probes, or joins the one of its page, in a slot of its partition; of
the three replies the largest page wins; its entry goes into the tile's TLB and those of the cores that wait, whose accesses go on; with
none, each ends its task with `TRANSLATION_ERROR`. What a `TLBI` has dropped is neither: the accesses miss again.
The model's choices that this rests on: log 31, and log 56 for a probe at the tile of its walk, which needs no slot. -/
def Parts.Walks : Prop :=
  (∀ (s : State) (n va : Nat) (x : Word), let tile := tileOf n
    let ws := (s.tile tile).walks
    let w := s.walkFor n va
    let slot := s.hasSlot tile 0 (s.partOf n)
    s.missing n = some (va, x) →
      (slot = true → s.walkAt w = none → ws.length < 256 →
        Completes (.tlbMiss n) s fun t =>
          (t.tile tile).walks = ws ++ [{ ctx := s.ctxOf n, page := va / 2 ^ 19, strands := [n], replies := [], stale := false }] ∧
          t.agenda = s.agenda ++ [.tlbProbe w 0, .tlbProbe w 1, .tlbProbe w 2] ∧ t.mem = s.mem ∧ t.strands = s.strands) ∧
      (slot = true → s.walkAt w = none → 256 ≤ ws.length → Completes (.tlbMiss n) s fun t => t = s.due [.tlbMiss n]) ∧
      (∀ q, slot = true → s.walkAt w = some q →
        Completes (.tlbMiss n) s fun t => (∃ u, t.walkAt w = some u ∧ n ∈ u.strands ∧ (∀ m ∈ q.strands, m ∈ u.strands)) ∧
          (t.tile tile).walks.length = ws.length ∧ t.agenda = s.agenda ∧ t.mem = s.mem ∧ t.strands = s.strands) ∧
      (slot = false → Completes (.tlbMiss n) s fun t => t = (s.due [.tlbMiss n]).wakeLantern tile 0)) ∧
  ∀ (s : State) (w : WalkId) (q : WalkReq), s.walkAt w = some q →
    let left (t : State) : Prop := (t.tile w.tile).walks = (s.tile w.tile).walks.filter (fun v => !v.isAt w) ∧ t.mem = s.mem ∧
      t.csr = s.csr ∧ ∀ m, (t.strand m).regs = (s.strand m).regs
    let retried (t : State) : Prop := ∀ m ∈ q.strands, ∀ va x, s.missing m = some (va, x) → va / 2 ^ 19 = q.page → s.ctxOf m = q.ctx → (t.strand m).hold = .none
    let untouched (t : State) : Prop := (t.tile w.tile).tlb = (s.tile w.tile).tlb ∧ t.cores = s.cores
    (∀ size : BitVec 2, let home := s.probeHome w size.toNat
      (home = w.tile ∨ s.hasSlot home 0 (s.ctxPart w.ctx) = true → Completes (.tlbProbe w size) s fun t =>
        Event.tlbProbeReply w size (s.probe w.ctx (w.page * 2 ^ 19) size.toNat) ∈ t.agenda ∧
          (s.poison = [] → t = s.due [.tlbProbeReply w size (s.probe w.ctx (w.page * 2 ^ 19) size.toNat)])) ∧
      (home ≠ w.tile → s.hasSlot home 0 (s.ctxPart w.ctx) = false → Completes (.tlbProbe w size) s fun t =>
        t = (s.due [.tlbProbe w size]).wakeLantern home 0)) ∧
    (∀ size e, Completes (.tlbProbeReply w size e) s fun t =>
      t.walkAt w = some { q with replies := (size.toNat, e) :: q.replies } ∧ t.mem = s.mem ∧ t.strands = s.strands ∧
      (∀ a b c, (size = 0 ∧ a = e ∧ q.replies.lookup 1 = some b ∧ q.replies.lookup 2 = some c) ∨
          (size = 1 ∧ b = e ∧ q.replies.lookup 0 = some a ∧ q.replies.lookup 2 = some c) ∨
          (size = 2 ∧ c = e ∧ q.replies.lookup 0 = some a ∧ q.replies.lookup 1 = some b) →
        (∀ v, c = some v ∨ c = none ∧ b = some v ∨ c = none ∧ b = none ∧ a = some v → t.agenda = s.agenda ++ [.tlbFill w v]) ∧
        (c = none → b = none → a = none → t.agenda = s.agenda ++ [.tlbFail w]))) ∧
    (∀ e, Completes (.tlbFill w e) s fun t => left t ∧ retried t ∧
      (q.stale = false → (t.tile w.tile).tlb.head? = some e ∧ (∀ m ∈ q.strands, (t.core (coreOf m)).tlb.head? = some e) ∧
        (∀ m ∈ q.strands, ∀ va x, s.missing m = some (va, x) → va / 2 ^ 19 = q.page → s.ctxOf m = q.ctx → e ∈ (t.strand m).found) ∧
        ∀ c, (∀ m ∈ q.strands, coreOf m ≠ c) → t.core c = s.core c) ∧
      (q.stale = true → untouched t)) ∧
    (Completes (.tlbFail w) s fun t => left t ∧ untouched t ∧ (q.stale = true → retried t) ∧
      (q.stale = false → ∀ m ∈ q.strands, isLantern m = false → ∀ va x, s.missing m = some (va, x) → va / 2 ^ 19 = q.page → s.ctxOf m = q.ctx →
        (t.strand m).status = .trapping ∧ Event.trapDelivery m 0x2A (BitVec.ofNat 64 va) x ∈ t.agenda))

/-- R353: a frame of a lantern thread has 16 slots, of which each of the n partitions with work has at least
1 + ⌊(16 − n) × L / ΣL⌋ and none other any, and it begins with the first; at a boundary the next slot begins; a slot is its partition's,
or that of the next partition with work. -/
def Parts.LanternFrames : Prop :=
  ∀ (s : State) (tile thr : Nat), let ps := s.queued tile thr
    let f := SMap.look Slots.none (s.tile tile).slots thr
    let slots (t : State) := SMap.look Slots.none (t.tile tile).slots thr
    let same (t : State) : Prop := t.mem = s.mem ∧ t.strands = s.strands ∧ t.csr = s.csr ∧ ∀ k, k ≠ thr →
      SMap.look Slots.none (t.tile tile).slots k = SMap.look Slots.none (s.tile tile).slots k
    let goesOn (t : State) : Prop := Event.lanternSlotBoundary tile thr ∈ t.agenda ∧
      (thr = 1 → Event.trapHandlerStart tile ∈ t.agenda) ∧ (thr ≠ 1 → t.agenda = s.agenda ++ [.lanternSlotBoundary tile thr])
    (ps = [] → Completes (.lanternFrameStart tile thr) s fun t => same t ∧ slots t = Slots.none ∧ t.agenda = s.agenda) ∧
    (ps ≠ [] → Completes (.lanternFrameStart tile thr) s fun t => same t ∧ goesOn t ∧
      ∃ p rest, slots t = { todo := rest, now := some p } ∧ rest.length = 15 ∧ (∀ q ∈ p :: rest, q ∈ ps) ∧
        ∀ q ∈ ps, 1 + (16 - ps.length) * s.weightL q / (ps.map s.weightL).sum ≤ (p :: rest).count q) ∧
    (f.todo = [] → ps = [] → Completes (.lanternSlotBoundary tile thr) s fun t => same t ∧ slots t = Slots.none ∧ t.agenda = s.agenda) ∧
    (f.todo = [] → ps ≠ [] → Completes (.lanternSlotBoundary tile thr) s fun t => t = s.due [.lanternFrameStart tile thr]) ∧
    (∀ p rest, f.todo = p :: rest → Completes (.lanternSlotBoundary tile thr) s fun t => same t ∧ goesOn t ∧
      slots t = { todo := rest, now := some p }) ∧
    (∀ p, f.now = some p →
      (p ∈ ps → s.slotOwner tile thr = some p) ∧
      (p ∉ ps → ps ≠ [] → ∃ q ∈ ps, s.slotOwner tile thr = some q ∧
        ((∃ q ∈ ps, p < q) → p < q ∧ ∀ k ∈ ps, p < k → q ≤ k)) ∧
      (ps = [] → s.slotOwner tile thr = none))

/-! Control registers as events. -/

/-- R9, R303, R321, R338, R295: writes of registers with a behaviour of their own, and those that are ignored: of registers that
hardware sets, by firmware too.
The model's choices that this rests on: logs 46, 79. -/
def Parts.RegisterBehaviours : Prop :=
  ∀ (s : State) (v : Word),
    let puts (e : Instr) (num sc : Nat) (w : Word) : Prop := Completes e s fun t => t = s.csrPut num sc w
    let ignored (e : Instr) : Prop := Completes e s fun t => t = s
    (∀ c : BitVec 8, ((s.ctx c.toNat).state = .free → puts (.ctxdescWrite c v) 0x10 c.toNat v) ∧
      ((s.ctx c.toNat).state ≠ .free → ignored (.ctxdescWrite c v))) ∧
    (∀ tile (c : BitVec 8), let others := (s.tileCtxs tile).filter (· != c.toNat)
      (v &&& 0xFFFF ≠ 0 → (∀ x ∈ others, s.csrAt 0x11 (tile * 256 + x) &&& (v &&& 0xFFFF) = 0) →
        puts (.icwaysWrite tile c v) 0x11 (tile * 256 + c.toNat) (v &&& 0xFFFF)) ∧
      (v &&& 0xFFFF = 0 → ignored (.icwaysWrite tile c v)) ∧
      (∀ x ∈ others, s.csrAt 0x11 (tile * 256 + x) &&& (v &&& 0xFFFF) ≠ 0 → ignored (.icwaysWrite tile c v))) ∧
    (∀ thr, (v.getLsbD 0 = true → puts (.lfstatWrite thr v) 0x1804 thr 0) ∧ (v.getLsbD 0 = false → ignored (.lfstatWrite thr v))) ∧
    (1 ≤ v.toNat % 1024 → v.toNat % 1024 ≤ 600 → puts (.hwinWrite v) 0x1823 0 (BitVec.ofNat 64 (v.toNat % 1024))) ∧
    (v.toNat % 1024 = 0 ∨ 600 < v.toNat % 1024 → ignored (.hwinWrite v)) ∧
    (10 ≤ v.toNat % 32 → v.toNat % 32 ≤ 24 → puts (.ptbitsWrite v) 0x1001 0 (BitVec.ofNat 64 (v.toNat % 32))) ∧
    (v.toNat % 32 < 10 ∨ 24 < v.toNat % 32 → ignored (.ptbitsWrite v)) ∧
    (∀ c : BitVec 8, (s.arenaOk c.toNat (v.toNat % 2 ^ 57) (s.csrAt 0x1003 c.toNat).toNat = true →
        puts (.claimbaseWrite c v) 0x1002 c.toNat (BitVec.ofNat 64 (v.toNat % 2 ^ 57))) ∧
      (s.arenaOk c.toNat (v.toNat % 2 ^ 57) (s.csrAt 0x1003 c.toNat).toNat = false → ignored (.claimbaseWrite c v)) ∧
      (s.arenaOk c.toNat (s.csrAt 0x1002 c.toNat).toNat (v.toNat % 2 ^ 58) = false → ignored (.claimlenWrite c v)) ∧
      (s.arenaOk c.toNat (s.csrAt 0x1002 c.toNat).toNat (v.toNat % 2 ^ 58) = true →
        Completes (.claimlenWrite c v) s fun t => t.csrAt 0x1003 c.toNat = BitVec.ofNat 64 (v.toNat % 2 ^ 58) ∧ t.mem = s.mem ∧
          ∀ p ∈ t.claims, p ∈ s.claims ∧ ¬(p.2.maker.pkg = s.pkg ∧ p.2.maker.ctx = c))) ∧
    (∀ unit, (v.getLsbD 0 = true → Completes (.hstatWrite unit v) s fun t => (t.unit unit).lasting = false ∧ (t.unit unit).logged = false) ∧
      (v.getLsbD 0 = false → Completes (.hstatWrite unit v) s fun t => (t.unit unit).lasting = (s.unit unit).lasting)) ∧
    (∀ sc, puts (.registerWrite 0x1205 sc v) 0x1205 sc (v &&& 3) ∧ puts (.registerWrite 0x1311 sc v) 0x1311 sc (v &&& 0x9F1F) ∧
      puts (.registerWrite 0x1314 sc v) 0x1314 sc (v &&& 0x83FF) ∧ puts (.registerWrite 0x1330 sc v) 0x1330 sc (v &&& 0x1FFFF) ∧
      (Completes (.registerWrite 0x1111 sc v) s fun t => (1 ≤ bitsOf (t.csrAt 0x1111 sc).toNat 0 8 ∧ 1 ≤ bitsOf (t.csrAt 0x1111 sc).toNat 8 8) ∧
        (1 ≤ bitsOf v.toNat 0 8 → bitsOf (t.csrAt 0x1111 sc).toNat 0 8 = bitsOf v.toNat 0 8)) ∧
      (v.getLsbD 0 = true → puts (.registerWrite 0x1814 sc v) 0x1814 sc 0) ∧ (v.getLsbD 0 = false → ignored (.registerWrite 0x1814 sc v)) ∧
      ignored (.registerWrite 0x1813 sc v) ∧ ignored (.registerWrite 0x1312 sc v))

/-! Launches and contexts. -/

/-- R341, R342: at a notify that counts, or 100 µs after its last scan, an enabled queue of a ready package is scanned: the packet
at its head, if valid, is taken, its slot is cleared, and the launch joins the list of its priority.
The model's choices that this rests on: log 61. -/
def Parts.QueueScans : Prop :=
  ∀ (s : State) (q : Nat), let cfg := s.qcfg q
    let ctx := bitsOf cfg 16 8
    let n := (s.csrAt 0x1103 q).toNat
    let a := (s.csrAt 0x1101 q).toNat + 512 * (n % 2 ^ bitsOf cfg 8 5)
    let c0 := s.cpRead ctx a
    let part := s.launchPart q
    let ws := (upFrom 0 8).map fun i => s.cpRead ctx (a + 64 * i)
    let scanned (t : State) : Prop := SMap.look 0 t.looked q = s.clk ∧
      (c0.getLsbD 0 = false → t.launches = s.launches ∧ t.mem = s.mem) ∧
      (c0.getLsbD 0 = true → (∃ more, t.launches =
          s.launches ++ Launch.fresh q ctx part (bitsOf c0.toNat 8 2) ws s.clk :: more ∧
          (bitsOf cfg 8 5 = 0 → more = [] ∧ t.csrAt 0x1103 q = BitVec.ofNat 64 (n + 1) ∧
            (s.poison = [] → ∀ b, s.cpPlace ctx a = some (.here b) → t.bits b 64 = 0))) ∧
        s.launches.length ∈ (t.part part).wait (bitsOf c0.toNat 8 2) ∧ Event.partitionServiceRound ∈ t.agenda)
    (∀ port, (∀ p, port = some p → s.notifyFrom p = true) → s.ready? = true → cfg.testBit 0 = true →
      (∀ r ∈ s.reqs, r.source ≠ 8) → Completes (.queueNotify q port) s scanned) ∧
    (∀ port, s.ready? = false ∨ (∃ p, port = some p ∧ s.notifyFrom p = false) → Completes (.queueNotify q port) s fun t => t = s) ∧
    (cfg.testBit 0 = true → s.ready? = true → s.past (SMap.look 0 s.looked q) 80000 = true →
      Completes (.queuePeriodicScan q) s fun t => scanned t ∧ Event.queuePeriodicScan q ∈ t.agenda) ∧
    (cfg.testBit 0 = true → s.past (SMap.look 0 s.looked q) 80000 = false →
      Completes (.queuePeriodicScan q) s fun t => t = s.dueOnce (.queuePeriodicScan q))

/-- R345, R350, R351: in a round a partition with a waiting head gains 32 times its weight, and a head whose cost its deficit covers is
validated: one that passes pays its cost and its lease is made; one that fails is rejected; one that it does not cover waits. The
deficit of a partition without a head is 0. Stated where one launch waits and no container is poisoned.
The model's choices that this rests on: log 63. -/
def Parts.PartitionRounds : Prop :=
  ∀ (s : State),
    ((∀ p, p < 16 → (s.part p).head = none) → Completes .partitionServiceRound s fun t =>
      t.launches = s.launches ∧ t.mem = s.mem ∧ ∀ p, p < 16 → (t.part p).deficit = 0) ∧
    (∀ (p i : Nat) (l : Launch), p < 16 → (∀ k, k < 16 → k ≠ p → (s.part k).head = none) → s.launch i = some l → l.part = p →
      let d := (s.part p).deficit + 32 * max 1 (bitsOf (s.csrAt 0x1111 p).toNat 0 8)
      let m := s.withRecord l
      (∀ k, k < 4 → (s.part p).wait k = if k = l.prio then [i] else []) → l.prio < 4 → l.lease = .waiting → l.costed = false → s.poison = [] →
      (m.cost ≤ d → s.validate m = none → Completes .partitionServiceRound s fun t =>
        t.launch i = some { m with lease := .making, costed := true, since := s.clk } ∧ (t.part p).deficit = d - m.cost ∧
          Event.leaseResident i ∈ t.agenda ∧ t.mem = s.mem) ∧
      (d < m.cost → Completes .partitionServiceRound s fun t =>
        t.launch i = some l ∧ (t.part p).deficit = d ∧ Event.partitionServiceRound ∈ t.agenda ∧ t.mem = s.mem) ∧
      (m.cost ≤ d → (∃ f, s.validate m = some f) →
        Completes .partitionServiceRound s fun t => (∃ k, t.launch i = some k ∧ k.lease = .released ∧ k.ended = true) ∧
          (t.part p).head = none ∧ (t.part p).deficit = 0))

/-- R335, R337, R347, R348: a lease whose pages all have entries that pass is HELD, and one with a page that does not is rejected; the
head of its partition binds to free cores: each is held by the launch, its slots get their bind records, a slot with START runs the
entry task, and the context has ways on each tile. The visit of the partition then goes on (R351).
The model's choices that this rests on: logs 63, 64, 81. -/
def Parts.LaunchBinding : Prop :=
  ∀ (s : State) (i : Nat) (l : Launch), s.launch i = some l →
    (l.lease = .making → s.leaseFail l = none → Completes (.leaseResident i) s fun t =>
      t.launch i = some { l with lease := .held, since := s.clk } ∧ Event.launchBind i ∈ t.agenda ∧ t.mem = s.mem ∧ t.strands = s.strands) ∧
    (∀ f, l.lease = .making → s.leaseFail l = some f → Completes (.leaseResident i) s fun t =>
      (∃ k, t.launch i = some k ∧ k.lease = .released ∧ k.ended = true) ∧
        (t.headWaits l.part = true → Event.partitionServiceRound ∈ t.agenda)) ∧
    (∀ cs, l.lease = .held → l.ended = false → l.cores = [] → l.away = false → l.stages = 0 → (s.part l.part).head = some i →
      (s.ctx l.ctx).state = .resident → bitsOf (s.csrAt 0x1320 0).toNat 4 4 = 0 → s.pickCores l [] = some cs →
      (∀ p ∈ (s.ctx l.ctx).frames, p.2.core ∉ cs) →
      Completes (.launchBind i) s fun t => (t.launch i).map Launch.cores = some cs ∧ i ∉ (t.part l.part).wait l.prio ∧
        (t.headWaits l.part = true → Event.partitionServiceRound ∈ t.agenda) ∧
        (∀ c ∈ cs, l.ctx < 256 → l.ctx ∉ s.tileCtxs (c / 32) →
          (t.csrAt 0x11 (c / 32 * 256 + l.ctx)).toNat = s.waysFor (c / 32) l.ctx) ∧
        ∀ c ∈ cs, s.coreFree [] c = true ∧ (t.core c).held = some i ∧ (t.core c).stage = 15 ∧
          ∀ k, k < 4 → (t.strand (4 * c + k)).bind = l.binding i c 15 k ∧
            ((l.f 0 24 4).testBit k = true → (t.strand (4 * c + k)).kind = .launch ∧
              ((t.strand (4 * c + k)).status = .ready ∨ (t.strand (4 * c + k)).status = .codeWait) ∧
              ∀ j, j < 8 → (t.strand (4 * c + k)).regs.get j = l.record.getD (12 + j) 0) ∧
            ((l.f 0 24 4).testBit k = false → (t.strand (4 * c + k)).status = .free)) ∧
    (l.lease = .held → l.ended = false → l.cores = [] → (s.part l.part).head = some i → s.pickCores l [] = none →
      Completes (.launchBind i) s fun t => t = s.dueOnce (.launchPreemption l.part))

/-- R337, R346, R347, R349: a copy of a pod launch waits in the list of its priority; a launch ends once its strands are FREE with no work
left; when its engines and its stores to other packages have drained and its members have reported, the completion record is written, then the signal falls by one, and the lease is released and the cores are free. Work that has come meanwhile is done first.
The model's choices that this rests on: log 62. -/
def Parts.LaunchEnds : Prop :=
  ∀ (s : State) (i : Nat) (l : Launch), s.launch i = some l →
    (∀ q r a, Completes (.launchForward q r a) s fun t => t.launches = s.launches ++
        [{ Launch.fresh q (bitsOf (s.qcfg q) 16 8) (s.launchPart q) (r.prio % 4) [] s.clk with record := r.record, args := a, forwarded := true }] ∧
        s.launches.length ∈ (t.part (s.launchPart q)).wait (r.prio % 4) ∧ Event.partitionServiceRound ∈ t.agenda ∧ t.mem = s.mem) ∧
    (∀ p (st c : BitVec 8) (f : BitVec 16) a x, Completes (.memberReport i p st c f a x) s fun t =>
      t.launch i = some { l with reports := l.reports ++
        [{ pkg := p, status := st.toNat, cause := c.toNat, field := f.toNat, addr := a, extra := x }] } ∧ t.mem = s.mem) ∧
    (l.lease = .held → l.ended = false → l.cores ≠ [] → l.away = false → l.killed = false →
      ((∀ c ∈ l.cores, ∀ k, k < 4 → (s.strand (4 * c + k)).status = .free) → s.noWork l = true →
        Completes (.launchEnd i) s fun t => t.launch i = some { l with lease := .ending } ∧ t.agenda = s.agenda ++ [.leaseDrained i] ∧
          t.mem = s.mem) ∧
      ((∀ c ∈ l.cores, ∀ k, k < 4 → (s.strand (4 * c + k)).status = .free) → s.noWork l = false →
        Completes (.launchEnd i) s fun t => t = s.dueOnce (.launchEnd i)) ∧
      ((∃ c ∈ l.cores, ∃ k, k < 4 ∧ (s.strand (4 * c + k)).status ≠ .free) → Completes (.launchEnd i) s fun t => t = s)) ∧
    (l.lease = .ending → s.draining i l = true → Completes (.leaseDrained i) s fun t => t = s.due [.leaseDrained i]) ∧
    (l.lease = .ending → l.away = false → s.draining i l = false → (l.forwarded = true ∨ l.killed = true ∨ (s.members l).length ≤ l.reports.length) →
      s.stillEnds l = false → Completes (.leaseDrained i) s fun t => t.launch i = some { l with lease := .held } ∧
        Event.launchEnd i ∈ t.agenda) ∧
    (l.lease = .ending → l.away = false → s.draining i l = false → (l.forwarded = true ∨ l.killed = true ∨ (s.members l).length ≤ l.reports.length) →
      s.stillEnds l = true → l.saved = [] →
      let r := worst (l.outcome s.pkg none) l.reports
      Completes (.leaseDrained i) s fun t =>
        (∃ k, t.launch i = some k ∧ k.lease = .released ∧ k.ended = true) ∧
        (t.headWaits l.part = true → Event.partitionServiceRound ∈ t.agenda) ∧
        (∀ c ∈ l.cores, (t.core c).held = none ∧ ∀ k, k < 4 → t.strand (4 * c + k) = Strand.reset) ∧
        (l.forwarded = true → (s.part l.part).head = none → t.out = s.out ++ [.report r] ∧ t.mem = s.mem) ∧
        (l.forwarded = false → (s.part l.part).head = none → l.signal % 64 = 0 → ∀ b,
          s.poisonIn b 64 = none →
          (∀ m : Memory, (∀ x len, x + len ≤ b ∨ b + 256 ≤ x → m.bits x len = s.mem.bits x len) → ∀ k, k < 4 →
            ({ s with mem := m } : State).cpPlace l.ctx (l.signal + 64 * k) = some (.here (b + 64 * k))) →
          t.bits b 64 = (s.bits b 64 + (2 ^ 64 - 1)) % 2 ^ 64 ∧ t.holds (b + 64) [r.word, r.addr, r.extra] ∧ s.keeps t b 256))

/-- R352: a head that has waited 200 µs pre-empts launches of its partition of a lower priority, and no others. -/
def Parts.LaunchPreemptions : Prop :=
  ∀ (s : State) (p i : Nat) (l : Launch), (s.part p).head = some i → s.launch i = some l → l.lease = .held → l.prio ≠ 0 →
    (s.ctx l.ctx).state = .resident →
    (s.past l.since 160000 = false → Completes (.launchPreemption p) s fun t => t = s.dueOnce (.launchPreemption p)) ∧
    (s.past l.since 160000 = true → Completes (.launchPreemption p) s fun t =>
      t.mem = s.mem ∧ t.strands = s.strands ∧ t.cores = s.cores ∧
      (∀ v ∈ s.victimsFor l [] (s.lesser p l.prio), ∃ k, s.launch v = some k ∧ k.part = p ∧ k.prio < l.prio ∧ k.cores ≠ [] ∧
        t.launch v = some { k with preempted := true } ∧
        (k.preempted = false → Event.contextSave (BitVec.ofNat 8 k.ctx) ∈ t.agenda)) ∧
      (∀ v, v ∉ s.victimsFor l [] (s.lesser p l.prio) → t.launch v = s.launch v))

/-- R270, R300: a request to stop reaches the strands of a context that are to stop: a READY one none of whose region has committed goes back
to its entry, another stops at its next region entry, and one that waits stops where it is.
The model's choices that this rests on: log 67, and for the frame record that a return to the entry keeps log 21. -/
def Parts.StopRequests : Prop :=
  (∀ (s : State) (c : BitVec 8), Completes (.preemptionRequest c) s fun t => t = { s with agenda := t.agenda } ∧
    ∃ es, t.agenda = s.agenda ++ es ∧
      (∀ n, (s.strand n).bind.valid = true → (s.strand n).bind.ctx = c.toNat → s.wantsStop n = true → Event.strandPreemption n ∈ es) ∧
      (∀ e ∈ es, ∃ n, e = Event.strandPreemption n ∧ s.wantsStop n = true)) ∧
  (∀ (s : State) (n : Nat), let t0 := s.strand n
    let only (f : Strand) : Prop := Completes (.strandPreemption n) s fun t => t.strand n = f ∧ (∀ m, m ≠ n → t.strand m = s.strand m) ∧
      t.mem = s.mem ∧ t.agenda = s.agenda
    (s.wantsStop n = false → only { t0 with stopReq := false }) ∧
    (s.wantsStop n = true →
      (t0.status = .ready → t0.hold ≠ .stopped → t0.entryClean = false → only { t0 with stopReq := true }) ∧
      (t0.status = .ready → t0.hold ≠ .stopped → t0.entryClean = true → Completes (.strandPreemption n) s fun t =>
        (t.strand n).hold = .stopped ∧ (t.strand n).stopReq = true ∧ t.mem = s.mem ∧
          (t.strand n).regs = t0.chunk.ckpt.set 105 (t0.regs.get 105) ∧ (t.strand n).chunk.stores = t0.chunk.kept) ∧
      (t0.status ∈ [Status.sleep, .codeWait, .joinWait, .held] → only { t0 with stopReq := true, hold := .stopped, shadow := Shadow.none }) ∧
      (t0.status ∈ [Status.migrated, .trapping, .ending] →
        Completes (.strandPreemption n) s fun t => t = s.due [.strandPreemption n])))

/-- R301, R352: a launch whose strands have stopped, with their stores acknowledged, and whose engines are idle is saved and leaves its cores; when it has cores again its
strands, its cores and their bits are written back. Stated where one launch is saved, and where one comes back with one saved strand.
The model's choices that this rests on: log 66. -/
def Parts.SavesAndRestores : Prop :=
  ∀ (s : State) (x : BitVec 8) (i : Nat) (l : Launch), s.launch i = some l → l.ctx = x.toNat →
    (s.toSave x.toNat = [i] → l.cores.Nodup → s.canSave l = true →
      (∀ c ∈ l.cores, ∀ m, m < 4 → (s.strand (4 * c + m)).chunk.stores = []) → Completes (.contextSave x) s fun t =>
      (∃ k, t.launch i = some k ∧ k.away = true ∧ k.cores = l.cores ∧
        ∀ j c, l.cores[j]? = some c → (j, s.core c) ∈ k.savedCores ∧
          ∀ m, m < 4 → (s.strand (4 * c + m)).status ≠ .free → (4 * j + m, s.savedStrand (4 * c + m)) ∈ k.saved) ∧
      (∀ c ∈ l.cores, (t.core c).held = none ∧ ∀ m, m < 4 → t.strand (4 * c + m) = Strand.reset) ∧
      (t.ctx x.toNat).leaving = false ∧ ((s.part (s.ctx x.toNat).part).head = none → l.lease = .held → t.mem = s.mem) ∧
      (t.headWaits (s.ctx x.toNat).part = true → Event.partitionServiceRound ∈ t.agenda)) ∧
    (s.toSave x.toNat = [i] → s.canSave l = false → Completes (.contextSave x) s fun t => t = s.dueOnce (.contextSave x)) ∧
    (∀ j c m u, l.away = true → l.ended = false → l.cores.Nodup → l.cores[j]? = some c → (s.core c).held = some i → m < 4 →
      (∀ k, k ≠ i → s.launch k = none) → l.saved = [(4 * j + m, u)] → u.status = .ready ∨ u.status = .sleep →
      u.chunk.aborts < 8 → Completes (.contextRestore x) s fun t =>
        t.strand (4 * c + m) = { u with bind := (t.strand (4 * c + m)).bind, hold := .none, stopReq := false } ∧
        (l.savedCores.lookup j = none → (t.strand (4 * c + m)).bind = (s.strand (4 * c + m)).bind) ∧
        (∀ q, l.savedCores.lookup j = some q → (t.strand (4 * c + m)).bind = { (s.strand (4 * c + m)).bind with stage := q.stage }) ∧
        (t.launch i).map Launch.away = some false ∧ (t.launch i).map Launch.preempted = some false ∧
        (∀ q, l.savedCores.lookup j = some q → (t.core c).tables = q.tables ∧ (t.core c).stage = q.stage) ∧
        Event.launchEnd i ∈ t.agenda ∧ ∀ k ∈ l.cores, Event.inboxReplay k ∈ t.agenda)

/-- R299: the states of a context: from FREE it becomes RESIDENT with a descriptor that can be read, from RESIDENT it is SUSPENDED, from
either SWAPPED_OUT with its launches to be saved, from these RESIDENT again, and from any but FREE TEARDOWN, which kills its
tasks and ends in FREE when all has drained; a request from another state changes nothing.
The model's choices that this rests on: log 67. -/
def Obligations.ContextStates : Prop :=
  ∀ (s : State) (x : BitVec 8), let c := x.toNat
    let st := (s.ctx c).state
    let bound (n : Nat) : Prop := (s.strand n).bind.valid = true ∧ (s.strand n).bind.ctx = c
    (st = .free → (s.readDesc c).isSome = true → Completes (.ctxResident x) s fun t => (t.ctx c).state = .resident ∧
      Event.partitionServiceRound ∈ t.agenda ∧ ∀ k, k ≠ c → t.ctx k = s.ctx k) ∧
    (st ≠ .free → Completes (.ctxResident x) s fun t => t = s) ∧
    (st = .free → s.readDesc c = none → Completes (.ctxResident x) s fun t => t.ctxs = s.ctxs ∧ t.mem = s.mem ∧ t.agenda = s.agenda ∧
      (s.poison = [] → t = s)) ∧
    (st = .resident → Completes (.ctxSuspend x) s fun t => (t.ctx c).state = .suspended ∧ Event.preemptionRequest x ∈ t.agenda ∧
      ∀ n, (t.strand n).regs = (s.strand n).regs) ∧
    (st ≠ .resident → Completes (.ctxSuspend x) s fun t => t = s) ∧
    (st = .suspended → Completes (.ctxResume x) s fun t => (t.ctx c).state = .resident ∧
      ∀ n, bound n → (s.ctx c).leaving = false → (∀ l, s.launch (s.strand n).bind.launch = some l → l.preempted = false) →
        (s.strand n).status ∈ [Status.ready, .sleep, .joinWait, .held] → (s.strand n).hold = .stopped → (s.strand n).chunk.aborts < 8 →
        (t.strand n).hold = .none ∧ (t.strand n).stopReq = false ∧ (t.strand n).regs = (s.strand n).regs ∧
          (t.strand n).status = (s.strand n).status) ∧
    (st = .swappedOut → Completes (.ctxResume x) s fun t => (t.ctx c).state = .resident ∧
      (∀ i l, s.launch i = some l → l.ctx = c → l.away = true → l.ended = false → l.lease ≠ .waiting → i ∈ (t.part l.part).wait l.prio) ∧
      (t.headWaits (t.ctx c).part = true → Event.partitionServiceRound ∈ t.agenda)) ∧
    (st ∉ [CtxState.suspended, .swappedOut] → Completes (.ctxResume x) s fun t => t = s) ∧
    (st = .resident ∨ st = .suspended → Completes (.ctxSwapOut x) s fun t => (t.ctx c).state = .swappedOut ∧ (t.ctx c).leaving = true ∧
      Event.preemptionRequest x ∈ t.agenda ∧ Event.contextSave x ∈ t.agenda ∧
      ∀ i l, s.launch i = some l → t.launch i = some { l with preempted :=
        l.preempted || (decide (l.ctx = c) && !l.cores.isEmpty && !l.away && !l.ended) }) ∧
    (st ∉ [CtxState.resident, .suspended] → Completes (.ctxSwapOut x) s fun t => t = s) ∧
    (st ≠ .free → Completes (.ctxTeardown x) s fun t => (t.ctx c).state = .teardown ∧ (t.ctx c).frames = [] ∧
      (∀ n, bound n → (s.strand n).status ≠ .free → (t.strand n).killed = true ∧ (t.strand n).status = .ending) ∧
      (∀ i l, s.launch i = some l → l.ctx = c → l.ended = false → l.cores ≠ [] → l.away = false →
        (t.launch i).map Launch.killed = some true) ∧ t.csrAt 0x1003 c = 0 ∧ Event.ctxTeardownComplete x ∈ t.agenda) ∧
    (st = .free → Completes (.ctxTeardown x) s fun t => t = s) ∧
    (st = .teardown → (∀ i l, s.launch i = some l → l.ctx = c → l.ended = true ∨ l.lease = .waiting ∨ l.lease = .pending ∨ l.lease = .released) →
      (∀ n ∈ s.strandsOf c, (s.strand n).status = .free) → Completes (.ctxTeardownComplete x) s fun t => t.ctx c = Ctx.reset) ∧
    (st = .teardown → (∃ n ∈ s.strandsOf c, (s.strand n).status ≠ .free) →
      Completes (.ctxTeardownComplete x) s fun t => t = s.due [.ctxTeardownComplete x])

/-! Hosts and devices. -/

/-- R149: a port accepts its oldest posted write; a completion writes the destination of `IOLD`, and an error or none in 50 ms writes all
ones and logs kind 3; a write that fails beyond its port is logged with kind 4. The model's choices that this rests on: log 43. -/
def Parts.IoCompletions : Prop :=
  ∀ (s : State),
    (∀ port w rest, SMap.look [] s.posted port = w :: rest → Completes (.iostAcceptance port) s fun t => t.mem = s.mem ∧ t.csr = s.csr ∧
      SMap.look [] t.posted port = rest ∧ (∀ k, k ≠ port → SMap.look [] t.posted k = SMap.look [] s.posted k) ∧
      t.out = s.out ++ [.ioWrite port w.byte w.bytes w.value false] ∧
      t.strand w.strand = { s.strand w.strand with ioLeft := (s.strand w.strand).ioLeft - 1 }) ∧
    (∀ n p, (s.strand n).pend.find? (fun p => p.kind == .io) = some p → let t0 := s.strand n
      let fails (e : Instr) : Prop := Completes e s fun t => (t.strand n).regs = t0.regs.take p (2 ^ 64 - 1) ∧
        (t.strand n).pend.length + 1 = t0.pend.length ∧ ∃ x, t.pkgLog = s.pkgLog ++ [x] ∧ bitsOf x.1.toNat 0 8 = 3
      (∀ w, Completes (.ioldCompletion n w false) s fun t => (t.strand n).regs = t0.regs.take p (extend p.sx p.bits w.toNat) ∧
        (t.strand n).pend.length + 1 = t0.pend.length ∧ t.mem = s.mem ∧ t.pkgLog = s.pkgLog) ∧
      (∀ w, fails (.ioldCompletion n w true)) ∧
      (s.past t0.since 40000000 = true → fails (.ioldTimeout n)) ∧
      (s.past t0.since 40000000 = false → Completes (.ioldTimeout n) s fun t => t = s.due [.ioldTimeout n])) ∧
    (∀ port c a, Completes (.iostFailedBeyondPort port c a) s fun t => (∃ x, t.pkgLog = s.pkgLog ++ [x] ∧ bitsOf x.1.toNat 0 8 = 4 ∧
      x.2.2.1 = a) ∧ (∀ n, (t.strand n).regs = (s.strand n).regs) ∧ t.out = s.out)

/-- R267, R315, R374 to R376, R392 to R394, R398, R400, R401: what comes through a port: a write enters memory one container at a time, and poisons it where its
data are poisoned, a read is answered with what memory holds, an AtomicOp reads, changes and writes; a function reaches only what its
context's page table gives it. BAR0 shows the registers that the spec places there.
The model's choices that this rests on: logs 68, 69, 98. -/
def Parts.HostAccesses : Prop :=
  ∀ (s : State) (port fn : Nat), s.poison = [] →
    let puts (e : Instr) (bit : Nat) (d : List Byte) (P : State → Prop) : Prop := Completes e s fun t =>
      t.bits bit (8 * d.length) = bytesVal d ∧ s.keeps t bit (8 * d.length) ∧ t.csr = s.csr ∧ t.out = s.out ∧ P t
    let refused (e : Instr) (out : List Out) : Prop := Completes e s fun t => t.out = s.out ++ out ∧
      ∃ x, t.pkgLog = s.pkgLog ++ [x] ∧ bitsOf x.1.toNat 0 8 = 12
    let spoils (bad : Bool) (t : State) (bit : Nat) (d : List Byte) : Prop :=
      (bad = true → ∀ u ∈ unitsOf 64 bit (8 * d.length), SMap.look false t.poison u = true) ∧ (bad = false → t.poison = [])
    let shown : Prop := s.isEndpoint port = true ∧ s.isFenced port = false
    (∀ off d bad, let k := toNext off d.length
      let gap := 2 ^ 30 - off % 2 ^ 30
      let tlp (b : List Byte) : Tlp := { bytes := b, poisoned := bad }
      d ≠ [] → shown → s.ready? = true →
      (∀ bit, s.bar2Bit port off = some bit → puts (.bar2Write port (.bar2 off) (tlp d)) bit (d.take k) fun t =>
        (k < d.length → t.agenda.head? = some (.bar2Write port (.bar2 (off + k)) (tlp (d.drop k)))) ∧ spoils bad t bit (d.take k)) ∧
      (s.bar2Bit port off = none → refused (.bar2Write port (.bar2 off) (tlp d)) [] ∧
        (gap < d.length → Completes (.bar2Write port (.bar2 off) (tlp d)) s fun t =>
          t.agenda.head? = some (.bar2Write port (.bar2 (off + gap)) (tlp (d.drop gap)))))) ∧
    (∀ off d, s.isEndpoint port = false ∨ s.ready? = false ∨ s.isFenced port = true →
      Completes (.bar2Write port (.bar2 off) d) s fun t => t = s) ∧
    (∀ off len, let gap := 2 ^ 30 - off % 2 ^ 30
      let reads := Instr.bar2Read port (.bar2 off) len
      (shown → s.ready? = true →
        (∀ bit, s.bar2Bit port off = some bit → len ≤ gap → Completes reads s fun t => t = s.send (.data port (s.bytesAt bit len) false)) ∧
        (s.bar2Bit port off = none → 0 < len → refused reads [.unsupported port]) ∧
        (gap < len → s.bar2Bit port (off + gap) = none → refused reads [.unsupported port])) ∧
      (s.isEndpoint port = false ∨ s.ready? = false ∨ s.isFenced port = true → Completes reads s fun t => t = s.send (.unsupported port))) ∧
    (shown →
      (∀ off num, (off, num) ∈ [(0x100, 0x1300), (0x200, 0x1320), (0x300, 0x1400)] ++ (upFrom 0 8).map (fun i => (0x400 + 8 * i, 0x1401 + i)) ++
          (upFrom 0 32).map (fun i => (0x800 + 8 * i, 0x1420 + i)) →
        Completes (.bar2Read port (.bar0 off) 8) s fun t => t = s.send (.data port (wordBytes [s.csrAt num 0]) false)) ∧
      (∀ i d, i < 4 → d.length = 8 → s.attstat ≠ 1 → Completes (.bar2Write port (.bar0 (0x800 + 8 * i)) { bytes := d, poisoned := false }) s fun t =>
        t.csrAt (0x1420 + i) 0 = BitVec.ofNat 64 (bytesVal d) ∧ t.mem = s.mem)) ∧
    (∀ a d bad, let k := toNext a d.length
      d ≠ [] → s.isFenced port = false →
      (∀ c b, s.fnCtx port fn = some c → s.inbound c a 2 = some (.here b) → puts (.inboundWrite port fn a d bad) b (d.take k) fun t =>
        (k < d.length → t.agenda.head? = some (.inboundWrite port fn (a + k) (d.drop k) bad)) ∧
        spoils bad t b (d.take k)) ∧
      (s.fnCtx port fn = none ∨ (∃ c, s.fnCtx port fn = some c ∧ s.inbound c a 2 = none) → refused (.inboundWrite port fn a d bad) [])) ∧
    (∀ a len, s.isFenced port = false →
      (∀ c b, s.fnCtx port fn = some c → s.inboundRuns c (len / 2 ^ 16 + 2) a len = some [(.here b, len)] →
        Completes (.inboundRead port fn a len) s fun t => t = s.send (.data port (s.bytesAt b len) false)) ∧
      (s.fnCtx port fn = none → refused (.inboundRead port fn a len) [.unsupported port])) ∧
    (∀ a len d bad, s.isFenced port = true → (Completes (.inboundRead port fn a len) s fun t => t = s.send (.unsupported port)) ∧
      Completes (.inboundWrite port fn a d bad) s fun t => t = s) ∧
    (∀ a wide op v e b, let bits := if wide then 64 else 32
      shown → s.ready? = true → s.bar2Bit port a = some b →
      Completes (.inboundAtomicop port fn a wide op v e) s fun t => t.out = s.out ++ [.data port (s.bytesAt b (bits / 8)) false] ∧
        s.keeps t b bits ∧ t.bits b bits = (match op with
          | .fetchAdd => (s.bits b bits + v.toNat) % 2 ^ bits
          | .swap => v.toNat % 2 ^ bits
          | .cas => if s.bits b bits = e.toNat % 2 ^ bits then v.toNat % 2 ^ bits else s.bits b bits))

/-- R377 to R379: the host lease: DUAL makes it ACTIVE on A, a renewal by the active host restarts its period, the end of the period or the
loss of the active link fences that port and the other takes over, or none, and a renewal ends that state.
The model's choices that this rests on: log 71. -/
def Obligations.HostLease : Prop :=
  ∀ (s : State),
    let active (t : State) (port : Nat) : Prop := t.leaseState = 1 ∧ t.activePort = port
    let starts (t : State) : Prop := t.leaseStart = s.clk ∧ Event.hostLeaseExpiry ∈ t.agenda
    let loses (e : Instr) (x : Nat) : Prop :=
      (s.trained (1 - x) = true → Completes e s fun t => active t (1 - x) ∧ t.fenced.getLsbD x = true ∧
        t.fenced.getLsbD (1 - x) = s.fenced.getLsbD (1 - x) ∧ starts t ∧
        bitsOf t.hlease 32 16 = (bitsOf s.hlease 32 16 + 1) % 2 ^ 16) ∧
      (s.trained (1 - x) = false → Completes e s fun t => t.leaseState = 2 ∧ t.fenced.getLsbD x = true ∧
        bitsOf t.hlease 32 16 = bitsOf s.hlease 32 16)
    (∀ port, port < 2 → (active s port ∨ s.leaseState = 2 ∧ s.trained port = true → Completes (.hleaseRenew port) s fun t =>
        active t port ∧ t.fenced.getLsbD port = false ∧ starts t ∧ bitsOf t.hlease 16 16 = bitsOf s.hlease 16 16) ∧
      (s.leaseState = 0 ∨ s.leaseState = 1 ∧ s.activePort ≠ port → Completes (.hleaseRenew port) s fun t => t = s)) ∧
    (∀ port v, (s.leaseState = 0 ∨ active s port → 10 ≤ v.toNat → v.toNat ≤ 10000 →
        Completes (.hleasePeriodWrite port v) s fun t => bitsOf t.hlease 16 16 = v.toNat ∧ t.leaseState = s.leaseState ∧
          t.activePort = s.activePort) ∧
      (v.toNat < 10 ∨ 10000 < v.toNat ∨ s.leaseState = 2 → Completes (.hleasePeriodWrite port v) s fun t => t = s)) ∧
    (s.leaseState = 1 → s.past s.leaseStart (bitsOf s.hlease 16 16 * 800000) = true → loses .hostLeaseExpiry s.activePort) ∧
    (s.leaseState = 1 → s.past s.leaseStart (bitsOf s.hlease 16 16 * 800000) = false →
      Completes .hostLeaseExpiry s fun t => t = s.dueOnce .hostLeaseExpiry) ∧
    (s.leaseState ≠ 1 → Completes .hostLeaseExpiry s fun t => t = s) ∧
    (s.leaseState = 1 → loses (.portLinkDown s.activePort) s.activePort) ∧
    (∀ port, port ≠ s.activePort ∨ s.leaseState ≠ 1 → Completes (.portLinkDown port) s fun t => t.trained port = false ∧ t.hlease = s.hlease ∧
      t.fenced = s.fenced) ∧
    (s.leaseState = 0 → s.trained 0 = true → s.trained 1 = true → Completes .dualEnable s fun t => active t 0 ∧ starts t) ∧
    (Completes .dualClear s fun t => t.leaseState = 0 ∧ t.fenced = 0 ∧ bitsOf t.hlease 4 1 = 0)

/-- R375, R376, R380, R390: enumeration rewrites the entries of its port and binds each function to its context; a queue pair is
created for a drive within what its entry allows. The model's choices that this rests on: logs 70, 79. -/
def Parts.Enumeration : Prop :=
  ∀ (s : State) (port : Nat), port < 8 →
    (∀ under, let found := under.take 16
      (s.isEndpoint port = true → Completes (.portEnumeration port under) s fun t => t = s.setTrained port true) ∧
      (s.isEndpoint port = false → (s.devices.filter fun e => devPort e != port).length + found.length ≤ 96 →
        Completes (.portEnumeration port under) s fun t => t.trained port = true ∧
          bitsOf (t.csrAt 0x1331 0).toNat 44 8 = (s.devices.filter fun e => devPort e != port).length + found.length ∧
          ∀ i e, found[i]? = some e → t.fnCtx port i = some (bitsOf e.toNat 44 8))) ∧
    (∀ fn depth sq cq e, (s.devices.filter fun e => devPort e == port)[fn]? = some e →
      let made := (s.csrAt 0x10009 (port * 256 + fn)).toNat
      (bitsOf e.toNat 36 4 = 0 → made < min 64 (bitsOf e.toNat 216 8) → 2 ≤ depth → depth ≤ 4096 → depth ≤ bitsOf e.toNat 192 12 + 1 →
        Completes (.ioQueuePairCreation port fn depth sq cq) s fun t => t.mem = s.mem ∧
          t.out = s.out ++ [.adminQueue port fn depth sq cq] ∧ (t.csrAt 0x10009 (port * 256 + fn)).toNat = made + 1) ∧
      (bitsOf e.toNat 36 4 ≠ 0 ∨ min 64 (bitsOf e.toNat 216 8) ≤ made ∨ depth < 2 ∨ 4096 < depth →
        Completes (.ioQueuePairCreation port fn depth sq cq) s fun t => t = s))

/-! The pod and the checkpoint. -/

/-- R28, R266, R316, R318, R329, R387: a remote access is performed at its home and acknowledged, or refused there with its cause; one without a
reply in 10 ms, or whose route is down, takes `REMOTE_LOST` with the registers as before the instruction. The model's choices that this rests
on: logs 19, 20, 76. -/
def Parts.RemoteAccesses : Prop :=
  (∀ (s : State) (pkg : BitVec 10) (who : Issuer) (tag bit : Nat) (w : Cls), let arrives := Instr.remoteAccessArrival pkg who tag bit w
    (∀ d : FarData, d.add = none → let st : Store := { pkg := none, bit := bit, bits := w.bits, val := d.val.toNat, mask := d.mask.toNat % 2 ^ w.bits }
      (s.homeFails who bit w.bits = none → s.poison = [] → Completes (arrives (some d)) s fun t =>
        t.mem = (if st.mask = 0 then s.mem else overlay [st] s.mem) ∧ t.csr = s.csr ∧ Sent s t pkg (.reply pkg tag (.stored bit none 0)) ∧
          (∀ n, (t.strand n).regs = (s.strand n).regs) ∧
          ∀ k, SMap.look false t.poison k = true ↔ ∃ i, i < 17 ∧ d.poison.toNat.testBit i = true ∧ k = bit / 64 + i)) ∧
    let answers (f : Option FarData) (r : Reply) : Prop := Completes (arrives f) s fun t => Sent s t pkg (.reply pkg tag r) ∧
      t = { s with out := t.out, heldOut := t.heldOut, links := t.links }
    (s.homeFails who bit w.bits = none → s.poisonIn bit w.bits = none → answers none (.value (BitVec.ofNat 1024 (s.bits bit w.bits)))) ∧
    (∀ k, s.homeFails who bit w.bits = none → s.poisonIn bit w.bits = some k → answers none (.poisoned k)) ∧
    (∀ c, s.homeFails who bit w.bits = some c → answers none (.failed c) ∧ ∀ d, answers (some d) (.stored bit (some c) 0)) ∧
    (bit < 2 ^ 44 → s.homeFails who bit w.bits = if s.homeOk who.ppid bit then none else some 0x2A)) ∧
  (∀ (s : State) (n : Nat) (p : Pend) (r : Regs) (q : BitVec 10 × Nat), let t0 := s.strand n
    t0.pend = [p] → p.snap = some r → p.far = some q → isLantern n = false → t0.status ≠ .ending →
    (s.hasRoute q.1 = true → s.past t0.since 8000000 = false → Completes (.remoteReplyTimeout n) s fun t =>
      t = s.due [.remoteReplyTimeout n]) ∧
    (s.hasRoute q.1 = false ∨ s.past t0.since 8000000 = true → Completes (.remoteReplyTimeout n) s fun t =>
      let trap := Event.trapDelivery n 0xC2 ((s.textWord r.handle r.off).setWidth 64) 0
      (t.strand n).status = .trapping ∧ (t.strand n).regs = r.set 105 (t0.regs.get 105) ∧ (t.strand n).pend = [] ∧ t.mem = s.mem ∧
        t.agenda.filter (fun e => e.delivers n) = [trap] ∧ (∀ e ∈ t.agenda, e = trap ∨ e ∈ s.agenda) ∧
        (p.kind ≠ .load → t.agenda = (s.agenda.filter fun e => !e.delivers n) ++ [trap])))

/-- R386, R387: a flit that failed is sent again, at most eight times, then its link goes down; a flit is routed on for at most eight hops,
by the primary link or, that being down, the other; traffic whose link goes down is held until every write sent there has been acknowledged or is
declared lost, and then leaves on the other link.
The model's choices that this rests on: log 76. -/
def Parts.PodLinks : Prop :=
  ∀ (s : State),
    (∀ k f, s.links.lookup k = some f →
      (f.retries < 8 → Completes (.flitRetry k) s fun t => t.out = s.out ++ [f.own.getD (.flit k f.dest f.hops f.body)] ∧
        SMap.look f t.links k = { f with retries := f.retries + 1 } ∧ t.mem = s.mem ∧ t.strands = s.strands) ∧
      (8 ≤ f.retries → Completes (.flitRetry k) s fun t => t = s.dueOnce (.podLinkDown k))) ∧
    (∀ k, k < 24 → Completes (.podLinkDown k) s fun t => t.linkUp k = false ∧ (∀ j, j ≠ k → t.linkUp j = s.linkUp j) ∧ t.mem = s.mem ∧
      (∀ p, s.routeTo p = some k → p ∈ t.failover ∧ Event.routeFailover p ∈ t.agenda) ∧ ∀ p ∈ s.failover, p ∈ t.failover) ∧
    (∀ d hops b, (d = s.pkg ∨ 8 ≤ hops → Completes (.flitForward d hops b) s fun t => t = s) ∧
      (d ≠ s.pkg → hops < 8 → d ∈ s.failover → Completes (.flitForward d hops b) s fun t => t = s.due [.flitForward d hops b]) ∧
      (∀ k, d ≠ s.pkg → hops < 8 → d ∉ s.failover → s.routeTo d = some k → Completes (.flitForward d hops b) s fun t =>
        t.out = s.out ++ [.flit k d (hops + 1) b] ∧ t.mem = s.mem ∧ t.csr = s.csr)) ∧
    (∀ d, s.farStores = [] → Completes (.routeFailover d) s fun t => (∀ p, p ∈ t.failover ↔ p ∈ s.failover ∧ p ≠ d) ∧
      t.mem = s.mem ∧ t.strands = s.strands ∧ t.heldOut = (s.heldOut.filter fun o => o.1 != d) ∧
      ((s.routeTo d).isSome = true → t.out = s.out ++ (s.heldOut.filter fun o => o.1 == d).map Prod.snd) ∧
      (s.routeTo d = none → t.out = s.out)) ∧
    (∀ d, s.sentTo d ≠ [] → Completes (.routeFailover d) s fun t => (s.free.getLsbD 0 = true → t = s.due [.routeFailover d]) ∧
      (s.free.getLsbD 0 = false → d ∉ t.failover)) ∧
    (∀ d f, s.farStores = [f] → s.heldOut = [] → f.pkg = d → f.tag < 2 ^ 20 → (s.strand f.tag).pend = [] →
      Completes (.routeFailover d) s fun t => s.free.getLsbD 0 = false → t.farStores = [] ∧
        ∃ x, t.pkgLog = s.pkgLog ++ [x] ∧ bitsOf x.1.toNat 0 8 = 6)

/-- R383 to R385: the checkpoint goes from quiescing over writing and flushing to done, or fails at STATUS 5; a restore before any context has been
RESIDENT puts every byte of the image back and leaves its contexts SWAPPED_OUT. The model's choices that this rests on: logs 72, 79. -/
def Obligations.Checkpoint : Prop :=
  ∀ (s : State), let st := s.ckptStatus
    let leaves (x : Nat) : Prop := (s.ctx x).state = .resident ∨ (s.ctx x).state = .suspended
    (st = 0 ∨ st = 4 ∨ st = 5 → Completes .ckptStart s fun t => t.ckptStatus = 1 ∧ t.ckptStart = s.clk ∧ t.mem = s.mem ∧
      Event.checkpointQuiesced ∈ t.agenda ∧ Event.checkpointQuiesceTimeout ∈ t.agenda ∧
      ∀ x, x < 256 → leaves x → (t.ctx x).leaving = true ∧ Event.contextSave (BitVec.ofNat 8 x) ∈ t.agenda) ∧
    (st = 1 → s.allSaved = true → s.csrAt 0x10012 0 ≠ 0 ∨ s.free.getLsbD 0 = true → Completes .checkpointQuiesced s fun t => t.ckptStatus = 2 ∧
      t.writing = some s.image ∧ t.mem = s.mem ∧ t.agenda = s.agenda ++ [.checkpointWritten] ∧ t.out.length = s.out.length + 786432) ∧
    (st = 1 → s.allSaved = false → Completes .checkpointQuiesced s fun t => t = s.due [.checkpointQuiesced]) ∧
    (st = 1 → s.past s.ckptStart 800000000 = true → Completes .checkpointQuiesceTimeout s fun t => t.mem = s.mem ∧
      (s.free.getLsbD 0 = true → t.ckptStatus = 5 ∧ Event.partitionServiceRound ∈ t.agenda) ∧
      (s.free.getLsbD 0 = false → t = s.csrPut 0x10012 0 1)) ∧
    (st = 1 → s.past s.ckptStart 800000000 = false → Completes .checkpointQuiesceTimeout s fun t => t = s.due [.checkpointQuiesceTimeout]) ∧
    (st = 2 → Completes .checkpointWritten s fun t => t.ckptStatus = 3 ∧ Event.checkpointFlushed ∈ t.agenda ∧
      (∀ k, k < s.ckptTargets → Out.flush k ((s.ckptTarget k).getLsbD 63) ∈ t.out) ∧
      bitsOf (t.csrAt 0x1320 0).toNat 8 32 = (s.clk - s.ckptStart).toNat / 800000 % 2 ^ 32) ∧
    (st = 2 → Completes .checkpointWriteError s fun t => t.ckptStatus = 5 ∧ t.writing = none ∧ t.checkpoint = s.checkpoint) ∧
    (st = 3 → Completes .checkpointFlushed s fun t => t.ckptStatus = 4 ∧ t.checkpoint = s.writing ∧ Event.partitionServiceRound ∈ t.agenda) ∧
    (st = 0 ∨ st = 4 ∨ st = 5 → s.csrAt 0x1000D 0 = 0 → s.csrAt 0x10007 0 = 0 →
      Completes .ckptRestore s fun t => t.csrAt 0x10007 0 = 1 ∧ t.mem = s.mem ∧ ∃ i, Event.restoreComplete i ∈ t.agenda) ∧
    (s.csrAt 0x1000D 0 ≠ 0 → Completes .ckptRestore s fun t => t = s) ∧
    (s.csrAt 0x10007 0 ≠ 0 →
      (∀ m, s.checkpoint = some m → (∀ p ∈ m.descs, p.1 < 256) → Completes (.restoreComplete (some m.hbm)) s fun t => t.csrAt 0x10007 0 = 0 ∧
        t.launches = m.launches.map Launch.back ∧
        (s.mem.wf = true → Memory.wf m.hbm = true → ∀ a, t.mem.byte a = if a < 2 ^ 41 then Memory.byte m.hbm a else s.mem.byte a) ∧
        ∀ x, (t.ctx x).state = .free ∨ (t.ctx x).state = .swappedOut) ∧
      (∀ m b, s.checkpoint = some m → m.intact b = false → Completes (.restoreComplete (some b)) s fun t => t.csrAt 0x10007 0 = 0 ∧
        t.ckptStatus = 5 ∧ t.ctxs = s.ctxs) ∧
      (Completes (.restoreComplete none) s fun t => t.csrAt 0x10007 0 = 0 ∧ t.ckptStatus = 5 ∧ t.ctxs = s.ctxs))

/-! Bring-up, identity, health. -/

/-- R394, R396 to R398, R402, R267: power-on runs the boot ROM's steps one after another, with the number of the step under way in BOOTSTAT; the
first that fails halts it, and the last makes the package ready; a loss of supply and 110 °C halt the package; ROLLBACK is only ever
raised, up to the version of the firmware in force, and the fuses outlast a power cycle.
The model's choices that this rests on: log 73. -/
def Parts.BringUp : Prop :=
  ∀ (s : State), let step := (s.csrAt 0x1400 0).toNat
    let q := s.power
    (∀ p, let goes (next : Word) : Prop := Completes (.powerOn p) s fun t => t = (s.csrPut 0x1400 0 next).due [.powerOn q]
      let stops (code : Word) : Prop := Completes (.powerOn p) s fun t => t.halted = true ∧ t.csrAt 0x1400 0 = code ∧ t.mem = s.mem ∧
        t.agenda = s.agenda
      (step = 0 ∨ 6 < step → Completes (.powerOn p) s fun t => t.csrAt 0x1400 0 = 1 ∧ t.halted = false ∧ t.mem = [] ∧ t.strands = [] ∧
        t.power = p ∧ t.fuses = (if q = noPower then p.fuses else s.fuses) ∧ t.agenda = [.powerOn p] ∧ t.checkpoint = s.checkpoint ∧
        t.csrAt 0x1001 0 = 10 ∧ t.csrAt 0x1823 0 = 10) ∧
      (step = 1 → (q.fusesOk = true → goes 2) ∧ (q.fusesOk = false → stops 0x11)) ∧
      (step = 2 → ((bootImage q s.fuses).isSome = true → goes 3) ∧ (bootImage q s.fuses = none → stops 0x12)) ∧
      (step = 3 → goes 4) ∧
      (step = 4 → Completes (.powerOn p) s fun t => t.csrAt 0x1400 0 = 5 ∧ t.agenda = s.agenda ++ [.powerOn q] ∧ t.mem = s.mem ∧
        ∀ i, i < 24 → t.linkUp i = q.links.getLsbD i) ∧
      (step = 5 → (q.hbms = 0 ∨ q.tiles = 0 → stops 0x13) ∧
        (q.hbms ≠ 0 → q.tiles ≠ 0 → Completes (.powerOn p) s fun t => t.csrAt 0x1400 0 = 6 ∧ t.agenda = s.agenda ++ [.powerOn q] ∧
          ∀ i, i < 96 → (t.tile i).outOfService = ((s.tile i).outOfService || !q.tiles.getLsbD i))) ∧
      (∀ f, step = 6 → bootImage q s.fuses = some f → Completes (.powerOn p) s fun t =>
        t.csrAt 0x1400 0 = 0xF ∧ t.halted = s.halted ∧ t.mem = s.mem ∧ t.fuses = s.fuses ∧
        t.csrAt 0x1200 0 = BitVec.ofNat 64 (chipId s.fuses) ∧ Event.patrolScrub 0 ∈ t.agenda ∧
        ∀ i, i < 8 → some (t.csrAt (0x1401 + i) 0) = (capBlock q s.fuses f)[i]?)) ∧
    (Completes .powerFailure s fun t => t.halted = true ∧ t.mem = [] ∧ t.strands = [] ∧ t.fuses = s.fuses ∧ t.checkpoint = s.checkpoint) ∧
    (Completes .thermalHalt s fun t => t.halted = true ∧ t.csrAt 0x1400 0 = 0x1E ∧ t.links = [] ∧ t.mem = s.mem ∧
      ∀ k, t.linkUp k = false) ∧
    (∀ c, (s.booted = true → Completes (.rollbackFuseBlow c) s fun t =>
        rollbackOf t.fuses = min 64 (max (rollbackOf s.fuses) (min c ((s.csrAt 0x1401 0).toNat / 2 ^ 32))) ∧
        rollbackOf s.fuses ≤ rollbackOf t.fuses ∧ ∀ b, b < 160 ∨ 224 ≤ b → t.fuses.getLsbD b = s.fuses.getLsbD b) ∧
      (s.booted = false → Completes (.rollbackFuseBlow c) s fun t => t = s))

/-- R400, R401: a nonce write clears the report; ATTREQ starts a report, which stands with the nonce in its first four containers when
ATTSTAT reads 2, and is signed by the identity key over SM3 of its containers 8 to 24; a nonce of two requesters is not reported on. The model's
choices that this rests on: logs 74, 98. -/
def Parts.Attestation : Prop :=
  ∀ (s : State),
    (∀ (i : BitVec 3) v, (s.attstat ≠ 1 → Completes (.attestationNonceWrite i v) s fun t => t.csrAt (0x1420 + i.toNat % 4) 0 = v ∧
        t.attstat = 0 ∧ (∀ k, 0x1427 ≤ k → k ≤ 0x143F → t.csrAt k 0 = 0) ∧
        ∀ k, k < 4 → k ≠ i.toNat % 4 → t.csrAt (0x1420 + k) 0 = s.csrAt (0x1420 + k) 0) ∧
      (s.attstat = 1 → Completes (.attestationNonceWrite i v) s fun t => t = s)) ∧
    (∀ v, (v = 1 → s.attstat ≠ 1 → s.booted = true → s.nonceMixed = false → Completes (.attreq v) s fun t => t.attstat = 1 ∧
        t.agenda = s.agenda ++ [.attestationReportReady] ∧ t.mem = s.mem) ∧
      (v ≠ 1 ∨ s.attstat = 1 ∨ s.booted = false ∨ s.nonceMixed = true → Completes (.attreq v) s fun t => t = s)) ∧
    (s.attstat = 1 → Completes .attestationReportReady s fun t => t.attstat = 2 ∧ t.mem = s.mem ∧
      (∀ k, k < 4 → t.csrAt (0x1428 + k) 0 = s.csrAt (0x1420 + k) 0) ∧ t.csrAt 0x142C 0 = s.csrAt 0x1401 0 ∧
      let r := (upFrom 0 17).map fun k => t.csrAt (0x1428 + k) 0
      ∃ k, t.out = s.out ++ [.signature (sm2Sign (idPrivate s.fuses) k (digestBytes (sm3 (wordBytes r)))).1
        (sm2Sign (idPrivate s.fuses) k (digestBytes (sm3 (wordBytes r)))).2])

/-- R315 to R317, R321 to R323: a corrected error is counted and is lasting when the eighth most recent lies within the window; an
uncorrectable one poisons its containers; one in a strand's own state runs its chunk again or ends its task, a trap under way or not (R311); the scrubber goes through HBM;
the wear estimates exist after 72 hours, and one below the alert level is logged once. The model's choices that this rests on: logs 43, 75, 79, and
for the frame record with which a chunk runs again log 21. -/
def Parts.HardwareErrors : Prop :=
  ∀ (s : State), (∀ p, p < 16 → (s.csrAt 0x1811 p).toNat % 32 = 0) →
    (∀ u a, unitClass u ≤ 8 → let times := (s.clk :: (s.unit u).times).take 8
      let near := ∃ t, times[7]? = some t ∧ (s.clk - t).toNat < s.hwin
      Completes (.correctedError u a) s fun t => (t.unit u).total = min (2 ^ 32 - 1) ((s.unit u).total + 1) ∧ (t.unit u).times = times ∧
        t.mem = s.mem ∧ (near → (t.unit u).lasting = true ∧ (t.unit u).logged = true) ∧
        (¬near → (t.unit u).lasting = (s.unit u).lasting ∧ t.pkgLog = s.pkgLog) ∧
        (near → (s.unit u).lasting = false → ∃ x es, t.pkgLog = s.pkgLog ++ x :: es ∧ bitsOf x.1.toNat 0 8 = 7) ∧
        (near → unitClass u = 2 → (t.core (unitIndex u)).outOfService = true)) ∧
    (∀ u bit (src : ErrSource) kind, (src = .access ∧ kind = 1 ∨ src = .scrubber ∧ kind = 9) →
      Completes (.uncorrectableError u bit src) s fun t => (t.unit u).uncorr = true ∧ t.mem = s.mem ∧
        (∀ n, (t.strand n).frameErr = (s.strand n).frameErr) ∧
        (∃ x, t.pkgLog = s.pkgLog ++ [x] ∧ bitsOf x.1.toNat 0 8 = kind) ∧
        (inHbm bit = true → ∀ k, SMap.look false t.poison k = (SMap.look false s.poison k || decide (bit / 256 = k / 4))) ∧
        (inHbm bit = false → ∀ k, SMap.look false t.poison k = (SMap.look false s.poison k || decide (bit / 64 = k)))) ∧
    (∀ u bit m, Completes (.uncorrectableError u bit (.frame m)) s fun t => (t.unit u).uncorr = true ∧ t.mem = s.mem ∧
      (t.strand m).frameErr = true) ∧
    (∀ n, n < 12288 → let t0 := s.strand n
      let kept := s.agenda.filter fun e => !e.delivers n
      (t0.status = .ready ∨ t0.status = .trapping → Completes (.strandStateError n true) s fun t => t.mem = s.mem ∧
        (t.strand n).status = .ready ∧ (t.strand n).regs = t0.chunk.ckpt.set 105 (t0.regs.get 105) ∧
        (t.strand n).chunk.stores = t0.chunk.kept ∧ (t0.status = .trapping → ∀ e ∈ t.agenda, e.delivers n = false) ∧
        (t.unit (3 * 2 ^ 16 + coreOf n)).times.head? = some s.clk) ∧
      (t0.status ≠ .free → t0.status ≠ .ending → isLantern n = false → Completes (.strandStateError n false) s fun t => t.mem = s.mem ∧
        (t.strand n).status = .trapping ∧ (t.unit (3 * 2 ^ 16 + coreOf n)).uncorr = true ∧
        (∃ x, t.pkgLog = s.pkgLog ++ [x] ∧ bitsOf x.1.toNat 0 8 = 1 ∧ bitsOf x.1.toNat 8 4 = 2) ∧
        t.agenda = kept ++ [.trapDelivery n 0xC1 ((s.textWord t0.regs.handle t0.regs.off).setWidth 64) 0])) ∧
    (∀ bit, bit % 256 = 0 → bit + 256 < 1536 * 2 ^ 33 → Completes (.patrolScrub bit) s fun t => t.mem = s.mem ∧
      t.agenda = s.agenda ++ [.patrolScrub (bit + 256)] ∧ (s.poisonIn bit 256 = none → t.pkgLog = s.pkgLog) ∧
      ((s.poisonIn bit 256).isSome = true → ∃ x, t.pkgLog = s.pkgLog ++ [x] ∧ bitsOf x.1.toNat 0 8 = 9)) ∧
    (∀ u, unitClass u = 6 ∨ unitClass u = 10 ∨ unitClass u = 11 →
      (s.past (s.csrAt 0x10006 u) (3600 * 800000000) = true → Completes (.wearUpdate u) s fun t => t.mem = s.mem ∧
        Event.wearUpdate u ∈ t.agenda ∧
        (s.clk.toNat < 72 * 3600 * 800000000 → (t.unit u).wear = 0) ∧
        (72 * 3600 * 800000000 ≤ s.clk.toNat → (t.unit u).wear.getLsbD 63 = true ∧
          (bitsOf (t.unit u).wear.toNat 21 19 < (s.csrAt 0x1000A 0).toNat → (s.unit u).alerted = false →
            ∃ x, t.pkgLog = s.pkgLog ++ [x] ∧ bitsOf x.1.toNat 0 8 = 11)) ∧
        ((s.unit u).alerted = true → t.pkgLog = s.pkgLog)) ∧
      (s.past (s.csrAt 0x10006 u) (3600 * 800000000) = false → Completes (.wearUpdate u) s fun t => t = s.due [.wearUpdate u]))

/-- R221, R324: a limit withholds tailwind and brings the clocks of running cores down, one bin at a time and at most eight, until it is
cleared; each barometer counter falls by 1 every 4,096 cycles. The model's choices that this rests on: logs 75, 79. -/
def Parts.LimitsAndDecay : Prop :=
  ∀ (s : State) (tile : Nat),
    (Completes (.thermalLimit tile) s fun t => t.mem = s.mem ∧ t.strands = s.strands ∧ t.cores = s.cores ∧ (t.tile tile).limiting = true ∧
      (∀ c ∈ limitCores tile, s.quiet c = false → Event.throttleBinStep c ∈ t.agenda) ∧
      ∀ k, k < 96 → Event.tailwindBinChange k ∈ t.agenda) ∧
    (Completes (.thermalLimitCleared tile) s fun t => t.mem = s.mem ∧ t.strands = s.strands ∧ (t.tile tile).limiting = false ∧
      (∀ c ∈ limitCores tile, t.limited c = false → (t.core c).throttle = 0) ∧ ∀ c, c ∉ limitCores tile → t.core c = s.core c) ∧
    (∀ c, (s.limited c = true → (s.core c).throttle < 8 → Completes (.throttleBinStep c) s fun t =>
        t.core c = { s.core c with throttle := (s.core c).throttle + 1 } ∧ (∀ k, k ≠ c → t.core k = s.core k) ∧
          Event.throttleBinStep c ∈ t.agenda) ∧
      (s.limited c = false ∨ 8 ≤ (s.core c).throttle → Completes (.throttleBinStep c) s fun t => t = s)) ∧
    (SMap.wf 0 (s.tile tile).baro = true → s.past (s.csrAt 0x10005 tile) 4096 = true → Completes (.barometerDecay tile) s fun t =>
      t.mem = s.mem ∧ t.strands = s.strands ∧ (∀ i, SMap.look 0 (t.tile tile).baro i = SMap.look 0 (s.tile tile).baro i - 1) ∧
        t.csrAt 0x10005 tile = s.clk ∧ Event.barometerDecay tile ∈ t.agenda) ∧
    (s.past (s.csrAt 0x10005 tile) 4096 = false → Completes (.barometerDecay tile) s fun t => t = s.due [.barometerDecay tile])

/-! The whole machine. -/

/-- R51 to R57: words of the spec's own worked encodings decode to the instructions that they stand for. -/
def Obligations.WordsDecode : Prop :=
  decode [0x43058A0C] = .ok (.divu (.g 10) (.g 11) (.g 12)) ∧
  decode [0xFFC28514] = .ok (.addi (.g 5) (.g 5) 0x3FF) ∧
  decode [0x21C18224] = .ok (.shrai (.g 2) (.g 3) 7) ∧
  decode [0x0144072C] = .ok (.popc (.g 7) (.g 8)) ∧
  decode [0x00C10144] = .ok (.fma (.g 1) (.g 2) (.g 3)) ∧
  decode [0x12848435, 0x18C, 0] = .ok (.extb (.g 4) (.g 9) (.sel .nil) 12 6) ∧
  decode [0x00C10239, 2, 0] = .ok (.padd (.g 2) (.g 2) (.sel (.g 3)) .w3) ∧
  decode [0x10028449, 0x152, 0] = .ok (.fcvt (.g 4) (.sel (.g 5)) .s32 .f32 1)

/-- Of every instruction that has words, well formed, with every operand at every value that its encoding admits: decoding its
encoding gives it back. -/
def Obligations.EncodeDecode : Prop :=
  ∀ i : Instr, encode i ≠ [] → WellFormed i = true → decode (encode i) = .ok i

/-- No instruction and no step of another agent is refused or stops the machine: each answers a next state. A step faults only in a
halted package in which nothing that goes on there is due (R402), and no run is refused. The model's choices that this rests on: logs 8, 73. -/
def Obligations.AlwaysNext : Prop :=
  (∀ (i : Instr) (s : State), ∃ t, exec i s = .next t) ∧
  (∀ s : State, ((∃ t, step s = .next t) ∨ step s = .fault .halted) ∧ (step s = .fault .halted ↔ s.halted = true ∧ s.turns = [])) ∧
  ∀ n, neverRefuses n

/-- Memory keeps its canonical form: the addresses of its list rise strictly and no entry is what an unlisted byte reads as.
The model's choices that this rests on: log 1. -/
def Obligations.MemoryCanonical : Prop :=
  ∀ s t : State, s.mem.wf = true → step s = .next t → t.mem.wf = true

/-- R17, R94, R310: a step in which a strand whose turn it is stands at a decoded instruction that passes every check before it acts is
that instruction's own step, with the strand as the acting one, and then time goes on; an instruction that needs a unit of its core for
more than a cycle occupies it. The step of another agent that is due is likewise its own, taken off the agenda. A grant (R263) holds back
what writes a line that the granted chunk has read. The model's choices that this rests on: logs 3, 4, 5, 7, 13. -/
def Obligations.StepRuns : Prop :=
  (∀ (s : State) (n : Nat) (ws : List CodeWord) (i : Instr), let a := s.act n
    s.pick s.turns = some (.strand n) → a.fetch = .ok (some ws) → a.textPoison ws.length = false → decode ws = .ok i →
    (majorOf (ws.headD 0) = 0x3F → isLantern n = true) → a.inBudget i = true → modeFails i = false → a.checkNaming i = .ok () →
    a.checkShadow i = .ok () → a.checkCounts i ws.length = .ok () → a.checkPending i = .ok () → a.checkUnit i = .ok () →
    a.me.chunk.count < 255 →
    step s = ticked (s.granted? (.strand n) (occupies n i (a.actsOn i))) ∧
      (a.mailboxPoison i = none → s.granted = none → ∀ t, exec i a = .next t →
        (unitOf i = none → step s = .next { t with clk := t.clk + BitVec.ofNat 64 (Config.freeTicks t.steps), steps := t.steps + 1 }) ∧
        (∀ u k, unitOf i = some (u, k) → 1 < k → isLantern n = false → (t.strand n).status = .ready →
          step s = .next (t.occupy (coreOf n) u k).tick))) ∧
  (∀ (s : State) (k : Nat) (e : Event), s.pick s.turns = some (.event k) → s.agenda[k]? = some e →
    step s = ticked (s.granted? (.event k) (exec (eventInstr e) { s with agenda := s.agenda.eraseIdx k }))) ∧
  (∀ s : State, s.turns = [] → s.halted = false → step s = .next s.tick)

/-- R17, R267, R268, R402: a strand that issues is ready and nothing holds it, and on a taper core it is the first such in slot order after
the one that issued last, the service strand being the fifth of them; what comes through a port never overtakes a write that came
before it; a halted package does nothing but power-on, and after a thermal halt what its management complex does. The model's choices that this rests on: logs 3, 68, 73. -/
def Obligations.Scheduling : Prop :=
  ∀ (s : State),
    let slot (c j : Nat) : Nat := ((s.core c).last + j) % 5
    let idle (c k : Nat) : Prop := (k < 4 → s.canIssue (4 * c + k) = false) ∧ (k = 4 → ∀ e ∈ s.agenda, e.service ≠ some c)
    let first (c k : Nat) : Prop := ∃ j, 1 ≤ j ∧ j ≤ 5 ∧ slot c j = k ∧ ∀ i, 1 ≤ i → i < j → idle c (slot c i)
    (∀ n, s.pick s.turns = some (.strand n) → s.halted = false ∧ s.canIssue n = true ∧ (n / 4 % 32 ≠ 31 → first (n / 4) (n % 4))) ∧
    (∀ k, s.pick s.turns = some (.event k) → ∃ e, s.agenda[k]? = some e ∧
      (∀ f ∈ s.agenda.take k, e.comesBy.isSome = true → f.writes ≠ e.comesBy) ∧
      (∀ c, e.service = some c → c % 32 ≠ 31 ∧ first c 4 ∧ ∀ f ∈ s.agenda.take k, f.service ≠ some c) ∧
      (s.halted = true → s.goesOnHalted e = true ∧ (s.csrAt 0x1400 0 ≠ 0x1E → (∃ p, e = .powerOn p) ∨ e = .powerFailure)))

/-- R60, R61, R65, R66, R94, R116, R120, R125, R261, R310: the checks before an instruction acts, in their order: its words lie in the
text, its major is not privileged on a taper core, its encoding is legal and within the budgets, it names nothing that a lookahead shadow
guards, no loop ends inside it, its region is not overrun, and it waits for what is pending and for an occupied unit of its core.
The model's choices that this rests on: logs 7, 16, 37. -/
def Obligations.IssueChecks : Prop :=
  ∀ (s : State) (n : Nat), let a := s.act n
    let r := a.me.regs
    let h := a.me.shadow
    let traps (cause : Nat) (addr extra : Word) : Prop := ∃ t, step s = .next t.tick ∧ Trapped a t cause addr extra 0
    let waits (w : Hold) (es : List Event) : Prop := ∃ t, step s = .next t.tick ∧ Held a t w es
    let here : Word := a.ir.setWidth 64
    s.pick s.turns = some (.strand n) → s.granted = none →
    (a.textLen r.handle ≤ r.off → traps 0x43 (pcWord r.handle r.off) 0) ∧
    (∀ o, a.obj r.handle = some o → r.off < o.textLen → (r.off < o.hotLen ∨ o.coldHere = true) → majorOf a.ir = 0 → a.textPoison 1 = false →
      traps 0x01 here 1) ∧
    (∀ ws, a.fetch = .ok (some ws) → a.textPoison ws.length = false →
      (majorOf (ws.headD 0) = 0x3F → isLantern n = false → traps 0xA0 here 0) ∧
      ((majorOf (ws.headD 0) = 0x3F → isLantern n = true) →
        (∀ k, decode ws = .error (.reason k) → traps 0x01 here (BitVec.ofNat 64 k)) ∧
        (∀ i, decode ws = .ok i →
          (a.inBudget i = false → traps 0x01 here 7) ∧
          (a.inBudget i = true → modeFails i = true → traps 0x01 here 8) ∧
          (a.inBudget i = true → modeFails i = false →
            (∀ k, (naming i).find? (fun k => a.me.pending k && !(h.left != 0 && (h.reg == k || h.also == some k))) = some k →
              waits (.pending k) []) ∧
            (a.checkNaming i = .ok () →
              (h.left ≠ 0 → endsShadow i = false → h.reg ∈ touches i →
                traps 0x02 (pcWord h.handle h.off) (BitVec.ofNat 64 (h.reg + 2 ^ 8 * (h.size - h.left + 1)))) ∧
              (h.left = 0 →
                (∀ l rest, r.loops = l :: rest → r.off < l.stop → l.stop < r.off + ws.length → traps 0x04 (BitVec.ofNat 64 l.stop) 1) ∧
                (r.loops = [] → isLantern n = false → i ≠ .region → 1024 ≤ r.count → traps 0x03 here 0) ∧
                (r.loops = [] → r.count < 1024 →
                  (∀ k, (touches i ++ a.hidden i).find? (fun k => a.me.pending k && unwaited i != some k) = some k → waits (.pending k) []) ∧
                  (a.checkPending i = .ok () →
                    (∀ u k, unitOf i = some (u, k) → isLantern n = false → a.unitFree (coreOf n) u = false → waits (.unit u) []) ∧
                    (a.checkUnit i = .ok () → 255 ≤ a.me.chunk.count → waits .commit [.chunkInstructionLimit n])))))))))

/-- R297, R299, R295, R321, R323, R338, R354, R377: the package after reset: no strand has a task, no context is present, nothing is listed
in memory, and the registers with a reset value of their own hold it (0x1000A is the model's place for the alert level of R323, log 79).
The model's choices that this rests on: logs 1, 2. -/
def Obligations.ResetState : Prop :=
  let s := State.reset
  (∀ n, (s.strand n).status = .free ∧ (s.strand n).bind.valid = false) ∧ (∀ c, (s.ctx c).state = .free) ∧
  (∀ b len, s.bits b len = 0) ∧ s.canonical = true ∧ s.halted = false ∧ s.agenda = [] ∧ s.launches = [] ∧ s.objs = [] ∧
  s.csrAt 0x1001 0 = 10 ∧ s.csrAt 0x1823 0 = 10 ∧ (∀ p, s.csrAt 0x1111 p = 0x0101) ∧
  bitsOf (s.csrAt 0x1300 0).toNat 16 16 = 1000 ∧ s.csrAt 0x1000A 0 = 2000 ∧
  (∀ c k, k ∉ [0x1001, 0x1823, 0x1111, 0x1300, 0x1000A] → s.csrAt k c = 0)

/-! The statements made of several parts: each says all that its parts say. -/

/-- R98 to R102: scalar functions of one value and of an immediate. -/
def Obligations.ScalarUnaryAndImmediate : Prop := Parts.ScalarImmediates ∧ Parts.ScalarUnary

/-- R40 to R42, R104: pointer results, and where pointer instructions trap. -/
def Obligations.PointerInstructions : Prop := Parts.PointerResults ∧ Parts.PointerFaults

/-- R105 to R112: results and flags of floating-point instructions and comparisons. -/
def Obligations.FloatingPoint : Prop := Parts.FloatResults

/-- R79, R80: traps on enabled conditions, and the status register. -/
def Obligations.FloatStatus : Prop := Parts.FloatTraps ∧ Parts.StatusRegister

/-- R115, R121, R122: walk registers and `BWEND`. -/
def Obligations.WalkInstructions : Prop := Parts.WalkBranches ∧ Parts.WalkRegisters

/-- R117 to R120: loops, their start, their passes and branches out of them. -/
def Obligations.Loops : Prop := Parts.LoopRules ∧ Parts.LoopShapes ∧ Parts.LoopStarts

/-- R122, R125, R126, R138: `NOP`, `WGET`, `TRAP`, `BRK`, `REGION`, `YIELD` and region entries. -/
def Obligations.RegionsAndYields : Prop := Parts.SmallForms ∧ Parts.Yields ∧ Parts.RegionEntry

/-- R129 to R131, R135: calls that resolve in the package, and calls that do not. -/
def Obligations.CallsByDigest : Prop := Parts.Calls ∧ Parts.CallMisses

/-- R132, R138, R244, R246: returns, and the ends of tasks. -/
def Obligations.ReturnsAndEnds : Prop := Parts.Returns ∧ Parts.TaskEnds

/-- R242, R247, R248, R250: spawns, joins and ranges. -/
def Obligations.LazySpawn : Prop := Parts.Spawns ∧ Parts.Syncs ∧ Parts.Ranges

/-- R252, R253, R255: ring operations, and messages sent. -/
def Obligations.RingsAndMessages : Prop := Parts.RingOperations ∧ Parts.Messages

/-- R42, R43, R58, R121: effective addresses, and their checks in order. -/
def Obligations.Addresses : Prop := Parts.EffectiveAddresses ∧ Parts.AddressChecks

/-- R60, R141, R142, R145: loads, and the replies that write their destinations. -/
def Obligations.ScalarAndVectorLoads : Prop := Parts.Loads ∧ Parts.LoadReplies

/-- R141, R143, R145, R146: stores of registers and of vectors. -/
def Obligations.ScalarAndVectorStores : Prop := Parts.Stores ∧ Parts.VectorStores

/-- R149: I/O accesses of strands, and what ports answer. -/
def Obligations.IoAccesses : Prop := Parts.IoWindows ∧ Parts.IoCompletions

/-- R150, R154: fences and token waits. -/
def Obligations.FencesAndTokens : Prop := Parts.Fences ∧ Parts.Tokens

/-- R173 to R175: bitwise functions, shifts and moves of lanes. -/
def Obligations.VectorBitsAndMoves : Prop := Parts.VectorBits ∧ Parts.VectorMoves

/-- R174, R188: comparisons of lanes and mask instructions. -/
def Obligations.VectorMasks : Prop := Parts.VectorCompares ∧ Parts.MaskInstructions

/-- R176 to R179: conversions and reductions of lanes. -/
def Obligations.VectorConversionsAndReductions : Prop := Parts.VectorConversions ∧ Parts.VectorReductions

/-- R184 to R187: interpolation tables and their use. -/
def Obligations.Tables : Prop := Parts.Interpolation ∧ Parts.TableLoads

/-- R152, R155 to R162: copy commands and the engine that performs them. -/
def Obligations.CopyEngineCommands : Prop := Parts.CopyCommands ∧ Parts.CopyEngine

/-- R192, R195 to R212, R215: matrix commands and their checks. -/
def Obligations.MatrixInstructions : Prop := Parts.MatrixCommands ∧ Parts.MatrixChecks

/-- R193, R210, R211: operand slots, capabilities and window commands. -/
def Obligations.SlotsAndWindows : Prop := Parts.OperandSlots ∧ Parts.WindowCommands

/-- R86, R87, R152, R197, R198, R200, R203, R206, R212: the matrix unit, remote commands, and integer streams. -/
def Obligations.MatrixEngine : Prop := Parts.MatrixUnit ∧ Parts.RemoteCommands ∧ Parts.IntegerStreams

/-- R217 to R220: atomic functions, instructions and replies. -/
def Obligations.AtomicInstructions : Prop := Parts.AtomicFunctions ∧ Parts.Atomics ∧ Parts.AtomicReplies

/-- R229 to R234: claim functions and the claim table. -/
def Obligations.Claims : Prop := Parts.ClaimFunctions ∧ Parts.ClaimTransitions

/-- R303 to R307, R321, R336, R338: control registers, and the privileged instructions of translation. -/
def Obligations.ControlRegisterInstructions : Prop := Parts.ControlRegisters ∧ Parts.RegisterBehaviours ∧ Parts.TranslationControl

/-- R330 to R334, R353: walks by lantern threads, and how partitions share the threads. -/
def Obligations.TranslationWalks : Prop := Parts.Walks ∧ Parts.LanternFrames

/-- R298, R305, R309, R314: traps delivered, and the return from one. -/
def Obligations.TrapsAndReturns : Prop := Parts.TrapDelivery ∧ Parts.ExceptionReturns

/-- R151, R239, R240, R243, R251, R297: the search for work, steals and splits, and the ends of tasks. -/
def Obligations.WorkSearch : Prop := Parts.StealsAndSplits ∧ Parts.TaskTurns

/-- R228, R254 to R257, R356: message frames, stages and tailwind. -/
def Obligations.MessagesAndStages : Prop := Parts.MessageFrames ∧ Parts.StageGovernor ∧ Parts.Tailwind

/-- R275 to R279, R135, R137, R364 to R369, R388, R391: the meaning of portable code, code requests, installed code, code faults and
trust. -/
def Obligations.CodeResidency : Prop := Parts.ScalarLevel ∧ Parts.CodeAnswers ∧ Parts.CodeInstalls ∧ Parts.CodeFaults

/-- R341, R342, R345, R350, R351: queue scans and partition rounds. -/
def Obligations.QueuesAndRounds : Prop := Parts.QueueScans ∧ Parts.PartitionRounds

/-- R335, R337, R346 to R349, R352: leases, binding, the end of a launch and pre-emption. -/
def Obligations.Launches : Prop := Parts.LaunchBinding ∧ Parts.LaunchEnds ∧ Parts.LaunchPreemptions

/-- R270, R300, R301, R352: strands stopped, saved and restored. -/
def Obligations.ContextSwitches : Prop := Parts.StopRequests ∧ Parts.SavesAndRestores

/-- R267, R374 to R376, R380, R390, R392, R393: accesses through ports, enumeration and queue pairs. -/
def Obligations.HostsAndDevices : Prop := Parts.HostAccesses ∧ Parts.Enumeration

/-- R266, R318, R329, R386, R387: remote accesses, flits and routes. -/
def Obligations.PodTraffic : Prop := Parts.RemoteAccesses ∧ Parts.PodLinks

/-- R267, R394, R397, R400 to R402: bring-up, attestation and loss of supply. -/
def Obligations.BringUpAndIdentity : Prop := Parts.BringUp ∧ Parts.Attestation

/-- R221, R315 to R317, R321 to R324: hardware errors, limits and decay. -/
def Obligations.ErrorsAndHealth : Prop := Parts.HardwareErrors ∧ Parts.LimitsAndDecay
end

