-- ==== Sys2Proof/Laws/Fields.lean ====
section
/-! SUPPORT. Bit fields of concatenations, and the decoder's field readers on the encoder's field codes. -/

namespace Sys2Proof.Laws
open BitVec

/-- The extension and literal words put together again. -/
theorem join_two (v : Word) : join (v.extractLsb' 0 32) (v.extractLsb' 32 32) = v := by
  unfold join
  rw [extractLsb'_append_extractLsb'_eq_extractLsb' (by rfl)]
  exact extractLsb'_eq_self

/-- A field that lies across two parts is zero when its pieces are. -/
theorem field_across {v w : Nat} (x : BitVec v) (y : BitVec w) (s n : Nat) (h1 : s < w) (h2 : w < s + n) :
    ((x ++ y).extractLsb' s n = 0#n) = (y.extractLsb' s (w - s) = 0#(w - s) ∧ x.extractLsb' 0 (s + n - w) = 0#(s + n - w)) := by
  apply propext
  constructor
  · intro h
    have g : ∀ i, ((x ++ y).extractLsb' s n).getLsbD i = false := by simp [h]
    simp only [getLsbD_extractLsb', getLsbD_append] at g
    constructor
    · ext i hi
      have := g i
      simp only [show i < n by omega, show s + i < w by omega, decide_true, Bool.true_and, if_true] at this
      simpa [getElem_extractLsb'] using this
    · ext i hi
      have := g (i + (w - s))
      simp only [show i + (w - s) < n by omega, show ¬ (s + (i + (w - s)) < w) by omega, decide_true, Bool.true_and, if_false] at this
      simpa [getElem_extractLsb', show s + (i + (w - s)) - w = i by omega] using this
  · rintro ⟨a, b⟩
    have ga : ∀ i, (y.extractLsb' s (w - s)).getLsbD i = false := by simp [a]
    have gb : ∀ i, (x.extractLsb' 0 (s + n - w)).getLsbD i = false := by simp [b]
    simp only [getLsbD_extractLsb', Nat.zero_add] at ga gb
    ext i hi
    simp only [getElem_extractLsb', getLsbD_append, getElem_zero]
    split
    · have := ga i
      simpa [show i < w - s by omega] using this
    · have := gb (s + i - w)
      simpa [show s + i - w < s + n - w by omega] using this

/-- A field that lies across two parts is zero when its pieces are. -/
theorem field_across_eq {v w : Nat} (x : BitVec v) (y : BitVec w) (s n : Nat) (h1 : s < w) (h2 : w < s + n) :
    ((x ++ y).extractLsb' s n == 0#n) = (y.extractLsb' s (w - s) == 0#(w - s) && x.extractLsb' 0 (s + n - w) == 0#(s + n - w)) := by
  have := field_across x y s n h1 h2
  rw [Bool.eq_iff_iff]
  simp [this]

/-- Two parts under a mask are zero when each part is under its share. -/
theorem mask_append {v w : Nat} (x : BitVec v) (y : BitVec w) (c : BitVec (v + w)) :
    ((x ++ y) &&& c == 0#(v + w)) = ((x &&& c.extractLsb' w v) == 0#v && (y &&& c.extractLsb' 0 w) == 0#w) := by
  have h : c = c.extractLsb' w v ++ c.extractLsb' 0 w := by
    rw [extractLsb'_append_extractLsb'_eq_extractLsb' (by simp)]
    exact (extractLsb'_eq_self).symm
  rw [Bool.eq_iff_iff]
  simp only [Bool.and_eq_true, beq_iff_eq]
  conv => lhs; rw [h]
  rw [BitVec.and_append]
  constructor
  · intro g
    have e : ∀ i, ((x &&& c.extractLsb' w v) ++ (y &&& c.extractLsb' 0 w)).getLsbD i = false := by simp [g]
    simp only [getLsbD_append] at e
    constructor
    · ext i hi
      have := e (i + w)
      simpa [show ¬ (i + w < w) by omega, hi] using this
    · ext i hi
      have := e i
      simpa [hi] using this
  · rintro ⟨a, b⟩
    rw [a, b]; simp

theorem ofCode_code (s : Sel) : Sel.ofCode s.code = some s := by
  cases s with
  | g n => revert n; decide
  | k n => revert n; decide
  | z n => revert n; decide
  | w n => revert n; decide
  | c n => revert n; decide
  | mb n => revert n; decide
  | _ => rfl

@[simp] theorem selK_code (s : Sel) (k : Sel → Decoded) : selK s.code k = k s := by simp [selK, ofCode_code]
@[simp] theorem dstK_code (s : Sel) (k : Sel → Decoded) (h : s.writable = true) : dstK s.code k = k s := by simp [dstK, ofCode_code, h]
@[simp] theorem gK_code (n : BitVec 6) (k : BitVec 6 → Decoded) : gK (g7 n) k = k n := by
  have a : (g7 n).getLsbD 6 = false := by revert n; decide
  have b : (g7 n).extractLsb' 0 6 = n := by revert n; decide
  unfold gK
  rw [a, b]
  rfl
@[simp] theorem clsK_code (c : Cls) (k : Cls → Decoded) : clsK c.code k = k c := by cases c <;> rfl
@[simp] theorem tyK_code (c : Ty) (k : Ty → Decoded) : tyK c.code k = k c := by cases c <;> rfl
@[simp] theorem rmK_code (c : Rm) (k : Rm → Decoded) : rmK c.code k = k c := by cases c <;> rfl
@[simp] theorem fmtK_code (c : Fmt) (k : Fmt → Decoded) : fmtK c.code k = k c := by
  cases c with
  | ty t => cases t <;> rfl
  | grouped e g => cases e <;> cases g <;> rfl

@[simp] theorem satK_code (b : Bool) (k : Bool → Decoded) : satK (0#1 ++ BitVec.ofBool b) k = k b := by cases b <;> rfl
end Sys2Proof.Laws
end

