-- ==== Sys2Proof/Laws/Encodings.lean ====
section
/-! SUPPORT. What each field of an encoded word, extension or flag group reads back as. -/
set_option linter.unusedSimpArgs false
namespace Sys2Proof.Laws
open BitVec
@[simp] theorem encRRR_at0 (m : BitVec 6) (f : BitVec 3) (d a : Sel) (b : BitVec 7) (l : BitVec 2) : (encRRR m f d a b l).extractLsb' 0 2 = l := by
  unfold encRRR
  rw [extractLsb'_append_eq_of_add_le (by omega)]
  exact extractLsb'_eq_self
@[simp] theorem encRRR_at2 (m : BitVec 6) (f : BitVec 3) (d a : Sel) (b : BitVec 7) (l : BitVec 2) : (encRRR m f d a b l).extractLsb' 2 6 = m := by
  unfold encRRR
  rw [extractLsb'_append_eq_of_le (by omega)]
  rw [extractLsb'_append_eq_of_add_le (by omega)]
  exact extractLsb'_eq_self
@[simp] theorem encRRR_at8 (m : BitVec 6) (f : BitVec 3) (d a : Sel) (b : BitVec 7) (l : BitVec 2) : (encRRR m f d a b l).extractLsb' 8 7 = d.code := by
  unfold encRRR
  rw [extractLsb'_append_eq_of_le (by omega)]
  rw [extractLsb'_append_eq_of_le (by omega)]
  rw [extractLsb'_append_eq_of_add_le (by omega)]
  exact extractLsb'_eq_self
@[simp] theorem encRRR_at15 (m : BitVec 6) (f : BitVec 3) (d a : Sel) (b : BitVec 7) (l : BitVec 2) : (encRRR m f d a b l).extractLsb' 15 7 = a.code := by
  unfold encRRR
  rw [extractLsb'_append_eq_of_le (by omega)]
  rw [extractLsb'_append_eq_of_le (by omega)]
  rw [extractLsb'_append_eq_of_le (by omega)]
  rw [extractLsb'_append_eq_of_add_le (by omega)]
  exact extractLsb'_eq_self
@[simp] theorem encRRR_at22 (m : BitVec 6) (f : BitVec 3) (d a : Sel) (b : BitVec 7) (l : BitVec 2) : (encRRR m f d a b l).extractLsb' 22 7 = b := by
  unfold encRRR
  rw [extractLsb'_append_eq_of_le (by omega)]
  rw [extractLsb'_append_eq_of_le (by omega)]
  rw [extractLsb'_append_eq_of_le (by omega)]
  rw [extractLsb'_append_eq_of_le (by omega)]
  rw [extractLsb'_append_eq_of_add_le (by omega)]
  exact extractLsb'_eq_self
@[simp] theorem encRRR_at29 (m : BitVec 6) (f : BitVec 3) (d a : Sel) (b : BitVec 7) (l : BitVec 2) : (encRRR m f d a b l).extractLsb' 29 3 = f := by
  unfold encRRR
  rw [extractLsb'_append_eq_of_le (by omega)]
  rw [extractLsb'_append_eq_of_le (by omega)]
  rw [extractLsb'_append_eq_of_le (by omega)]
  rw [extractLsb'_append_eq_of_le (by omega)]
  rw [extractLsb'_append_eq_of_le (by omega)]
  exact extractLsb'_eq_self
@[simp] theorem encRI_at0 (m : BitVec 6) (d a : Sel) (i : BitVec 10) : (encRI m d a i).extractLsb' 0 2 = 0#2 := by
  unfold encRI
  rw [extractLsb'_append_eq_of_add_le (by omega)]
  exact extractLsb'_eq_self
@[simp] theorem encRI_at2 (m : BitVec 6) (d a : Sel) (i : BitVec 10) : (encRI m d a i).extractLsb' 2 6 = m := by
  unfold encRI
  rw [extractLsb'_append_eq_of_le (by omega)]
  rw [extractLsb'_append_eq_of_add_le (by omega)]
  exact extractLsb'_eq_self
@[simp] theorem encRI_at8 (m : BitVec 6) (d a : Sel) (i : BitVec 10) : (encRI m d a i).extractLsb' 8 7 = d.code := by
  unfold encRI
  rw [extractLsb'_append_eq_of_le (by omega)]
  rw [extractLsb'_append_eq_of_le (by omega)]
  rw [extractLsb'_append_eq_of_add_le (by omega)]
  exact extractLsb'_eq_self
@[simp] theorem encRI_at15 (m : BitVec 6) (d a : Sel) (i : BitVec 10) : (encRI m d a i).extractLsb' 15 7 = a.code := by
  unfold encRI
  rw [extractLsb'_append_eq_of_le (by omega)]
  rw [extractLsb'_append_eq_of_le (by omega)]
  rw [extractLsb'_append_eq_of_le (by omega)]
  rw [extractLsb'_append_eq_of_add_le (by omega)]
  exact extractLsb'_eq_self
@[simp] theorem encRI_at22 (m : BitVec 6) (d a : Sel) (i : BitVec 10) : (encRI m d a i).extractLsb' 22 10 = i := by
  unfold encRI
  rw [extractLsb'_append_eq_of_le (by omega)]
  rw [extractLsb'_append_eq_of_le (by omega)]
  rw [extractLsb'_append_eq_of_le (by omega)]
  rw [extractLsb'_append_eq_of_le (by omega)]
  exact extractLsb'_eq_self
@[simp] theorem encRI_at22_6 (m : BitVec 6) (d a : Sel) (i : BitVec 10) : (encRI m d a i).extractLsb' 22 6 = (i : BitVec 10).extractLsb' 0 6 := by
  unfold encRI
  rw [extractLsb'_append_eq_of_le (by omega)]
  rw [extractLsb'_append_eq_of_le (by omega)]
  rw [extractLsb'_append_eq_of_le (by omega)]
  rw [extractLsb'_append_eq_of_le (by omega)]
@[simp] theorem encRI_at28_2 (m : BitVec 6) (d a : Sel) (i : BitVec 10) : (encRI m d a i).extractLsb' 28 2 = (i : BitVec 10).extractLsb' 6 2 := by
  unfold encRI
  rw [extractLsb'_append_eq_of_le (by omega)]
  rw [extractLsb'_append_eq_of_le (by omega)]
  rw [extractLsb'_append_eq_of_le (by omega)]
  rw [extractLsb'_append_eq_of_le (by omega)]
@[simp] theorem encRI_at30_2 (m : BitVec 6) (d a : Sel) (i : BitVec 10) : (encRI m d a i).extractLsb' 30 2 = (i : BitVec 10).extractLsb' 8 2 := by
  unfold encRI
  rw [extractLsb'_append_eq_of_le (by omega)]
  rw [extractLsb'_append_eq_of_le (by omega)]
  rw [extractLsb'_append_eq_of_le (by omega)]
  rw [extractLsb'_append_eq_of_le (by omega)]
@[simp] theorem encU_at0 (m fn : BitVec 6) (d a : BitVec 7) (x : BitVec 4) (l : BitVec 2) : (encU m fn d a x l).extractLsb' 0 2 = l := by
  unfold encU
  rw [extractLsb'_append_eq_of_add_le (by omega)]
  exact extractLsb'_eq_self
@[simp] theorem encU_at2 (m fn : BitVec 6) (d a : BitVec 7) (x : BitVec 4) (l : BitVec 2) : (encU m fn d a x l).extractLsb' 2 6 = m := by
  unfold encU
  rw [extractLsb'_append_eq_of_le (by omega)]
  rw [extractLsb'_append_eq_of_add_le (by omega)]
  exact extractLsb'_eq_self
@[simp] theorem encU_at8 (m fn : BitVec 6) (d a : BitVec 7) (x : BitVec 4) (l : BitVec 2) : (encU m fn d a x l).extractLsb' 8 7 = d := by
  unfold encU
  rw [extractLsb'_append_eq_of_le (by omega)]
  rw [extractLsb'_append_eq_of_le (by omega)]
  rw [extractLsb'_append_eq_of_add_le (by omega)]
  exact extractLsb'_eq_self
@[simp] theorem encU_at15 (m fn : BitVec 6) (d a : BitVec 7) (x : BitVec 4) (l : BitVec 2) : (encU m fn d a x l).extractLsb' 15 7 = a := by
  unfold encU
  rw [extractLsb'_append_eq_of_le (by omega)]
  rw [extractLsb'_append_eq_of_le (by omega)]
  rw [extractLsb'_append_eq_of_le (by omega)]
  rw [extractLsb'_append_eq_of_add_le (by omega)]
  exact extractLsb'_eq_self
@[simp] theorem encU_at22 (m fn : BitVec 6) (d a : BitVec 7) (x : BitVec 4) (l : BitVec 2) : (encU m fn d a x l).extractLsb' 22 6 = fn := by
  unfold encU
  rw [extractLsb'_append_eq_of_le (by omega)]
  rw [extractLsb'_append_eq_of_le (by omega)]
  rw [extractLsb'_append_eq_of_le (by omega)]
  rw [extractLsb'_append_eq_of_le (by omega)]
  rw [extractLsb'_append_eq_of_add_le (by omega)]
  exact extractLsb'_eq_self
@[simp] theorem encU_at28 (m fn : BitVec 6) (d a : BitVec 7) (x : BitVec 4) (l : BitVec 2) : (encU m fn d a x l).extractLsb' 28 4 = x := by
  unfold encU
  rw [extractLsb'_append_eq_of_le (by omega)]
  rw [extractLsb'_append_eq_of_le (by omega)]
  rw [extractLsb'_append_eq_of_le (by omega)]
  rw [extractLsb'_append_eq_of_le (by omega)]
  rw [extractLsb'_append_eq_of_le (by omega)]
  exact extractLsb'_eq_self
@[simp] theorem encBC_at0 (c : BitVec 3) (a b o : BitVec 7) (l : BitVec 2) : (encBC c a b o l).extractLsb' 0 2 = l := by
  unfold encBC
  rw [extractLsb'_append_eq_of_add_le (by omega)]
  exact extractLsb'_eq_self
@[simp] theorem encBC_at2 (c : BitVec 3) (a b o : BitVec 7) (l : BitVec 2) : (encBC c a b o l).extractLsb' 2 6 = 0x19#6 := by
  unfold encBC
  rw [extractLsb'_append_eq_of_le (by omega)]
  rw [extractLsb'_append_eq_of_add_le (by omega)]
  exact extractLsb'_eq_self
@[simp] theorem encBC_at8 (c : BitVec 3) (a b o : BitVec 7) (l : BitVec 2) : (encBC c a b o l).extractLsb' 8 7 = a := by
  unfold encBC
  rw [extractLsb'_append_eq_of_le (by omega)]
  rw [extractLsb'_append_eq_of_le (by omega)]
  rw [extractLsb'_append_eq_of_add_le (by omega)]
  exact extractLsb'_eq_self
@[simp] theorem encBC_at15 (c : BitVec 3) (a b o : BitVec 7) (l : BitVec 2) : (encBC c a b o l).extractLsb' 15 7 = b := by
  unfold encBC
  rw [extractLsb'_append_eq_of_le (by omega)]
  rw [extractLsb'_append_eq_of_le (by omega)]
  rw [extractLsb'_append_eq_of_le (by omega)]
  rw [extractLsb'_append_eq_of_add_le (by omega)]
  exact extractLsb'_eq_self
@[simp] theorem encBC_at22 (c : BitVec 3) (a b o : BitVec 7) (l : BitVec 2) : (encBC c a b o l).extractLsb' 22 3 = c := by
  unfold encBC
  rw [extractLsb'_append_eq_of_le (by omega)]
  rw [extractLsb'_append_eq_of_le (by omega)]
  rw [extractLsb'_append_eq_of_le (by omega)]
  rw [extractLsb'_append_eq_of_le (by omega)]
  rw [extractLsb'_append_eq_of_add_le (by omega)]
  exact extractLsb'_eq_self
@[simp] theorem encBC_at25 (c : BitVec 3) (a b o : BitVec 7) (l : BitVec 2) : (encBC c a b o l).extractLsb' 25 7 = o := by
  unfold encBC
  rw [extractLsb'_append_eq_of_le (by omega)]
  rw [extractLsb'_append_eq_of_le (by omega)]
  rw [extractLsb'_append_eq_of_le (by omega)]
  rw [extractLsb'_append_eq_of_le (by omega)]
  rw [extractLsb'_append_eq_of_le (by omega)]
  exact extractLsb'_eq_self
@[simp] theorem encE_at0 (m fn : BitVec 6) (t p : BitVec 7) (la : BitVec 4) : (encE m fn t p la).extractLsb' 0 2 = 1#2 := by
  unfold encE
  rw [extractLsb'_append_eq_of_add_le (by omega)]
  exact extractLsb'_eq_self
@[simp] theorem encE_at2 (m fn : BitVec 6) (t p : BitVec 7) (la : BitVec 4) : (encE m fn t p la).extractLsb' 2 6 = m := by
  unfold encE
  rw [extractLsb'_append_eq_of_le (by omega)]
  rw [extractLsb'_append_eq_of_add_le (by omega)]
  exact extractLsb'_eq_self
@[simp] theorem encE_at8 (m fn : BitVec 6) (t p : BitVec 7) (la : BitVec 4) : (encE m fn t p la).extractLsb' 8 4 = la := by
  unfold encE
  rw [extractLsb'_append_eq_of_le (by omega)]
  rw [extractLsb'_append_eq_of_le (by omega)]
  rw [extractLsb'_append_eq_of_add_le (by omega)]
  exact extractLsb'_eq_self
@[simp] theorem encE_at12 (m fn : BitVec 6) (t p : BitVec 7) (la : BitVec 4) : (encE m fn t p la).extractLsb' 12 7 = t := by
  unfold encE
  rw [extractLsb'_append_eq_of_le (by omega)]
  rw [extractLsb'_append_eq_of_le (by omega)]
  rw [extractLsb'_append_eq_of_le (by omega)]
  rw [extractLsb'_append_eq_of_add_le (by omega)]
  exact extractLsb'_eq_self
@[simp] theorem encE_at19 (m fn : BitVec 6) (t p : BitVec 7) (la : BitVec 4) : (encE m fn t p la).extractLsb' 19 7 = p := by
  unfold encE
  rw [extractLsb'_append_eq_of_le (by omega)]
  rw [extractLsb'_append_eq_of_le (by omega)]
  rw [extractLsb'_append_eq_of_le (by omega)]
  rw [extractLsb'_append_eq_of_le (by omega)]
  rw [extractLsb'_append_eq_of_add_le (by omega)]
  exact extractLsb'_eq_self
@[simp] theorem encE_at26 (m fn : BitVec 6) (t p : BitVec 7) (la : BitVec 4) : (encE m fn t p la).extractLsb' 26 6 = fn := by
  unfold encE
  rw [extractLsb'_append_eq_of_le (by omega)]
  rw [extractLsb'_append_eq_of_le (by omega)]
  rw [extractLsb'_append_eq_of_le (by omega)]
  rw [extractLsb'_append_eq_of_le (by omega)]
  rw [extractLsb'_append_eq_of_le (by omega)]
  exact extractLsb'_eq_self
@[simp] theorem extE_at0 (fl : BitVec 36) (p2 p3 p4 p5 : BitVec 7) : (extE fl p2 p3 p4 p5).extractLsb' 0 7 = p2 := by
  unfold extE
  rw [extractLsb'_append_eq_of_add_le (by omega)]
  exact extractLsb'_eq_self
@[simp] theorem extE_at7 (fl : BitVec 36) (p2 p3 p4 p5 : BitVec 7) : (extE fl p2 p3 p4 p5).extractLsb' 7 7 = p3 := by
  unfold extE
  rw [extractLsb'_append_eq_of_le (by omega)]
  rw [extractLsb'_append_eq_of_add_le (by omega)]
  exact extractLsb'_eq_self
@[simp] theorem extE_at14 (fl : BitVec 36) (p2 p3 p4 p5 : BitVec 7) : (extE fl p2 p3 p4 p5).extractLsb' 14 7 = p4 := by
  unfold extE
  rw [extractLsb'_append_eq_of_le (by omega)]
  rw [extractLsb'_append_eq_of_le (by omega)]
  rw [extractLsb'_append_eq_of_add_le (by omega)]
  exact extractLsb'_eq_self
@[simp] theorem extE_at21 (fl : BitVec 36) (p2 p3 p4 p5 : BitVec 7) : (extE fl p2 p3 p4 p5).extractLsb' 21 7 = p5 := by
  unfold extE
  rw [extractLsb'_append_eq_of_le (by omega)]
  rw [extractLsb'_append_eq_of_le (by omega)]
  rw [extractLsb'_append_eq_of_le (by omega)]
  rw [extractLsb'_append_eq_of_add_le (by omega)]
  exact extractLsb'_eq_self
@[simp] theorem extE_at28 (fl : BitVec 36) (p2 p3 p4 p5 : BitVec 7) : (extE fl p2 p3 p4 p5).extractLsb' 28 36 = fl := by
  unfold extE
  rw [extractLsb'_append_eq_of_le (by omega)]
  rw [extractLsb'_append_eq_of_le (by omega)]
  rw [extractLsb'_append_eq_of_le (by omega)]
  rw [extractLsb'_append_eq_of_le (by omega)]
  exact extractLsb'_eq_self
@[simp] theorem extE_at0_5 (fl : BitVec 36) (p2 p3 p4 p5 : BitVec 7) : (extE fl p2 p3 p4 p5).extractLsb' 0 5 = (p2 : BitVec 7).extractLsb' 0 5 := by
  unfold extE
  rw [extractLsb'_append_eq_of_add_le (by omega)]
@[simp] theorem extE_at28_6 (fl : BitVec 36) (p2 p3 p4 p5 : BitVec 7) : (extE fl p2 p3 p4 p5).extractLsb' 28 6 = (fl : BitVec 36).extractLsb' 0 6 := by
  unfold extE
  rw [extractLsb'_append_eq_of_le (by omega)]
  rw [extractLsb'_append_eq_of_le (by omega)]
  rw [extractLsb'_append_eq_of_le (by omega)]
  rw [extractLsb'_append_eq_of_le (by omega)]
@[simp] theorem extE_at34_6 (fl : BitVec 36) (p2 p3 p4 p5 : BitVec 7) : (extE fl p2 p3 p4 p5).extractLsb' 34 6 = (fl : BitVec 36).extractLsb' 6 6 := by
  unfold extE
  rw [extractLsb'_append_eq_of_le (by omega)]
  rw [extractLsb'_append_eq_of_le (by omega)]
  rw [extractLsb'_append_eq_of_le (by omega)]
  rw [extractLsb'_append_eq_of_le (by omega)]
@[simp] theorem extE_at34_3 (fl : BitVec 36) (p2 p3 p4 p5 : BitVec 7) : (extE fl p2 p3 p4 p5).extractLsb' 34 3 = (fl : BitVec 36).extractLsb' 6 3 := by
  unfold extE
  rw [extractLsb'_append_eq_of_le (by omega)]
  rw [extractLsb'_append_eq_of_le (by omega)]
  rw [extractLsb'_append_eq_of_le (by omega)]
  rw [extractLsb'_append_eq_of_le (by omega)]
@[simp] theorem extE_at28_3 (fl : BitVec 36) (p2 p3 p4 p5 : BitVec 7) : (extE fl p2 p3 p4 p5).extractLsb' 28 3 = (fl : BitVec 36).extractLsb' 0 3 := by
  unfold extE
  rw [extractLsb'_append_eq_of_le (by omega)]
  rw [extractLsb'_append_eq_of_le (by omega)]
  rw [extractLsb'_append_eq_of_le (by omega)]
  rw [extractLsb'_append_eq_of_le (by omega)]
@[simp] theorem extE_at46_18 (fl : BitVec 36) (p2 p3 p4 p5 : BitVec 7) : (extE fl p2 p3 p4 p5).extractLsb' 46 18 = (fl : BitVec 36).extractLsb' 18 18 := by
  unfold extE
  rw [extractLsb'_append_eq_of_le (by omega)]
  rw [extractLsb'_append_eq_of_le (by omega)]
  rw [extractLsb'_append_eq_of_le (by omega)]
  rw [extractLsb'_append_eq_of_le (by omega)]
@[simp] theorem extE_at47_17 (fl : BitVec 36) (p2 p3 p4 p5 : BitVec 7) : (extE fl p2 p3 p4 p5).extractLsb' 47 17 = (fl : BitVec 36).extractLsb' 19 17 := by
  unfold extE
  rw [extractLsb'_append_eq_of_le (by omega)]
  rw [extractLsb'_append_eq_of_le (by omega)]
  rw [extractLsb'_append_eq_of_le (by omega)]
  rw [extractLsb'_append_eq_of_le (by omega)]
@[simp] theorem extE_at42_4 (fl : BitVec 36) (p2 p3 p4 p5 : BitVec 7) : (extE fl p2 p3 p4 p5).extractLsb' 42 4 = (fl : BitVec 36).extractLsb' 14 4 := by
  unfold extE
  rw [extractLsb'_append_eq_of_le (by omega)]
  rw [extractLsb'_append_eq_of_le (by omega)]
  rw [extractLsb'_append_eq_of_le (by omega)]
  rw [extractLsb'_append_eq_of_le (by omega)]
@[simp] theorem extE_at42_3 (fl : BitVec 36) (p2 p3 p4 p5 : BitVec 7) : (extE fl p2 p3 p4 p5).extractLsb' 42 3 = (fl : BitVec 36).extractLsb' 14 3 := by
  unfold extE
  rw [extractLsb'_append_eq_of_le (by omega)]
  rw [extractLsb'_append_eq_of_le (by omega)]
  rw [extractLsb'_append_eq_of_le (by omega)]
  rw [extractLsb'_append_eq_of_le (by omega)]
@[simp] theorem extE_at28_12 (fl : BitVec 36) (p2 p3 p4 p5 : BitVec 7) : (extE fl p2 p3 p4 p5).extractLsb' 28 12 = (fl : BitVec 36).extractLsb' 0 12 := by
  unfold extE
  rw [extractLsb'_append_eq_of_le (by omega)]
  rw [extractLsb'_append_eq_of_le (by omega)]
  rw [extractLsb'_append_eq_of_le (by omega)]
  rw [extractLsb'_append_eq_of_le (by omega)]
@[simp] theorem extE_at29_35 (fl : BitVec 36) (p2 p3 p4 p5 : BitVec 7) : (extE fl p2 p3 p4 p5).extractLsb' 29 35 = (fl : BitVec 36).extractLsb' 1 35 := by
  unfold extE
  rw [extractLsb'_append_eq_of_le (by omega)]
  rw [extractLsb'_append_eq_of_le (by omega)]
  rw [extractLsb'_append_eq_of_le (by omega)]
  rw [extractLsb'_append_eq_of_le (by omega)]
@[simp] theorem extE_at35_29 (fl : BitVec 36) (p2 p3 p4 p5 : BitVec 7) : (extE fl p2 p3 p4 p5).extractLsb' 35 29 = (fl : BitVec 36).extractLsb' 7 29 := by
  unfold extE
  rw [extractLsb'_append_eq_of_le (by omega)]
  rw [extractLsb'_append_eq_of_le (by omega)]
  rw [extractLsb'_append_eq_of_le (by omega)]
  rw [extractLsb'_append_eq_of_le (by omega)]
@[simp] theorem extE_at36_28 (fl : BitVec 36) (p2 p3 p4 p5 : BitVec 7) : (extE fl p2 p3 p4 p5).extractLsb' 36 28 = (fl : BitVec 36).extractLsb' 8 28 := by
  unfold extE
  rw [extractLsb'_append_eq_of_le (by omega)]
  rw [extractLsb'_append_eq_of_le (by omega)]
  rw [extractLsb'_append_eq_of_le (by omega)]
  rw [extractLsb'_append_eq_of_le (by omega)]
@[simp] theorem extE_at41_23 (fl : BitVec 36) (p2 p3 p4 p5 : BitVec 7) : (extE fl p2 p3 p4 p5).extractLsb' 41 23 = (fl : BitVec 36).extractLsb' 13 23 := by
  unfold extE
  rw [extractLsb'_append_eq_of_le (by omega)]
  rw [extractLsb'_append_eq_of_le (by omega)]
  rw [extractLsb'_append_eq_of_le (by omega)]
  rw [extractLsb'_append_eq_of_le (by omega)]
@[simp] theorem extE_at31_33 (fl : BitVec 36) (p2 p3 p4 p5 : BitVec 7) : (extE fl p2 p3 p4 p5).extractLsb' 31 33 = (fl : BitVec 36).extractLsb' 3 33 := by
  unfold extE
  rw [extractLsb'_append_eq_of_le (by omega)]
  rw [extractLsb'_append_eq_of_le (by omega)]
  rw [extractLsb'_append_eq_of_le (by omega)]
  rw [extractLsb'_append_eq_of_le (by omega)]
@[simp] theorem extE_at34_30 (fl : BitVec 36) (p2 p3 p4 p5 : BitVec 7) : (extE fl p2 p3 p4 p5).extractLsb' 34 30 = (fl : BitVec 36).extractLsb' 6 30 := by
  unfold extE
  rw [extractLsb'_append_eq_of_le (by omega)]
  rw [extractLsb'_append_eq_of_le (by omega)]
  rw [extractLsb'_append_eq_of_le (by omega)]
  rw [extractLsb'_append_eq_of_le (by omega)]
@[simp] theorem extE_at37_27 (fl : BitVec 36) (p2 p3 p4 p5 : BitVec 7) : (extE fl p2 p3 p4 p5).extractLsb' 37 27 = (fl : BitVec 36).extractLsb' 9 27 := by
  unfold extE
  rw [extractLsb'_append_eq_of_le (by omega)]
  rw [extractLsb'_append_eq_of_le (by omega)]
  rw [extractLsb'_append_eq_of_le (by omega)]
  rw [extractLsb'_append_eq_of_le (by omega)]
@[simp] theorem extE_at28_7 (fl : BitVec 36) (p2 p3 p4 p5 : BitVec 7) : (extE fl p2 p3 p4 p5).extractLsb' 28 7 = (fl : BitVec 36).extractLsb' 0 7 := by
  unfold extE
  rw [extractLsb'_append_eq_of_le (by omega)]
  rw [extractLsb'_append_eq_of_le (by omega)]
  rw [extractLsb'_append_eq_of_le (by omega)]
  rw [extractLsb'_append_eq_of_le (by omega)]
@[simp] theorem extE_at35_7 (fl : BitVec 36) (p2 p3 p4 p5 : BitVec 7) : (extE fl p2 p3 p4 p5).extractLsb' 35 7 = (fl : BitVec 36).extractLsb' 7 7 := by
  unfold extE
  rw [extractLsb'_append_eq_of_le (by omega)]
  rw [extractLsb'_append_eq_of_le (by omega)]
  rw [extractLsb'_append_eq_of_le (by omega)]
  rw [extractLsb'_append_eq_of_le (by omega)]
@[simp] theorem extE_at42_22 (fl : BitVec 36) (p2 p3 p4 p5 : BitVec 7) : (extE fl p2 p3 p4 p5).extractLsb' 42 22 = (fl : BitVec 36).extractLsb' 14 22 := by
  unfold extE
  rw [extractLsb'_append_eq_of_le (by omega)]
  rw [extractLsb'_append_eq_of_le (by omega)]
  rw [extractLsb'_append_eq_of_le (by omega)]
  rw [extractLsb'_append_eq_of_le (by omega)]
theorem extE_bit28 (fl : BitVec 36) (p2 p3 p4 p5 : BitVec 7) : (extE fl p2 p3 p4 p5).getLsbD 28 = (fl : BitVec 36).getLsbD 0 := by
  unfold extE
  rw [getLsbD_append, if_neg (by omega)]
  rw [getLsbD_append, if_neg (by omega)]
  rw [getLsbD_append, if_neg (by omega)]
  rw [getLsbD_append, if_neg (by omega)]
@[simp] theorem extE_bit28' (fl : BitVec 36) (p2 p3 p4 p5 : BitVec 7) : (extE fl p2 p3 p4 p5)[28] = (fl : BitVec 36).getLsbD 0 := extE_bit28 fl p2 p3 p4 p5
theorem extE_bit34 (fl : BitVec 36) (p2 p3 p4 p5 : BitVec 7) : (extE fl p2 p3 p4 p5).getLsbD 34 = (fl : BitVec 36).getLsbD 6 := by
  unfold extE
  rw [getLsbD_append, if_neg (by omega)]
  rw [getLsbD_append, if_neg (by omega)]
  rw [getLsbD_append, if_neg (by omega)]
  rw [getLsbD_append, if_neg (by omega)]
@[simp] theorem extE_bit34' (fl : BitVec 36) (p2 p3 p4 p5 : BitVec 7) : (extE fl p2 p3 p4 p5)[34] = (fl : BitVec 36).getLsbD 6 := extE_bit34 fl p2 p3 p4 p5
theorem extE_bit35 (fl : BitVec 36) (p2 p3 p4 p5 : BitVec 7) : (extE fl p2 p3 p4 p5).getLsbD 35 = (fl : BitVec 36).getLsbD 7 := by
  unfold extE
  rw [getLsbD_append, if_neg (by omega)]
  rw [getLsbD_append, if_neg (by omega)]
  rw [getLsbD_append, if_neg (by omega)]
  rw [getLsbD_append, if_neg (by omega)]
@[simp] theorem extE_bit35' (fl : BitVec 36) (p2 p3 p4 p5 : BitVec 7) : (extE fl p2 p3 p4 p5)[35] = (fl : BitVec 36).getLsbD 7 := extE_bit35 fl p2 p3 p4 p5
theorem extE_bit37 (fl : BitVec 36) (p2 p3 p4 p5 : BitVec 7) : (extE fl p2 p3 p4 p5).getLsbD 37 = (fl : BitVec 36).getLsbD 9 := by
  unfold extE
  rw [getLsbD_append, if_neg (by omega)]
  rw [getLsbD_append, if_neg (by omega)]
  rw [getLsbD_append, if_neg (by omega)]
  rw [getLsbD_append, if_neg (by omega)]
@[simp] theorem extE_bit37' (fl : BitVec 36) (p2 p3 p4 p5 : BitVec 7) : (extE fl p2 p3 p4 p5)[37] = (fl : BitVec 36).getLsbD 9 := extE_bit37 fl p2 p3 p4 p5
theorem extE_bit38 (fl : BitVec 36) (p2 p3 p4 p5 : BitVec 7) : (extE fl p2 p3 p4 p5).getLsbD 38 = (fl : BitVec 36).getLsbD 10 := by
  unfold extE
  rw [getLsbD_append, if_neg (by omega)]
  rw [getLsbD_append, if_neg (by omega)]
  rw [getLsbD_append, if_neg (by omega)]
  rw [getLsbD_append, if_neg (by omega)]
@[simp] theorem extE_bit38' (fl : BitVec 36) (p2 p3 p4 p5 : BitVec 7) : (extE fl p2 p3 p4 p5)[38] = (fl : BitVec 36).getLsbD 10 := extE_bit38 fl p2 p3 p4 p5
theorem extE_bit39 (fl : BitVec 36) (p2 p3 p4 p5 : BitVec 7) : (extE fl p2 p3 p4 p5).getLsbD 39 = (fl : BitVec 36).getLsbD 11 := by
  unfold extE
  rw [getLsbD_append, if_neg (by omega)]
  rw [getLsbD_append, if_neg (by omega)]
  rw [getLsbD_append, if_neg (by omega)]
  rw [getLsbD_append, if_neg (by omega)]
@[simp] theorem extE_bit39' (fl : BitVec 36) (p2 p3 p4 p5 : BitVec 7) : (extE fl p2 p3 p4 p5)[39] = (fl : BitVec 36).getLsbD 11 := extE_bit39 fl p2 p3 p4 p5
theorem extE_bit40 (fl : BitVec 36) (p2 p3 p4 p5 : BitVec 7) : (extE fl p2 p3 p4 p5).getLsbD 40 = (fl : BitVec 36).getLsbD 12 := by
  unfold extE
  rw [getLsbD_append, if_neg (by omega)]
  rw [getLsbD_append, if_neg (by omega)]
  rw [getLsbD_append, if_neg (by omega)]
  rw [getLsbD_append, if_neg (by omega)]
@[simp] theorem extE_bit40' (fl : BitVec 36) (p2 p3 p4 p5 : BitVec 7) : (extE fl p2 p3 p4 p5)[40] = (fl : BitVec 36).getLsbD 12 := extE_bit40 fl p2 p3 p4 p5
theorem extE_bit41 (fl : BitVec 36) (p2 p3 p4 p5 : BitVec 7) : (extE fl p2 p3 p4 p5).getLsbD 41 = (fl : BitVec 36).getLsbD 13 := by
  unfold extE
  rw [getLsbD_append, if_neg (by omega)]
  rw [getLsbD_append, if_neg (by omega)]
  rw [getLsbD_append, if_neg (by omega)]
  rw [getLsbD_append, if_neg (by omega)]
@[simp] theorem extE_bit41' (fl : BitVec 36) (p2 p3 p4 p5 : BitVec 7) : (extE fl p2 p3 p4 p5)[41] = (fl : BitVec 36).getLsbD 13 := extE_bit41 fl p2 p3 p4 p5
theorem extE_bit45 (fl : BitVec 36) (p2 p3 p4 p5 : BitVec 7) : (extE fl p2 p3 p4 p5).getLsbD 45 = (fl : BitVec 36).getLsbD 17 := by
  unfold extE
  rw [getLsbD_append, if_neg (by omega)]
  rw [getLsbD_append, if_neg (by omega)]
  rw [getLsbD_append, if_neg (by omega)]
  rw [getLsbD_append, if_neg (by omega)]
@[simp] theorem extE_bit45' (fl : BitVec 36) (p2 p3 p4 p5 : BitVec 7) : (extE fl p2 p3 p4 p5)[45] = (fl : BitVec 36).getLsbD 17 := extE_bit45 fl p2 p3 p4 p5
theorem extE_bit46 (fl : BitVec 36) (p2 p3 p4 p5 : BitVec 7) : (extE fl p2 p3 p4 p5).getLsbD 46 = (fl : BitVec 36).getLsbD 18 := by
  unfold extE
  rw [getLsbD_append, if_neg (by omega)]
  rw [getLsbD_append, if_neg (by omega)]
  rw [getLsbD_append, if_neg (by omega)]
  rw [getLsbD_append, if_neg (by omega)]
@[simp] theorem extE_bit46' (fl : BitVec 36) (p2 p3 p4 p5 : BitVec 7) : (extE fl p2 p3 p4 p5)[46] = (fl : BitVec 36).getLsbD 18 := extE_bit46 fl p2 p3 p4 p5
@[simp] theorem encM_at0 (m : BitVec 6) (am : BitVec 2) (w : Cls) (b ds : BitVec 7) (la : BitVec 4) (l : BitVec 2) : (encM m am w b ds la l).extractLsb' 0 2 = l := by
  unfold encM
  rw [extractLsb'_append_eq_of_add_le (by omega)]
  exact extractLsb'_eq_self
@[simp] theorem encM_at2 (m : BitVec 6) (am : BitVec 2) (w : Cls) (b ds : BitVec 7) (la : BitVec 4) (l : BitVec 2) : (encM m am w b ds la l).extractLsb' 2 6 = m := by
  unfold encM
  rw [extractLsb'_append_eq_of_le (by omega)]
  rw [extractLsb'_append_eq_of_add_le (by omega)]
  exact extractLsb'_eq_self
@[simp] theorem encM_at8 (m : BitVec 6) (am : BitVec 2) (w : Cls) (b ds : BitVec 7) (la : BitVec 4) (l : BitVec 2) : (encM m am w b ds la l).extractLsb' 8 4 = la := by
  unfold encM
  rw [extractLsb'_append_eq_of_le (by omega)]
  rw [extractLsb'_append_eq_of_le (by omega)]
  rw [extractLsb'_append_eq_of_add_le (by omega)]
  exact extractLsb'_eq_self
@[simp] theorem encM_at12 (m : BitVec 6) (am : BitVec 2) (w : Cls) (b ds : BitVec 7) (la : BitVec 4) (l : BitVec 2) : (encM m am w b ds la l).extractLsb' 12 7 = ds := by
  unfold encM
  rw [extractLsb'_append_eq_of_le (by omega)]
  rw [extractLsb'_append_eq_of_le (by omega)]
  rw [extractLsb'_append_eq_of_le (by omega)]
  rw [extractLsb'_append_eq_of_add_le (by omega)]
  exact extractLsb'_eq_self
@[simp] theorem encM_at19 (m : BitVec 6) (am : BitVec 2) (w : Cls) (b ds : BitVec 7) (la : BitVec 4) (l : BitVec 2) : (encM m am w b ds la l).extractLsb' 19 7 = b := by
  unfold encM
  rw [extractLsb'_append_eq_of_le (by omega)]
  rw [extractLsb'_append_eq_of_le (by omega)]
  rw [extractLsb'_append_eq_of_le (by omega)]
  rw [extractLsb'_append_eq_of_le (by omega)]
  rw [extractLsb'_append_eq_of_add_le (by omega)]
  exact extractLsb'_eq_self
@[simp] theorem encM_at26 (m : BitVec 6) (am : BitVec 2) (w : Cls) (b ds : BitVec 7) (la : BitVec 4) (l : BitVec 2) : (encM m am w b ds la l).extractLsb' 26 4 = w.code := by
  unfold encM
  rw [extractLsb'_append_eq_of_le (by omega)]
  rw [extractLsb'_append_eq_of_le (by omega)]
  rw [extractLsb'_append_eq_of_le (by omega)]
  rw [extractLsb'_append_eq_of_le (by omega)]
  rw [extractLsb'_append_eq_of_le (by omega)]
  rw [extractLsb'_append_eq_of_add_le (by omega)]
  exact extractLsb'_eq_self
@[simp] theorem encM_at30 (m : BitVec 6) (am : BitVec 2) (w : Cls) (b ds : BitVec 7) (la : BitVec 4) (l : BitVec 2) : (encM m am w b ds la l).extractLsb' 30 2 = am := by
  unfold encM
  rw [extractLsb'_append_eq_of_le (by omega)]
  rw [extractLsb'_append_eq_of_le (by omega)]
  rw [extractLsb'_append_eq_of_le (by omega)]
  rw [extractLsb'_append_eq_of_le (by omega)]
  rw [extractLsb'_append_eq_of_le (by omega)]
  rw [extractLsb'_append_eq_of_le (by omega)]
  exact extractLsb'_eq_self
@[simp] theorem encM_at12_5 (m : BitVec 6) (am : BitVec 2) (w : Cls) (b ds : BitVec 7) (la : BitVec 4) (l : BitVec 2) : (encM m am w b ds la l).extractLsb' 12 5 = (ds : BitVec 7).extractLsb' 0 5 := by
  unfold encM
  rw [extractLsb'_append_eq_of_le (by omega)]
  rw [extractLsb'_append_eq_of_le (by omega)]
  rw [extractLsb'_append_eq_of_le (by omega)]
  rw [extractLsb'_append_eq_of_add_le (by omega)]
@[simp] theorem encM_at17_2 (m : BitVec 6) (am : BitVec 2) (w : Cls) (b ds : BitVec 7) (la : BitVec 4) (l : BitVec 2) : (encM m am w b ds la l).extractLsb' 17 2 = (ds : BitVec 7).extractLsb' 5 2 := by
  unfold encM
  rw [extractLsb'_append_eq_of_le (by omega)]
  rw [extractLsb'_append_eq_of_le (by omega)]
  rw [extractLsb'_append_eq_of_le (by omega)]
  rw [extractLsb'_append_eq_of_add_le (by omega)]
@[simp] theorem extM_at0 (mo : BitVec 8) (o : BitVec 48) (i : BitVec 7) : (extM mo o i).extractLsb' 0 7 = i := by
  unfold extM
  rw [extractLsb'_append_eq_of_add_le (by omega)]
  exact extractLsb'_eq_self
@[simp] theorem extM_at7 (mo : BitVec 8) (o : BitVec 48) (i : BitVec 7) : (extM mo o i).extractLsb' 7 1 = 0#1 := by
  unfold extM
  rw [extractLsb'_append_eq_of_le (by omega)]
  rw [extractLsb'_append_eq_of_add_le (by omega)]
  exact extractLsb'_eq_self
@[simp] theorem extM_at8 (mo : BitVec 8) (o : BitVec 48) (i : BitVec 7) : (extM mo o i).extractLsb' 8 48 = o := by
  unfold extM
  rw [extractLsb'_append_eq_of_le (by omega)]
  rw [extractLsb'_append_eq_of_le (by omega)]
  rw [extractLsb'_append_eq_of_add_le (by omega)]
  exact extractLsb'_eq_self
@[simp] theorem extM_at56 (mo : BitVec 8) (o : BitVec 48) (i : BitVec 7) : (extM mo o i).extractLsb' 56 8 = mo := by
  unfold extM
  rw [extractLsb'_append_eq_of_le (by omega)]
  rw [extractLsb'_append_eq_of_le (by omega)]
  rw [extractLsb'_append_eq_of_le (by omega)]
  exact extractLsb'_eq_self
@[simp] theorem extM_at57_7 (mo : BitVec 8) (o : BitVec 48) (i : BitVec 7) : (extM mo o i).extractLsb' 57 7 = (mo : BitVec 8).extractLsb' 1 7 := by
  unfold extM
  rw [extractLsb'_append_eq_of_le (by omega)]
  rw [extractLsb'_append_eq_of_le (by omega)]
  rw [extractLsb'_append_eq_of_le (by omega)]
@[simp] theorem extM_at56_2 (mo : BitVec 8) (o : BitVec 48) (i : BitVec 7) : (extM mo o i).extractLsb' 56 2 = (mo : BitVec 8).extractLsb' 0 2 := by
  unfold extM
  rw [extractLsb'_append_eq_of_le (by omega)]
  rw [extractLsb'_append_eq_of_le (by omega)]
  rw [extractLsb'_append_eq_of_le (by omega)]
@[simp] theorem extM_at59_4 (mo : BitVec 8) (o : BitVec 48) (i : BitVec 7) : (extM mo o i).extractLsb' 59 4 = (mo : BitVec 8).extractLsb' 3 4 := by
  unfold extM
  rw [extractLsb'_append_eq_of_le (by omega)]
  rw [extractLsb'_append_eq_of_le (by omega)]
  rw [extractLsb'_append_eq_of_le (by omega)]
theorem extM_bit7 (mo : BitVec 8) (o : BitVec 48) (i : BitVec 7) : (extM mo o i).getLsbD 7 = (0#1 : BitVec 1).getLsbD 0 := by
  unfold extM
  rw [getLsbD_append, if_neg (by omega)]
  rw [getLsbD_append, if_pos (by omega)]
@[simp] theorem extM_bit7' (mo : BitVec 8) (o : BitVec 48) (i : BitVec 7) : (extM mo o i)[7] = (0#1 : BitVec 1).getLsbD 0 := extM_bit7 mo o i
theorem extM_bit56 (mo : BitVec 8) (o : BitVec 48) (i : BitVec 7) : (extM mo o i).getLsbD 56 = (mo : BitVec 8).getLsbD 0 := by
  unfold extM
  rw [getLsbD_append, if_neg (by omega)]
  rw [getLsbD_append, if_neg (by omega)]
  rw [getLsbD_append, if_neg (by omega)]
@[simp] theorem extM_bit56' (mo : BitVec 8) (o : BitVec 48) (i : BitVec 7) : (extM mo o i)[56] = (mo : BitVec 8).getLsbD 0 := extM_bit56 mo o i
theorem extM_bit58 (mo : BitVec 8) (o : BitVec 48) (i : BitVec 7) : (extM mo o i).getLsbD 58 = (mo : BitVec 8).getLsbD 2 := by
  unfold extM
  rw [getLsbD_append, if_neg (by omega)]
  rw [getLsbD_append, if_neg (by omega)]
  rw [getLsbD_append, if_neg (by omega)]
@[simp] theorem extM_bit58' (mo : BitVec 8) (o : BitVec 48) (i : BitVec 7) : (extM mo o i)[58] = (mo : BitVec 8).getLsbD 2 := extM_bit58 mo o i
theorem extM_bit63 (mo : BitVec 8) (o : BitVec 48) (i : BitVec 7) : (extM mo o i).getLsbD 63 = (mo : BitVec 8).getLsbD 7 := by
  unfold extM
  rw [getLsbD_append, if_neg (by omega)]
  rw [getLsbD_append, if_neg (by omega)]
  rw [getLsbD_append, if_neg (by omega)]
@[simp] theorem extM_bit63' (mo : BitVec 8) (o : BitVec 48) (i : BitVec 7) : (extM mo o i)[63] = (mo : BitVec 8).getLsbD 7 := extM_bit63 mo o i
@[simp] theorem encV_at0 (m : BitVec 6) (t : BitVec 5) (k : MReg) (b a d : BitVec 5) : (encV m t k b a d).extractLsb' 0 2 = 1#2 := by
  unfold encV
  rw [extractLsb'_append_eq_of_add_le (by omega)]
  exact extractLsb'_eq_self
@[simp] theorem encV_at2 (m : BitVec 6) (t : BitVec 5) (k : MReg) (b a d : BitVec 5) : (encV m t k b a d).extractLsb' 2 6 = m := by
  unfold encV
  rw [extractLsb'_append_eq_of_le (by omega)]
  rw [extractLsb'_append_eq_of_add_le (by omega)]
  exact extractLsb'_eq_self
@[simp] theorem encV_at8 (m : BitVec 6) (t : BitVec 5) (k : MReg) (b a d : BitVec 5) : (encV m t k b a d).extractLsb' 8 5 = d := by
  unfold encV
  rw [extractLsb'_append_eq_of_le (by omega)]
  rw [extractLsb'_append_eq_of_le (by omega)]
  rw [extractLsb'_append_eq_of_add_le (by omega)]
  exact extractLsb'_eq_self
@[simp] theorem encV_at13 (m : BitVec 6) (t : BitVec 5) (k : MReg) (b a d : BitVec 5) : (encV m t k b a d).extractLsb' 13 5 = a := by
  unfold encV
  rw [extractLsb'_append_eq_of_le (by omega)]
  rw [extractLsb'_append_eq_of_le (by omega)]
  rw [extractLsb'_append_eq_of_le (by omega)]
  rw [extractLsb'_append_eq_of_add_le (by omega)]
  exact extractLsb'_eq_self
@[simp] theorem encV_at18 (m : BitVec 6) (t : BitVec 5) (k : MReg) (b a d : BitVec 5) : (encV m t k b a d).extractLsb' 18 5 = b := by
  unfold encV
  rw [extractLsb'_append_eq_of_le (by omega)]
  rw [extractLsb'_append_eq_of_le (by omega)]
  rw [extractLsb'_append_eq_of_le (by omega)]
  rw [extractLsb'_append_eq_of_le (by omega)]
  rw [extractLsb'_append_eq_of_add_le (by omega)]
  exact extractLsb'_eq_self
@[simp] theorem encV_at23 (m : BitVec 6) (t : BitVec 5) (k : MReg) (b a d : BitVec 5) : (encV m t k b a d).extractLsb' 23 3 = k := by
  unfold encV
  rw [extractLsb'_append_eq_of_le (by omega)]
  rw [extractLsb'_append_eq_of_le (by omega)]
  rw [extractLsb'_append_eq_of_le (by omega)]
  rw [extractLsb'_append_eq_of_le (by omega)]
  rw [extractLsb'_append_eq_of_le (by omega)]
  rw [extractLsb'_append_eq_of_add_le (by omega)]
  exact extractLsb'_eq_self
@[simp] theorem encV_at26 (m : BitVec 6) (t : BitVec 5) (k : MReg) (b a d : BitVec 5) : (encV m t k b a d).extractLsb' 26 5 = t := by
  unfold encV
  rw [extractLsb'_append_eq_of_le (by omega)]
  rw [extractLsb'_append_eq_of_le (by omega)]
  rw [extractLsb'_append_eq_of_le (by omega)]
  rw [extractLsb'_append_eq_of_le (by omega)]
  rw [extractLsb'_append_eq_of_le (by omega)]
  rw [extractLsb'_append_eq_of_le (by omega)]
  rw [extractLsb'_append_eq_of_add_le (by omega)]
  exact extractLsb'_eq_self
@[simp] theorem encV_at31 (m : BitVec 6) (t : BitVec 5) (k : MReg) (b a d : BitVec 5) : (encV m t k b a d).extractLsb' 31 1 = 0#1 := by
  unfold encV
  rw [extractLsb'_append_eq_of_le (by omega)]
  rw [extractLsb'_append_eq_of_le (by omega)]
  rw [extractLsb'_append_eq_of_le (by omega)]
  rw [extractLsb'_append_eq_of_le (by omega)]
  rw [extractLsb'_append_eq_of_le (by omega)]
  rw [extractLsb'_append_eq_of_le (by omega)]
  rw [extractLsb'_append_eq_of_le (by omega)]
  exact extractLsb'_eq_self
@[simp] theorem vword_at0 (e : VExt) : (e.word).extractLsb' 0 8 = e.fn := by
  unfold VExt.word
  rw [extractLsb'_append_eq_of_add_le (by omega)]
  exact extractLsb'_eq_self
@[simp] theorem vword_at8 (e : VExt) : (e.word).extractLsb' 8 3 = e.rm := by
  unfold VExt.word
  rw [extractLsb'_append_eq_of_le (by omega)]
  rw [extractLsb'_append_eq_of_add_le (by omega)]
  exact extractLsb'_eq_self
@[simp] theorem vword_at11 (e : VExt) : (e.word).extractLsb' 11 1 = BitVec.ofBool e.sat := by
  unfold VExt.word
  rw [extractLsb'_append_eq_of_le (by omega)]
  rw [extractLsb'_append_eq_of_le (by omega)]
  rw [extractLsb'_append_eq_of_add_le (by omega)]
  exact extractLsb'_eq_self
@[simp] theorem vword_at12 (e : VExt) : (e.word).extractLsb' 12 1 = 0#1 := by
  unfold VExt.word
  rw [extractLsb'_append_eq_of_le (by omega)]
  rw [extractLsb'_append_eq_of_le (by omega)]
  rw [extractLsb'_append_eq_of_le (by omega)]
  rw [extractLsb'_append_eq_of_add_le (by omega)]
  exact extractLsb'_eq_self
@[simp] theorem vword_at13 (e : VExt) : (e.word).extractLsb' 13 5 = e.t2 := by
  unfold VExt.word
  rw [extractLsb'_append_eq_of_le (by omega)]
  rw [extractLsb'_append_eq_of_le (by omega)]
  rw [extractLsb'_append_eq_of_le (by omega)]
  rw [extractLsb'_append_eq_of_le (by omega)]
  rw [extractLsb'_append_eq_of_add_le (by omega)]
  exact extractLsb'_eq_self
@[simp] theorem vword_at18 (e : VExt) : (e.word).extractLsb' 18 5 = e.c := by
  unfold VExt.word
  rw [extractLsb'_append_eq_of_le (by omega)]
  rw [extractLsb'_append_eq_of_le (by omega)]
  rw [extractLsb'_append_eq_of_le (by omega)]
  rw [extractLsb'_append_eq_of_le (by omega)]
  rw [extractLsb'_append_eq_of_le (by omega)]
  rw [extractLsb'_append_eq_of_add_le (by omega)]
  exact extractLsb'_eq_self
@[simp] theorem vword_at23 (e : VExt) : (e.word).extractLsb' 23 9 = 0#9 := by
  unfold VExt.word
  rw [extractLsb'_append_eq_of_le (by omega)]
  rw [extractLsb'_append_eq_of_le (by omega)]
  rw [extractLsb'_append_eq_of_le (by omega)]
  rw [extractLsb'_append_eq_of_le (by omega)]
  rw [extractLsb'_append_eq_of_le (by omega)]
  rw [extractLsb'_append_eq_of_le (by omega)]
  rw [extractLsb'_append_eq_of_add_le (by omega)]
  exact extractLsb'_eq_self
@[simp] theorem vword_at32 (e : VExt) : (e.word).extractLsb' 32 7 = e.ssel := by
  unfold VExt.word
  rw [extractLsb'_append_eq_of_le (by omega)]
  rw [extractLsb'_append_eq_of_le (by omega)]
  rw [extractLsb'_append_eq_of_le (by omega)]
  rw [extractLsb'_append_eq_of_le (by omega)]
  rw [extractLsb'_append_eq_of_le (by omega)]
  rw [extractLsb'_append_eq_of_le (by omega)]
  rw [extractLsb'_append_eq_of_le (by omega)]
  rw [extractLsb'_append_eq_of_add_le (by omega)]
  exact extractLsb'_eq_self
@[simp] theorem vword_at39 (e : VExt) : (e.word).extractLsb' 39 1 = BitVec.ofBool e.sp := by
  unfold VExt.word
  rw [extractLsb'_append_eq_of_le (by omega)]
  rw [extractLsb'_append_eq_of_le (by omega)]
  rw [extractLsb'_append_eq_of_le (by omega)]
  rw [extractLsb'_append_eq_of_le (by omega)]
  rw [extractLsb'_append_eq_of_le (by omega)]
  rw [extractLsb'_append_eq_of_le (by omega)]
  rw [extractLsb'_append_eq_of_le (by omega)]
  rw [extractLsb'_append_eq_of_le (by omega)]
  rw [extractLsb'_append_eq_of_add_le (by omega)]
  exact extractLsb'_eq_self
@[simp] theorem vword_at40 (e : VExt) : (e.word).extractLsb' 40 11 = e.lane := by
  unfold VExt.word
  rw [extractLsb'_append_eq_of_le (by omega)]
  rw [extractLsb'_append_eq_of_le (by omega)]
  rw [extractLsb'_append_eq_of_le (by omega)]
  rw [extractLsb'_append_eq_of_le (by omega)]
  rw [extractLsb'_append_eq_of_le (by omega)]
  rw [extractLsb'_append_eq_of_le (by omega)]
  rw [extractLsb'_append_eq_of_le (by omega)]
  rw [extractLsb'_append_eq_of_le (by omega)]
  rw [extractLsb'_append_eq_of_le (by omega)]
  rw [extractLsb'_append_eq_of_add_le (by omega)]
  exact extractLsb'_eq_self
@[simp] theorem vword_at51 (e : VExt) : (e.word).extractLsb' 51 4 = e.op := by
  unfold VExt.word
  rw [extractLsb'_append_eq_of_le (by omega)]
  rw [extractLsb'_append_eq_of_le (by omega)]
  rw [extractLsb'_append_eq_of_le (by omega)]
  rw [extractLsb'_append_eq_of_le (by omega)]
  rw [extractLsb'_append_eq_of_le (by omega)]
  rw [extractLsb'_append_eq_of_le (by omega)]
  rw [extractLsb'_append_eq_of_le (by omega)]
  rw [extractLsb'_append_eq_of_le (by omega)]
  rw [extractLsb'_append_eq_of_le (by omega)]
  rw [extractLsb'_append_eq_of_le (by omega)]
  rw [extractLsb'_append_eq_of_add_le (by omega)]
  exact extractLsb'_eq_self
@[simp] theorem vword_at55 (e : VExt) : (e.word).extractLsb' 55 2 = e.grp := by
  unfold VExt.word
  rw [extractLsb'_append_eq_of_le (by omega)]
  rw [extractLsb'_append_eq_of_le (by omega)]
  rw [extractLsb'_append_eq_of_le (by omega)]
  rw [extractLsb'_append_eq_of_le (by omega)]
  rw [extractLsb'_append_eq_of_le (by omega)]
  rw [extractLsb'_append_eq_of_le (by omega)]
  rw [extractLsb'_append_eq_of_le (by omega)]
  rw [extractLsb'_append_eq_of_le (by omega)]
  rw [extractLsb'_append_eq_of_le (by omega)]
  rw [extractLsb'_append_eq_of_le (by omega)]
  rw [extractLsb'_append_eq_of_le (by omega)]
  rw [extractLsb'_append_eq_of_add_le (by omega)]
  exact extractLsb'_eq_self
@[simp] theorem vword_at57 (e : VExt) : (e.word).extractLsb' 57 2 = e.tbl := by
  unfold VExt.word
  rw [extractLsb'_append_eq_of_le (by omega)]
  rw [extractLsb'_append_eq_of_le (by omega)]
  rw [extractLsb'_append_eq_of_le (by omega)]
  rw [extractLsb'_append_eq_of_le (by omega)]
  rw [extractLsb'_append_eq_of_le (by omega)]
  rw [extractLsb'_append_eq_of_le (by omega)]
  rw [extractLsb'_append_eq_of_le (by omega)]
  rw [extractLsb'_append_eq_of_le (by omega)]
  rw [extractLsb'_append_eq_of_le (by omega)]
  rw [extractLsb'_append_eq_of_le (by omega)]
  rw [extractLsb'_append_eq_of_le (by omega)]
  rw [extractLsb'_append_eq_of_le (by omega)]
  rw [extractLsb'_append_eq_of_add_le (by omega)]
  exact extractLsb'_eq_self
@[simp] theorem vword_at59 (e : VExt) : (e.word).extractLsb' 59 1 = BitVec.ofBool e.qin := by
  unfold VExt.word
  rw [extractLsb'_append_eq_of_le (by omega)]
  rw [extractLsb'_append_eq_of_le (by omega)]
  rw [extractLsb'_append_eq_of_le (by omega)]
  rw [extractLsb'_append_eq_of_le (by omega)]
  rw [extractLsb'_append_eq_of_le (by omega)]
  rw [extractLsb'_append_eq_of_le (by omega)]
  rw [extractLsb'_append_eq_of_le (by omega)]
  rw [extractLsb'_append_eq_of_le (by omega)]
  rw [extractLsb'_append_eq_of_le (by omega)]
  rw [extractLsb'_append_eq_of_le (by omega)]
  rw [extractLsb'_append_eq_of_le (by omega)]
  rw [extractLsb'_append_eq_of_le (by omega)]
  rw [extractLsb'_append_eq_of_le (by omega)]
  rw [extractLsb'_append_eq_of_add_le (by omega)]
  exact extractLsb'_eq_self
@[simp] theorem vword_at60 (e : VExt) : (e.word).extractLsb' 60 3 = 0#3 := by
  unfold VExt.word
  rw [extractLsb'_append_eq_of_le (by omega)]
  rw [extractLsb'_append_eq_of_le (by omega)]
  rw [extractLsb'_append_eq_of_le (by omega)]
  rw [extractLsb'_append_eq_of_le (by omega)]
  rw [extractLsb'_append_eq_of_le (by omega)]
  rw [extractLsb'_append_eq_of_le (by omega)]
  rw [extractLsb'_append_eq_of_le (by omega)]
  rw [extractLsb'_append_eq_of_le (by omega)]
  rw [extractLsb'_append_eq_of_le (by omega)]
  rw [extractLsb'_append_eq_of_le (by omega)]
  rw [extractLsb'_append_eq_of_le (by omega)]
  rw [extractLsb'_append_eq_of_le (by omega)]
  rw [extractLsb'_append_eq_of_le (by omega)]
  rw [extractLsb'_append_eq_of_le (by omega)]
  rw [extractLsb'_append_eq_of_add_le (by omega)]
  exact extractLsb'_eq_self
@[simp] theorem vword_at63 (e : VExt) : (e.word).extractLsb' 63 1 = BitVec.ofBool e.flag := by
  unfold VExt.word
  rw [extractLsb'_append_eq_of_le (by omega)]
  rw [extractLsb'_append_eq_of_le (by omega)]
  rw [extractLsb'_append_eq_of_le (by omega)]
  rw [extractLsb'_append_eq_of_le (by omega)]
  rw [extractLsb'_append_eq_of_le (by omega)]
  rw [extractLsb'_append_eq_of_le (by omega)]
  rw [extractLsb'_append_eq_of_le (by omega)]
  rw [extractLsb'_append_eq_of_le (by omega)]
  rw [extractLsb'_append_eq_of_le (by omega)]
  rw [extractLsb'_append_eq_of_le (by omega)]
  rw [extractLsb'_append_eq_of_le (by omega)]
  rw [extractLsb'_append_eq_of_le (by omega)]
  rw [extractLsb'_append_eq_of_le (by omega)]
  rw [extractLsb'_append_eq_of_le (by omega)]
  rw [extractLsb'_append_eq_of_le (by omega)]
  exact extractLsb'_eq_self
@[simp] theorem vword_at40_7 (e : VExt) : (e.word).extractLsb' 40 7 = (e.lane : BitVec 11).extractLsb' 0 7 := by
  unfold VExt.word
  rw [extractLsb'_append_eq_of_le (by omega)]
  rw [extractLsb'_append_eq_of_le (by omega)]
  rw [extractLsb'_append_eq_of_le (by omega)]
  rw [extractLsb'_append_eq_of_le (by omega)]
  rw [extractLsb'_append_eq_of_le (by omega)]
  rw [extractLsb'_append_eq_of_le (by omega)]
  rw [extractLsb'_append_eq_of_le (by omega)]
  rw [extractLsb'_append_eq_of_le (by omega)]
  rw [extractLsb'_append_eq_of_le (by omega)]
  rw [extractLsb'_append_eq_of_add_le (by omega)]
@[simp] theorem vword_at40_5 (e : VExt) : (e.word).extractLsb' 40 5 = (e.lane : BitVec 11).extractLsb' 0 5 := by
  unfold VExt.word
  rw [extractLsb'_append_eq_of_le (by omega)]
  rw [extractLsb'_append_eq_of_le (by omega)]
  rw [extractLsb'_append_eq_of_le (by omega)]
  rw [extractLsb'_append_eq_of_le (by omega)]
  rw [extractLsb'_append_eq_of_le (by omega)]
  rw [extractLsb'_append_eq_of_le (by omega)]
  rw [extractLsb'_append_eq_of_le (by omega)]
  rw [extractLsb'_append_eq_of_le (by omega)]
  rw [extractLsb'_append_eq_of_le (by omega)]
  rw [extractLsb'_append_eq_of_add_le (by omega)]
@[simp] theorem vword_at40_4 (e : VExt) : (e.word).extractLsb' 40 4 = (e.lane : BitVec 11).extractLsb' 0 4 := by
  unfold VExt.word
  rw [extractLsb'_append_eq_of_le (by omega)]
  rw [extractLsb'_append_eq_of_le (by omega)]
  rw [extractLsb'_append_eq_of_le (by omega)]
  rw [extractLsb'_append_eq_of_le (by omega)]
  rw [extractLsb'_append_eq_of_le (by omega)]
  rw [extractLsb'_append_eq_of_le (by omega)]
  rw [extractLsb'_append_eq_of_le (by omega)]
  rw [extractLsb'_append_eq_of_le (by omega)]
  rw [extractLsb'_append_eq_of_le (by omega)]
  rw [extractLsb'_append_eq_of_add_le (by omega)]
theorem vword_bit39 (e : VExt) : (e.word).getLsbD 39 = (BitVec.ofBool e.sp : BitVec 1).getLsbD 0 := by
  unfold VExt.word
  rw [getLsbD_append, if_neg (by omega)]
  rw [getLsbD_append, if_neg (by omega)]
  rw [getLsbD_append, if_neg (by omega)]
  rw [getLsbD_append, if_neg (by omega)]
  rw [getLsbD_append, if_neg (by omega)]
  rw [getLsbD_append, if_neg (by omega)]
  rw [getLsbD_append, if_neg (by omega)]
  rw [getLsbD_append, if_neg (by omega)]
  rw [getLsbD_append, if_pos (by omega)]
@[simp] theorem vword_bit39' (e : VExt) : (e.word)[39] = (BitVec.ofBool e.sp : BitVec 1).getLsbD 0 := vword_bit39 e
theorem vword_bit59 (e : VExt) : (e.word).getLsbD 59 = (BitVec.ofBool e.qin : BitVec 1).getLsbD 0 := by
  unfold VExt.word
  rw [getLsbD_append, if_neg (by omega)]
  rw [getLsbD_append, if_neg (by omega)]
  rw [getLsbD_append, if_neg (by omega)]
  rw [getLsbD_append, if_neg (by omega)]
  rw [getLsbD_append, if_neg (by omega)]
  rw [getLsbD_append, if_neg (by omega)]
  rw [getLsbD_append, if_neg (by omega)]
  rw [getLsbD_append, if_neg (by omega)]
  rw [getLsbD_append, if_neg (by omega)]
  rw [getLsbD_append, if_neg (by omega)]
  rw [getLsbD_append, if_neg (by omega)]
  rw [getLsbD_append, if_neg (by omega)]
  rw [getLsbD_append, if_neg (by omega)]
  rw [getLsbD_append, if_pos (by omega)]
@[simp] theorem vword_bit59' (e : VExt) : (e.word)[59] = (BitVec.ofBool e.qin : BitVec 1).getLsbD 0 := vword_bit59 e
theorem vword_bit63 (e : VExt) : (e.word).getLsbD 63 = (BitVec.ofBool e.flag : BitVec 1).getLsbD 0 := by
  unfold VExt.word
  rw [getLsbD_append, if_neg (by omega)]
  rw [getLsbD_append, if_neg (by omega)]
  rw [getLsbD_append, if_neg (by omega)]
  rw [getLsbD_append, if_neg (by omega)]
  rw [getLsbD_append, if_neg (by omega)]
  rw [getLsbD_append, if_neg (by omega)]
  rw [getLsbD_append, if_neg (by omega)]
  rw [getLsbD_append, if_neg (by omega)]
  rw [getLsbD_append, if_neg (by omega)]
  rw [getLsbD_append, if_neg (by omega)]
  rw [getLsbD_append, if_neg (by omega)]
  rw [getLsbD_append, if_neg (by omega)]
  rw [getLsbD_append, if_neg (by omega)]
  rw [getLsbD_append, if_neg (by omega)]
  rw [getLsbD_append, if_neg (by omega)]
@[simp] theorem vword_bit63' (e : VExt) : (e.word)[63] = (BitVec.ofBool e.flag : BitVec 1).getLsbD 0 := vword_bit63 e
@[simp] theorem copyCode_at0 (f : CopyFlags) : (f.code).extractLsb' 0 6 = f.sfmt.code := by
  unfold CopyFlags.code
  rw [extractLsb'_append_eq_of_add_le (by omega)]
  exact extractLsb'_eq_self
@[simp] theorem copyCode_at6 (f : CopyFlags) : (f.code).extractLsb' 6 6 = f.dfmt.code := by
  unfold CopyFlags.code
  rw [extractLsb'_append_eq_of_le (by omega)]
  rw [extractLsb'_append_eq_of_add_le (by omega)]
  exact extractLsb'_eq_self
@[simp] theorem copyCode_at12 (f : CopyFlags) : (f.code).extractLsb' 12 1 = BitVec.ofBool f.ssp := by
  unfold CopyFlags.code
  rw [extractLsb'_append_eq_of_le (by omega)]
  rw [extractLsb'_append_eq_of_le (by omega)]
  rw [extractLsb'_append_eq_of_add_le (by omega)]
  exact extractLsb'_eq_self
@[simp] theorem copyCode_at13 (f : CopyFlags) : (f.code).extractLsb' 13 1 = BitVec.ofBool f.dsp := by
  unfold CopyFlags.code
  rw [extractLsb'_append_eq_of_le (by omega)]
  rw [extractLsb'_append_eq_of_le (by omega)]
  rw [extractLsb'_append_eq_of_le (by omega)]
  rw [extractLsb'_append_eq_of_add_le (by omega)]
  exact extractLsb'_eq_self
@[simp] theorem copyCode_at14 (f : CopyFlags) : (f.code).extractLsb' 14 3 = f.rm.code := by
  unfold CopyFlags.code
  rw [extractLsb'_append_eq_of_le (by omega)]
  rw [extractLsb'_append_eq_of_le (by omega)]
  rw [extractLsb'_append_eq_of_le (by omega)]
  rw [extractLsb'_append_eq_of_le (by omega)]
  rw [extractLsb'_append_eq_of_add_le (by omega)]
  exact extractLsb'_eq_self
@[simp] theorem copyCode_at17 (f : CopyFlags) : (f.code).extractLsb' 17 1 = BitVec.ofBool f.sat := by
  unfold CopyFlags.code
  rw [extractLsb'_append_eq_of_le (by omega)]
  rw [extractLsb'_append_eq_of_le (by omega)]
  rw [extractLsb'_append_eq_of_le (by omega)]
  rw [extractLsb'_append_eq_of_le (by omega)]
  rw [extractLsb'_append_eq_of_le (by omega)]
  rw [extractLsb'_append_eq_of_add_le (by omega)]
  exact extractLsb'_eq_self
@[simp] theorem copyCode_at18 (f : CopyFlags) : (f.code).extractLsb' 18 18 = 0#18 := by
  unfold CopyFlags.code
  rw [extractLsb'_append_eq_of_le (by omega)]
  rw [extractLsb'_append_eq_of_le (by omega)]
  rw [extractLsb'_append_eq_of_le (by omega)]
  rw [extractLsb'_append_eq_of_le (by omega)]
  rw [extractLsb'_append_eq_of_le (by omega)]
  rw [extractLsb'_append_eq_of_le (by omega)]
  exact extractLsb'_eq_self
theorem copyCode_bit17 (f : CopyFlags) : (f.code).getLsbD 17 = (BitVec.ofBool f.sat : BitVec 1).getLsbD 0 := by
  unfold CopyFlags.code
  rw [getLsbD_append, if_neg (by omega)]
  rw [getLsbD_append, if_neg (by omega)]
  rw [getLsbD_append, if_neg (by omega)]
  rw [getLsbD_append, if_neg (by omega)]
  rw [getLsbD_append, if_neg (by omega)]
  rw [getLsbD_append, if_pos (by omega)]
@[simp] theorem copyCode_bit17' (f : CopyFlags) : (f.code)[17] = (BitVec.ofBool f.sat : BitVec 1).getLsbD 0 := copyCode_bit17 f
theorem copyCode_bit13 (f : CopyFlags) : (f.code).getLsbD 13 = (BitVec.ofBool f.dsp : BitVec 1).getLsbD 0 := by
  unfold CopyFlags.code
  rw [getLsbD_append, if_neg (by omega)]
  rw [getLsbD_append, if_neg (by omega)]
  rw [getLsbD_append, if_neg (by omega)]
  rw [getLsbD_append, if_pos (by omega)]
@[simp] theorem copyCode_bit13' (f : CopyFlags) : (f.code)[13] = (BitVec.ofBool f.dsp : BitVec 1).getLsbD 0 := copyCode_bit13 f
theorem copyCode_bit12 (f : CopyFlags) : (f.code).getLsbD 12 = (BitVec.ofBool f.ssp : BitVec 1).getLsbD 0 := by
  unfold CopyFlags.code
  rw [getLsbD_append, if_neg (by omega)]
  rw [getLsbD_append, if_neg (by omega)]
  rw [getLsbD_append, if_pos (by omega)]
@[simp] theorem copyCode_bit12' (f : CopyFlags) : (f.code)[12] = (BitVec.ofBool f.ssp : BitVec 1).getLsbD 0 := copyCode_bit12 f
@[simp] theorem crcCode_at0 (d s k : Bool) : (crcFlags d s k).extractLsb' 0 12 = 0#12 := by
  unfold crcFlags
  rw [extractLsb'_append_eq_of_add_le (by omega)]
  exact extractLsb'_eq_self
@[simp] theorem crcCode_at12 (d s k : Bool) : (crcFlags d s k).extractLsb' 12 1 = BitVec.ofBool s := by
  unfold crcFlags
  rw [extractLsb'_append_eq_of_le (by omega)]
  rw [extractLsb'_append_eq_of_add_le (by omega)]
  exact extractLsb'_eq_self
@[simp] theorem crcCode_at13 (d s k : Bool) : (crcFlags d s k).extractLsb' 13 1 = BitVec.ofBool d := by
  unfold crcFlags
  rw [extractLsb'_append_eq_of_le (by omega)]
  rw [extractLsb'_append_eq_of_le (by omega)]
  rw [extractLsb'_append_eq_of_add_le (by omega)]
  exact extractLsb'_eq_self
@[simp] theorem crcCode_at14 (d s k : Bool) : (crcFlags d s k).extractLsb' 14 4 = 0#4 := by
  unfold crcFlags
  rw [extractLsb'_append_eq_of_le (by omega)]
  rw [extractLsb'_append_eq_of_le (by omega)]
  rw [extractLsb'_append_eq_of_le (by omega)]
  rw [extractLsb'_append_eq_of_add_le (by omega)]
  exact extractLsb'_eq_self
@[simp] theorem crcCode_at18 (d s k : Bool) : (crcFlags d s k).extractLsb' 18 1 = BitVec.ofBool k := by
  unfold crcFlags
  rw [extractLsb'_append_eq_of_le (by omega)]
  rw [extractLsb'_append_eq_of_le (by omega)]
  rw [extractLsb'_append_eq_of_le (by omega)]
  rw [extractLsb'_append_eq_of_le (by omega)]
  rw [extractLsb'_append_eq_of_add_le (by omega)]
  exact extractLsb'_eq_self
@[simp] theorem crcCode_at19 (d s k : Bool) : (crcFlags d s k).extractLsb' 19 17 = 0#17 := by
  unfold crcFlags
  rw [extractLsb'_append_eq_of_le (by omega)]
  rw [extractLsb'_append_eq_of_le (by omega)]
  rw [extractLsb'_append_eq_of_le (by omega)]
  rw [extractLsb'_append_eq_of_le (by omega)]
  rw [extractLsb'_append_eq_of_le (by omega)]
  exact extractLsb'_eq_self
theorem crcCode_bit18 (d s k : Bool) : (crcFlags d s k).getLsbD 18 = (BitVec.ofBool k : BitVec 1).getLsbD 0 := by
  unfold crcFlags
  rw [getLsbD_append, if_neg (by omega)]
  rw [getLsbD_append, if_neg (by omega)]
  rw [getLsbD_append, if_neg (by omega)]
  rw [getLsbD_append, if_neg (by omega)]
  rw [getLsbD_append, if_pos (by omega)]
@[simp] theorem crcCode_bit18' (d s k : Bool) : (crcFlags d s k)[18] = (BitVec.ofBool k : BitVec 1).getLsbD 0 := crcCode_bit18 d s k
theorem crcCode_bit13 (d s k : Bool) : (crcFlags d s k).getLsbD 13 = (BitVec.ofBool d : BitVec 1).getLsbD 0 := by
  unfold crcFlags
  rw [getLsbD_append, if_neg (by omega)]
  rw [getLsbD_append, if_neg (by omega)]
  rw [getLsbD_append, if_pos (by omega)]
@[simp] theorem crcCode_bit13' (d s k : Bool) : (crcFlags d s k)[13] = (BitVec.ofBool d : BitVec 1).getLsbD 0 := crcCode_bit13 d s k
theorem crcCode_bit12 (d s k : Bool) : (crcFlags d s k).getLsbD 12 = (BitVec.ofBool s : BitVec 1).getLsbD 0 := by
  unfold crcFlags
  rw [getLsbD_append, if_neg (by omega)]
  rw [getLsbD_append, if_pos (by omega)]
@[simp] theorem crcCode_bit12' (d s k : Bool) : (crcFlags d s k)[12] = (BitVec.ofBool s : BitVec 1).getLsbD 0 := crcCode_bit12 d s k
@[simp] theorem fl35_at0 (b : Bool) : ((0#35 ++ BitVec.ofBool b : BitVec 36)).extractLsb' 0 1 = BitVec.ofBool b := by
  rw [extractLsb'_append_eq_of_add_le (by omega)]
  exact extractLsb'_eq_self
@[simp] theorem fl35_at1 (b : Bool) : ((0#35 ++ BitVec.ofBool b : BitVec 36)).extractLsb' 1 35 = 0#35 := by
  rw [extractLsb'_append_eq_of_le (by omega)]
  exact extractLsb'_eq_self
theorem fl35_bit0 (b : Bool) : ((0#35 ++ BitVec.ofBool b : BitVec 36)).getLsbD 0 = (BitVec.ofBool b : BitVec 1).getLsbD 0 := by
  rw [getLsbD_append, if_pos (by omega)]
@[simp] theorem fl35_bit0' (b : Bool) : ((0#35 ++ BitVec.ofBool b : BitVec 36))[0] = (BitVec.ofBool b : BitVec 1).getLsbD 0 := fl35_bit0 b
@[simp] theorem flMwld_at0 (h : Bool) (f : BitVec 6) : ((0#29 ++ BitVec.ofBool h ++ f : BitVec 36)).extractLsb' 0 6 = f := by
  rw [extractLsb'_append_eq_of_add_le (by omega)]
  exact extractLsb'_eq_self
@[simp] theorem flMwld_at6 (h : Bool) (f : BitVec 6) : ((0#29 ++ BitVec.ofBool h ++ f : BitVec 36)).extractLsb' 6 1 = BitVec.ofBool h := by
  rw [extractLsb'_append_eq_of_le (by omega)]
  rw [extractLsb'_append_eq_of_add_le (by omega)]
  exact extractLsb'_eq_self
@[simp] theorem flMwld_at7 (h : Bool) (f : BitVec 6) : ((0#29 ++ BitVec.ofBool h ++ f : BitVec 36)).extractLsb' 7 29 = 0#29 := by
  rw [extractLsb'_append_eq_of_le (by omega)]
  rw [extractLsb'_append_eq_of_le (by omega)]
  exact extractLsb'_eq_self
theorem flMwld_bit6 (h : Bool) (f : BitVec 6) : ((0#29 ++ BitVec.ofBool h ++ f : BitVec 36)).getLsbD 6 = (BitVec.ofBool h : BitVec 1).getLsbD 0 := by
  rw [getLsbD_append, if_neg (by omega)]
  rw [getLsbD_append, if_pos (by omega)]
@[simp] theorem flMwld_bit6' (h : Bool) (f : BitVec 6) : ((0#29 ++ BitVec.ofBool h ++ f : BitVec 36))[6] = (BitVec.ofBool h : BitVec 1).getLsbD 0 := flMwld_bit6 h f
@[simp] theorem flMstrm_at0 (t a : Bool) (f : BitVec 6) : ((0#28 ++ BitVec.ofBool t ++ BitVec.ofBool a ++ f : BitVec 36)).extractLsb' 0 6 = f := by
  rw [extractLsb'_append_eq_of_add_le (by omega)]
  exact extractLsb'_eq_self
@[simp] theorem flMstrm_at6 (t a : Bool) (f : BitVec 6) : ((0#28 ++ BitVec.ofBool t ++ BitVec.ofBool a ++ f : BitVec 36)).extractLsb' 6 1 = BitVec.ofBool a := by
  rw [extractLsb'_append_eq_of_le (by omega)]
  rw [extractLsb'_append_eq_of_add_le (by omega)]
  exact extractLsb'_eq_self
@[simp] theorem flMstrm_at7 (t a : Bool) (f : BitVec 6) : ((0#28 ++ BitVec.ofBool t ++ BitVec.ofBool a ++ f : BitVec 36)).extractLsb' 7 1 = BitVec.ofBool t := by
  rw [extractLsb'_append_eq_of_le (by omega)]
  rw [extractLsb'_append_eq_of_le (by omega)]
  rw [extractLsb'_append_eq_of_add_le (by omega)]
  exact extractLsb'_eq_self
@[simp] theorem flMstrm_at8 (t a : Bool) (f : BitVec 6) : ((0#28 ++ BitVec.ofBool t ++ BitVec.ofBool a ++ f : BitVec 36)).extractLsb' 8 28 = 0#28 := by
  rw [extractLsb'_append_eq_of_le (by omega)]
  rw [extractLsb'_append_eq_of_le (by omega)]
  rw [extractLsb'_append_eq_of_le (by omega)]
  exact extractLsb'_eq_self
theorem flMstrm_bit6 (t a : Bool) (f : BitVec 6) : ((0#28 ++ BitVec.ofBool t ++ BitVec.ofBool a ++ f : BitVec 36)).getLsbD 6 = (BitVec.ofBool a : BitVec 1).getLsbD 0 := by
  rw [getLsbD_append, if_neg (by omega)]
  rw [getLsbD_append, if_pos (by omega)]
@[simp] theorem flMstrm_bit6' (t a : Bool) (f : BitVec 6) : ((0#28 ++ BitVec.ofBool t ++ BitVec.ofBool a ++ f : BitVec 36))[6] = (BitVec.ofBool a : BitVec 1).getLsbD 0 := flMstrm_bit6 t a f
theorem flMstrm_bit7 (t a : Bool) (f : BitVec 6) : ((0#28 ++ BitVec.ofBool t ++ BitVec.ofBool a ++ f : BitVec 36)).getLsbD 7 = (BitVec.ofBool t : BitVec 1).getLsbD 0 := by
  rw [getLsbD_append, if_neg (by omega)]
  rw [getLsbD_append, if_neg (by omega)]
  rw [getLsbD_append, if_pos (by omega)]
@[simp] theorem flMstrm_bit7' (t a : Bool) (f : BitVec 6) : ((0#28 ++ BitVec.ofBool t ++ BitVec.ofBool a ++ f : BitVec 36))[7] = (BitVec.ofBool t : BitVec 1).getLsbD 0 := flMstrm_bit7 t a f
@[simp] theorem flMgrp_at0 (a : Bool) (w f : BitVec 6) : ((0#23 ++ BitVec.ofBool a ++ w ++ f : BitVec 36)).extractLsb' 0 6 = f := by
  rw [extractLsb'_append_eq_of_add_le (by omega)]
  exact extractLsb'_eq_self
@[simp] theorem flMgrp_at6 (a : Bool) (w f : BitVec 6) : ((0#23 ++ BitVec.ofBool a ++ w ++ f : BitVec 36)).extractLsb' 6 6 = w := by
  rw [extractLsb'_append_eq_of_le (by omega)]
  rw [extractLsb'_append_eq_of_add_le (by omega)]
  exact extractLsb'_eq_self
@[simp] theorem flMgrp_at12 (a : Bool) (w f : BitVec 6) : ((0#23 ++ BitVec.ofBool a ++ w ++ f : BitVec 36)).extractLsb' 12 1 = BitVec.ofBool a := by
  rw [extractLsb'_append_eq_of_le (by omega)]
  rw [extractLsb'_append_eq_of_le (by omega)]
  rw [extractLsb'_append_eq_of_add_le (by omega)]
  exact extractLsb'_eq_self
@[simp] theorem flMgrp_at13 (a : Bool) (w f : BitVec 6) : ((0#23 ++ BitVec.ofBool a ++ w ++ f : BitVec 36)).extractLsb' 13 23 = 0#23 := by
  rw [extractLsb'_append_eq_of_le (by omega)]
  rw [extractLsb'_append_eq_of_le (by omega)]
  rw [extractLsb'_append_eq_of_le (by omega)]
  exact extractLsb'_eq_self
theorem flMgrp_bit12 (a : Bool) (w f : BitVec 6) : ((0#23 ++ BitVec.ofBool a ++ w ++ f : BitVec 36)).getLsbD 12 = (BitVec.ofBool a : BitVec 1).getLsbD 0 := by
  rw [getLsbD_append, if_neg (by omega)]
  rw [getLsbD_append, if_neg (by omega)]
  rw [getLsbD_append, if_pos (by omega)]
@[simp] theorem flMgrp_bit12' (a : Bool) (w f : BitVec 6) : ((0#23 ++ BitVec.ofBool a ++ w ++ f : BitVec 36))[12] = (BitVec.ofBool a : BitVec 1).getLsbD 0 := flMgrp_bit12 a w f
@[simp] theorem flMdrn_at0 (c a d s : Bool) (r : BitVec 3) (f : BitVec 6) : ((0#23 ++ BitVec.ofBool c ++ BitVec.ofBool a ++ BitVec.ofBool d ++ BitVec.ofBool s ++ r ++ f : BitVec 36)).extractLsb' 0 6 = f := by
  rw [extractLsb'_append_eq_of_add_le (by omega)]
  exact extractLsb'_eq_self
@[simp] theorem flMdrn_at6 (c a d s : Bool) (r : BitVec 3) (f : BitVec 6) : ((0#23 ++ BitVec.ofBool c ++ BitVec.ofBool a ++ BitVec.ofBool d ++ BitVec.ofBool s ++ r ++ f : BitVec 36)).extractLsb' 6 3 = r := by
  rw [extractLsb'_append_eq_of_le (by omega)]
  rw [extractLsb'_append_eq_of_add_le (by omega)]
  exact extractLsb'_eq_self
@[simp] theorem flMdrn_at9 (c a d s : Bool) (r : BitVec 3) (f : BitVec 6) : ((0#23 ++ BitVec.ofBool c ++ BitVec.ofBool a ++ BitVec.ofBool d ++ BitVec.ofBool s ++ r ++ f : BitVec 36)).extractLsb' 9 1 = BitVec.ofBool s := by
  rw [extractLsb'_append_eq_of_le (by omega)]
  rw [extractLsb'_append_eq_of_le (by omega)]
  rw [extractLsb'_append_eq_of_add_le (by omega)]
  exact extractLsb'_eq_self
@[simp] theorem flMdrn_at10 (c a d s : Bool) (r : BitVec 3) (f : BitVec 6) : ((0#23 ++ BitVec.ofBool c ++ BitVec.ofBool a ++ BitVec.ofBool d ++ BitVec.ofBool s ++ r ++ f : BitVec 36)).extractLsb' 10 1 = BitVec.ofBool d := by
  rw [extractLsb'_append_eq_of_le (by omega)]
  rw [extractLsb'_append_eq_of_le (by omega)]
  rw [extractLsb'_append_eq_of_le (by omega)]
  rw [extractLsb'_append_eq_of_add_le (by omega)]
  exact extractLsb'_eq_self
@[simp] theorem flMdrn_at11 (c a d s : Bool) (r : BitVec 3) (f : BitVec 6) : ((0#23 ++ BitVec.ofBool c ++ BitVec.ofBool a ++ BitVec.ofBool d ++ BitVec.ofBool s ++ r ++ f : BitVec 36)).extractLsb' 11 1 = BitVec.ofBool a := by
  rw [extractLsb'_append_eq_of_le (by omega)]
  rw [extractLsb'_append_eq_of_le (by omega)]
  rw [extractLsb'_append_eq_of_le (by omega)]
  rw [extractLsb'_append_eq_of_le (by omega)]
  rw [extractLsb'_append_eq_of_add_le (by omega)]
  exact extractLsb'_eq_self
@[simp] theorem flMdrn_at12 (c a d s : Bool) (r : BitVec 3) (f : BitVec 6) : ((0#23 ++ BitVec.ofBool c ++ BitVec.ofBool a ++ BitVec.ofBool d ++ BitVec.ofBool s ++ r ++ f : BitVec 36)).extractLsb' 12 1 = BitVec.ofBool c := by
  rw [extractLsb'_append_eq_of_le (by omega)]
  rw [extractLsb'_append_eq_of_le (by omega)]
  rw [extractLsb'_append_eq_of_le (by omega)]
  rw [extractLsb'_append_eq_of_le (by omega)]
  rw [extractLsb'_append_eq_of_le (by omega)]
  rw [extractLsb'_append_eq_of_add_le (by omega)]
  exact extractLsb'_eq_self
@[simp] theorem flMdrn_at13 (c a d s : Bool) (r : BitVec 3) (f : BitVec 6) : ((0#23 ++ BitVec.ofBool c ++ BitVec.ofBool a ++ BitVec.ofBool d ++ BitVec.ofBool s ++ r ++ f : BitVec 36)).extractLsb' 13 23 = 0#23 := by
  rw [extractLsb'_append_eq_of_le (by omega)]
  rw [extractLsb'_append_eq_of_le (by omega)]
  rw [extractLsb'_append_eq_of_le (by omega)]
  rw [extractLsb'_append_eq_of_le (by omega)]
  rw [extractLsb'_append_eq_of_le (by omega)]
  rw [extractLsb'_append_eq_of_le (by omega)]
  exact extractLsb'_eq_self
theorem flMdrn_bit9 (c a d s : Bool) (r : BitVec 3) (f : BitVec 6) : ((0#23 ++ BitVec.ofBool c ++ BitVec.ofBool a ++ BitVec.ofBool d ++ BitVec.ofBool s ++ r ++ f : BitVec 36)).getLsbD 9 = (BitVec.ofBool s : BitVec 1).getLsbD 0 := by
  rw [getLsbD_append, if_neg (by omega)]
  rw [getLsbD_append, if_neg (by omega)]
  rw [getLsbD_append, if_pos (by omega)]
@[simp] theorem flMdrn_bit9' (c a d s : Bool) (r : BitVec 3) (f : BitVec 6) : ((0#23 ++ BitVec.ofBool c ++ BitVec.ofBool a ++ BitVec.ofBool d ++ BitVec.ofBool s ++ r ++ f : BitVec 36))[9] = (BitVec.ofBool s : BitVec 1).getLsbD 0 := flMdrn_bit9 c a d s r f
theorem flMdrn_bit10 (c a d s : Bool) (r : BitVec 3) (f : BitVec 6) : ((0#23 ++ BitVec.ofBool c ++ BitVec.ofBool a ++ BitVec.ofBool d ++ BitVec.ofBool s ++ r ++ f : BitVec 36)).getLsbD 10 = (BitVec.ofBool d : BitVec 1).getLsbD 0 := by
  rw [getLsbD_append, if_neg (by omega)]
  rw [getLsbD_append, if_neg (by omega)]
  rw [getLsbD_append, if_neg (by omega)]
  rw [getLsbD_append, if_pos (by omega)]
@[simp] theorem flMdrn_bit10' (c a d s : Bool) (r : BitVec 3) (f : BitVec 6) : ((0#23 ++ BitVec.ofBool c ++ BitVec.ofBool a ++ BitVec.ofBool d ++ BitVec.ofBool s ++ r ++ f : BitVec 36))[10] = (BitVec.ofBool d : BitVec 1).getLsbD 0 := flMdrn_bit10 c a d s r f
theorem flMdrn_bit11 (c a d s : Bool) (r : BitVec 3) (f : BitVec 6) : ((0#23 ++ BitVec.ofBool c ++ BitVec.ofBool a ++ BitVec.ofBool d ++ BitVec.ofBool s ++ r ++ f : BitVec 36)).getLsbD 11 = (BitVec.ofBool a : BitVec 1).getLsbD 0 := by
  rw [getLsbD_append, if_neg (by omega)]
  rw [getLsbD_append, if_neg (by omega)]
  rw [getLsbD_append, if_neg (by omega)]
  rw [getLsbD_append, if_neg (by omega)]
  rw [getLsbD_append, if_pos (by omega)]
@[simp] theorem flMdrn_bit11' (c a d s : Bool) (r : BitVec 3) (f : BitVec 6) : ((0#23 ++ BitVec.ofBool c ++ BitVec.ofBool a ++ BitVec.ofBool d ++ BitVec.ofBool s ++ r ++ f : BitVec 36))[11] = (BitVec.ofBool a : BitVec 1).getLsbD 0 := flMdrn_bit11 c a d s r f
theorem flMdrn_bit12 (c a d s : Bool) (r : BitVec 3) (f : BitVec 6) : ((0#23 ++ BitVec.ofBool c ++ BitVec.ofBool a ++ BitVec.ofBool d ++ BitVec.ofBool s ++ r ++ f : BitVec 36)).getLsbD 12 = (BitVec.ofBool c : BitVec 1).getLsbD 0 := by
  rw [getLsbD_append, if_neg (by omega)]
  rw [getLsbD_append, if_neg (by omega)]
  rw [getLsbD_append, if_neg (by omega)]
  rw [getLsbD_append, if_neg (by omega)]
  rw [getLsbD_append, if_neg (by omega)]
  rw [getLsbD_append, if_pos (by omega)]
@[simp] theorem flMdrn_bit12' (c a d s : Bool) (r : BitVec 3) (f : BitVec 6) : ((0#23 ++ BitVec.ofBool c ++ BitVec.ofBool a ++ BitVec.ofBool d ++ BitVec.ofBool s ++ r ++ f : BitVec 36))[12] = (BitVec.ofBool c : BitVec 1).getLsbD 0 := flMdrn_bit12 c a d s r f
@[simp] theorem flMcap_at0 (r : BitVec 3) : ((0#33 ++ r : BitVec 36)).extractLsb' 0 3 = r := by
  rw [extractLsb'_append_eq_of_add_le (by omega)]
  exact extractLsb'_eq_self
@[simp] theorem flMcap_at3 (r : BitVec 3) : ((0#33 ++ r : BitVec 36)).extractLsb' 3 33 = 0#33 := by
  rw [extractLsb'_append_eq_of_le (by omega)]
  exact extractLsb'_eq_self
@[simp] theorem flAddw_at0 (f : BitVec 6) : ((0#30 ++ f : BitVec 36)).extractLsb' 0 6 = f := by
  rw [extractLsb'_append_eq_of_add_le (by omega)]
  exact extractLsb'_eq_self
@[simp] theorem flAddw_at6 (f : BitVec 6) : ((0#30 ++ f : BitVec 36)).extractLsb' 6 30 = 0#30 := by
  rw [extractLsb'_append_eq_of_le (by omega)]
  exact extractLsb'_eq_self
@[simp] theorem flWnorm_at0 (r : BitVec 3) (f : BitVec 6) : ((0#27 ++ r ++ f : BitVec 36)).extractLsb' 0 6 = f := by
  rw [extractLsb'_append_eq_of_add_le (by omega)]
  exact extractLsb'_eq_self
@[simp] theorem flWnorm_at6 (r : BitVec 3) (f : BitVec 6) : ((0#27 ++ r ++ f : BitVec 36)).extractLsb' 6 3 = r := by
  rw [extractLsb'_append_eq_of_le (by omega)]
  rw [extractLsb'_append_eq_of_add_le (by omega)]
  exact extractLsb'_eq_self
@[simp] theorem flWnorm_at9 (r : BitVec 3) (f : BitVec 6) : ((0#27 ++ r ++ f : BitVec 36)).extractLsb' 9 27 = 0#27 := by
  rw [extractLsb'_append_eq_of_le (by omega)]
  rw [extractLsb'_append_eq_of_le (by omega)]
  exact extractLsb'_eq_self
@[simp] theorem flWset_at0 (n s : BitVec 7) : ((0#22 ++ n ++ s : BitVec 36)).extractLsb' 0 7 = s := by
  rw [extractLsb'_append_eq_of_add_le (by omega)]
  exact extractLsb'_eq_self
@[simp] theorem flWset_at7 (n s : BitVec 7) : ((0#22 ++ n ++ s : BitVec 36)).extractLsb' 7 7 = n := by
  rw [extractLsb'_append_eq_of_le (by omega)]
  rw [extractLsb'_append_eq_of_add_le (by omega)]
  exact extractLsb'_eq_self
@[simp] theorem flWset_at14 (n s : BitVec 7) : ((0#22 ++ n ++ s : BitVec 36)).extractLsb' 14 22 = 0#22 := by
  rw [extractLsb'_append_eq_of_le (by omega)]
  rw [extractLsb'_append_eq_of_le (by omega)]
  exact extractLsb'_eq_self
@[simp] theorem xField_at0 (w : BitVec 7) (p : BitVec 6) : ((0#51 ++ w ++ p : BitVec 64)).extractLsb' 0 6 = p := by
  rw [extractLsb'_append_eq_of_add_le (by omega)]
  exact extractLsb'_eq_self
@[simp] theorem xField_at6 (w : BitVec 7) (p : BitVec 6) : ((0#51 ++ w ++ p : BitVec 64)).extractLsb' 6 7 = w := by
  rw [extractLsb'_append_eq_of_le (by omega)]
  rw [extractLsb'_append_eq_of_add_le (by omega)]
  exact extractLsb'_eq_self
@[simp] theorem xField_at13 (w : BitVec 7) (p : BitVec 6) : ((0#51 ++ w ++ p : BitVec 64)).extractLsb' 13 51 = 0#51 := by
  rw [extractLsb'_append_eq_of_le (by omega)]
  rw [extractLsb'_append_eq_of_le (by omega)]
  exact extractLsb'_eq_self
@[simp] theorem xCls_at0 (c : BitVec 4) : ((0#60 ++ c : BitVec 64)).extractLsb' 0 4 = c := by
  rw [extractLsb'_append_eq_of_add_le (by omega)]
  exact extractLsb'_eq_self
@[simp] theorem xCls_at4 (c : BitVec 4) : ((0#60 ++ c : BitVec 64)).extractLsb' 4 60 = 0#60 := by
  rw [extractLsb'_append_eq_of_le (by omega)]
  exact extractLsb'_eq_self
@[simp] theorem xCvt_at0 (d s : BitVec 5) : ((0#54 ++ d ++ s : BitVec 64)).extractLsb' 0 5 = s := by
  rw [extractLsb'_append_eq_of_add_le (by omega)]
  exact extractLsb'_eq_self
@[simp] theorem xCvt_at5 (d s : BitVec 5) : ((0#54 ++ d ++ s : BitVec 64)).extractLsb' 5 5 = d := by
  rw [extractLsb'_append_eq_of_le (by omega)]
  rw [extractLsb'_append_eq_of_add_le (by omega)]
  exact extractLsb'_eq_self
@[simp] theorem xCvt_at10 (d s : BitVec 5) : ((0#54 ++ d ++ s : BitVec 64)).extractLsb' 10 54 = 0#54 := by
  rw [extractLsb'_append_eq_of_le (by omega)]
  rw [extractLsb'_append_eq_of_le (by omega)]
  exact extractLsb'_eq_self
@[simp] theorem imm10_at0 (c : BitVec 4) (n : BitVec 6) : ((c ++ n : BitVec 10)).extractLsb' 0 6 = n := by
  rw [extractLsb'_append_eq_of_add_le (by omega)]
  exact extractLsb'_eq_self
@[simp] theorem imm10_at6 (c : BitVec 4) (n : BitVec 6) : ((c ++ n : BitVec 10)).extractLsb' 6 4 = c := by
  rw [extractLsb'_append_eq_of_le (by omega)]
  exact extractLsb'_eq_self
@[simp] theorem imm10_at6_2 (c : BitVec 4) (n : BitVec 6) : ((c ++ n : BitVec 10)).extractLsb' 6 2 = (c : BitVec 4).extractLsb' 0 2 := by
  rw [extractLsb'_append_eq_of_le (by omega)]
@[simp] theorem imm10_at8_2 (c : BitVec 4) (n : BitVec 6) : ((c ++ n : BitVec 10)).extractLsb' 8 2 = (c : BitVec 4).extractLsb' 2 2 := by
  rw [extractLsb'_append_eq_of_le (by omega)]
@[simp] theorem moAmo_at0 (o : BitVec 4) (g : Bool) (k : BitVec 2) : ((0#1 ++ o ++ BitVec.ofBool g ++ k : BitVec 8)).extractLsb' 0 2 = k := by
  rw [extractLsb'_append_eq_of_add_le (by omega)]
  exact extractLsb'_eq_self
@[simp] theorem moAmo_at2 (o : BitVec 4) (g : Bool) (k : BitVec 2) : ((0#1 ++ o ++ BitVec.ofBool g ++ k : BitVec 8)).extractLsb' 2 1 = BitVec.ofBool g := by
  rw [extractLsb'_append_eq_of_le (by omega)]
  rw [extractLsb'_append_eq_of_add_le (by omega)]
  exact extractLsb'_eq_self
@[simp] theorem moAmo_at3 (o : BitVec 4) (g : Bool) (k : BitVec 2) : ((0#1 ++ o ++ BitVec.ofBool g ++ k : BitVec 8)).extractLsb' 3 4 = o := by
  rw [extractLsb'_append_eq_of_le (by omega)]
  rw [extractLsb'_append_eq_of_le (by omega)]
  rw [extractLsb'_append_eq_of_add_le (by omega)]
  exact extractLsb'_eq_self
@[simp] theorem moAmo_at7 (o : BitVec 4) (g : Bool) (k : BitVec 2) : ((0#1 ++ o ++ BitVec.ofBool g ++ k : BitVec 8)).extractLsb' 7 1 = 0#1 := by
  rw [extractLsb'_append_eq_of_le (by omega)]
  rw [extractLsb'_append_eq_of_le (by omega)]
  rw [extractLsb'_append_eq_of_le (by omega)]
  exact extractLsb'_eq_self
theorem moAmo_bit2 (o : BitVec 4) (g : Bool) (k : BitVec 2) : ((0#1 ++ o ++ BitVec.ofBool g ++ k : BitVec 8)).getLsbD 2 = (BitVec.ofBool g : BitVec 1).getLsbD 0 := by
  rw [getLsbD_append, if_neg (by omega)]
  rw [getLsbD_append, if_pos (by omega)]
@[simp] theorem moAmo_bit2' (o : BitVec 4) (g : Bool) (k : BitVec 2) : ((0#1 ++ o ++ BitVec.ofBool g ++ k : BitVec 8))[2] = (BitVec.ofBool g : BitVec 1).getLsbD 0 := moAmo_bit2 o g k
theorem moAmo_bit7 (o : BitVec 4) (g : Bool) (k : BitVec 2) : ((0#1 ++ o ++ BitVec.ofBool g ++ k : BitVec 8)).getLsbD 7 = (0#1 : BitVec 1).getLsbD 0 := by
  rw [getLsbD_append, if_neg (by omega)]
  rw [getLsbD_append, if_neg (by omega)]
  rw [getLsbD_append, if_neg (by omega)]
@[simp] theorem moAmo_bit7' (o : BitVec 4) (g : Bool) (k : BitVec 2) : ((0#1 ++ o ++ BitVec.ofBool g ++ k : BitVec 8))[7] = (0#1 : BitVec 1).getLsbD 0 := moAmo_bit7 o g k
@[simp] theorem moCas_at0 (g : Bool) (k : BitVec 2) : ((0#5 ++ BitVec.ofBool g ++ k : BitVec 8)).extractLsb' 0 2 = k := by
  rw [extractLsb'_append_eq_of_add_le (by omega)]
  exact extractLsb'_eq_self
@[simp] theorem moCas_at2 (g : Bool) (k : BitVec 2) : ((0#5 ++ BitVec.ofBool g ++ k : BitVec 8)).extractLsb' 2 1 = BitVec.ofBool g := by
  rw [extractLsb'_append_eq_of_le (by omega)]
  rw [extractLsb'_append_eq_of_add_le (by omega)]
  exact extractLsb'_eq_self
@[simp] theorem moCas_at3 (g : Bool) (k : BitVec 2) : ((0#5 ++ BitVec.ofBool g ++ k : BitVec 8)).extractLsb' 3 5 = 0#5 := by
  rw [extractLsb'_append_eq_of_le (by omega)]
  rw [extractLsb'_append_eq_of_le (by omega)]
  exact extractLsb'_eq_self
@[simp] theorem moCas_at3_4 (g : Bool) (k : BitVec 2) : ((0#5 ++ BitVec.ofBool g ++ k : BitVec 8)).extractLsb' 3 4 = (0#5 : BitVec 5).extractLsb' 0 4 := by
  rw [extractLsb'_append_eq_of_le (by omega)]
  rw [extractLsb'_append_eq_of_le (by omega)]
theorem moCas_bit2 (g : Bool) (k : BitVec 2) : ((0#5 ++ BitVec.ofBool g ++ k : BitVec 8)).getLsbD 2 = (BitVec.ofBool g : BitVec 1).getLsbD 0 := by
  rw [getLsbD_append, if_neg (by omega)]
  rw [getLsbD_append, if_pos (by omega)]
@[simp] theorem moCas_bit2' (g : Bool) (k : BitVec 2) : ((0#5 ++ BitVec.ofBool g ++ k : BitVec 8))[2] = (BitVec.ofBool g : BitVec 1).getLsbD 0 := moCas_bit2 g k
theorem moCas_bit7 (g : Bool) (k : BitVec 2) : ((0#5 ++ BitVec.ofBool g ++ k : BitVec 8)).getLsbD 7 = (0#5 : BitVec 5).getLsbD 4 := by
  rw [getLsbD_append, if_neg (by omega)]
  rw [getLsbD_append, if_neg (by omega)]
@[simp] theorem moCas_bit7' (g : Bool) (k : BitVec 2) : ((0#5 ++ BitVec.ofBool g ++ k : BitVec 8))[7] = (0#5 : BitVec 5).getLsbD 4 := moCas_bit7 g k
@[simp] theorem moLoad_at0 (g : Bool) : ((0#7 ++ BitVec.ofBool g : BitVec 8)).extractLsb' 0 1 = BitVec.ofBool g := by
  rw [extractLsb'_append_eq_of_add_le (by omega)]
  exact extractLsb'_eq_self
@[simp] theorem moLoad_at1 (g : Bool) : ((0#7 ++ BitVec.ofBool g : BitVec 8)).extractLsb' 1 7 = 0#7 := by
  rw [extractLsb'_append_eq_of_le (by omega)]
  exact extractLsb'_eq_self
@[simp] theorem moLoad_at1_7 (g : Bool) : ((0#7 ++ BitVec.ofBool g : BitVec 8)).extractLsb' 1 7 = 0#7 := by
  rw [extractLsb'_append_eq_of_le (by omega)]
  exact extractLsb'_eq_self
theorem moLoad_bit0 (g : Bool) : ((0#7 ++ BitVec.ofBool g : BitVec 8)).getLsbD 0 = (BitVec.ofBool g : BitVec 1).getLsbD 0 := by
  rw [getLsbD_append, if_pos (by omega)]
@[simp] theorem moLoad_bit0' (g : Bool) : ((0#7 ++ BitVec.ofBool g : BitVec 8))[0] = (BitVec.ofBool g : BitVec 1).getLsbD 0 := moLoad_bit0 g
@[simp] theorem wMovi_at0 (i : BitVec 17) (d : BitVec 7) (l : BitVec 2) : ((i ++ d ++ 0x0C#6 ++ l : BitVec 32)).extractLsb' 0 2 = l := by
  rw [extractLsb'_append_eq_of_add_le (by omega)]
  exact extractLsb'_eq_self
@[simp] theorem wMovi_at2 (i : BitVec 17) (d : BitVec 7) (l : BitVec 2) : ((i ++ d ++ 0x0C#6 ++ l : BitVec 32)).extractLsb' 2 6 = 0x0C#6 := by
  rw [extractLsb'_append_eq_of_le (by omega)]
  rw [extractLsb'_append_eq_of_add_le (by omega)]
  exact extractLsb'_eq_self
@[simp] theorem wMovi_at8 (i : BitVec 17) (d : BitVec 7) (l : BitVec 2) : ((i ++ d ++ 0x0C#6 ++ l : BitVec 32)).extractLsb' 8 7 = d := by
  rw [extractLsb'_append_eq_of_le (by omega)]
  rw [extractLsb'_append_eq_of_le (by omega)]
  rw [extractLsb'_append_eq_of_add_le (by omega)]
  exact extractLsb'_eq_self
@[simp] theorem wMovi_at15 (i : BitVec 17) (d : BitVec 7) (l : BitVec 2) : ((i ++ d ++ 0x0C#6 ++ l : BitVec 32)).extractLsb' 15 17 = i := by
  rw [extractLsb'_append_eq_of_le (by omega)]
  rw [extractLsb'_append_eq_of_le (by omega)]
  rw [extractLsb'_append_eq_of_le (by omega)]
  exact extractLsb'_eq_self
@[simp] theorem wBr_at0 (o : BitVec 24) : ((o ++ 0x18#6 ++ 0#2 : BitVec 32)).extractLsb' 0 2 = 0#2 := by
  rw [extractLsb'_append_eq_of_add_le (by omega)]
  exact extractLsb'_eq_self
@[simp] theorem wBr_at2 (o : BitVec 24) : ((o ++ 0x18#6 ++ 0#2 : BitVec 32)).extractLsb' 2 6 = 0x18#6 := by
  rw [extractLsb'_append_eq_of_le (by omega)]
  rw [extractLsb'_append_eq_of_add_le (by omega)]
  exact extractLsb'_eq_self
@[simp] theorem wBr_at8 (o : BitVec 24) : ((o ++ 0x18#6 ++ 0#2 : BitVec 32)).extractLsb' 8 24 = o := by
  rw [extractLsb'_append_eq_of_le (by omega)]
  rw [extractLsb'_append_eq_of_le (by omega)]
  exact extractLsb'_eq_self
@[simp] theorem wLoop_at0 (b : BitVec 15) (c : BitVec 2) (n : BitVec 7) (l : BitVec 2) : ((b ++ c ++ n ++ 0x1A#6 ++ l : BitVec 32)).extractLsb' 0 2 = l := by
  rw [extractLsb'_append_eq_of_add_le (by omega)]
  exact extractLsb'_eq_self
@[simp] theorem wLoop_at2 (b : BitVec 15) (c : BitVec 2) (n : BitVec 7) (l : BitVec 2) : ((b ++ c ++ n ++ 0x1A#6 ++ l : BitVec 32)).extractLsb' 2 6 = 0x1A#6 := by
  rw [extractLsb'_append_eq_of_le (by omega)]
  rw [extractLsb'_append_eq_of_add_le (by omega)]
  exact extractLsb'_eq_self
@[simp] theorem wLoop_at8 (b : BitVec 15) (c : BitVec 2) (n : BitVec 7) (l : BitVec 2) : ((b ++ c ++ n ++ 0x1A#6 ++ l : BitVec 32)).extractLsb' 8 7 = n := by
  rw [extractLsb'_append_eq_of_le (by omega)]
  rw [extractLsb'_append_eq_of_le (by omega)]
  rw [extractLsb'_append_eq_of_add_le (by omega)]
  exact extractLsb'_eq_self
@[simp] theorem wLoop_at15 (b : BitVec 15) (c : BitVec 2) (n : BitVec 7) (l : BitVec 2) : ((b ++ c ++ n ++ 0x1A#6 ++ l : BitVec 32)).extractLsb' 15 2 = c := by
  rw [extractLsb'_append_eq_of_le (by omega)]
  rw [extractLsb'_append_eq_of_le (by omega)]
  rw [extractLsb'_append_eq_of_le (by omega)]
  rw [extractLsb'_append_eq_of_add_le (by omega)]
  exact extractLsb'_eq_self
@[simp] theorem wLoop_at17 (b : BitVec 15) (c : BitVec 2) (n : BitVec 7) (l : BitVec 2) : ((b ++ c ++ n ++ 0x1A#6 ++ l : BitVec 32)).extractLsb' 17 15 = b := by
  rw [extractLsb'_append_eq_of_le (by omega)]
  rw [extractLsb'_append_eq_of_le (by omega)]
  rw [extractLsb'_append_eq_of_le (by omega)]
  rw [extractLsb'_append_eq_of_le (by omega)]
  exact extractLsb'_eq_self
@[simp] theorem wCall_at0 (i : BitVec 20) : ((i ++ 0#4 ++ 0x1C#6 ++ 0#2 : BitVec 32)).extractLsb' 0 2 = 0#2 := by
  rw [extractLsb'_append_eq_of_add_le (by omega)]
  exact extractLsb'_eq_self
@[simp] theorem wCall_at2 (i : BitVec 20) : ((i ++ 0#4 ++ 0x1C#6 ++ 0#2 : BitVec 32)).extractLsb' 2 6 = 0x1C#6 := by
  rw [extractLsb'_append_eq_of_le (by omega)]
  rw [extractLsb'_append_eq_of_add_le (by omega)]
  exact extractLsb'_eq_self
@[simp] theorem wCall_at8 (i : BitVec 20) : ((i ++ 0#4 ++ 0x1C#6 ++ 0#2 : BitVec 32)).extractLsb' 8 4 = 0#4 := by
  rw [extractLsb'_append_eq_of_le (by omega)]
  rw [extractLsb'_append_eq_of_le (by omega)]
  rw [extractLsb'_append_eq_of_add_le (by omega)]
  exact extractLsb'_eq_self
@[simp] theorem wCall_at12 (i : BitVec 20) : ((i ++ 0#4 ++ 0x1C#6 ++ 0#2 : BitVec 32)).extractLsb' 12 20 = i := by
  rw [extractLsb'_append_eq_of_le (by omega)]
  rw [extractLsb'_append_eq_of_le (by omega)]
  rw [extractLsb'_append_eq_of_le (by omega)]
  exact extractLsb'_eq_self
@[simp] theorem wSpawn_at0 (i : BitVec 20) : ((i ++ 0#4 ++ 0x1E#6 ++ 0#2 : BitVec 32)).extractLsb' 0 2 = 0#2 := by
  rw [extractLsb'_append_eq_of_add_le (by omega)]
  exact extractLsb'_eq_self
@[simp] theorem wSpawn_at2 (i : BitVec 20) : ((i ++ 0#4 ++ 0x1E#6 ++ 0#2 : BitVec 32)).extractLsb' 2 6 = 0x1E#6 := by
  rw [extractLsb'_append_eq_of_le (by omega)]
  rw [extractLsb'_append_eq_of_add_le (by omega)]
  exact extractLsb'_eq_self
@[simp] theorem wSpawn_at8 (i : BitVec 20) : ((i ++ 0#4 ++ 0x1E#6 ++ 0#2 : BitVec 32)).extractLsb' 8 4 = 0#4 := by
  rw [extractLsb'_append_eq_of_le (by omega)]
  rw [extractLsb'_append_eq_of_le (by omega)]
  rw [extractLsb'_append_eq_of_add_le (by omega)]
  exact extractLsb'_eq_self
@[simp] theorem wSpawn_at12 (i : BitVec 20) : ((i ++ 0#4 ++ 0x1E#6 ++ 0#2 : BitVec 32)).extractLsb' 12 20 = i := by
  rw [extractLsb'_append_eq_of_le (by omega)]
  rw [extractLsb'_append_eq_of_le (by omega)]
  rw [extractLsb'_append_eq_of_le (by omega)]
  exact extractLsb'_eq_self
@[simp] theorem r0_at0 (l : BitVec 4) (n : BitVec 7) : ((l ++ n : BitVec 11)).extractLsb' 0 7 = n := by
  rw [extractLsb'_append_eq_of_add_le (by omega)]
  exact extractLsb'_eq_self
@[simp] theorem r0_at7 (l : BitVec 4) (n : BitVec 7) : ((l ++ n : BitVec 11)).extractLsb' 7 4 = l := by
  rw [extractLsb'_append_eq_of_le (by omega)]
  exact extractLsb'_eq_self
@[simp] theorem r6_at0 (l : BitVec 6) (n : BitVec 5) : ((l ++ n : BitVec 11)).extractLsb' 0 5 = n := by
  rw [extractLsb'_append_eq_of_add_le (by omega)]
  exact extractLsb'_eq_self
@[simp] theorem r6_at5 (l : BitVec 6) (n : BitVec 5) : ((l ++ n : BitVec 11)).extractLsb' 5 6 = l := by
  rw [extractLsb'_append_eq_of_le (by omega)]
  exact extractLsb'_eq_self
@[simp] theorem r7_at0 (l : BitVec 7) (n : BitVec 4) : ((l ++ n : BitVec 11)).extractLsb' 0 4 = n := by
  rw [extractLsb'_append_eq_of_add_le (by omega)]
  exact extractLsb'_eq_self
@[simp] theorem r7_at4 (l : BitVec 7) (n : BitVec 4) : ((l ++ n : BitVec 11)).extractLsb' 4 7 = l := by
  rw [extractLsb'_append_eq_of_le (by omega)]
  exact extractLsb'_eq_self
end Sys2Proof.Laws
end

