-- ==== Sys2Proof/Laws/Decoding.lean ====
section
/-! SUPPORT. The decoder at each length and major, and the masks of unused fields on encoded words. -/
set_option linter.unusedSimpArgs false
namespace Sys2Proof.Laws
open BitVec
theorem decode_len0 {w : CodeWord} (m : BitVec 6) (lens : Nat) (hm : majorOf w = m) (hl : lenOf w = 0#2)
    (h : majorLens m.toNat = some lens) (ht : lens.testBit 0 = true) : decode [w] = decodeMajor w 0 0 := by
  unfold decode
  simp only [hm, h, hl]
  simp [ht]
theorem decode_len1 {w : CodeWord} {x : Word} (m : BitVec 6) (lens : Nat) (hm : majorOf w = m) (hl : lenOf w = 1#2)
    (h : majorLens m.toNat = some lens) (ht : lens.testBit 1 = true) : decode (w :: two x) = decodeMajor w x 0 := by
  unfold decode two
  simp only [hm, h, hl]
  simp [ht, join_two]
theorem decode_len2 {w : CodeWord} {x : Word} (m : BitVec 6) (lens : Nat) (hm : majorOf w = m) (hl : lenOf w = 2#2)
    (h : majorLens m.toNat = some lens) (ht : lens.testBit 2 = true) : decode (w :: two x) = decodeMajor w 0 x := by
  unfold decode two
  simp only [hm, h, hl]
  simp [ht, join_two]
theorem decode_len3 {w : CodeWord} {x l : Word} (m : BitVec 6) (lens : Nat) (hm : majorOf w = m) (hl : lenOf w = 3#2)
    (h : majorLens m.toNat = some lens) (ht : lens.testBit 3 = true) : decode (w :: (two x ++ two l)) = decodeMajor w x l := by
  unfold decode two
  simp only [hm, h, hl]
  simp [ht, join_two]
theorem decodeMajor_05 {w : CodeWord} {x l : Word} (h : majorOf w = 5#6) : decodeMajor w x l = decRI w .addi := by
  unfold decodeMajor; rw [h]; rfl
theorem decodeMajor_06 {w : CodeWord} {x l : Word} (h : majorOf w = 6#6) : decodeMajor w x l = decRI w .andi := by
  unfold decodeMajor; rw [h]; rfl
theorem decodeMajor_07 {w : CodeWord} {x l : Word} (h : majorOf w = 7#6) : decodeMajor w x l = decRI w .ori := by
  unfold decodeMajor; rw [h]; rfl
theorem decodeMajor_08 {w : CodeWord} {x l : Word} (h : majorOf w = 8#6) : decodeMajor w x l = decRI w .xori := by
  unfold decodeMajor; rw [h]; rfl
theorem decodeMajor_09 {w : CodeWord} {x l : Word} (h : majorOf w = 9#6) : decodeMajor w x l = decShift w := by
  unfold decodeMajor; rw [h]; rfl
theorem decodeMajor_0A {w : CodeWord} {x l : Word} (h : majorOf w = 10#6) : decodeMajor w x l = decRI w .setlti := by
  unfold decodeMajor; rw [h]; rfl
theorem decodeMajor_0B {w : CodeWord} {x l : Word} (h : majorOf w = 11#6) : decodeMajor w x l = decU w l := by
  unfold decodeMajor; rw [h]; rfl
theorem decodeMajor_0C {w : CodeWord} {x l : Word} (h : majorOf w = 12#6) : decodeMajor w x l = decI w l := by
  unfold decodeMajor; rw [h]; rfl
theorem decodeMajor_0D {w : CodeWord} {x l : Word} (h : majorOf w = 13#6) : decodeMajor w x l = decField w x l := by
  unfold decodeMajor; rw [h]; rfl
theorem decodeMajor_0E {w : CodeWord} {x l : Word} (h : majorOf w = 14#6) : decodeMajor w x l = decPtr w x l := by
  unfold decodeMajor; rw [h]; rfl
theorem decodeMajor_12 {w : CodeWord} {x l : Word} (h : majorOf w = 18#6) : decodeMajor w x l = decCvt w x l := by
  unfold decodeMajor; rw [h]; rfl
theorem decodeMajor_18 {w : CodeWord} {x l : Word} (h : majorOf w = 24#6) : decodeMajor w x l = .ok (.br (w.extractLsb' 8 24)) := by
  unfold decodeMajor; rw [h]; rfl
theorem decodeMajor_19 {w : CodeWord} {x l : Word} (h : majorOf w = 25#6) : decodeMajor w x l = decBC w x l := by
  unfold decodeMajor; rw [h]; rfl
theorem decodeMajor_1A {w : CodeWord} {x l : Word} (h : majorOf w = 26#6) : decodeMajor w x l = decLoop w l := by
  unfold decodeMajor; rw [h]; rfl
theorem decodeMajor_1B {w : CodeWord} {x l : Word} (h : majorOf w = 27#6) : decodeMajor w x l = decWalk w x := by
  unfold decodeMajor; rw [h]; rfl
theorem decodeMajor_1C {w : CodeWord} {x l : Word} (h : majorOf w = 28#6) : decodeMajor w x l = noLa w (.calld (w.extractLsb' 12 20)) := by
  unfold decodeMajor; rw [h]; rfl
theorem decodeMajor_1D {w : CodeWord} {x l : Word} (h : majorOf w = 29#6) : decodeMajor w x l = decCtl w := by
  unfold decodeMajor; rw [h]; rfl
theorem decodeMajor_1E {w : CodeWord} {x l : Word} (h : majorOf w = 30#6) : decodeMajor w x l = noLa w (.spawnd (w.extractLsb' 12 20)) := by
  unfold decodeMajor; rw [h]; rfl
theorem decodeMajor_1F {w : CodeWord} {x l : Word} (h : majorOf w = 31#6) : decodeMajor w x l = decTask w l := by
  unfold decodeMajor; rw [h]; rfl
theorem decodeMajor_20 {w : CodeWord} {x l : Word} (h : majorOf w = 32#6) : decodeMajor w x l = decLoad w x .ldp .ldpExt := by
  unfold decodeMajor; rw [h]; rfl
theorem decodeMajor_21 {w : CodeWord} {x l : Word} (h : majorOf w = 33#6) : decodeMajor w x l = decStore w x .stp .stpExt := by
  unfold decodeMajor; rw [h]; rfl
theorem decodeMajor_22 {w : CodeWord} {x l : Word} (h : majorOf w = 34#6) : decodeMajor w x l = decLoad w x .ldg .ldgExt := by
  unfold decodeMajor; rw [h]; rfl
theorem decodeMajor_23 {w : CodeWord} {x l : Word} (h : majorOf w = 35#6) : decodeMajor w x l = decStore w x .stg .stgExt := by
  unfold decodeMajor; rw [h]; rfl
theorem decodeMajor_24 {w : CodeWord} {x l : Word} (h : majorOf w = 36#6) : decodeMajor w x l = decLoad w x .ldk .ldkExt := by
  unfold decodeMajor; rw [h]; rfl
theorem decodeMajor_25 {w : CodeWord} {x l : Word} (h : majorOf w = 37#6) : decodeMajor w x l = decVLoad w x .vldp .vldpExt := by
  unfold decodeMajor; rw [h]; rfl
theorem decodeMajor_26 {w : CodeWord} {x l : Word} (h : majorOf w = 38#6) : decodeMajor w x l = decVStore w x .vstp .vstpExt := by
  unfold decodeMajor; rw [h]; rfl
theorem decodeMajor_27 {w : CodeWord} {x l : Word} (h : majorOf w = 39#6) : decodeMajor w x l = decVLoad w x .vldg .vldgExt := by
  unfold decodeMajor; rw [h]; rfl
theorem decodeMajor_28 {w : CodeWord} {x l : Word} (h : majorOf w = 40#6) : decodeMajor w x l = decVStore w x .vstg .vstgExt := by
  unfold decodeMajor; rw [h]; rfl
theorem decodeMajor_29 {w : CodeWord} {x l : Word} (h : majorOf w = 41#6) : decodeMajor w x l = decVIndexed w x true := by
  unfold decodeMajor; rw [h]; rfl
theorem decodeMajor_2A {w : CodeWord} {x l : Word} (h : majorOf w = 42#6) : decodeMajor w x l = decVIndexed w x false := by
  unfold decodeMajor; rw [h]; rfl
theorem decodeMajor_2B {w : CodeWord} {x l : Word} (h : majorOf w = 43#6) : decodeMajor w x l = decIo w x := by
  unfold decodeMajor; rw [h]; rfl
theorem decodeMajor_2C {w : CodeWord} {x l : Word} (h : majorOf w = 44#6) : decodeMajor w x l = decCopy w x := by
  unfold decodeMajor; rw [h]; rfl
theorem decodeMajor_2D {w : CodeWord} {x l : Word} (h : majorOf w = 45#6) : decodeMajor w x l = decFence w := by
  unfold decodeMajor; rw [h]; rfl
theorem decodeMajor_30 {w : CodeWord} {x l : Word} (h : majorOf w = 48#6) : decodeMajor w x l = decVArith w x := by
  unfold decodeMajor; rw [h]; rfl
theorem decodeMajor_31 {w : CodeWord} {x l : Word} (h : majorOf w = 49#6) : decodeMajor w x l = decVLogic w x := by
  unfold decodeMajor; rw [h]; rfl
theorem decodeMajor_32 {w : CodeWord} {x l : Word} (h : majorOf w = 50#6) : decodeMajor w x l = decVCompare w x := by
  unfold decodeMajor; rw [h]; rfl
theorem decodeMajor_33 {w : CodeWord} {x l : Word} (h : majorOf w = 51#6) : decodeMajor w x l = decVMove w x := by
  unfold decodeMajor; rw [h]; rfl
theorem decodeMajor_34 {w : CodeWord} {x l : Word} (h : majorOf w = 52#6) : decodeMajor w x l = decVConv w x := by
  unfold decodeMajor; rw [h]; rfl
theorem decodeMajor_35 {w : CodeWord} {x l : Word} (h : majorOf w = 53#6) : decodeMajor w x l = decVItp w x := by
  unfold decodeMajor; rw [h]; rfl
theorem decodeMajor_36 {w : CodeWord} {x l : Word} (h : majorOf w = 54#6) : decodeMajor w x l = decMask w x := by
  unfold decodeMajor; rw [h]; rfl
theorem decodeMajor_38 {w : CodeWord} {x l : Word} (h : majorOf w = 56#6) : decodeMajor w x l = decMatrix w x := by
  unfold decodeMajor; rw [h]; rfl
theorem decodeMajor_39 {w : CodeWord} {x l : Word} (h : majorOf w = 57#6) : decodeMajor w x l = decMatrix2 w x := by
  unfold decodeMajor; rw [h]; rfl
theorem decodeMajor_3C {w : CodeWord} {x l : Word} (h : majorOf w = 60#6) : decodeMajor w x l = decAtomic w x := by
  unfold decodeMajor; rw [h]; rfl
theorem decodeMajor_3D {w : CodeWord} {x l : Word} (h : majorOf w = 61#6) : decodeMajor w x l = decBarrier w x := by
  unfold decodeMajor; rw [h]; rfl
theorem decodeMajor_3F {w : CodeWord} {x l : Word} (h : majorOf w = 63#6) : decodeMajor w x l = decPriv w l := by
  unfold decodeMajor; rw [h]; rfl
theorem decodeMajor_01 {w : CodeWord} {x l : Word} (ops : (Sel → Sel → Sel → Instr) × (Sel → Sel → Word → Instr))
    (f : BitVec 3) (h : majorOf w = 1#6) (hf : w.extractLsb' 29 3 = f) (g : rrrOp (8 + f.toNat) = some ops) : decodeMajor w x l = decRRR w l ops := by
  unfold decodeMajor; rw [h, hf]
  show (match rrrOp (8 + f.toNat) with | some ops => decRRR w l ops | none => .error (.reason 3)) = _
  rw [g]
theorem decodeMajor_02 {w : CodeWord} {x l : Word} (ops : (Sel → Sel → Sel → Instr) × (Sel → Sel → Word → Instr))
    (f : BitVec 3) (h : majorOf w = 2#6) (hf : w.extractLsb' 29 3 = f) (g : rrrOp (16 + f.toNat) = some ops) : decodeMajor w x l = decRRR w l ops := by
  unfold decodeMajor; rw [h, hf]
  show (match rrrOp (16 + f.toNat) with | some ops => decRRR w l ops | none => .error (.reason 3)) = _
  rw [g]
theorem decodeMajor_03 {w : CodeWord} {x l : Word} (ops : (Sel → Sel → Sel → Instr) × (Sel → Sel → Word → Instr))
    (f : BitVec 3) (h : majorOf w = 3#6) (hf : w.extractLsb' 29 3 = f) (g : rrrOp (24 + f.toNat) = some ops) : decodeMajor w x l = decRRR w l ops := by
  unfold decodeMajor; rw [h, hf]
  show (match rrrOp (24 + f.toNat) with | some ops => decRRR w l ops | none => .error (.reason 3)) = _
  rw [g]
theorem decodeMajor_04 {w : CodeWord} {x l : Word} (ops : (Sel → Sel → Sel → Instr) × (Sel → Sel → Word → Instr))
    (f : BitVec 3) (h : majorOf w = 4#6) (hf : w.extractLsb' 29 3 = f) (g : rrrOp (32 + f.toNat) = some ops) : decodeMajor w x l = decRRR w l ops := by
  unfold decodeMajor; rw [h, hf]
  show (match rrrOp (32 + f.toNat) with | some ops => decRRR w l ops | none => .error (.reason 3)) = _
  rw [g]
theorem decodeMajor_10 {w : CodeWord} {x l : Word} (ops : (Sel → Sel → Sel → Instr) × (Sel → Sel → Word → Instr))
    (f : BitVec 3) (h : majorOf w = 16#6) (hf : w.extractLsb' 29 3 = f) (g : rrrOp (128 + f.toNat) = some ops) : decodeMajor w x l = decRRR w l ops := by
  unfold decodeMajor; rw [h, hf]
  show (match rrrOp (128 + f.toNat) with | some ops => decRRR w l ops | none => .error (.reason 3)) = _
  rw [g]
theorem decodeMajor_11 {w : CodeWord} {x l : Word} (ops : (Sel → Sel → Sel → Instr) × (Sel → Sel → Word → Instr))
    (f : BitVec 3) (h : majorOf w = 17#6) (hf : w.extractLsb' 29 3 = f) (g : rrrOp (136 + f.toNat) = some ops) (hn : (f.toNat == 2 || f.toNat == 3 || f.toNat == 7) = false) : decodeMajor w x l = decRRR w l ops := by
  unfold decodeMajor; rw [h, hf]
  show (if (true && (f.toNat == 2 || f.toNat == 3 || f.toNat == 7)) = true then _ else match rrrOp (136 + f.toNat) with | some ops => decRRR w l ops | none => .error (.reason 3)) = _
  rw [hn, g]; rfl
theorem decodeMajor_11_2 {w : CodeWord} {x l : Word} (h : majorOf w = 17#6) (hf : w.extractLsb' 29 3 = 2#3) : decodeMajor w x l = decRR w .fsqrt := by
  unfold decodeMajor; rw [h, hf]; rfl
theorem decodeMajor_11_3 {w : CodeWord} {x l : Word} (h : majorOf w = 17#6) (hf : w.extractLsb' 29 3 = 3#3) : decodeMajor w x l = decRR w .frcp := by
  unfold decodeMajor; rw [h, hf]; rfl
theorem decodeMajor_11_7 {w : CodeWord} {x l : Word} (h : majorOf w = 17#6) (hf : w.extractLsb' 29 3 = 7#3) : decodeMajor w x l = decRR w .fclass := by
  unfold decodeMajor; rw [h, hf]; rfl
@[simp] theorem laneBelow_code (t : Ty) (n : BitVec 11) (lim : Ty → Nat) : laneBelow t.code n lim = (!t.hasLanes || n.toNat < lim t) := by
  cases t <;> rfl
@[simp] theorem tyInt_code (t : Ty) : tyInt t.code = t.isInt := by cases t <;> rfl
@[simp] theorem tyKnown_code (t : Ty) : tyKnown t.code = true := by cases t <;> rfl
@[simp] theorem rm_zero (r : Rm) : (r.code == 0#3) = (r == .ne) := by cases r <;> rfl
@[simp] theorem grp_code (g : Grp) : Grp.ofCode g.code = some g := by cases g <;> rfl
@[simp] theorem aop_code (o : AOp) : AOp.ofCode o.code = some o := by cases o <;> rfl
@[simp] theorem fmtGrouped_code (f : Fmt) : fmtGrouped f.code = f.isGrouped := by
  cases f with
  | ty t => cases t <;> rfl
  | grouped e g => cases e <;> cases g <;> rfl
@[simp] theorem code_zero (s : Sel) : (s.code == 0#7) = (s == .g 0) := by
  cases s with
  | g n => revert n; decide
  | k n => revert n; decide
  | z n => revert n; decide
  | w n => revert n; decide
  | c n => revert n; decide
  | mb n => revert n; decide
  | _ => rfl
@[simp] theorem isWalk_w7 (n : BitVec 3) : isWalk (w7 n) = true := by revert n; decide
@[simp] theorem w7_low (n : BitVec 3) : (w7 n).extractLsb' 0 3 = n := by revert n; decide
@[simp] theorem v7_low (n : BitVec 5) : (v7 n).extractLsb' 0 5 = n := by revert n; decide
@[simp] theorem v7_high (n : BitVec 5) : (v7 n).extractLsb' 5 2 = 0#2 := by revert n; decide
@[simp] theorem m5_low (n : BitVec 3) : (m5 n).extractLsb' 0 3 = n := by revert n; decide
@[simp] theorem selK_w7 (n : BitVec 3) (k : Sel → Decoded) : selK (w7 n) k = k (.w n) := selK_code (.w n) k
@[simp] theorem selK_zero (k : Sel → Decoded) : selK 0#7 k = k (.g 0) := rfl
@[simp] theorem selK_nil (k : Sel → Decoded) : selK 74#7 k = k .nil := rfl
@[simp] theorem extE_zero : extE 0#36 0#7 0#7 0#7 0#7 = 0#64 := by decide
@[simp] theorem extE_0_28 (fl : BitVec 36) : (extE fl 0#7 0#7 0#7 0#7).extractLsb' 0 28 = 0#28 := by
  unfold extE
  rw [field_across _ _ _ _ (by omega) (by omega)]
  refine ⟨by decide, ?_⟩
  rw [field_across _ _ _ _ (by omega) (by omega)]
  refine ⟨by decide, ?_⟩
  rw [field_across _ _ _ _ (by omega) (by omega)]
  refine ⟨by decide, ?_⟩
  rw [extractLsb'_append_eq_of_add_le (by omega)]; rfl
@[simp] theorem extE_14_14 (fl : BitVec 36) (p2 p3 : BitVec 7) : (extE fl p2 p3 0#7 0#7).extractLsb' 14 14 = 0#14 := by
  unfold extE
  rw [extractLsb'_append_eq_of_le (by omega), extractLsb'_append_eq_of_le (by omega)]
  rw [field_across _ _ _ _ (by omega) (by omega)]
  refine ⟨by decide, ?_⟩
  rw [extractLsb'_append_eq_of_add_le (by omega)]; rfl
@[simp] theorem extE_7_21 (fl : BitVec 36) (p2 : BitVec 7) : (extE fl p2 0#7 0#7 0#7).extractLsb' 7 21 = 0#21 := by
  unfold extE
  rw [extractLsb'_append_eq_of_le (by omega)]
  rw [field_across _ _ _ _ (by omega) (by omega)]
  refine ⟨by decide, ?_⟩
  rw [field_across _ _ _ _ (by omega) (by omega)]
  refine ⟨by decide, ?_⟩
  rw [extractLsb'_append_eq_of_add_le (by omega)]; rfl
@[simp] theorem extE_7_57 (p2 : BitVec 7) : (extE 0#36 p2 0#7 0#7 0#7).extractLsb' 7 57 = 0#57 := by
  unfold extE
  rw [extractLsb'_append_eq_of_le (by omega)]
  rw [field_across _ _ _ _ (by omega) (by omega)]
  refine ⟨by decide, ?_⟩
  rw [field_across _ _ _ _ (by omega) (by omega)]
  refine ⟨by decide, ?_⟩
  rw [field_across _ _ _ _ (by omega) (by omega)]
  exact ⟨by decide, by decide⟩
@[simp] theorem extE_14_50 (p2 p3 : BitVec 7) : (extE 0#36 p2 p3 0#7 0#7).extractLsb' 14 50 = 0#50 := by
  unfold extE
  rw [extractLsb'_append_eq_of_le (by omega), extractLsb'_append_eq_of_le (by omega)]
  decide
@[simp] theorem extE_28_36 (p2 p3 p4 p5 : BitVec 7) : (extE 0#36 p2 p3 p4 p5).extractLsb' 28 36 = 0#36 := by
  unfold extE
  rw [extractLsb'_append_eq_of_le (by omega), extractLsb'_append_eq_of_le (by omega), extractLsb'_append_eq_of_le (by omega), extractLsb'_append_eq_of_le (by omega)]
  decide
@[simp] theorem extE_5_59 (v : BitVec 5) : (extE 0#36 (v7 v) 0#7 0#7 0#7).extractLsb' 5 59 = 0#59 := by
  unfold extE
  rw [field_across _ _ _ _ (by omega) (by omega)]
  exact ⟨v7_high v, by decide⟩
@[simp] theorem encU_8_14 (m fn : BitVec 6) (x : BitVec 4) (l : BitVec 2) : (encU m fn 0#7 0#7 x l).extractLsb' 8 14 = 0#14 := by
  unfold encU
  rw [extractLsb'_append_eq_of_le (by omega), extractLsb'_append_eq_of_le (by omega)]
  rw [field_across _ _ _ _ (by omega) (by omega)]
  refine ⟨by decide, ?_⟩
  rw [extractLsb'_append_eq_of_add_le (by omega)]; rfl
@[simp] theorem xCvt_0_10 (d s : Ty) : ((0#54 ++ d.code ++ s.code : BitVec 64).extractLsb' 0 10 = 429#10) = (d = .n64 ∧ s = .n64) := by
  cases d <;> cases s <;> decide
@[simp] theorem xCvt_10_54 (d s : BitVec 5) : (0#54 ++ d ++ s : BitVec 64).extractLsb' 10 54 = 0#54 := by
  rw [extractLsb'_append_eq_of_le (by omega), extractLsb'_append_eq_of_le (by omega)]; rfl
@[simp] theorem xField_13_51 (w : BitVec 7) (p : BitVec 6) : (0#51 ++ w ++ p : BitVec 64).extractLsb' 13 51 = 0#51 := by
  rw [extractLsb'_append_eq_of_le (by omega), extractLsb'_append_eq_of_le (by omega)]; rfl
@[simp] theorem off_low (o : BitVec 32) : (o.setWidth 64).extractLsb' 0 32 = o := by
  ext i hi; simp [show i < 64 by omega, BitVec.getLsbD_eq_getElem hi]
@[simp] theorem off_high (o : BitVec 32) : (o.setWidth 64).extractLsb' 32 32 = 0#32 := by
  ext i hi; simp
@[simp] theorem vword_11_2 (e : VExt) : e.word.extractLsb' 11 2 = 0#1 ++ BitVec.ofBool e.sat := by
  unfold VExt.word
  rw [extractLsb'_append_eq_of_le (by omega), extractLsb'_append_eq_of_le (by omega)]
  have g {n : Nat} (x : BitVec n) (b : Bool) : (x ++ 0#1 ++ BitVec.ofBool b).extractLsb' 0 2 = 0#1 ++ BitVec.ofBool b := by
    ext i hi
    rcases (by omega : i = 0 ∨ i = 1) with rfl | rfl <;> cases b <;> simp [getLsbD_append, getElem_append]
  exact g _ _
@[simp] theorem clsK_zero (k : Cls → Decoded) : clsK 0#4 k = k .w1 := rfl
@[simp] theorem aop_zero : AOp.ofCode 0#4 = some .add := rfl
@[simp] theorem add_accepts (w : Cls) : AOp.add.accepts w = w.scalar := by cases w <;> rfl
theorem vredOk_op (op : BitVec 4) (t : Ty) (rm : Rm) (sat : Bool) (h : vredOk op t rm sat = true) :
    op.toNat < 8 ∧ if op = 0#4 then (t.isInt = false ∨ rm = .ne) ∧ (t.isInt = true ∨ sat = false) else rm = .ne ∧ sat = false := by
  revert h; revert op; cases t <;> cases rm <;> cases sat <;> decide
@[simp] theorem sat_zero (b : Bool) : (0#1 ++ BitVec.ofBool b == 0#2) = !b := by cases b <;> rfl
@[simp] theorem m5_mask (m : MReg) : m5 m &&& 24#5 = 0#5 := by revert m; decide
@[simp] theorem lane4_mask (p : BitVec 4) : (0#7 ++ p : BitVec 11) &&& 2032#11 = 0#11 := by revert p; decide
@[simp] theorem lane5_mask (p : BitVec 5) : (0#6 ++ p : BitVec 11) &&& 2016#11 = 0#11 := by revert p; decide
@[simp] theorem lane7_mask (p : BitVec 7) : (0#4 ++ p : BitVec 11) &&& 1920#11 = 0#11 := by revert p; decide
@[simp] theorem encV_mask (m : BitVec 6) (t : BitVec 5) (k : MReg) (b a d : BitVec 5) (c : BitVec 32) : (encV m t k b a d &&& c == 0#32) =
    ((((((((0#1 &&& c.extractLsb' 31 1 == 0#1) && (t &&& c.extractLsb' 26 5 == 0#5)) && (k &&& c.extractLsb' 23 3 == 0#3)) && (b &&& c.extractLsb' 18 5 == 0#5)) &&
      (a &&& c.extractLsb' 13 5 == 0#5)) && (d &&& c.extractLsb' 8 5 == 0#5)) && (m &&& c.extractLsb' 2 6 == 0#6)) && (1#2 &&& c.extractLsb' 0 2 == 0#2)) := by
  unfold encV
  rw [mask_append, mask_append, mask_append, mask_append, mask_append, mask_append, mask_append]
  have e (s n : Nat) (j l : Nat) (h : s + n ≤ l) : (c.extractLsb' j l).extractLsb' s n = c.extractLsb' (j + s) n := by
    ext i hi
    simp [show s + i < l by omega, Nat.add_assoc]
  repeat rw [e _ _ _ _ (by omega)]
@[simp] theorem vword_mask (e : VExt) (c : BitVec 64) : (e.word &&& c == 0#64) =
    ((((((((((((((((BitVec.ofBool e.flag &&& c.extractLsb' 63 1 == 0#1) && (0#3 &&& c.extractLsb' 60 3 == 0#3)) && (BitVec.ofBool e.qin &&& c.extractLsb' 59 1 == 0#1)) && (e.tbl &&& c.extractLsb' 57 2 == 0#2)) && (e.grp &&& c.extractLsb' 55 2 == 0#2)) && (e.op &&& c.extractLsb' 51 4 == 0#4)) && (e.lane &&& c.extractLsb' 40 11 == 0#11)) && (BitVec.ofBool e.sp &&& c.extractLsb' 39 1 == 0#1)) && (e.ssel &&& c.extractLsb' 32 7 == 0#7)) && (0#9 &&& c.extractLsb' 23 9 == 0#9)) && (e.c &&& c.extractLsb' 18 5 == 0#5)) && (e.t2 &&& c.extractLsb' 13 5 == 0#5)) && (0#1 &&& c.extractLsb' 12 1 == 0#1)) && (BitVec.ofBool e.sat &&& c.extractLsb' 11 1 == 0#1)) && (e.rm &&& c.extractLsb' 8 3 == 0#3)) && (e.fn &&& c.extractLsb' 0 8 == 0#8)) := by
  unfold VExt.word
  rw [mask_append, mask_append, mask_append, mask_append, mask_append, mask_append, mask_append, mask_append, mask_append, mask_append, mask_append, mask_append, mask_append, mask_append, mask_append]
  have e' (s n : Nat) (j l : Nat) (h : s + n ≤ l) : (c.extractLsb' j l).extractLsb' s n = c.extractLsb' (j + s) n := by
    ext i hi
    simp [show s + i < l by omega, Nat.add_assoc]
  repeat rw [e' _ _ _ _ (by omega)]
end Sys2Proof.Laws
end

