-- ==== Sys2Proof/Laws/Maps.lean ====
section
/-! SUPPORT. Laws of the sparse maps and of memory: a read after a write, at the place and elsewhere, and the canonical
form, which every operation keeps. -/

namespace Sys2Proof.Machine

variable {α : Type}

theorem SMap.look_drop_same (d : α) (m : SMap α) (k : Nat) : SMap.look d (SMap.drop m k) k = d := by
  induction m with
  | nil => rfl
  | cons p m ih =>
    obtain ⟨a, v⟩ := p
    simp only [SMap.drop]
    split
    · exact ih
    · simp_all [SMap.look]

theorem SMap.look_drop_other (d : α) (m : SMap α) {k j : Nat} (h : j ≠ k) :
    SMap.look d (SMap.drop m k) j = SMap.look d m j := by
  induction m with
  | nil => rfl
  | cons p m ih =>
    obtain ⟨a, v⟩ := p
    simp only [SMap.drop]
    split
    · next e => subst e; rw [ih, SMap.look, if_neg h]
    · simp only [SMap.look, ih]

theorem SMap.look_list_same (d : α) (m : SMap α) (k : Nat) (v : α) : SMap.look d (SMap.list m k v) k = v := by
  induction m with
  | nil => simp [SMap.list, SMap.look]
  | cons p m ih =>
    obtain ⟨a, w⟩ := p
    simp only [SMap.list]
    split
    · simp [SMap.look]
    · split
      · simp [SMap.look]
      · next h => rw [SMap.look, if_neg h, ih]

theorem SMap.look_list_other (d : α) (m : SMap α) {k j : Nat} (v : α) (h : j ≠ k) :
    SMap.look d (SMap.list m k v) j = SMap.look d m j := by
  induction m with
  | nil => simp [SMap.list, SMap.look, h]
  | cons p m ih =>
    obtain ⟨a, w⟩ := p
    simp only [SMap.list]
    split
    · simp [SMap.look, h]
    · split
      · next e => subst e; simp [SMap.look, h]
      · simp only [SMap.look, ih]

variable [DecidableEq α]

/-- A map reads what was last put under the key. -/
@[simp] theorem SMap.look_put_same (d : α) (m : SMap α) (k : Nat) (v : α) : SMap.look d (SMap.put d m k v) k = v := by
  unfold SMap.put
  split
  · next h => rw [SMap.look_drop_same, h]
  · exact SMap.look_list_same d m k v

/-- A put leaves every other key. -/
theorem SMap.look_put_other (d : α) (m : SMap α) {k j : Nat} (v : α) (h : j ≠ k) :
    SMap.look d (SMap.put d m k v) j = SMap.look d m j := by
  unfold SMap.put
  split
  · exact SMap.look_drop_other d m h
  · exact SMap.look_list_other d m v h

theorem SMap.look_put (d : α) (m : SMap α) (k j : Nat) (v : α) :
    SMap.look d (SMap.put d m k v) j = if j = k then v else SMap.look d m j := by
  split
  · next h => subst h; exact SMap.look_put_same d m j v
  · next h => exact SMap.look_put_other d m v h

omit [DecidableEq α] in
/-- A map with every value changed by a function that keeps the default. -/
theorem SMap.look_map {β : Type} (d : α) (e : β) (f : Nat → α → β) (h : ∀ k, f k d = e) (m : SMap α) (k : Nat) :
    SMap.look e (m.map fun p => (p.1, f p.1 p.2)) k = f k (SMap.look d m k) := by
  induction m with
  | nil => exact (h k).symm
  | cons p m ih =>
    obtain ⟨a, v⟩ := p
    simp only [List.map, SMap.look, ih]
    split
    · next e => rw [e]
    · rfl

/-! The canonical form. -/

theorem SMap.above_mono (d : α) {lo hi : Nat} (h : lo ≤ hi) (m : SMap α) (g : SMap.above d hi m = true) :
    SMap.above d lo m = true := by
  cases m with
  | nil => rfl
  | cons p m =>
    obtain ⟨a, v⟩ := p
    simp only [SMap.above, Bool.and_eq_true, decide_eq_true_eq] at g ⊢
    exact ⟨⟨by omega, g.1.2⟩, g.2⟩

theorem SMap.above_drop (d : α) (lo : Nat) (m : SMap α) (k : Nat) (h : SMap.above d lo m = true) :
    SMap.above d lo (SMap.drop m k) = true := by
  induction m generalizing lo with
  | nil => rfl
  | cons p m ih =>
    obtain ⟨a, v⟩ := p
    simp only [SMap.above, Bool.and_eq_true, decide_eq_true_eq] at h
    simp only [SMap.drop]
    split
    · exact ih lo (SMap.above_mono d (by omega) m h.2)
    · simp only [SMap.above, Bool.and_eq_true, decide_eq_true_eq]
      exact ⟨h.1, ih (a + 1) h.2⟩

theorem SMap.above_list (d : α) (lo : Nat) (m : SMap α) (k : Nat) (v : α) (hv : v ≠ d) (hk : lo ≤ k)
    (h : SMap.above d lo m = true) : SMap.above d lo (SMap.list m k v) = true := by
  induction m generalizing lo with
  | nil => simp [SMap.list, SMap.above, hv, hk]
  | cons p m ih =>
    obtain ⟨a, w⟩ := p
    simp only [SMap.above, Bool.and_eq_true, decide_eq_true_eq, bne_iff_ne] at h
    simp only [SMap.list]
    split
    · next g => simp [SMap.above, hv, hk, h.1.2, h.2]; omega
    · split
      · next e => subst e; simp [SMap.above, hv, hk, h.2]
      · next g1 g2 =>
        simp only [SMap.above, Bool.and_eq_true, decide_eq_true_eq, bne_iff_ne]
        exact ⟨h.1, ih (a + 1) (by omega) h.2⟩

/-- A put keeps the canonical form. -/
theorem SMap.wf_put (d : α) (m : SMap α) (k : Nat) (v : α) (h : SMap.wf d m = true) : SMap.wf d (SMap.put d m k v) = true := by
  unfold SMap.put
  split
  · exact SMap.above_drop d 0 m k h
  · next g => exact SMap.above_list d 0 m k v g (Nat.zero_le _) h

/-- Equal reads of canonical maps are equal maps. -/
theorem SMap.look_low (d : α) {lo k : Nat} (m : SMap α) (h : SMap.above d lo m = true) (g : k < lo) : SMap.look d m k = d := by
  induction m generalizing lo with
  | nil => rfl
  | cons p m ih =>
    obtain ⟨a, v⟩ := p
    simp only [SMap.above, Bool.and_eq_true, decide_eq_true_eq] at h
    rw [SMap.look, if_neg (by omega)]
    exact ih h.2 (by omega)

/-! Memory. -/

@[simp] theorem Memory.byte_setByte_same (m : Memory) (a : Nat) (v : Byte) : (m.setByte a v).byte a = v :=
  SMap.look_put_same _ m a v

theorem Memory.byte_setByte (m : Memory) (a b : Nat) (v : Byte) : (m.setByte a v).byte b = if b = a then v else m.byte b :=
  SMap.look_put _ m a b v

/-- One byte written keeps the canonical form. -/
theorem Memory.wf_setByte (m : Memory) (a : Nat) (v : Byte) (h : m.wf = true) : (m.setByte a v).wf = true := SMap.wf_put _ m a v h

/-- A run of bytes written keeps the canonical form. -/
theorem Memory.wf_setSpan (m : Memory) (a n v : Nat) (h : m.wf = true) : (m.setSpan a n v).wf = true := by
  induction n generalizing m a v with
  | zero => exact h
  | succ n ih => exact ih _ _ _ (m.wf_setByte _ _ h)

/-- Bits written keep the canonical form. -/
theorem Memory.wf_setBits (m : Memory) (bit n v : Nat) (h : m.wf = true) : (m.setBits bit n v).wf = true :=
  Memory.wf_setSpan m _ _ _ h

/-- One bit of memory. -/
theorem Memory.testBit_span (m : Memory) (a n i : Nat) :
    (m.span a n).testBit i = (decide (i < 8 * n) && (m.byte (a + i / 8)).getLsbD (i % 8)) := by
  induction n generalizing a i with
  | zero => simp [Memory.span]
  | succ n ih =>
    rw [Memory.span, show 256 = 2 ^ 8 from rfl, Nat.add_comm, Nat.testBit_two_pow_mul_add _ (m.byte a).isLt]
    split
    · next h =>
      rw [show a + i / 8 = a by omega, Nat.mod_eq_of_lt h]
      simp [show i < 8 * (n + 1) by omega, BitVec.getLsbD]
    · next h =>
      rw [ih, show a + 1 + (i - 8) / 8 = a + i / 8 by omega, show (i - 8) % 8 = i % 8 by omega]
      congr 1
      exact decide_eq_decide.mpr (by omega)

theorem Memory.byte_setSpan (m : Memory) (a n v b : Nat) :
    (m.setSpan a n v).byte b = if a ≤ b ∧ b < a + n then BitVec.ofNat 8 (v / 256 ^ (b - a)) else m.byte b := by
  induction n generalizing m a v with
  | zero => rw [if_neg (by omega)]; rfl
  | succ n ih =>
    rw [Memory.setSpan, ih, Memory.byte_setByte]
    by_cases h : b = a
    · subst h
      rw [if_neg (by omega), if_pos rfl, if_pos (by omega)]
      simp
    · by_cases g : a + 1 ≤ b ∧ b < a + 1 + n
      · rw [if_pos g, if_pos (by omega), Nat.div_div_eq_div_mul, ← Nat.pow_succ']
        rw [show (b - (a + 1)).succ = b - a by omega]
      · rw [if_neg g, if_neg h, if_neg (by omega)]

/-- The bit of memory at a bit address. -/
def Memory.bitAt (m : Memory) (k : Nat) : Bool := (m.byte (k / 8)).getLsbD (k % 8)

/-- What a read of memory gives, bit by bit. -/
theorem Memory.testBit_bits (m : Memory) (bit n i : Nat) :
    (m.bits bit n).testBit i = (decide (i < n) && m.bitAt (bit + i)) := by
  unfold Memory.bits Memory.bitAt byteCount
  rw [Nat.testBit_mod_two_pow, Nat.testBit_div_two_pow, Memory.testBit_span]
  by_cases h : i < n
  · rw [show bit / 8 + (i + bit % 8) / 8 = (bit + i) / 8 by omega, show (i + bit % 8) % 8 = (bit + i) % 8 by omega]
    simp [h]
    intro _
    omega
  · simp [h]

/-- What a write leaves, bit by bit. -/
theorem Memory.bitAt_setBits (m : Memory) (bit n v k : Nat) :
    (m.setBits bit n v).bitAt k = if bit ≤ k ∧ k < bit + n then v.testBit (k - bit) else m.bitAt k := by
  unfold Memory.setBits Memory.bitAt byteCount
  simp only
  rw [Memory.byte_setSpan]
  split
  · next h =>
    rw [show (256 : Nat) = 2 ^ 8 from rfl, ← Nat.pow_mul, BitVec.getLsbD_ofNat]
    have key : ∀ old j : Nat, (old % 2 ^ (bit % 8) + 2 ^ (bit % 8) * (v % 2 ^ n) + 2 ^ (bit % 8 + n) * (old / 2 ^ (bit % 8 + n))).testBit j
        = if bit % 8 ≤ j ∧ j < bit % 8 + n then v.testBit (j - bit % 8) else old.testBit j := by
      intro old j
      have e : old % 2 ^ (bit % 8) + 2 ^ (bit % 8) * (v % 2 ^ n) + 2 ^ (bit % 8 + n) * (old / 2 ^ (bit % 8 + n))
          = 2 ^ (bit % 8) * (2 ^ n * (old / 2 ^ (bit % 8 + n)) + v % 2 ^ n) + old % 2 ^ (bit % 8) := by
        rw [Nat.pow_add, Nat.mul_add, Nat.mul_assoc]; omega
      rw [e, Nat.testBit_two_pow_mul_add _ (Nat.mod_lt _ (Nat.two_pow_pos _))]
      by_cases a1 : j < bit % 8
      · rw [if_pos a1, if_neg (by omega), Nat.testBit_mod_two_pow]; simp [a1]
      · rw [if_neg a1, Nat.testBit_two_pow_mul_add _ (Nat.mod_lt _ (Nat.two_pow_pos _))]
        by_cases a2 : j - bit % 8 < n
        · rw [if_pos a2, if_pos (by omega), Nat.testBit_mod_two_pow]; simp [a2]
        · rw [if_neg a2, if_neg (by omega), Nat.testBit_div_two_pow]
          congr 1; omega
    rw [Nat.testBit_div_two_pow, key, Memory.testBit_span]
    have p1 : 8 * (k / 8 - bit / 8) + k % 8 = k - bit / 8 * 8 := by omega
    simp only [Nat.add_comm (k % 8), p1, show k % 8 < 8 by omega, decide_true, Bool.true_and]
    by_cases g : bit ≤ k ∧ k < bit + n
    · rw [if_pos g, if_pos (by omega)]; congr 1; omega
    · rw [if_neg g, if_neg (by omega), show bit / 8 + (k - bit / 8 * 8) / 8 = k / 8 by omega, show (k - bit / 8 * 8) % 8 = k % 8 by omega]
      simp
      intro _
      omega
  · next h => rw [if_neg (by omega)]

/-- A read after a write of the same bits gives the value written. -/
theorem Memory.bits_setBits_same (m : Memory) (bit n v : Nat) : (m.setBits bit n v).bits bit n = v % 2 ^ n := by
  apply Nat.eq_of_testBit_eq
  intro i
  rw [Memory.testBit_bits, Memory.bitAt_setBits, Nat.testBit_mod_two_pow]
  by_cases h : i < n
  · rw [if_pos (by omega)]; simp [h]
  · simp [h]

/-- A write leaves every bit outside it. -/
theorem Memory.bits_setBits_other (m : Memory) (bit n v b k : Nat) (h : b + k ≤ bit ∨ bit + n ≤ b) :
    (m.setBits bit n v).bits b k = m.bits b k := by
  apply Nat.eq_of_testBit_eq
  intro i
  rw [Memory.testBit_bits, Memory.testBit_bits, Memory.bitAt_setBits]
  by_cases g : i < k
  · rw [if_neg (by omega)]
  · simp [g]

theorem Memory.bit_eq (m : Memory) (b : Nat) : m.bits b 1 = (m.bitAt b).toNat := by
  apply Nat.eq_of_testBit_eq
  intro i
  rw [Memory.testBit_bits]
  cases i with
  | zero => cases m.bitAt b <;> rfl
  | succ i => cases m.bitAt b <;> simp [Nat.testBit_succ]

end Sys2Proof.Machine
end

