-- ==== Sys2Proof/Laws/State.lean ====
section
/-! SUPPORT. What each update of the state leaves: one lemma for each field. -/

namespace Sys2Proof.Machine
namespace State

variable (s : State)


@[simp] theorem setStrand_mem (n : Nat) (t : Strand) : (s.setStrand n t).mem = s.mem := by simp only [setStrand]
@[simp] theorem setStrand_poison (n : Nat) (t : Strand) : (s.setStrand n t).poison = s.poison := by simp only [setStrand]
@[simp] theorem setStrand_clk (n : Nat) (t : Strand) : (s.setStrand n t).clk = s.clk := by simp only [setStrand]
@[simp] theorem setStrand_pkg (n : Nat) (t : Strand) : (s.setStrand n t).pkg = s.pkg := by simp only [setStrand]
@[simp] theorem setStrand_cores (n : Nat) (t : Strand) : (s.setStrand n t).cores = s.cores := by simp only [setStrand]
@[simp] theorem setStrand_tiles (n : Nat) (t : Strand) : (s.setStrand n t).tiles = s.tiles := by simp only [setStrand]
@[simp] theorem setStrand_ctxs (n : Nat) (t : Strand) : (s.setStrand n t).ctxs = s.ctxs := by simp only [setStrand]
@[simp] theorem setStrand_parts (n : Nat) (t : Strand) : (s.setStrand n t).parts = s.parts := by simp only [setStrand]
@[simp] theorem setStrand_launches (n : Nat) (t : Strand) : (s.setStrand n t).launches = s.launches := by simp only [setStrand]
@[simp] theorem setStrand_objs (n : Nat) (t : Strand) : (s.setStrand n t).objs = s.objs := by simp only [setStrand]
@[simp] theorem setStrand_reqs (n : Nat) (t : Strand) : (s.setStrand n t).reqs = s.reqs := by simp only [setStrand]
@[simp] theorem setStrand_claims (n : Nat) (t : Strand) : (s.setStrand n t).claims = s.claims := by simp only [setStrand]
@[simp] theorem setStrand_units (n : Nat) (t : Strand) : (s.setStrand n t).units = s.units := by simp only [setStrand]
@[simp] theorem setStrand_posted (n : Nat) (t : Strand) : (s.setStrand n t).posted = s.posted := by simp only [setStrand]
@[simp] theorem setStrand_farStores (n : Nat) (t : Strand) : (s.setStrand n t).farStores = s.farStores := by simp only [setStrand]
@[simp] theorem setStrand_csr (n : Nat) (t : Strand) : (s.setStrand n t).csr = s.csr := by simp only [setStrand]
@[simp] theorem setStrand_granted (n : Nat) (t : Strand) : (s.setStrand n t).granted = s.granted := by simp only [setStrand]
@[simp] theorem setStrand_grantQ (n : Nat) (t : Strand) : (s.setStrand n t).grantQ = s.grantQ := by simp only [setStrand]
@[simp] theorem setStrand_fenced (n : Nat) (t : Strand) : (s.setStrand n t).fenced = s.fenced := by simp only [setStrand]
@[simp] theorem setStrand_leaseStart (n : Nat) (t : Strand) : (s.setStrand n t).leaseStart = s.leaseStart := by simp only [setStrand]
@[simp] theorem setStrand_checkpoint (n : Nat) (t : Strand) : (s.setStrand n t).checkpoint = s.checkpoint := by simp only [setStrand]
@[simp] theorem setStrand_writing (n : Nat) (t : Strand) : (s.setStrand n t).writing = s.writing := by simp only [setStrand]
@[simp] theorem setStrand_ckptStart (n : Nat) (t : Strand) : (s.setStrand n t).ckptStart = s.ckptStart := by simp only [setStrand]
@[simp] theorem setStrand_fuses (n : Nat) (t : Strand) : (s.setStrand n t).fuses = s.fuses := by simp only [setStrand]
@[simp] theorem setStrand_power (n : Nat) (t : Strand) : (s.setStrand n t).power = s.power := by simp only [setStrand]
@[simp] theorem setStrand_codeKey (n : Nat) (t : Strand) : (s.setStrand n t).codeKey = s.codeKey := by simp only [setStrand]
@[simp] theorem setStrand_links (n : Nat) (t : Strand) : (s.setStrand n t).links = s.links := by simp only [setStrand]
@[simp] theorem setStrand_failover (n : Nat) (t : Strand) : (s.setStrand n t).failover = s.failover := by simp only [setStrand]
@[simp] theorem setStrand_heldOut (n : Nat) (t : Strand) : (s.setStrand n t).heldOut = s.heldOut := by simp only [setStrand]
@[simp] theorem setStrand_looked (n : Nat) (t : Strand) : (s.setStrand n t).looked = s.looked := by simp only [setStrand]
@[simp] theorem setStrand_tasks (n : Nat) (t : Strand) : (s.setStrand n t).tasks = s.tasks := by simp only [setStrand]
@[simp] theorem setStrand_agenda (n : Nat) (t : Strand) : (s.setStrand n t).agenda = s.agenda := by simp only [setStrand]
@[simp] theorem setStrand_cur (n : Nat) (t : Strand) : (s.setStrand n t).cur = s.cur := by simp only [setStrand]
@[simp] theorem setStrand_ir (n : Nat) (t : Strand) : (s.setStrand n t).ir = s.ir := by simp only [setStrand]
@[simp] theorem setStrand_steps (n : Nat) (t : Strand) : (s.setStrand n t).steps = s.steps := by simp only [setStrand]
@[simp] theorem setStrand_out (n : Nat) (t : Strand) : (s.setStrand n t).out = s.out := by simp only [setStrand]
@[simp] theorem setStrand_halted (n : Nat) (t : Strand) : (s.setStrand n t).halted = s.halted := by simp only [setStrand]
@[simp] theorem setStrand_pkgLog (n : Nat) (t : Strand) : (s.setStrand n t).pkgLog = s.pkgLog := by simp only [setStrand]

@[simp] theorem onStrand_mem (n : Nat) (f : Strand → Strand) : (s.onStrand n f).mem = s.mem := by simp only [onStrand, setStrand_mem]
@[simp] theorem onStrand_poison (n : Nat) (f : Strand → Strand) : (s.onStrand n f).poison = s.poison := by simp only [onStrand, setStrand_poison]
@[simp] theorem onStrand_clk (n : Nat) (f : Strand → Strand) : (s.onStrand n f).clk = s.clk := by simp only [onStrand, setStrand_clk]
@[simp] theorem onStrand_pkg (n : Nat) (f : Strand → Strand) : (s.onStrand n f).pkg = s.pkg := by simp only [onStrand, setStrand_pkg]
@[simp] theorem onStrand_cores (n : Nat) (f : Strand → Strand) : (s.onStrand n f).cores = s.cores := by simp only [onStrand, setStrand_cores]
@[simp] theorem onStrand_tiles (n : Nat) (f : Strand → Strand) : (s.onStrand n f).tiles = s.tiles := by simp only [onStrand, setStrand_tiles]
@[simp] theorem onStrand_ctxs (n : Nat) (f : Strand → Strand) : (s.onStrand n f).ctxs = s.ctxs := by simp only [onStrand, setStrand_ctxs]
@[simp] theorem onStrand_parts (n : Nat) (f : Strand → Strand) : (s.onStrand n f).parts = s.parts := by simp only [onStrand, setStrand_parts]
@[simp] theorem onStrand_launches (n : Nat) (f : Strand → Strand) : (s.onStrand n f).launches = s.launches := by simp only [onStrand, setStrand_launches]
@[simp] theorem onStrand_objs (n : Nat) (f : Strand → Strand) : (s.onStrand n f).objs = s.objs := by simp only [onStrand, setStrand_objs]
@[simp] theorem onStrand_reqs (n : Nat) (f : Strand → Strand) : (s.onStrand n f).reqs = s.reqs := by simp only [onStrand, setStrand_reqs]
@[simp] theorem onStrand_claims (n : Nat) (f : Strand → Strand) : (s.onStrand n f).claims = s.claims := by simp only [onStrand, setStrand_claims]
@[simp] theorem onStrand_units (n : Nat) (f : Strand → Strand) : (s.onStrand n f).units = s.units := by simp only [onStrand, setStrand_units]
@[simp] theorem onStrand_posted (n : Nat) (f : Strand → Strand) : (s.onStrand n f).posted = s.posted := by simp only [onStrand, setStrand_posted]
@[simp] theorem onStrand_farStores (n : Nat) (f : Strand → Strand) : (s.onStrand n f).farStores = s.farStores := by simp only [onStrand, setStrand_farStores]
@[simp] theorem onStrand_csr (n : Nat) (f : Strand → Strand) : (s.onStrand n f).csr = s.csr := by simp only [onStrand, setStrand_csr]
@[simp] theorem onStrand_granted (n : Nat) (f : Strand → Strand) : (s.onStrand n f).granted = s.granted := by simp only [onStrand, setStrand_granted]
@[simp] theorem onStrand_grantQ (n : Nat) (f : Strand → Strand) : (s.onStrand n f).grantQ = s.grantQ := by simp only [onStrand, setStrand_grantQ]
@[simp] theorem onStrand_fenced (n : Nat) (f : Strand → Strand) : (s.onStrand n f).fenced = s.fenced := by simp only [onStrand, setStrand_fenced]
@[simp] theorem onStrand_leaseStart (n : Nat) (f : Strand → Strand) : (s.onStrand n f).leaseStart = s.leaseStart := by simp only [onStrand, setStrand_leaseStart]
@[simp] theorem onStrand_checkpoint (n : Nat) (f : Strand → Strand) : (s.onStrand n f).checkpoint = s.checkpoint := by simp only [onStrand, setStrand_checkpoint]
@[simp] theorem onStrand_writing (n : Nat) (f : Strand → Strand) : (s.onStrand n f).writing = s.writing := by simp only [onStrand, setStrand_writing]
@[simp] theorem onStrand_ckptStart (n : Nat) (f : Strand → Strand) : (s.onStrand n f).ckptStart = s.ckptStart := by simp only [onStrand, setStrand_ckptStart]
@[simp] theorem onStrand_fuses (n : Nat) (f : Strand → Strand) : (s.onStrand n f).fuses = s.fuses := by simp only [onStrand, setStrand_fuses]
@[simp] theorem onStrand_power (n : Nat) (f : Strand → Strand) : (s.onStrand n f).power = s.power := by simp only [onStrand, setStrand_power]
@[simp] theorem onStrand_codeKey (n : Nat) (f : Strand → Strand) : (s.onStrand n f).codeKey = s.codeKey := by simp only [onStrand, setStrand_codeKey]
@[simp] theorem onStrand_links (n : Nat) (f : Strand → Strand) : (s.onStrand n f).links = s.links := by simp only [onStrand, setStrand_links]
@[simp] theorem onStrand_failover (n : Nat) (f : Strand → Strand) : (s.onStrand n f).failover = s.failover := by simp only [onStrand, setStrand_failover]
@[simp] theorem onStrand_heldOut (n : Nat) (f : Strand → Strand) : (s.onStrand n f).heldOut = s.heldOut := by simp only [onStrand, setStrand_heldOut]
@[simp] theorem onStrand_looked (n : Nat) (f : Strand → Strand) : (s.onStrand n f).looked = s.looked := by simp only [onStrand, setStrand_looked]
@[simp] theorem onStrand_tasks (n : Nat) (f : Strand → Strand) : (s.onStrand n f).tasks = s.tasks := by simp only [onStrand, setStrand_tasks]
@[simp] theorem onStrand_agenda (n : Nat) (f : Strand → Strand) : (s.onStrand n f).agenda = s.agenda := by simp only [onStrand, setStrand_agenda]
@[simp] theorem onStrand_cur (n : Nat) (f : Strand → Strand) : (s.onStrand n f).cur = s.cur := by simp only [onStrand, setStrand_cur]
@[simp] theorem onStrand_ir (n : Nat) (f : Strand → Strand) : (s.onStrand n f).ir = s.ir := by simp only [onStrand, setStrand_ir]
@[simp] theorem onStrand_steps (n : Nat) (f : Strand → Strand) : (s.onStrand n f).steps = s.steps := by simp only [onStrand, setStrand_steps]
@[simp] theorem onStrand_out (n : Nat) (f : Strand → Strand) : (s.onStrand n f).out = s.out := by simp only [onStrand, setStrand_out]
@[simp] theorem onStrand_halted (n : Nat) (f : Strand → Strand) : (s.onStrand n f).halted = s.halted := by simp only [onStrand, setStrand_halted]
@[simp] theorem onStrand_pkgLog (n : Nat) (f : Strand → Strand) : (s.onStrand n f).pkgLog = s.pkgLog := by simp only [onStrand, setStrand_pkgLog]

@[simp] theorem onMe_mem (f : Strand → Strand) : (s.onMe f).mem = s.mem := by simp only [onMe, onStrand_mem]
@[simp] theorem onMe_poison (f : Strand → Strand) : (s.onMe f).poison = s.poison := by simp only [onMe, onStrand_poison]
@[simp] theorem onMe_clk (f : Strand → Strand) : (s.onMe f).clk = s.clk := by simp only [onMe, onStrand_clk]
@[simp] theorem onMe_pkg (f : Strand → Strand) : (s.onMe f).pkg = s.pkg := by simp only [onMe, onStrand_pkg]
@[simp] theorem onMe_cores (f : Strand → Strand) : (s.onMe f).cores = s.cores := by simp only [onMe, onStrand_cores]
@[simp] theorem onMe_tiles (f : Strand → Strand) : (s.onMe f).tiles = s.tiles := by simp only [onMe, onStrand_tiles]
@[simp] theorem onMe_ctxs (f : Strand → Strand) : (s.onMe f).ctxs = s.ctxs := by simp only [onMe, onStrand_ctxs]
@[simp] theorem onMe_parts (f : Strand → Strand) : (s.onMe f).parts = s.parts := by simp only [onMe, onStrand_parts]
@[simp] theorem onMe_launches (f : Strand → Strand) : (s.onMe f).launches = s.launches := by simp only [onMe, onStrand_launches]
@[simp] theorem onMe_objs (f : Strand → Strand) : (s.onMe f).objs = s.objs := by simp only [onMe, onStrand_objs]
@[simp] theorem onMe_reqs (f : Strand → Strand) : (s.onMe f).reqs = s.reqs := by simp only [onMe, onStrand_reqs]
@[simp] theorem onMe_claims (f : Strand → Strand) : (s.onMe f).claims = s.claims := by simp only [onMe, onStrand_claims]
@[simp] theorem onMe_units (f : Strand → Strand) : (s.onMe f).units = s.units := by simp only [onMe, onStrand_units]
@[simp] theorem onMe_posted (f : Strand → Strand) : (s.onMe f).posted = s.posted := by simp only [onMe, onStrand_posted]
@[simp] theorem onMe_farStores (f : Strand → Strand) : (s.onMe f).farStores = s.farStores := by simp only [onMe, onStrand_farStores]
@[simp] theorem onMe_csr (f : Strand → Strand) : (s.onMe f).csr = s.csr := by simp only [onMe, onStrand_csr]
@[simp] theorem onMe_granted (f : Strand → Strand) : (s.onMe f).granted = s.granted := by simp only [onMe, onStrand_granted]
@[simp] theorem onMe_grantQ (f : Strand → Strand) : (s.onMe f).grantQ = s.grantQ := by simp only [onMe, onStrand_grantQ]
@[simp] theorem onMe_fenced (f : Strand → Strand) : (s.onMe f).fenced = s.fenced := by simp only [onMe, onStrand_fenced]
@[simp] theorem onMe_leaseStart (f : Strand → Strand) : (s.onMe f).leaseStart = s.leaseStart := by simp only [onMe, onStrand_leaseStart]
@[simp] theorem onMe_checkpoint (f : Strand → Strand) : (s.onMe f).checkpoint = s.checkpoint := by simp only [onMe, onStrand_checkpoint]
@[simp] theorem onMe_writing (f : Strand → Strand) : (s.onMe f).writing = s.writing := by simp only [onMe, onStrand_writing]
@[simp] theorem onMe_ckptStart (f : Strand → Strand) : (s.onMe f).ckptStart = s.ckptStart := by simp only [onMe, onStrand_ckptStart]
@[simp] theorem onMe_fuses (f : Strand → Strand) : (s.onMe f).fuses = s.fuses := by simp only [onMe, onStrand_fuses]
@[simp] theorem onMe_power (f : Strand → Strand) : (s.onMe f).power = s.power := by simp only [onMe, onStrand_power]
@[simp] theorem onMe_codeKey (f : Strand → Strand) : (s.onMe f).codeKey = s.codeKey := by simp only [onMe, onStrand_codeKey]
@[simp] theorem onMe_links (f : Strand → Strand) : (s.onMe f).links = s.links := by simp only [onMe, onStrand_links]
@[simp] theorem onMe_failover (f : Strand → Strand) : (s.onMe f).failover = s.failover := by simp only [onMe, onStrand_failover]
@[simp] theorem onMe_heldOut (f : Strand → Strand) : (s.onMe f).heldOut = s.heldOut := by simp only [onMe, onStrand_heldOut]
@[simp] theorem onMe_looked (f : Strand → Strand) : (s.onMe f).looked = s.looked := by simp only [onMe, onStrand_looked]
@[simp] theorem onMe_tasks (f : Strand → Strand) : (s.onMe f).tasks = s.tasks := by simp only [onMe, onStrand_tasks]
@[simp] theorem onMe_agenda (f : Strand → Strand) : (s.onMe f).agenda = s.agenda := by simp only [onMe, onStrand_agenda]
@[simp] theorem onMe_cur (f : Strand → Strand) : (s.onMe f).cur = s.cur := by simp only [onMe, onStrand_cur]
@[simp] theorem onMe_ir (f : Strand → Strand) : (s.onMe f).ir = s.ir := by simp only [onMe, onStrand_ir]
@[simp] theorem onMe_steps (f : Strand → Strand) : (s.onMe f).steps = s.steps := by simp only [onMe, onStrand_steps]
@[simp] theorem onMe_out (f : Strand → Strand) : (s.onMe f).out = s.out := by simp only [onMe, onStrand_out]
@[simp] theorem onMe_halted (f : Strand → Strand) : (s.onMe f).halted = s.halted := by simp only [onMe, onStrand_halted]
@[simp] theorem onMe_pkgLog (f : Strand → Strand) : (s.onMe f).pkgLog = s.pkgLog := by simp only [onMe, onStrand_pkgLog]

@[simp] theorem onRegs_mem (f : Regs → Regs) : (s.onRegs f).mem = s.mem := by simp only [onRegs, onMe_mem]
@[simp] theorem onRegs_poison (f : Regs → Regs) : (s.onRegs f).poison = s.poison := by simp only [onRegs, onMe_poison]
@[simp] theorem onRegs_clk (f : Regs → Regs) : (s.onRegs f).clk = s.clk := by simp only [onRegs, onMe_clk]
@[simp] theorem onRegs_pkg (f : Regs → Regs) : (s.onRegs f).pkg = s.pkg := by simp only [onRegs, onMe_pkg]
@[simp] theorem onRegs_cores (f : Regs → Regs) : (s.onRegs f).cores = s.cores := by simp only [onRegs, onMe_cores]
@[simp] theorem onRegs_tiles (f : Regs → Regs) : (s.onRegs f).tiles = s.tiles := by simp only [onRegs, onMe_tiles]
@[simp] theorem onRegs_ctxs (f : Regs → Regs) : (s.onRegs f).ctxs = s.ctxs := by simp only [onRegs, onMe_ctxs]
@[simp] theorem onRegs_parts (f : Regs → Regs) : (s.onRegs f).parts = s.parts := by simp only [onRegs, onMe_parts]
@[simp] theorem onRegs_launches (f : Regs → Regs) : (s.onRegs f).launches = s.launches := by simp only [onRegs, onMe_launches]
@[simp] theorem onRegs_objs (f : Regs → Regs) : (s.onRegs f).objs = s.objs := by simp only [onRegs, onMe_objs]
@[simp] theorem onRegs_reqs (f : Regs → Regs) : (s.onRegs f).reqs = s.reqs := by simp only [onRegs, onMe_reqs]
@[simp] theorem onRegs_claims (f : Regs → Regs) : (s.onRegs f).claims = s.claims := by simp only [onRegs, onMe_claims]
@[simp] theorem onRegs_units (f : Regs → Regs) : (s.onRegs f).units = s.units := by simp only [onRegs, onMe_units]
@[simp] theorem onRegs_posted (f : Regs → Regs) : (s.onRegs f).posted = s.posted := by simp only [onRegs, onMe_posted]
@[simp] theorem onRegs_farStores (f : Regs → Regs) : (s.onRegs f).farStores = s.farStores := by simp only [onRegs, onMe_farStores]
@[simp] theorem onRegs_csr (f : Regs → Regs) : (s.onRegs f).csr = s.csr := by simp only [onRegs, onMe_csr]
@[simp] theorem onRegs_granted (f : Regs → Regs) : (s.onRegs f).granted = s.granted := by simp only [onRegs, onMe_granted]
@[simp] theorem onRegs_grantQ (f : Regs → Regs) : (s.onRegs f).grantQ = s.grantQ := by simp only [onRegs, onMe_grantQ]
@[simp] theorem onRegs_fenced (f : Regs → Regs) : (s.onRegs f).fenced = s.fenced := by simp only [onRegs, onMe_fenced]
@[simp] theorem onRegs_leaseStart (f : Regs → Regs) : (s.onRegs f).leaseStart = s.leaseStart := by simp only [onRegs, onMe_leaseStart]
@[simp] theorem onRegs_checkpoint (f : Regs → Regs) : (s.onRegs f).checkpoint = s.checkpoint := by simp only [onRegs, onMe_checkpoint]
@[simp] theorem onRegs_writing (f : Regs → Regs) : (s.onRegs f).writing = s.writing := by simp only [onRegs, onMe_writing]
@[simp] theorem onRegs_ckptStart (f : Regs → Regs) : (s.onRegs f).ckptStart = s.ckptStart := by simp only [onRegs, onMe_ckptStart]
@[simp] theorem onRegs_fuses (f : Regs → Regs) : (s.onRegs f).fuses = s.fuses := by simp only [onRegs, onMe_fuses]
@[simp] theorem onRegs_power (f : Regs → Regs) : (s.onRegs f).power = s.power := by simp only [onRegs, onMe_power]
@[simp] theorem onRegs_codeKey (f : Regs → Regs) : (s.onRegs f).codeKey = s.codeKey := by simp only [onRegs, onMe_codeKey]
@[simp] theorem onRegs_links (f : Regs → Regs) : (s.onRegs f).links = s.links := by simp only [onRegs, onMe_links]
@[simp] theorem onRegs_failover (f : Regs → Regs) : (s.onRegs f).failover = s.failover := by simp only [onRegs, onMe_failover]
@[simp] theorem onRegs_heldOut (f : Regs → Regs) : (s.onRegs f).heldOut = s.heldOut := by simp only [onRegs, onMe_heldOut]
@[simp] theorem onRegs_looked (f : Regs → Regs) : (s.onRegs f).looked = s.looked := by simp only [onRegs, onMe_looked]
@[simp] theorem onRegs_tasks (f : Regs → Regs) : (s.onRegs f).tasks = s.tasks := by simp only [onRegs, onMe_tasks]
@[simp] theorem onRegs_agenda (f : Regs → Regs) : (s.onRegs f).agenda = s.agenda := by simp only [onRegs, onMe_agenda]
@[simp] theorem onRegs_cur (f : Regs → Regs) : (s.onRegs f).cur = s.cur := by simp only [onRegs, onMe_cur]
@[simp] theorem onRegs_ir (f : Regs → Regs) : (s.onRegs f).ir = s.ir := by simp only [onRegs, onMe_ir]
@[simp] theorem onRegs_steps (f : Regs → Regs) : (s.onRegs f).steps = s.steps := by simp only [onRegs, onMe_steps]
@[simp] theorem onRegs_out (f : Regs → Regs) : (s.onRegs f).out = s.out := by simp only [onRegs, onMe_out]
@[simp] theorem onRegs_halted (f : Regs → Regs) : (s.onRegs f).halted = s.halted := by simp only [onRegs, onMe_halted]
@[simp] theorem onRegs_pkgLog (f : Regs → Regs) : (s.onRegs f).pkgLog = s.pkgLog := by simp only [onRegs, onMe_pkgLog]

@[simp] theorem onCore_mem (c : Nat) (f : Core → Core) : (s.onCore c f).mem = s.mem := by simp only [onCore]
@[simp] theorem onCore_poison (c : Nat) (f : Core → Core) : (s.onCore c f).poison = s.poison := by simp only [onCore]
@[simp] theorem onCore_clk (c : Nat) (f : Core → Core) : (s.onCore c f).clk = s.clk := by simp only [onCore]
@[simp] theorem onCore_pkg (c : Nat) (f : Core → Core) : (s.onCore c f).pkg = s.pkg := by simp only [onCore]
@[simp] theorem onCore_strands (c : Nat) (f : Core → Core) : (s.onCore c f).strands = s.strands := by simp only [onCore]
@[simp] theorem onCore_tiles (c : Nat) (f : Core → Core) : (s.onCore c f).tiles = s.tiles := by simp only [onCore]
@[simp] theorem onCore_ctxs (c : Nat) (f : Core → Core) : (s.onCore c f).ctxs = s.ctxs := by simp only [onCore]
@[simp] theorem onCore_parts (c : Nat) (f : Core → Core) : (s.onCore c f).parts = s.parts := by simp only [onCore]
@[simp] theorem onCore_launches (c : Nat) (f : Core → Core) : (s.onCore c f).launches = s.launches := by simp only [onCore]
@[simp] theorem onCore_objs (c : Nat) (f : Core → Core) : (s.onCore c f).objs = s.objs := by simp only [onCore]
@[simp] theorem onCore_reqs (c : Nat) (f : Core → Core) : (s.onCore c f).reqs = s.reqs := by simp only [onCore]
@[simp] theorem onCore_claims (c : Nat) (f : Core → Core) : (s.onCore c f).claims = s.claims := by simp only [onCore]
@[simp] theorem onCore_units (c : Nat) (f : Core → Core) : (s.onCore c f).units = s.units := by simp only [onCore]
@[simp] theorem onCore_posted (c : Nat) (f : Core → Core) : (s.onCore c f).posted = s.posted := by simp only [onCore]
@[simp] theorem onCore_farStores (c : Nat) (f : Core → Core) : (s.onCore c f).farStores = s.farStores := by simp only [onCore]
@[simp] theorem onCore_csr (c : Nat) (f : Core → Core) : (s.onCore c f).csr = s.csr := by simp only [onCore]
@[simp] theorem onCore_granted (c : Nat) (f : Core → Core) : (s.onCore c f).granted = s.granted := by simp only [onCore]
@[simp] theorem onCore_grantQ (c : Nat) (f : Core → Core) : (s.onCore c f).grantQ = s.grantQ := by simp only [onCore]
@[simp] theorem onCore_fenced (c : Nat) (f : Core → Core) : (s.onCore c f).fenced = s.fenced := by simp only [onCore]
@[simp] theorem onCore_leaseStart (c : Nat) (f : Core → Core) : (s.onCore c f).leaseStart = s.leaseStart := by simp only [onCore]
@[simp] theorem onCore_checkpoint (c : Nat) (f : Core → Core) : (s.onCore c f).checkpoint = s.checkpoint := by simp only [onCore]
@[simp] theorem onCore_writing (c : Nat) (f : Core → Core) : (s.onCore c f).writing = s.writing := by simp only [onCore]
@[simp] theorem onCore_ckptStart (c : Nat) (f : Core → Core) : (s.onCore c f).ckptStart = s.ckptStart := by simp only [onCore]
@[simp] theorem onCore_fuses (c : Nat) (f : Core → Core) : (s.onCore c f).fuses = s.fuses := by simp only [onCore]
@[simp] theorem onCore_power (c : Nat) (f : Core → Core) : (s.onCore c f).power = s.power := by simp only [onCore]
@[simp] theorem onCore_codeKey (c : Nat) (f : Core → Core) : (s.onCore c f).codeKey = s.codeKey := by simp only [onCore]
@[simp] theorem onCore_links (c : Nat) (f : Core → Core) : (s.onCore c f).links = s.links := by simp only [onCore]
@[simp] theorem onCore_failover (c : Nat) (f : Core → Core) : (s.onCore c f).failover = s.failover := by simp only [onCore]
@[simp] theorem onCore_heldOut (c : Nat) (f : Core → Core) : (s.onCore c f).heldOut = s.heldOut := by simp only [onCore]
@[simp] theorem onCore_looked (c : Nat) (f : Core → Core) : (s.onCore c f).looked = s.looked := by simp only [onCore]
@[simp] theorem onCore_tasks (c : Nat) (f : Core → Core) : (s.onCore c f).tasks = s.tasks := by simp only [onCore]
@[simp] theorem onCore_agenda (c : Nat) (f : Core → Core) : (s.onCore c f).agenda = s.agenda := by simp only [onCore]
@[simp] theorem onCore_cur (c : Nat) (f : Core → Core) : (s.onCore c f).cur = s.cur := by simp only [onCore]
@[simp] theorem onCore_ir (c : Nat) (f : Core → Core) : (s.onCore c f).ir = s.ir := by simp only [onCore]
@[simp] theorem onCore_steps (c : Nat) (f : Core → Core) : (s.onCore c f).steps = s.steps := by simp only [onCore]
@[simp] theorem onCore_out (c : Nat) (f : Core → Core) : (s.onCore c f).out = s.out := by simp only [onCore]
@[simp] theorem onCore_halted (c : Nat) (f : Core → Core) : (s.onCore c f).halted = s.halted := by simp only [onCore]
@[simp] theorem onCore_pkgLog (c : Nat) (f : Core → Core) : (s.onCore c f).pkgLog = s.pkgLog := by simp only [onCore]

@[simp] theorem onTile_mem (n : Nat) (f : Tile → Tile) : (s.onTile n f).mem = s.mem := by simp only [onTile]
@[simp] theorem onTile_poison (n : Nat) (f : Tile → Tile) : (s.onTile n f).poison = s.poison := by simp only [onTile]
@[simp] theorem onTile_clk (n : Nat) (f : Tile → Tile) : (s.onTile n f).clk = s.clk := by simp only [onTile]
@[simp] theorem onTile_pkg (n : Nat) (f : Tile → Tile) : (s.onTile n f).pkg = s.pkg := by simp only [onTile]
@[simp] theorem onTile_strands (n : Nat) (f : Tile → Tile) : (s.onTile n f).strands = s.strands := by simp only [onTile]
@[simp] theorem onTile_cores (n : Nat) (f : Tile → Tile) : (s.onTile n f).cores = s.cores := by simp only [onTile]
@[simp] theorem onTile_ctxs (n : Nat) (f : Tile → Tile) : (s.onTile n f).ctxs = s.ctxs := by simp only [onTile]
@[simp] theorem onTile_parts (n : Nat) (f : Tile → Tile) : (s.onTile n f).parts = s.parts := by simp only [onTile]
@[simp] theorem onTile_launches (n : Nat) (f : Tile → Tile) : (s.onTile n f).launches = s.launches := by simp only [onTile]
@[simp] theorem onTile_objs (n : Nat) (f : Tile → Tile) : (s.onTile n f).objs = s.objs := by simp only [onTile]
@[simp] theorem onTile_reqs (n : Nat) (f : Tile → Tile) : (s.onTile n f).reqs = s.reqs := by simp only [onTile]
@[simp] theorem onTile_claims (n : Nat) (f : Tile → Tile) : (s.onTile n f).claims = s.claims := by simp only [onTile]
@[simp] theorem onTile_units (n : Nat) (f : Tile → Tile) : (s.onTile n f).units = s.units := by simp only [onTile]
@[simp] theorem onTile_posted (n : Nat) (f : Tile → Tile) : (s.onTile n f).posted = s.posted := by simp only [onTile]
@[simp] theorem onTile_farStores (n : Nat) (f : Tile → Tile) : (s.onTile n f).farStores = s.farStores := by simp only [onTile]
@[simp] theorem onTile_csr (n : Nat) (f : Tile → Tile) : (s.onTile n f).csr = s.csr := by simp only [onTile]
@[simp] theorem onTile_granted (n : Nat) (f : Tile → Tile) : (s.onTile n f).granted = s.granted := by simp only [onTile]
@[simp] theorem onTile_grantQ (n : Nat) (f : Tile → Tile) : (s.onTile n f).grantQ = s.grantQ := by simp only [onTile]
@[simp] theorem onTile_fenced (n : Nat) (f : Tile → Tile) : (s.onTile n f).fenced = s.fenced := by simp only [onTile]
@[simp] theorem onTile_leaseStart (n : Nat) (f : Tile → Tile) : (s.onTile n f).leaseStart = s.leaseStart := by simp only [onTile]
@[simp] theorem onTile_checkpoint (n : Nat) (f : Tile → Tile) : (s.onTile n f).checkpoint = s.checkpoint := by simp only [onTile]
@[simp] theorem onTile_writing (n : Nat) (f : Tile → Tile) : (s.onTile n f).writing = s.writing := by simp only [onTile]
@[simp] theorem onTile_ckptStart (n : Nat) (f : Tile → Tile) : (s.onTile n f).ckptStart = s.ckptStart := by simp only [onTile]
@[simp] theorem onTile_fuses (n : Nat) (f : Tile → Tile) : (s.onTile n f).fuses = s.fuses := by simp only [onTile]
@[simp] theorem onTile_power (n : Nat) (f : Tile → Tile) : (s.onTile n f).power = s.power := by simp only [onTile]
@[simp] theorem onTile_codeKey (n : Nat) (f : Tile → Tile) : (s.onTile n f).codeKey = s.codeKey := by simp only [onTile]
@[simp] theorem onTile_links (n : Nat) (f : Tile → Tile) : (s.onTile n f).links = s.links := by simp only [onTile]
@[simp] theorem onTile_failover (n : Nat) (f : Tile → Tile) : (s.onTile n f).failover = s.failover := by simp only [onTile]
@[simp] theorem onTile_heldOut (n : Nat) (f : Tile → Tile) : (s.onTile n f).heldOut = s.heldOut := by simp only [onTile]
@[simp] theorem onTile_looked (n : Nat) (f : Tile → Tile) : (s.onTile n f).looked = s.looked := by simp only [onTile]
@[simp] theorem onTile_tasks (n : Nat) (f : Tile → Tile) : (s.onTile n f).tasks = s.tasks := by simp only [onTile]
@[simp] theorem onTile_agenda (n : Nat) (f : Tile → Tile) : (s.onTile n f).agenda = s.agenda := by simp only [onTile]
@[simp] theorem onTile_cur (n : Nat) (f : Tile → Tile) : (s.onTile n f).cur = s.cur := by simp only [onTile]
@[simp] theorem onTile_ir (n : Nat) (f : Tile → Tile) : (s.onTile n f).ir = s.ir := by simp only [onTile]
@[simp] theorem onTile_steps (n : Nat) (f : Tile → Tile) : (s.onTile n f).steps = s.steps := by simp only [onTile]
@[simp] theorem onTile_out (n : Nat) (f : Tile → Tile) : (s.onTile n f).out = s.out := by simp only [onTile]
@[simp] theorem onTile_halted (n : Nat) (f : Tile → Tile) : (s.onTile n f).halted = s.halted := by simp only [onTile]
@[simp] theorem onTile_pkgLog (n : Nat) (f : Tile → Tile) : (s.onTile n f).pkgLog = s.pkgLog := by simp only [onTile]

@[simp] theorem onCtx_mem (n : Nat) (f : Ctx → Ctx) : (s.onCtx n f).mem = s.mem := by simp only [onCtx]
@[simp] theorem onCtx_poison (n : Nat) (f : Ctx → Ctx) : (s.onCtx n f).poison = s.poison := by simp only [onCtx]
@[simp] theorem onCtx_clk (n : Nat) (f : Ctx → Ctx) : (s.onCtx n f).clk = s.clk := by simp only [onCtx]
@[simp] theorem onCtx_pkg (n : Nat) (f : Ctx → Ctx) : (s.onCtx n f).pkg = s.pkg := by simp only [onCtx]
@[simp] theorem onCtx_strands (n : Nat) (f : Ctx → Ctx) : (s.onCtx n f).strands = s.strands := by simp only [onCtx]
@[simp] theorem onCtx_cores (n : Nat) (f : Ctx → Ctx) : (s.onCtx n f).cores = s.cores := by simp only [onCtx]
@[simp] theorem onCtx_tiles (n : Nat) (f : Ctx → Ctx) : (s.onCtx n f).tiles = s.tiles := by simp only [onCtx]
@[simp] theorem onCtx_parts (n : Nat) (f : Ctx → Ctx) : (s.onCtx n f).parts = s.parts := by simp only [onCtx]
@[simp] theorem onCtx_launches (n : Nat) (f : Ctx → Ctx) : (s.onCtx n f).launches = s.launches := by simp only [onCtx]
@[simp] theorem onCtx_objs (n : Nat) (f : Ctx → Ctx) : (s.onCtx n f).objs = s.objs := by simp only [onCtx]
@[simp] theorem onCtx_reqs (n : Nat) (f : Ctx → Ctx) : (s.onCtx n f).reqs = s.reqs := by simp only [onCtx]
@[simp] theorem onCtx_claims (n : Nat) (f : Ctx → Ctx) : (s.onCtx n f).claims = s.claims := by simp only [onCtx]
@[simp] theorem onCtx_units (n : Nat) (f : Ctx → Ctx) : (s.onCtx n f).units = s.units := by simp only [onCtx]
@[simp] theorem onCtx_posted (n : Nat) (f : Ctx → Ctx) : (s.onCtx n f).posted = s.posted := by simp only [onCtx]
@[simp] theorem onCtx_farStores (n : Nat) (f : Ctx → Ctx) : (s.onCtx n f).farStores = s.farStores := by simp only [onCtx]
@[simp] theorem onCtx_csr (n : Nat) (f : Ctx → Ctx) : (s.onCtx n f).csr = s.csr := by simp only [onCtx]
@[simp] theorem onCtx_granted (n : Nat) (f : Ctx → Ctx) : (s.onCtx n f).granted = s.granted := by simp only [onCtx]
@[simp] theorem onCtx_grantQ (n : Nat) (f : Ctx → Ctx) : (s.onCtx n f).grantQ = s.grantQ := by simp only [onCtx]
@[simp] theorem onCtx_fenced (n : Nat) (f : Ctx → Ctx) : (s.onCtx n f).fenced = s.fenced := by simp only [onCtx]
@[simp] theorem onCtx_leaseStart (n : Nat) (f : Ctx → Ctx) : (s.onCtx n f).leaseStart = s.leaseStart := by simp only [onCtx]
@[simp] theorem onCtx_checkpoint (n : Nat) (f : Ctx → Ctx) : (s.onCtx n f).checkpoint = s.checkpoint := by simp only [onCtx]
@[simp] theorem onCtx_writing (n : Nat) (f : Ctx → Ctx) : (s.onCtx n f).writing = s.writing := by simp only [onCtx]
@[simp] theorem onCtx_ckptStart (n : Nat) (f : Ctx → Ctx) : (s.onCtx n f).ckptStart = s.ckptStart := by simp only [onCtx]
@[simp] theorem onCtx_fuses (n : Nat) (f : Ctx → Ctx) : (s.onCtx n f).fuses = s.fuses := by simp only [onCtx]
@[simp] theorem onCtx_power (n : Nat) (f : Ctx → Ctx) : (s.onCtx n f).power = s.power := by simp only [onCtx]
@[simp] theorem onCtx_codeKey (n : Nat) (f : Ctx → Ctx) : (s.onCtx n f).codeKey = s.codeKey := by simp only [onCtx]
@[simp] theorem onCtx_links (n : Nat) (f : Ctx → Ctx) : (s.onCtx n f).links = s.links := by simp only [onCtx]
@[simp] theorem onCtx_failover (n : Nat) (f : Ctx → Ctx) : (s.onCtx n f).failover = s.failover := by simp only [onCtx]
@[simp] theorem onCtx_heldOut (n : Nat) (f : Ctx → Ctx) : (s.onCtx n f).heldOut = s.heldOut := by simp only [onCtx]
@[simp] theorem onCtx_looked (n : Nat) (f : Ctx → Ctx) : (s.onCtx n f).looked = s.looked := by simp only [onCtx]
@[simp] theorem onCtx_tasks (n : Nat) (f : Ctx → Ctx) : (s.onCtx n f).tasks = s.tasks := by simp only [onCtx]
@[simp] theorem onCtx_agenda (n : Nat) (f : Ctx → Ctx) : (s.onCtx n f).agenda = s.agenda := by simp only [onCtx]
@[simp] theorem onCtx_cur (n : Nat) (f : Ctx → Ctx) : (s.onCtx n f).cur = s.cur := by simp only [onCtx]
@[simp] theorem onCtx_ir (n : Nat) (f : Ctx → Ctx) : (s.onCtx n f).ir = s.ir := by simp only [onCtx]
@[simp] theorem onCtx_steps (n : Nat) (f : Ctx → Ctx) : (s.onCtx n f).steps = s.steps := by simp only [onCtx]
@[simp] theorem onCtx_out (n : Nat) (f : Ctx → Ctx) : (s.onCtx n f).out = s.out := by simp only [onCtx]
@[simp] theorem onCtx_halted (n : Nat) (f : Ctx → Ctx) : (s.onCtx n f).halted = s.halted := by simp only [onCtx]
@[simp] theorem onCtx_pkgLog (n : Nat) (f : Ctx → Ctx) : (s.onCtx n f).pkgLog = s.pkgLog := by simp only [onCtx]

@[simp] theorem onPart_mem (n : Nat) (f : Part → Part) : (s.onPart n f).mem = s.mem := by simp only [onPart]
@[simp] theorem onPart_poison (n : Nat) (f : Part → Part) : (s.onPart n f).poison = s.poison := by simp only [onPart]
@[simp] theorem onPart_clk (n : Nat) (f : Part → Part) : (s.onPart n f).clk = s.clk := by simp only [onPart]
@[simp] theorem onPart_pkg (n : Nat) (f : Part → Part) : (s.onPart n f).pkg = s.pkg := by simp only [onPart]
@[simp] theorem onPart_strands (n : Nat) (f : Part → Part) : (s.onPart n f).strands = s.strands := by simp only [onPart]
@[simp] theorem onPart_cores (n : Nat) (f : Part → Part) : (s.onPart n f).cores = s.cores := by simp only [onPart]
@[simp] theorem onPart_tiles (n : Nat) (f : Part → Part) : (s.onPart n f).tiles = s.tiles := by simp only [onPart]
@[simp] theorem onPart_ctxs (n : Nat) (f : Part → Part) : (s.onPart n f).ctxs = s.ctxs := by simp only [onPart]
@[simp] theorem onPart_launches (n : Nat) (f : Part → Part) : (s.onPart n f).launches = s.launches := by simp only [onPart]
@[simp] theorem onPart_objs (n : Nat) (f : Part → Part) : (s.onPart n f).objs = s.objs := by simp only [onPart]
@[simp] theorem onPart_reqs (n : Nat) (f : Part → Part) : (s.onPart n f).reqs = s.reqs := by simp only [onPart]
@[simp] theorem onPart_claims (n : Nat) (f : Part → Part) : (s.onPart n f).claims = s.claims := by simp only [onPart]
@[simp] theorem onPart_units (n : Nat) (f : Part → Part) : (s.onPart n f).units = s.units := by simp only [onPart]
@[simp] theorem onPart_posted (n : Nat) (f : Part → Part) : (s.onPart n f).posted = s.posted := by simp only [onPart]
@[simp] theorem onPart_farStores (n : Nat) (f : Part → Part) : (s.onPart n f).farStores = s.farStores := by simp only [onPart]
@[simp] theorem onPart_csr (n : Nat) (f : Part → Part) : (s.onPart n f).csr = s.csr := by simp only [onPart]
@[simp] theorem onPart_granted (n : Nat) (f : Part → Part) : (s.onPart n f).granted = s.granted := by simp only [onPart]
@[simp] theorem onPart_grantQ (n : Nat) (f : Part → Part) : (s.onPart n f).grantQ = s.grantQ := by simp only [onPart]
@[simp] theorem onPart_fenced (n : Nat) (f : Part → Part) : (s.onPart n f).fenced = s.fenced := by simp only [onPart]
@[simp] theorem onPart_leaseStart (n : Nat) (f : Part → Part) : (s.onPart n f).leaseStart = s.leaseStart := by simp only [onPart]
@[simp] theorem onPart_checkpoint (n : Nat) (f : Part → Part) : (s.onPart n f).checkpoint = s.checkpoint := by simp only [onPart]
@[simp] theorem onPart_writing (n : Nat) (f : Part → Part) : (s.onPart n f).writing = s.writing := by simp only [onPart]
@[simp] theorem onPart_ckptStart (n : Nat) (f : Part → Part) : (s.onPart n f).ckptStart = s.ckptStart := by simp only [onPart]
@[simp] theorem onPart_fuses (n : Nat) (f : Part → Part) : (s.onPart n f).fuses = s.fuses := by simp only [onPart]
@[simp] theorem onPart_power (n : Nat) (f : Part → Part) : (s.onPart n f).power = s.power := by simp only [onPart]
@[simp] theorem onPart_codeKey (n : Nat) (f : Part → Part) : (s.onPart n f).codeKey = s.codeKey := by simp only [onPart]
@[simp] theorem onPart_links (n : Nat) (f : Part → Part) : (s.onPart n f).links = s.links := by simp only [onPart]
@[simp] theorem onPart_failover (n : Nat) (f : Part → Part) : (s.onPart n f).failover = s.failover := by simp only [onPart]
@[simp] theorem onPart_heldOut (n : Nat) (f : Part → Part) : (s.onPart n f).heldOut = s.heldOut := by simp only [onPart]
@[simp] theorem onPart_looked (n : Nat) (f : Part → Part) : (s.onPart n f).looked = s.looked := by simp only [onPart]
@[simp] theorem onPart_tasks (n : Nat) (f : Part → Part) : (s.onPart n f).tasks = s.tasks := by simp only [onPart]
@[simp] theorem onPart_agenda (n : Nat) (f : Part → Part) : (s.onPart n f).agenda = s.agenda := by simp only [onPart]
@[simp] theorem onPart_cur (n : Nat) (f : Part → Part) : (s.onPart n f).cur = s.cur := by simp only [onPart]
@[simp] theorem onPart_ir (n : Nat) (f : Part → Part) : (s.onPart n f).ir = s.ir := by simp only [onPart]
@[simp] theorem onPart_steps (n : Nat) (f : Part → Part) : (s.onPart n f).steps = s.steps := by simp only [onPart]
@[simp] theorem onPart_out (n : Nat) (f : Part → Part) : (s.onPart n f).out = s.out := by simp only [onPart]
@[simp] theorem onPart_halted (n : Nat) (f : Part → Part) : (s.onPart n f).halted = s.halted := by simp only [onPart]
@[simp] theorem onPart_pkgLog (n : Nat) (f : Part → Part) : (s.onPart n f).pkgLog = s.pkgLog := by simp only [onPart]

@[simp] theorem onObj_mem (h : Nat) (f : Obj → Obj) : (s.onObj h f).mem = s.mem := by simp only [onObj]
@[simp] theorem onObj_poison (h : Nat) (f : Obj → Obj) : (s.onObj h f).poison = s.poison := by simp only [onObj]
@[simp] theorem onObj_clk (h : Nat) (f : Obj → Obj) : (s.onObj h f).clk = s.clk := by simp only [onObj]
@[simp] theorem onObj_pkg (h : Nat) (f : Obj → Obj) : (s.onObj h f).pkg = s.pkg := by simp only [onObj]
@[simp] theorem onObj_strands (h : Nat) (f : Obj → Obj) : (s.onObj h f).strands = s.strands := by simp only [onObj]
@[simp] theorem onObj_cores (h : Nat) (f : Obj → Obj) : (s.onObj h f).cores = s.cores := by simp only [onObj]
@[simp] theorem onObj_tiles (h : Nat) (f : Obj → Obj) : (s.onObj h f).tiles = s.tiles := by simp only [onObj]
@[simp] theorem onObj_ctxs (h : Nat) (f : Obj → Obj) : (s.onObj h f).ctxs = s.ctxs := by simp only [onObj]
@[simp] theorem onObj_parts (h : Nat) (f : Obj → Obj) : (s.onObj h f).parts = s.parts := by simp only [onObj]
@[simp] theorem onObj_launches (h : Nat) (f : Obj → Obj) : (s.onObj h f).launches = s.launches := by simp only [onObj]
@[simp] theorem onObj_reqs (h : Nat) (f : Obj → Obj) : (s.onObj h f).reqs = s.reqs := by simp only [onObj]
@[simp] theorem onObj_claims (h : Nat) (f : Obj → Obj) : (s.onObj h f).claims = s.claims := by simp only [onObj]
@[simp] theorem onObj_units (h : Nat) (f : Obj → Obj) : (s.onObj h f).units = s.units := by simp only [onObj]
@[simp] theorem onObj_posted (h : Nat) (f : Obj → Obj) : (s.onObj h f).posted = s.posted := by simp only [onObj]
@[simp] theorem onObj_farStores (h : Nat) (f : Obj → Obj) : (s.onObj h f).farStores = s.farStores := by simp only [onObj]
@[simp] theorem onObj_csr (h : Nat) (f : Obj → Obj) : (s.onObj h f).csr = s.csr := by simp only [onObj]
@[simp] theorem onObj_granted (h : Nat) (f : Obj → Obj) : (s.onObj h f).granted = s.granted := by simp only [onObj]
@[simp] theorem onObj_grantQ (h : Nat) (f : Obj → Obj) : (s.onObj h f).grantQ = s.grantQ := by simp only [onObj]
@[simp] theorem onObj_fenced (h : Nat) (f : Obj → Obj) : (s.onObj h f).fenced = s.fenced := by simp only [onObj]
@[simp] theorem onObj_leaseStart (h : Nat) (f : Obj → Obj) : (s.onObj h f).leaseStart = s.leaseStart := by simp only [onObj]
@[simp] theorem onObj_checkpoint (h : Nat) (f : Obj → Obj) : (s.onObj h f).checkpoint = s.checkpoint := by simp only [onObj]
@[simp] theorem onObj_writing (h : Nat) (f : Obj → Obj) : (s.onObj h f).writing = s.writing := by simp only [onObj]
@[simp] theorem onObj_ckptStart (h : Nat) (f : Obj → Obj) : (s.onObj h f).ckptStart = s.ckptStart := by simp only [onObj]
@[simp] theorem onObj_fuses (h : Nat) (f : Obj → Obj) : (s.onObj h f).fuses = s.fuses := by simp only [onObj]
@[simp] theorem onObj_power (h : Nat) (f : Obj → Obj) : (s.onObj h f).power = s.power := by simp only [onObj]
@[simp] theorem onObj_codeKey (h : Nat) (f : Obj → Obj) : (s.onObj h f).codeKey = s.codeKey := by simp only [onObj]
@[simp] theorem onObj_links (h : Nat) (f : Obj → Obj) : (s.onObj h f).links = s.links := by simp only [onObj]
@[simp] theorem onObj_failover (h : Nat) (f : Obj → Obj) : (s.onObj h f).failover = s.failover := by simp only [onObj]
@[simp] theorem onObj_heldOut (h : Nat) (f : Obj → Obj) : (s.onObj h f).heldOut = s.heldOut := by simp only [onObj]
@[simp] theorem onObj_looked (h : Nat) (f : Obj → Obj) : (s.onObj h f).looked = s.looked := by simp only [onObj]
@[simp] theorem onObj_tasks (h : Nat) (f : Obj → Obj) : (s.onObj h f).tasks = s.tasks := by simp only [onObj]
@[simp] theorem onObj_agenda (h : Nat) (f : Obj → Obj) : (s.onObj h f).agenda = s.agenda := by simp only [onObj]
@[simp] theorem onObj_cur (h : Nat) (f : Obj → Obj) : (s.onObj h f).cur = s.cur := by simp only [onObj]
@[simp] theorem onObj_ir (h : Nat) (f : Obj → Obj) : (s.onObj h f).ir = s.ir := by simp only [onObj]
@[simp] theorem onObj_steps (h : Nat) (f : Obj → Obj) : (s.onObj h f).steps = s.steps := by simp only [onObj]
@[simp] theorem onObj_out (h : Nat) (f : Obj → Obj) : (s.onObj h f).out = s.out := by simp only [onObj]
@[simp] theorem onObj_halted (h : Nat) (f : Obj → Obj) : (s.onObj h f).halted = s.halted := by simp only [onObj]
@[simp] theorem onObj_pkgLog (h : Nat) (f : Obj → Obj) : (s.onObj h f).pkgLog = s.pkgLog := by simp only [onObj]

@[simp] theorem due_mem (es : List Event) : (s.due es).mem = s.mem := by simp only [due]
@[simp] theorem due_poison (es : List Event) : (s.due es).poison = s.poison := by simp only [due]
@[simp] theorem due_clk (es : List Event) : (s.due es).clk = s.clk := by simp only [due]
@[simp] theorem due_pkg (es : List Event) : (s.due es).pkg = s.pkg := by simp only [due]
@[simp] theorem due_strands (es : List Event) : (s.due es).strands = s.strands := by simp only [due]
@[simp] theorem due_cores (es : List Event) : (s.due es).cores = s.cores := by simp only [due]
@[simp] theorem due_tiles (es : List Event) : (s.due es).tiles = s.tiles := by simp only [due]
@[simp] theorem due_ctxs (es : List Event) : (s.due es).ctxs = s.ctxs := by simp only [due]
@[simp] theorem due_parts (es : List Event) : (s.due es).parts = s.parts := by simp only [due]
@[simp] theorem due_launches (es : List Event) : (s.due es).launches = s.launches := by simp only [due]
@[simp] theorem due_objs (es : List Event) : (s.due es).objs = s.objs := by simp only [due]
@[simp] theorem due_reqs (es : List Event) : (s.due es).reqs = s.reqs := by simp only [due]
@[simp] theorem due_claims (es : List Event) : (s.due es).claims = s.claims := by simp only [due]
@[simp] theorem due_units (es : List Event) : (s.due es).units = s.units := by simp only [due]
@[simp] theorem due_posted (es : List Event) : (s.due es).posted = s.posted := by simp only [due]
@[simp] theorem due_farStores (es : List Event) : (s.due es).farStores = s.farStores := by simp only [due]
@[simp] theorem due_csr (es : List Event) : (s.due es).csr = s.csr := by simp only [due]
@[simp] theorem due_granted (es : List Event) : (s.due es).granted = s.granted := by simp only [due]
@[simp] theorem due_grantQ (es : List Event) : (s.due es).grantQ = s.grantQ := by simp only [due]
@[simp] theorem due_fenced (es : List Event) : (s.due es).fenced = s.fenced := by simp only [due]
@[simp] theorem due_leaseStart (es : List Event) : (s.due es).leaseStart = s.leaseStart := by simp only [due]
@[simp] theorem due_checkpoint (es : List Event) : (s.due es).checkpoint = s.checkpoint := by simp only [due]
@[simp] theorem due_writing (es : List Event) : (s.due es).writing = s.writing := by simp only [due]
@[simp] theorem due_ckptStart (es : List Event) : (s.due es).ckptStart = s.ckptStart := by simp only [due]
@[simp] theorem due_fuses (es : List Event) : (s.due es).fuses = s.fuses := by simp only [due]
@[simp] theorem due_power (es : List Event) : (s.due es).power = s.power := by simp only [due]
@[simp] theorem due_codeKey (es : List Event) : (s.due es).codeKey = s.codeKey := by simp only [due]
@[simp] theorem due_links (es : List Event) : (s.due es).links = s.links := by simp only [due]
@[simp] theorem due_failover (es : List Event) : (s.due es).failover = s.failover := by simp only [due]
@[simp] theorem due_heldOut (es : List Event) : (s.due es).heldOut = s.heldOut := by simp only [due]
@[simp] theorem due_looked (es : List Event) : (s.due es).looked = s.looked := by simp only [due]
@[simp] theorem due_tasks (es : List Event) : (s.due es).tasks = s.tasks := by simp only [due]
@[simp] theorem due_cur (es : List Event) : (s.due es).cur = s.cur := by simp only [due]
@[simp] theorem due_ir (es : List Event) : (s.due es).ir = s.ir := by simp only [due]
@[simp] theorem due_steps (es : List Event) : (s.due es).steps = s.steps := by simp only [due]
@[simp] theorem due_out (es : List Event) : (s.due es).out = s.out := by simp only [due]
@[simp] theorem due_halted (es : List Event) : (s.due es).halted = s.halted := by simp only [due]
@[simp] theorem due_pkgLog (es : List Event) : (s.due es).pkgLog = s.pkgLog := by simp only [due]

@[simp] theorem send_mem (o : Out) : (s.send o).mem = s.mem := by simp only [send]
@[simp] theorem send_poison (o : Out) : (s.send o).poison = s.poison := by simp only [send]
@[simp] theorem send_clk (o : Out) : (s.send o).clk = s.clk := by simp only [send]
@[simp] theorem send_pkg (o : Out) : (s.send o).pkg = s.pkg := by simp only [send]
@[simp] theorem send_strands (o : Out) : (s.send o).strands = s.strands := by simp only [send]
@[simp] theorem send_cores (o : Out) : (s.send o).cores = s.cores := by simp only [send]
@[simp] theorem send_tiles (o : Out) : (s.send o).tiles = s.tiles := by simp only [send]
@[simp] theorem send_ctxs (o : Out) : (s.send o).ctxs = s.ctxs := by simp only [send]
@[simp] theorem send_parts (o : Out) : (s.send o).parts = s.parts := by simp only [send]
@[simp] theorem send_launches (o : Out) : (s.send o).launches = s.launches := by simp only [send]
@[simp] theorem send_objs (o : Out) : (s.send o).objs = s.objs := by simp only [send]
@[simp] theorem send_reqs (o : Out) : (s.send o).reqs = s.reqs := by simp only [send]
@[simp] theorem send_claims (o : Out) : (s.send o).claims = s.claims := by simp only [send]
@[simp] theorem send_units (o : Out) : (s.send o).units = s.units := by simp only [send]
@[simp] theorem send_posted (o : Out) : (s.send o).posted = s.posted := by simp only [send]
@[simp] theorem send_farStores (o : Out) : (s.send o).farStores = s.farStores := by simp only [send]
@[simp] theorem send_csr (o : Out) : (s.send o).csr = s.csr := by simp only [send]
@[simp] theorem send_granted (o : Out) : (s.send o).granted = s.granted := by simp only [send]
@[simp] theorem send_grantQ (o : Out) : (s.send o).grantQ = s.grantQ := by simp only [send]
@[simp] theorem send_fenced (o : Out) : (s.send o).fenced = s.fenced := by simp only [send]
@[simp] theorem send_leaseStart (o : Out) : (s.send o).leaseStart = s.leaseStart := by simp only [send]
@[simp] theorem send_checkpoint (o : Out) : (s.send o).checkpoint = s.checkpoint := by simp only [send]
@[simp] theorem send_writing (o : Out) : (s.send o).writing = s.writing := by simp only [send]
@[simp] theorem send_ckptStart (o : Out) : (s.send o).ckptStart = s.ckptStart := by simp only [send]
@[simp] theorem send_fuses (o : Out) : (s.send o).fuses = s.fuses := by simp only [send]
@[simp] theorem send_power (o : Out) : (s.send o).power = s.power := by simp only [send]
@[simp] theorem send_codeKey (o : Out) : (s.send o).codeKey = s.codeKey := by simp only [send]
@[simp] theorem send_links (o : Out) : (s.send o).links = s.links := by simp only [send]
@[simp] theorem send_failover (o : Out) : (s.send o).failover = s.failover := by simp only [send]
@[simp] theorem send_heldOut (o : Out) : (s.send o).heldOut = s.heldOut := by simp only [send]
@[simp] theorem send_looked (o : Out) : (s.send o).looked = s.looked := by simp only [send]
@[simp] theorem send_tasks (o : Out) : (s.send o).tasks = s.tasks := by simp only [send]
@[simp] theorem send_agenda (o : Out) : (s.send o).agenda = s.agenda := by simp only [send]
@[simp] theorem send_cur (o : Out) : (s.send o).cur = s.cur := by simp only [send]
@[simp] theorem send_ir (o : Out) : (s.send o).ir = s.ir := by simp only [send]
@[simp] theorem send_steps (o : Out) : (s.send o).steps = s.steps := by simp only [send]
@[simp] theorem send_halted (o : Out) : (s.send o).halted = s.halted := by simp only [send]
@[simp] theorem send_pkgLog (o : Out) : (s.send o).pkgLog = s.pkgLog := by simp only [send]

@[simp] theorem csrPut_mem (num scope : Nat) (v : Word) : (s.csrPut num scope v).mem = s.mem := by simp only [csrPut]
@[simp] theorem csrPut_poison (num scope : Nat) (v : Word) : (s.csrPut num scope v).poison = s.poison := by simp only [csrPut]
@[simp] theorem csrPut_clk (num scope : Nat) (v : Word) : (s.csrPut num scope v).clk = s.clk := by simp only [csrPut]
@[simp] theorem csrPut_pkg (num scope : Nat) (v : Word) : (s.csrPut num scope v).pkg = s.pkg := by simp only [csrPut]
@[simp] theorem csrPut_strands (num scope : Nat) (v : Word) : (s.csrPut num scope v).strands = s.strands := by simp only [csrPut]
@[simp] theorem csrPut_cores (num scope : Nat) (v : Word) : (s.csrPut num scope v).cores = s.cores := by simp only [csrPut]
@[simp] theorem csrPut_tiles (num scope : Nat) (v : Word) : (s.csrPut num scope v).tiles = s.tiles := by simp only [csrPut]
@[simp] theorem csrPut_ctxs (num scope : Nat) (v : Word) : (s.csrPut num scope v).ctxs = s.ctxs := by simp only [csrPut]
@[simp] theorem csrPut_parts (num scope : Nat) (v : Word) : (s.csrPut num scope v).parts = s.parts := by simp only [csrPut]
@[simp] theorem csrPut_launches (num scope : Nat) (v : Word) : (s.csrPut num scope v).launches = s.launches := by simp only [csrPut]
@[simp] theorem csrPut_objs (num scope : Nat) (v : Word) : (s.csrPut num scope v).objs = s.objs := by simp only [csrPut]
@[simp] theorem csrPut_reqs (num scope : Nat) (v : Word) : (s.csrPut num scope v).reqs = s.reqs := by simp only [csrPut]
@[simp] theorem csrPut_claims (num scope : Nat) (v : Word) : (s.csrPut num scope v).claims = s.claims := by simp only [csrPut]
@[simp] theorem csrPut_units (num scope : Nat) (v : Word) : (s.csrPut num scope v).units = s.units := by simp only [csrPut]
@[simp] theorem csrPut_posted (num scope : Nat) (v : Word) : (s.csrPut num scope v).posted = s.posted := by simp only [csrPut]
@[simp] theorem csrPut_farStores (num scope : Nat) (v : Word) : (s.csrPut num scope v).farStores = s.farStores := by simp only [csrPut]
@[simp] theorem csrPut_granted (num scope : Nat) (v : Word) : (s.csrPut num scope v).granted = s.granted := by simp only [csrPut]
@[simp] theorem csrPut_grantQ (num scope : Nat) (v : Word) : (s.csrPut num scope v).grantQ = s.grantQ := by simp only [csrPut]
@[simp] theorem csrPut_fenced (num scope : Nat) (v : Word) : (s.csrPut num scope v).fenced = s.fenced := by simp only [csrPut]
@[simp] theorem csrPut_leaseStart (num scope : Nat) (v : Word) : (s.csrPut num scope v).leaseStart = s.leaseStart := by simp only [csrPut]
@[simp] theorem csrPut_checkpoint (num scope : Nat) (v : Word) : (s.csrPut num scope v).checkpoint = s.checkpoint := by simp only [csrPut]
@[simp] theorem csrPut_writing (num scope : Nat) (v : Word) : (s.csrPut num scope v).writing = s.writing := by simp only [csrPut]
@[simp] theorem csrPut_ckptStart (num scope : Nat) (v : Word) : (s.csrPut num scope v).ckptStart = s.ckptStart := by simp only [csrPut]
@[simp] theorem csrPut_fuses (num scope : Nat) (v : Word) : (s.csrPut num scope v).fuses = s.fuses := by simp only [csrPut]
@[simp] theorem csrPut_power (num scope : Nat) (v : Word) : (s.csrPut num scope v).power = s.power := by simp only [csrPut]
@[simp] theorem csrPut_codeKey (num scope : Nat) (v : Word) : (s.csrPut num scope v).codeKey = s.codeKey := by simp only [csrPut]
@[simp] theorem csrPut_links (num scope : Nat) (v : Word) : (s.csrPut num scope v).links = s.links := by simp only [csrPut]
@[simp] theorem csrPut_failover (num scope : Nat) (v : Word) : (s.csrPut num scope v).failover = s.failover := by simp only [csrPut]
@[simp] theorem csrPut_heldOut (num scope : Nat) (v : Word) : (s.csrPut num scope v).heldOut = s.heldOut := by simp only [csrPut]
@[simp] theorem csrPut_looked (num scope : Nat) (v : Word) : (s.csrPut num scope v).looked = s.looked := by simp only [csrPut]
@[simp] theorem csrPut_tasks (num scope : Nat) (v : Word) : (s.csrPut num scope v).tasks = s.tasks := by simp only [csrPut]
@[simp] theorem csrPut_agenda (num scope : Nat) (v : Word) : (s.csrPut num scope v).agenda = s.agenda := by simp only [csrPut]
@[simp] theorem csrPut_cur (num scope : Nat) (v : Word) : (s.csrPut num scope v).cur = s.cur := by simp only [csrPut]
@[simp] theorem csrPut_ir (num scope : Nat) (v : Word) : (s.csrPut num scope v).ir = s.ir := by simp only [csrPut]
@[simp] theorem csrPut_steps (num scope : Nat) (v : Word) : (s.csrPut num scope v).steps = s.steps := by simp only [csrPut]
@[simp] theorem csrPut_out (num scope : Nat) (v : Word) : (s.csrPut num scope v).out = s.out := by simp only [csrPut]
@[simp] theorem csrPut_halted (num scope : Nat) (v : Word) : (s.csrPut num scope v).halted = s.halted := by simp only [csrPut]
@[simp] theorem csrPut_pkgLog (num scope : Nat) (v : Word) : (s.csrPut num scope v).pkgLog = s.pkgLog := by simp only [csrPut]

@[simp] theorem setPoison_mem (bit len : Nat) : (s.setPoison bit len).mem = s.mem := by simp only [setPoison]
@[simp] theorem setPoison_clk (bit len : Nat) : (s.setPoison bit len).clk = s.clk := by simp only [setPoison]
@[simp] theorem setPoison_pkg (bit len : Nat) : (s.setPoison bit len).pkg = s.pkg := by simp only [setPoison]
@[simp] theorem setPoison_strands (bit len : Nat) : (s.setPoison bit len).strands = s.strands := by simp only [setPoison]
@[simp] theorem setPoison_cores (bit len : Nat) : (s.setPoison bit len).cores = s.cores := by simp only [setPoison]
@[simp] theorem setPoison_tiles (bit len : Nat) : (s.setPoison bit len).tiles = s.tiles := by simp only [setPoison]
@[simp] theorem setPoison_ctxs (bit len : Nat) : (s.setPoison bit len).ctxs = s.ctxs := by simp only [setPoison]
@[simp] theorem setPoison_parts (bit len : Nat) : (s.setPoison bit len).parts = s.parts := by simp only [setPoison]
@[simp] theorem setPoison_launches (bit len : Nat) : (s.setPoison bit len).launches = s.launches := by simp only [setPoison]
@[simp] theorem setPoison_objs (bit len : Nat) : (s.setPoison bit len).objs = s.objs := by simp only [setPoison]
@[simp] theorem setPoison_reqs (bit len : Nat) : (s.setPoison bit len).reqs = s.reqs := by simp only [setPoison]
@[simp] theorem setPoison_claims (bit len : Nat) : (s.setPoison bit len).claims = s.claims := by simp only [setPoison]
@[simp] theorem setPoison_units (bit len : Nat) : (s.setPoison bit len).units = s.units := by simp only [setPoison]
@[simp] theorem setPoison_posted (bit len : Nat) : (s.setPoison bit len).posted = s.posted := by simp only [setPoison]
@[simp] theorem setPoison_farStores (bit len : Nat) : (s.setPoison bit len).farStores = s.farStores := by simp only [setPoison]
@[simp] theorem setPoison_csr (bit len : Nat) : (s.setPoison bit len).csr = s.csr := by simp only [setPoison]
@[simp] theorem setPoison_granted (bit len : Nat) : (s.setPoison bit len).granted = s.granted := by simp only [setPoison]
@[simp] theorem setPoison_grantQ (bit len : Nat) : (s.setPoison bit len).grantQ = s.grantQ := by simp only [setPoison]
@[simp] theorem setPoison_fenced (bit len : Nat) : (s.setPoison bit len).fenced = s.fenced := by simp only [setPoison]
@[simp] theorem setPoison_leaseStart (bit len : Nat) : (s.setPoison bit len).leaseStart = s.leaseStart := by simp only [setPoison]
@[simp] theorem setPoison_checkpoint (bit len : Nat) : (s.setPoison bit len).checkpoint = s.checkpoint := by simp only [setPoison]
@[simp] theorem setPoison_writing (bit len : Nat) : (s.setPoison bit len).writing = s.writing := by simp only [setPoison]
@[simp] theorem setPoison_ckptStart (bit len : Nat) : (s.setPoison bit len).ckptStart = s.ckptStart := by simp only [setPoison]
@[simp] theorem setPoison_fuses (bit len : Nat) : (s.setPoison bit len).fuses = s.fuses := by simp only [setPoison]
@[simp] theorem setPoison_power (bit len : Nat) : (s.setPoison bit len).power = s.power := by simp only [setPoison]
@[simp] theorem setPoison_codeKey (bit len : Nat) : (s.setPoison bit len).codeKey = s.codeKey := by simp only [setPoison]
@[simp] theorem setPoison_links (bit len : Nat) : (s.setPoison bit len).links = s.links := by simp only [setPoison]
@[simp] theorem setPoison_failover (bit len : Nat) : (s.setPoison bit len).failover = s.failover := by simp only [setPoison]
@[simp] theorem setPoison_heldOut (bit len : Nat) : (s.setPoison bit len).heldOut = s.heldOut := by simp only [setPoison]
@[simp] theorem setPoison_looked (bit len : Nat) : (s.setPoison bit len).looked = s.looked := by simp only [setPoison]
@[simp] theorem setPoison_tasks (bit len : Nat) : (s.setPoison bit len).tasks = s.tasks := by simp only [setPoison]
@[simp] theorem setPoison_agenda (bit len : Nat) : (s.setPoison bit len).agenda = s.agenda := by simp only [setPoison]
@[simp] theorem setPoison_cur (bit len : Nat) : (s.setPoison bit len).cur = s.cur := by simp only [setPoison]
@[simp] theorem setPoison_ir (bit len : Nat) : (s.setPoison bit len).ir = s.ir := by simp only [setPoison]
@[simp] theorem setPoison_steps (bit len : Nat) : (s.setPoison bit len).steps = s.steps := by simp only [setPoison]
@[simp] theorem setPoison_out (bit len : Nat) : (s.setPoison bit len).out = s.out := by simp only [setPoison]
@[simp] theorem setPoison_halted (bit len : Nat) : (s.setPoison bit len).halted = s.halted := by simp only [setPoison]
@[simp] theorem setPoison_pkgLog (bit len : Nat) : (s.setPoison bit len).pkgLog = s.pkgLog := by simp only [setPoison]

@[simp] theorem markReaders_mem (bit len : Nat) : (s.markReaders bit len).mem = s.mem := by simp only [markReaders]
@[simp] theorem markReaders_poison (bit len : Nat) : (s.markReaders bit len).poison = s.poison := by simp only [markReaders]
@[simp] theorem markReaders_clk (bit len : Nat) : (s.markReaders bit len).clk = s.clk := by simp only [markReaders]
@[simp] theorem markReaders_pkg (bit len : Nat) : (s.markReaders bit len).pkg = s.pkg := by simp only [markReaders]
@[simp] theorem markReaders_cores (bit len : Nat) : (s.markReaders bit len).cores = s.cores := by simp only [markReaders]
@[simp] theorem markReaders_tiles (bit len : Nat) : (s.markReaders bit len).tiles = s.tiles := by simp only [markReaders]
@[simp] theorem markReaders_ctxs (bit len : Nat) : (s.markReaders bit len).ctxs = s.ctxs := by simp only [markReaders]
@[simp] theorem markReaders_parts (bit len : Nat) : (s.markReaders bit len).parts = s.parts := by simp only [markReaders]
@[simp] theorem markReaders_launches (bit len : Nat) : (s.markReaders bit len).launches = s.launches := by simp only [markReaders]
@[simp] theorem markReaders_objs (bit len : Nat) : (s.markReaders bit len).objs = s.objs := by simp only [markReaders]
@[simp] theorem markReaders_reqs (bit len : Nat) : (s.markReaders bit len).reqs = s.reqs := by simp only [markReaders]
@[simp] theorem markReaders_claims (bit len : Nat) : (s.markReaders bit len).claims = s.claims := by simp only [markReaders]
@[simp] theorem markReaders_units (bit len : Nat) : (s.markReaders bit len).units = s.units := by simp only [markReaders]
@[simp] theorem markReaders_posted (bit len : Nat) : (s.markReaders bit len).posted = s.posted := by simp only [markReaders]
@[simp] theorem markReaders_farStores (bit len : Nat) : (s.markReaders bit len).farStores = s.farStores := by simp only [markReaders]
@[simp] theorem markReaders_csr (bit len : Nat) : (s.markReaders bit len).csr = s.csr := by simp only [markReaders]
@[simp] theorem markReaders_granted (bit len : Nat) : (s.markReaders bit len).granted = s.granted := by simp only [markReaders]
@[simp] theorem markReaders_grantQ (bit len : Nat) : (s.markReaders bit len).grantQ = s.grantQ := by simp only [markReaders]
@[simp] theorem markReaders_fenced (bit len : Nat) : (s.markReaders bit len).fenced = s.fenced := by simp only [markReaders]
@[simp] theorem markReaders_leaseStart (bit len : Nat) : (s.markReaders bit len).leaseStart = s.leaseStart := by simp only [markReaders]
@[simp] theorem markReaders_checkpoint (bit len : Nat) : (s.markReaders bit len).checkpoint = s.checkpoint := by simp only [markReaders]
@[simp] theorem markReaders_writing (bit len : Nat) : (s.markReaders bit len).writing = s.writing := by simp only [markReaders]
@[simp] theorem markReaders_ckptStart (bit len : Nat) : (s.markReaders bit len).ckptStart = s.ckptStart := by simp only [markReaders]
@[simp] theorem markReaders_fuses (bit len : Nat) : (s.markReaders bit len).fuses = s.fuses := by simp only [markReaders]
@[simp] theorem markReaders_power (bit len : Nat) : (s.markReaders bit len).power = s.power := by simp only [markReaders]
@[simp] theorem markReaders_codeKey (bit len : Nat) : (s.markReaders bit len).codeKey = s.codeKey := by simp only [markReaders]
@[simp] theorem markReaders_links (bit len : Nat) : (s.markReaders bit len).links = s.links := by simp only [markReaders]
@[simp] theorem markReaders_failover (bit len : Nat) : (s.markReaders bit len).failover = s.failover := by simp only [markReaders]
@[simp] theorem markReaders_heldOut (bit len : Nat) : (s.markReaders bit len).heldOut = s.heldOut := by simp only [markReaders]
@[simp] theorem markReaders_looked (bit len : Nat) : (s.markReaders bit len).looked = s.looked := by simp only [markReaders]
@[simp] theorem markReaders_tasks (bit len : Nat) : (s.markReaders bit len).tasks = s.tasks := by simp only [markReaders]
@[simp] theorem markReaders_agenda (bit len : Nat) : (s.markReaders bit len).agenda = s.agenda := by simp only [markReaders]
@[simp] theorem markReaders_cur (bit len : Nat) : (s.markReaders bit len).cur = s.cur := by simp only [markReaders]
@[simp] theorem markReaders_ir (bit len : Nat) : (s.markReaders bit len).ir = s.ir := by simp only [markReaders]
@[simp] theorem markReaders_steps (bit len : Nat) : (s.markReaders bit len).steps = s.steps := by simp only [markReaders]
@[simp] theorem markReaders_out (bit len : Nat) : (s.markReaders bit len).out = s.out := by simp only [markReaders]
@[simp] theorem markReaders_halted (bit len : Nat) : (s.markReaders bit len).halted = s.halted := by simp only [markReaders]
@[simp] theorem markReaders_pkgLog (bit len : Nat) : (s.markReaders bit len).pkgLog = s.pkgLog := by simp only [markReaders]

@[simp] theorem issued_mem : (s.issued).mem = s.mem := by simp only [issued, onCore_mem]
@[simp] theorem issued_poison : (s.issued).poison = s.poison := by simp only [issued, onCore_poison]
@[simp] theorem issued_clk : (s.issued).clk = s.clk := by simp only [issued, onCore_clk]
@[simp] theorem issued_pkg : (s.issued).pkg = s.pkg := by simp only [issued, onCore_pkg]
@[simp] theorem issued_tiles : (s.issued).tiles = s.tiles := by simp only [issued, onCore_tiles]
@[simp] theorem issued_ctxs : (s.issued).ctxs = s.ctxs := by simp only [issued, onCore_ctxs]
@[simp] theorem issued_parts : (s.issued).parts = s.parts := by simp only [issued, onCore_parts]
@[simp] theorem issued_launches : (s.issued).launches = s.launches := by simp only [issued, onCore_launches]
@[simp] theorem issued_objs : (s.issued).objs = s.objs := by simp only [issued, onCore_objs]
@[simp] theorem issued_reqs : (s.issued).reqs = s.reqs := by simp only [issued, onCore_reqs]
@[simp] theorem issued_claims : (s.issued).claims = s.claims := by simp only [issued, onCore_claims]
@[simp] theorem issued_units : (s.issued).units = s.units := by simp only [issued, onCore_units]
@[simp] theorem issued_posted : (s.issued).posted = s.posted := by simp only [issued, onCore_posted]
@[simp] theorem issued_farStores : (s.issued).farStores = s.farStores := by simp only [issued, onCore_farStores]
@[simp] theorem issued_csr : (s.issued).csr = s.csr := by simp only [issued, onCore_csr]
@[simp] theorem issued_granted : (s.issued).granted = s.granted := by simp only [issued, onCore_granted]
@[simp] theorem issued_grantQ : (s.issued).grantQ = s.grantQ := by simp only [issued, onCore_grantQ]
@[simp] theorem issued_fenced : (s.issued).fenced = s.fenced := by simp only [issued, onCore_fenced]
@[simp] theorem issued_leaseStart : (s.issued).leaseStart = s.leaseStart := by simp only [issued, onCore_leaseStart]
@[simp] theorem issued_checkpoint : (s.issued).checkpoint = s.checkpoint := by simp only [issued, onCore_checkpoint]
@[simp] theorem issued_writing : (s.issued).writing = s.writing := by simp only [issued, onCore_writing]
@[simp] theorem issued_ckptStart : (s.issued).ckptStart = s.ckptStart := by simp only [issued, onCore_ckptStart]
@[simp] theorem issued_fuses : (s.issued).fuses = s.fuses := by simp only [issued, onCore_fuses]
@[simp] theorem issued_power : (s.issued).power = s.power := by simp only [issued, onCore_power]
@[simp] theorem issued_codeKey : (s.issued).codeKey = s.codeKey := by simp only [issued, onCore_codeKey]
@[simp] theorem issued_links : (s.issued).links = s.links := by simp only [issued, onCore_links]
@[simp] theorem issued_failover : (s.issued).failover = s.failover := by simp only [issued, onCore_failover]
@[simp] theorem issued_heldOut : (s.issued).heldOut = s.heldOut := by simp only [issued, onCore_heldOut]
@[simp] theorem issued_looked : (s.issued).looked = s.looked := by simp only [issued, onCore_looked]
@[simp] theorem issued_tasks : (s.issued).tasks = s.tasks := by simp only [issued, onCore_tasks]
@[simp] theorem issued_agenda : (s.issued).agenda = s.agenda := by simp only [issued, onCore_agenda]
@[simp] theorem issued_cur : (s.issued).cur = s.cur := by simp only [issued, onCore_cur]
@[simp] theorem issued_ir : (s.issued).ir = s.ir := by simp only [issued, onCore_ir]
@[simp] theorem issued_steps : (s.issued).steps = s.steps := by simp only [issued, onCore_steps]
@[simp] theorem issued_out : (s.issued).out = s.out := by simp only [issued, onCore_out]
@[simp] theorem issued_halted : (s.issued).halted = s.halted := by simp only [issued, onCore_halted]
@[simp] theorem issued_pkgLog : (s.issued).pkgLog = s.pkgLog := by simp only [issued, onCore_pkgLog]

@[simp] theorem done_mem (len : Nat) : (s.done len).mem = s.mem := by simp only [done, issued_mem, onMe_mem]
@[simp] theorem done_poison (len : Nat) : (s.done len).poison = s.poison := by simp only [done, issued_poison, onMe_poison]
@[simp] theorem done_clk (len : Nat) : (s.done len).clk = s.clk := by simp only [done, issued_clk, onMe_clk]
@[simp] theorem done_pkg (len : Nat) : (s.done len).pkg = s.pkg := by simp only [done, issued_pkg, onMe_pkg]
@[simp] theorem done_tiles (len : Nat) : (s.done len).tiles = s.tiles := by simp only [done, issued_tiles, onMe_tiles]
@[simp] theorem done_ctxs (len : Nat) : (s.done len).ctxs = s.ctxs := by simp only [done, issued_ctxs, onMe_ctxs]
@[simp] theorem done_parts (len : Nat) : (s.done len).parts = s.parts := by simp only [done, issued_parts, onMe_parts]
@[simp] theorem done_launches (len : Nat) : (s.done len).launches = s.launches := by simp only [done, issued_launches, onMe_launches]
@[simp] theorem done_objs (len : Nat) : (s.done len).objs = s.objs := by simp only [done, issued_objs, onMe_objs]
@[simp] theorem done_reqs (len : Nat) : (s.done len).reqs = s.reqs := by simp only [done, issued_reqs, onMe_reqs]
@[simp] theorem done_claims (len : Nat) : (s.done len).claims = s.claims := by simp only [done, issued_claims, onMe_claims]
@[simp] theorem done_units (len : Nat) : (s.done len).units = s.units := by simp only [done, issued_units, onMe_units]
@[simp] theorem done_posted (len : Nat) : (s.done len).posted = s.posted := by simp only [done, issued_posted, onMe_posted]
@[simp] theorem done_farStores (len : Nat) : (s.done len).farStores = s.farStores := by simp only [done, issued_farStores, onMe_farStores]
@[simp] theorem done_csr (len : Nat) : (s.done len).csr = s.csr := by simp only [done, issued_csr, onMe_csr]
@[simp] theorem done_granted (len : Nat) : (s.done len).granted = s.granted := by simp only [done, issued_granted, onMe_granted]
@[simp] theorem done_grantQ (len : Nat) : (s.done len).grantQ = s.grantQ := by simp only [done, issued_grantQ, onMe_grantQ]
@[simp] theorem done_fenced (len : Nat) : (s.done len).fenced = s.fenced := by simp only [done, issued_fenced, onMe_fenced]
@[simp] theorem done_leaseStart (len : Nat) : (s.done len).leaseStart = s.leaseStart := by simp only [done, issued_leaseStart, onMe_leaseStart]
@[simp] theorem done_checkpoint (len : Nat) : (s.done len).checkpoint = s.checkpoint := by simp only [done, issued_checkpoint, onMe_checkpoint]
@[simp] theorem done_writing (len : Nat) : (s.done len).writing = s.writing := by simp only [done, issued_writing, onMe_writing]
@[simp] theorem done_ckptStart (len : Nat) : (s.done len).ckptStart = s.ckptStart := by simp only [done, issued_ckptStart, onMe_ckptStart]
@[simp] theorem done_fuses (len : Nat) : (s.done len).fuses = s.fuses := by simp only [done, issued_fuses, onMe_fuses]
@[simp] theorem done_power (len : Nat) : (s.done len).power = s.power := by simp only [done, issued_power, onMe_power]
@[simp] theorem done_codeKey (len : Nat) : (s.done len).codeKey = s.codeKey := by simp only [done, issued_codeKey, onMe_codeKey]
@[simp] theorem done_links (len : Nat) : (s.done len).links = s.links := by simp only [done, issued_links, onMe_links]
@[simp] theorem done_failover (len : Nat) : (s.done len).failover = s.failover := by simp only [done, issued_failover, onMe_failover]
@[simp] theorem done_heldOut (len : Nat) : (s.done len).heldOut = s.heldOut := by simp only [done, issued_heldOut, onMe_heldOut]
@[simp] theorem done_looked (len : Nat) : (s.done len).looked = s.looked := by simp only [done, issued_looked, onMe_looked]
@[simp] theorem done_tasks (len : Nat) : (s.done len).tasks = s.tasks := by simp only [done, issued_tasks, onMe_tasks]
@[simp] theorem done_agenda (len : Nat) : (s.done len).agenda = s.agenda := by simp only [done, issued_agenda, onMe_agenda]
@[simp] theorem done_cur (len : Nat) : (s.done len).cur = s.cur := by simp only [done, issued_cur, onMe_cur]
@[simp] theorem done_ir (len : Nat) : (s.done len).ir = s.ir := by simp only [done, issued_ir, onMe_ir]
@[simp] theorem done_steps (len : Nat) : (s.done len).steps = s.steps := by simp only [done, issued_steps, onMe_steps]
@[simp] theorem done_out (len : Nat) : (s.done len).out = s.out := by simp only [done, issued_out, onMe_out]
@[simp] theorem done_halted (len : Nat) : (s.done len).halted = s.halted := by simp only [done, issued_halted, onMe_halted]
@[simp] theorem done_pkgLog (len : Nat) : (s.done len).pkgLog = s.pkgLog := by simp only [done, issued_pkgLog, onMe_pkgLog]

@[simp] theorem doneAt_mem (w : Nat) : (s.doneAt w).mem = s.mem := by simp only [doneAt, issued_mem, onMe_mem]
@[simp] theorem doneAt_poison (w : Nat) : (s.doneAt w).poison = s.poison := by simp only [doneAt, issued_poison, onMe_poison]
@[simp] theorem doneAt_clk (w : Nat) : (s.doneAt w).clk = s.clk := by simp only [doneAt, issued_clk, onMe_clk]
@[simp] theorem doneAt_pkg (w : Nat) : (s.doneAt w).pkg = s.pkg := by simp only [doneAt, issued_pkg, onMe_pkg]
@[simp] theorem doneAt_tiles (w : Nat) : (s.doneAt w).tiles = s.tiles := by simp only [doneAt, issued_tiles, onMe_tiles]
@[simp] theorem doneAt_ctxs (w : Nat) : (s.doneAt w).ctxs = s.ctxs := by simp only [doneAt, issued_ctxs, onMe_ctxs]
@[simp] theorem doneAt_parts (w : Nat) : (s.doneAt w).parts = s.parts := by simp only [doneAt, issued_parts, onMe_parts]
@[simp] theorem doneAt_launches (w : Nat) : (s.doneAt w).launches = s.launches := by simp only [doneAt, issued_launches, onMe_launches]
@[simp] theorem doneAt_objs (w : Nat) : (s.doneAt w).objs = s.objs := by simp only [doneAt, issued_objs, onMe_objs]
@[simp] theorem doneAt_reqs (w : Nat) : (s.doneAt w).reqs = s.reqs := by simp only [doneAt, issued_reqs, onMe_reqs]
@[simp] theorem doneAt_claims (w : Nat) : (s.doneAt w).claims = s.claims := by simp only [doneAt, issued_claims, onMe_claims]
@[simp] theorem doneAt_units (w : Nat) : (s.doneAt w).units = s.units := by simp only [doneAt, issued_units, onMe_units]
@[simp] theorem doneAt_posted (w : Nat) : (s.doneAt w).posted = s.posted := by simp only [doneAt, issued_posted, onMe_posted]
@[simp] theorem doneAt_farStores (w : Nat) : (s.doneAt w).farStores = s.farStores := by simp only [doneAt, issued_farStores, onMe_farStores]
@[simp] theorem doneAt_csr (w : Nat) : (s.doneAt w).csr = s.csr := by simp only [doneAt, issued_csr, onMe_csr]
@[simp] theorem doneAt_granted (w : Nat) : (s.doneAt w).granted = s.granted := by simp only [doneAt, issued_granted, onMe_granted]
@[simp] theorem doneAt_grantQ (w : Nat) : (s.doneAt w).grantQ = s.grantQ := by simp only [doneAt, issued_grantQ, onMe_grantQ]
@[simp] theorem doneAt_fenced (w : Nat) : (s.doneAt w).fenced = s.fenced := by simp only [doneAt, issued_fenced, onMe_fenced]
@[simp] theorem doneAt_leaseStart (w : Nat) : (s.doneAt w).leaseStart = s.leaseStart := by simp only [doneAt, issued_leaseStart, onMe_leaseStart]
@[simp] theorem doneAt_checkpoint (w : Nat) : (s.doneAt w).checkpoint = s.checkpoint := by simp only [doneAt, issued_checkpoint, onMe_checkpoint]
@[simp] theorem doneAt_writing (w : Nat) : (s.doneAt w).writing = s.writing := by simp only [doneAt, issued_writing, onMe_writing]
@[simp] theorem doneAt_ckptStart (w : Nat) : (s.doneAt w).ckptStart = s.ckptStart := by simp only [doneAt, issued_ckptStart, onMe_ckptStart]
@[simp] theorem doneAt_fuses (w : Nat) : (s.doneAt w).fuses = s.fuses := by simp only [doneAt, issued_fuses, onMe_fuses]
@[simp] theorem doneAt_power (w : Nat) : (s.doneAt w).power = s.power := by simp only [doneAt, issued_power, onMe_power]
@[simp] theorem doneAt_codeKey (w : Nat) : (s.doneAt w).codeKey = s.codeKey := by simp only [doneAt, issued_codeKey, onMe_codeKey]
@[simp] theorem doneAt_links (w : Nat) : (s.doneAt w).links = s.links := by simp only [doneAt, issued_links, onMe_links]
@[simp] theorem doneAt_failover (w : Nat) : (s.doneAt w).failover = s.failover := by simp only [doneAt, issued_failover, onMe_failover]
@[simp] theorem doneAt_heldOut (w : Nat) : (s.doneAt w).heldOut = s.heldOut := by simp only [doneAt, issued_heldOut, onMe_heldOut]
@[simp] theorem doneAt_looked (w : Nat) : (s.doneAt w).looked = s.looked := by simp only [doneAt, issued_looked, onMe_looked]
@[simp] theorem doneAt_tasks (w : Nat) : (s.doneAt w).tasks = s.tasks := by simp only [doneAt, issued_tasks, onMe_tasks]
@[simp] theorem doneAt_agenda (w : Nat) : (s.doneAt w).agenda = s.agenda := by simp only [doneAt, issued_agenda, onMe_agenda]
@[simp] theorem doneAt_cur (w : Nat) : (s.doneAt w).cur = s.cur := by simp only [doneAt, issued_cur, onMe_cur]
@[simp] theorem doneAt_ir (w : Nat) : (s.doneAt w).ir = s.ir := by simp only [doneAt, issued_ir, onMe_ir]
@[simp] theorem doneAt_steps (w : Nat) : (s.doneAt w).steps = s.steps := by simp only [doneAt, issued_steps, onMe_steps]
@[simp] theorem doneAt_out (w : Nat) : (s.doneAt w).out = s.out := by simp only [doneAt, issued_out, onMe_out]
@[simp] theorem doneAt_halted (w : Nat) : (s.doneAt w).halted = s.halted := by simp only [doneAt, issued_halted, onMe_halted]
@[simp] theorem doneAt_pkgLog (w : Nat) : (s.doneAt w).pkgLog = s.pkgLog := by simp only [doneAt, issued_pkgLog, onMe_pkgLog]

@[simp] theorem result_mem (d : Sel) (v : Word) (len : Nat) : (s.result d v len).mem = s.mem := by simp only [result, done_mem, onRegs_mem]
@[simp] theorem result_poison (d : Sel) (v : Word) (len : Nat) : (s.result d v len).poison = s.poison := by simp only [result, done_poison, onRegs_poison]
@[simp] theorem result_clk (d : Sel) (v : Word) (len : Nat) : (s.result d v len).clk = s.clk := by simp only [result, done_clk, onRegs_clk]
@[simp] theorem result_pkg (d : Sel) (v : Word) (len : Nat) : (s.result d v len).pkg = s.pkg := by simp only [result, done_pkg, onRegs_pkg]
@[simp] theorem result_tiles (d : Sel) (v : Word) (len : Nat) : (s.result d v len).tiles = s.tiles := by simp only [result, done_tiles, onRegs_tiles]
@[simp] theorem result_ctxs (d : Sel) (v : Word) (len : Nat) : (s.result d v len).ctxs = s.ctxs := by simp only [result, done_ctxs, onRegs_ctxs]
@[simp] theorem result_parts (d : Sel) (v : Word) (len : Nat) : (s.result d v len).parts = s.parts := by simp only [result, done_parts, onRegs_parts]
@[simp] theorem result_launches (d : Sel) (v : Word) (len : Nat) : (s.result d v len).launches = s.launches := by simp only [result, done_launches, onRegs_launches]
@[simp] theorem result_objs (d : Sel) (v : Word) (len : Nat) : (s.result d v len).objs = s.objs := by simp only [result, done_objs, onRegs_objs]
@[simp] theorem result_reqs (d : Sel) (v : Word) (len : Nat) : (s.result d v len).reqs = s.reqs := by simp only [result, done_reqs, onRegs_reqs]
@[simp] theorem result_claims (d : Sel) (v : Word) (len : Nat) : (s.result d v len).claims = s.claims := by simp only [result, done_claims, onRegs_claims]
@[simp] theorem result_units (d : Sel) (v : Word) (len : Nat) : (s.result d v len).units = s.units := by simp only [result, done_units, onRegs_units]
@[simp] theorem result_posted (d : Sel) (v : Word) (len : Nat) : (s.result d v len).posted = s.posted := by simp only [result, done_posted, onRegs_posted]
@[simp] theorem result_farStores (d : Sel) (v : Word) (len : Nat) : (s.result d v len).farStores = s.farStores := by simp only [result, done_farStores, onRegs_farStores]
@[simp] theorem result_csr (d : Sel) (v : Word) (len : Nat) : (s.result d v len).csr = s.csr := by simp only [result, done_csr, onRegs_csr]
@[simp] theorem result_granted (d : Sel) (v : Word) (len : Nat) : (s.result d v len).granted = s.granted := by simp only [result, done_granted, onRegs_granted]
@[simp] theorem result_grantQ (d : Sel) (v : Word) (len : Nat) : (s.result d v len).grantQ = s.grantQ := by simp only [result, done_grantQ, onRegs_grantQ]
@[simp] theorem result_fenced (d : Sel) (v : Word) (len : Nat) : (s.result d v len).fenced = s.fenced := by simp only [result, done_fenced, onRegs_fenced]
@[simp] theorem result_leaseStart (d : Sel) (v : Word) (len : Nat) : (s.result d v len).leaseStart = s.leaseStart := by simp only [result, done_leaseStart, onRegs_leaseStart]
@[simp] theorem result_checkpoint (d : Sel) (v : Word) (len : Nat) : (s.result d v len).checkpoint = s.checkpoint := by simp only [result, done_checkpoint, onRegs_checkpoint]
@[simp] theorem result_writing (d : Sel) (v : Word) (len : Nat) : (s.result d v len).writing = s.writing := by simp only [result, done_writing, onRegs_writing]
@[simp] theorem result_ckptStart (d : Sel) (v : Word) (len : Nat) : (s.result d v len).ckptStart = s.ckptStart := by simp only [result, done_ckptStart, onRegs_ckptStart]
@[simp] theorem result_fuses (d : Sel) (v : Word) (len : Nat) : (s.result d v len).fuses = s.fuses := by simp only [result, done_fuses, onRegs_fuses]
@[simp] theorem result_power (d : Sel) (v : Word) (len : Nat) : (s.result d v len).power = s.power := by simp only [result, done_power, onRegs_power]
@[simp] theorem result_codeKey (d : Sel) (v : Word) (len : Nat) : (s.result d v len).codeKey = s.codeKey := by simp only [result, done_codeKey, onRegs_codeKey]
@[simp] theorem result_links (d : Sel) (v : Word) (len : Nat) : (s.result d v len).links = s.links := by simp only [result, done_links, onRegs_links]
@[simp] theorem result_failover (d : Sel) (v : Word) (len : Nat) : (s.result d v len).failover = s.failover := by simp only [result, done_failover, onRegs_failover]
@[simp] theorem result_heldOut (d : Sel) (v : Word) (len : Nat) : (s.result d v len).heldOut = s.heldOut := by simp only [result, done_heldOut, onRegs_heldOut]
@[simp] theorem result_looked (d : Sel) (v : Word) (len : Nat) : (s.result d v len).looked = s.looked := by simp only [result, done_looked, onRegs_looked]
@[simp] theorem result_tasks (d : Sel) (v : Word) (len : Nat) : (s.result d v len).tasks = s.tasks := by simp only [result, done_tasks, onRegs_tasks]
@[simp] theorem result_agenda (d : Sel) (v : Word) (len : Nat) : (s.result d v len).agenda = s.agenda := by simp only [result, done_agenda, onRegs_agenda]
@[simp] theorem result_cur (d : Sel) (v : Word) (len : Nat) : (s.result d v len).cur = s.cur := by simp only [result, done_cur, onRegs_cur]
@[simp] theorem result_ir (d : Sel) (v : Word) (len : Nat) : (s.result d v len).ir = s.ir := by simp only [result, done_ir, onRegs_ir]
@[simp] theorem result_steps (d : Sel) (v : Word) (len : Nat) : (s.result d v len).steps = s.steps := by simp only [result, done_steps, onRegs_steps]
@[simp] theorem result_out (d : Sel) (v : Word) (len : Nat) : (s.result d v len).out = s.out := by simp only [result, done_out, onRegs_out]
@[simp] theorem result_halted (d : Sel) (v : Word) (len : Nat) : (s.result d v len).halted = s.halted := by simp only [result, done_halted, onRegs_halted]
@[simp] theorem result_pkgLog (d : Sel) (v : Word) (len : Nat) : (s.result d v len).pkgLog = s.pkgLog := by simp only [result, done_pkgLog, onRegs_pkgLog]

@[simp] theorem addPend_mem (p : Pend) : (s.addPend p).mem = s.mem := by simp only [addPend, onMe_mem]
@[simp] theorem addPend_poison (p : Pend) : (s.addPend p).poison = s.poison := by simp only [addPend, onMe_poison]
@[simp] theorem addPend_clk (p : Pend) : (s.addPend p).clk = s.clk := by simp only [addPend, onMe_clk]
@[simp] theorem addPend_pkg (p : Pend) : (s.addPend p).pkg = s.pkg := by simp only [addPend, onMe_pkg]
@[simp] theorem addPend_cores (p : Pend) : (s.addPend p).cores = s.cores := by simp only [addPend, onMe_cores]
@[simp] theorem addPend_tiles (p : Pend) : (s.addPend p).tiles = s.tiles := by simp only [addPend, onMe_tiles]
@[simp] theorem addPend_ctxs (p : Pend) : (s.addPend p).ctxs = s.ctxs := by simp only [addPend, onMe_ctxs]
@[simp] theorem addPend_parts (p : Pend) : (s.addPend p).parts = s.parts := by simp only [addPend, onMe_parts]
@[simp] theorem addPend_launches (p : Pend) : (s.addPend p).launches = s.launches := by simp only [addPend, onMe_launches]
@[simp] theorem addPend_objs (p : Pend) : (s.addPend p).objs = s.objs := by simp only [addPend, onMe_objs]
@[simp] theorem addPend_reqs (p : Pend) : (s.addPend p).reqs = s.reqs := by simp only [addPend, onMe_reqs]
@[simp] theorem addPend_claims (p : Pend) : (s.addPend p).claims = s.claims := by simp only [addPend, onMe_claims]
@[simp] theorem addPend_units (p : Pend) : (s.addPend p).units = s.units := by simp only [addPend, onMe_units]
@[simp] theorem addPend_posted (p : Pend) : (s.addPend p).posted = s.posted := by simp only [addPend, onMe_posted]
@[simp] theorem addPend_farStores (p : Pend) : (s.addPend p).farStores = s.farStores := by simp only [addPend, onMe_farStores]
@[simp] theorem addPend_csr (p : Pend) : (s.addPend p).csr = s.csr := by simp only [addPend, onMe_csr]
@[simp] theorem addPend_granted (p : Pend) : (s.addPend p).granted = s.granted := by simp only [addPend, onMe_granted]
@[simp] theorem addPend_grantQ (p : Pend) : (s.addPend p).grantQ = s.grantQ := by simp only [addPend, onMe_grantQ]
@[simp] theorem addPend_fenced (p : Pend) : (s.addPend p).fenced = s.fenced := by simp only [addPend, onMe_fenced]
@[simp] theorem addPend_leaseStart (p : Pend) : (s.addPend p).leaseStart = s.leaseStart := by simp only [addPend, onMe_leaseStart]
@[simp] theorem addPend_checkpoint (p : Pend) : (s.addPend p).checkpoint = s.checkpoint := by simp only [addPend, onMe_checkpoint]
@[simp] theorem addPend_writing (p : Pend) : (s.addPend p).writing = s.writing := by simp only [addPend, onMe_writing]
@[simp] theorem addPend_ckptStart (p : Pend) : (s.addPend p).ckptStart = s.ckptStart := by simp only [addPend, onMe_ckptStart]
@[simp] theorem addPend_fuses (p : Pend) : (s.addPend p).fuses = s.fuses := by simp only [addPend, onMe_fuses]
@[simp] theorem addPend_power (p : Pend) : (s.addPend p).power = s.power := by simp only [addPend, onMe_power]
@[simp] theorem addPend_codeKey (p : Pend) : (s.addPend p).codeKey = s.codeKey := by simp only [addPend, onMe_codeKey]
@[simp] theorem addPend_links (p : Pend) : (s.addPend p).links = s.links := by simp only [addPend, onMe_links]
@[simp] theorem addPend_failover (p : Pend) : (s.addPend p).failover = s.failover := by simp only [addPend, onMe_failover]
@[simp] theorem addPend_heldOut (p : Pend) : (s.addPend p).heldOut = s.heldOut := by simp only [addPend, onMe_heldOut]
@[simp] theorem addPend_looked (p : Pend) : (s.addPend p).looked = s.looked := by simp only [addPend, onMe_looked]
@[simp] theorem addPend_tasks (p : Pend) : (s.addPend p).tasks = s.tasks := by simp only [addPend, onMe_tasks]
@[simp] theorem addPend_agenda (p : Pend) : (s.addPend p).agenda = s.agenda := by simp only [addPend, onMe_agenda]
@[simp] theorem addPend_cur (p : Pend) : (s.addPend p).cur = s.cur := by simp only [addPend, onMe_cur]
@[simp] theorem addPend_ir (p : Pend) : (s.addPend p).ir = s.ir := by simp only [addPend, onMe_ir]
@[simp] theorem addPend_steps (p : Pend) : (s.addPend p).steps = s.steps := by simp only [addPend, onMe_steps]
@[simp] theorem addPend_out (p : Pend) : (s.addPend p).out = s.out := by simp only [addPend, onMe_out]
@[simp] theorem addPend_halted (p : Pend) : (s.addPend p).halted = s.halted := by simp only [addPend, onMe_halted]
@[simp] theorem addPend_pkgLog (p : Pend) : (s.addPend p).pkgLog = s.pkgLog := by simp only [addPend, onMe_pkgLog]

@[simp] theorem tick_mem : (s.tick).mem = s.mem := by simp only [tick]
@[simp] theorem tick_poison : (s.tick).poison = s.poison := by simp only [tick]
@[simp] theorem tick_pkg : (s.tick).pkg = s.pkg := by simp only [tick]
@[simp] theorem tick_strands : (s.tick).strands = s.strands := by simp only [tick]
@[simp] theorem tick_cores : (s.tick).cores = s.cores := by simp only [tick]
@[simp] theorem tick_tiles : (s.tick).tiles = s.tiles := by simp only [tick]
@[simp] theorem tick_ctxs : (s.tick).ctxs = s.ctxs := by simp only [tick]
@[simp] theorem tick_parts : (s.tick).parts = s.parts := by simp only [tick]
@[simp] theorem tick_launches : (s.tick).launches = s.launches := by simp only [tick]
@[simp] theorem tick_objs : (s.tick).objs = s.objs := by simp only [tick]
@[simp] theorem tick_reqs : (s.tick).reqs = s.reqs := by simp only [tick]
@[simp] theorem tick_claims : (s.tick).claims = s.claims := by simp only [tick]
@[simp] theorem tick_units : (s.tick).units = s.units := by simp only [tick]
@[simp] theorem tick_posted : (s.tick).posted = s.posted := by simp only [tick]
@[simp] theorem tick_farStores : (s.tick).farStores = s.farStores := by simp only [tick]
@[simp] theorem tick_csr : (s.tick).csr = s.csr := by simp only [tick]
@[simp] theorem tick_granted : (s.tick).granted = s.granted := by simp only [tick]
@[simp] theorem tick_grantQ : (s.tick).grantQ = s.grantQ := by simp only [tick]
@[simp] theorem tick_fenced : (s.tick).fenced = s.fenced := by simp only [tick]
@[simp] theorem tick_leaseStart : (s.tick).leaseStart = s.leaseStart := by simp only [tick]
@[simp] theorem tick_checkpoint : (s.tick).checkpoint = s.checkpoint := by simp only [tick]
@[simp] theorem tick_writing : (s.tick).writing = s.writing := by simp only [tick]
@[simp] theorem tick_ckptStart : (s.tick).ckptStart = s.ckptStart := by simp only [tick]
@[simp] theorem tick_fuses : (s.tick).fuses = s.fuses := by simp only [tick]
@[simp] theorem tick_power : (s.tick).power = s.power := by simp only [tick]
@[simp] theorem tick_codeKey : (s.tick).codeKey = s.codeKey := by simp only [tick]
@[simp] theorem tick_links : (s.tick).links = s.links := by simp only [tick]
@[simp] theorem tick_failover : (s.tick).failover = s.failover := by simp only [tick]
@[simp] theorem tick_heldOut : (s.tick).heldOut = s.heldOut := by simp only [tick]
@[simp] theorem tick_looked : (s.tick).looked = s.looked := by simp only [tick]
@[simp] theorem tick_tasks : (s.tick).tasks = s.tasks := by simp only [tick]
@[simp] theorem tick_agenda : (s.tick).agenda = s.agenda := by simp only [tick]
@[simp] theorem tick_cur : (s.tick).cur = s.cur := by simp only [tick]
@[simp] theorem tick_ir : (s.tick).ir = s.ir := by simp only [tick]
@[simp] theorem tick_out : (s.tick).out = s.out := by simp only [tick]
@[simp] theorem tick_halted : (s.tick).halted = s.halted := by simp only [tick]
@[simp] theorem tick_pkgLog : (s.tick).pkgLog = s.pkgLog := by simp only [tick]

end State
end Sys2Proof.Machine
end

