-- ==== Sys2Proof/Laws/Ops.lean ====
section
/-! SUPPORT. What the shared operations over strands, registers and the end of an instruction do, said once. -/

namespace Sys2Proof.Machine

variable (s : State)

/-! Strands and cores. -/

@[simp] theorem State.strand_setStrand_same (n : Nat) (t : Strand) : (s.setStrand n t).strand n = t := by
  simp [State.strand, State.setStrand]

theorem State.strand_setStrand (n m : Nat) (t : Strand) : (s.setStrand n t).strand m = if m = n then t else s.strand m := by
  simp only [State.strand, State.setStrand, SMap.look_put]

@[simp] theorem State.strand_onStrand_same (n : Nat) (f : Strand → Strand) : (s.onStrand n f).strand n = f (s.strand n) :=
  s.strand_setStrand_same n _

theorem State.strand_onStrand (n m : Nat) (f : Strand → Strand) :
    (s.onStrand n f).strand m = if m = n then f (s.strand n) else s.strand m := s.strand_setStrand n m _

@[simp] theorem State.me_onMe (f : Strand → Strand) : (s.onMe f).me = f s.me := by
  unfold State.me
  rw [State.onMe_cur]
  exact s.strand_onStrand_same s.cur f

theorem State.strand_onMe (f : Strand → Strand) (m : Nat) : (s.onMe f).strand m = if m = s.cur then f s.me else s.strand m :=
  s.strand_onStrand s.cur m f

@[simp] theorem State.me_onRegs (f : Regs → Regs) : (s.onRegs f).me = { s.me with regs := f s.me.regs } := s.me_onMe _

@[simp] theorem State.core_onCore_same (c : Nat) (f : Core → Core) : (s.onCore c f).core c = f (s.core c) := by
  simp [State.core, State.onCore]

theorem State.core_onCore (c d : Nat) (f : Core → Core) : (s.onCore c f).core d = if d = c then f (s.core c) else s.core d := by
  simp only [State.core, State.onCore, SMap.look_put]

@[simp] theorem State.core_onMe (f : Strand → Strand) (c : Nat) : (s.onMe f).core c = s.core c := by
  simp only [State.core, State.onMe_cores]

@[simp] theorem State.strand_onCore (c n : Nat) (f : Core → Core) : (s.onCore c f).strand n = s.strand n := by
  simp only [State.strand, State.onCore_strands]

/-! The end of an instruction. -/

theorem Strand.turned_reset (n : Nat) : Strand.reset.turned n = Strand.reset := rfl

@[simp] theorem Strand.turned_regs (n : Nat) (t : Strand) : (t.turned n).regs = t.regs := by
  unfold Strand.turned; split <;> rfl

/-- Every strand after an issue. -/
theorem State.strand_issued (n : Nat) :
    s.issued.strand n = if coreOf n = coreOf s.cur then (s.strand n).turned s.cur else s.strand n := by
  have h : ∀ k, (if coreOf k = coreOf s.cur then Strand.reset.turned s.cur else Strand.reset) = Strand.reset := by
    intro k; rw [Strand.turned_reset, ite_self]
  simp only [State.strand, State.issued, State.onCore_cur, State.onCore_strands]
  exact SMap.look_map Strand.reset Strand.reset
    (fun k t => if coreOf k = coreOf s.cur then t.turned s.cur else t) h s.strands n

@[simp] theorem State.me_issued : s.issued.me = s.me.turned s.cur := by
  simp only [State.me, State.issued_cur, State.strand_issued, if_true]

@[simp] theorem State.core_issued (c : Nat) :
    s.issued.core c = if c = coreOf s.cur then { s.core c with last := s.cur % 4 } else s.core c := by
  have h : s.issued.core c = (s.onCore (coreOf s.cur) fun c => { c with last := s.cur % 4 }).core c := rfl
  rw [h, State.core_onCore]
  split
  · next e => rw [e]
  · rfl

/-- A change of the acting strand that counts the instruction, and otherwise touches only its registers, then runs as `Ran`
says. -/
theorem State.ran_issued (u : State) (hr : u = { s with strands := u.strands })
    (ho : ∀ n, n ≠ s.cur → u.strand n = s.strand n) (hm : u.me = { s.me.counted with regs := u.me.regs }) :
    Ran s u.issued := by
  have hc : u.cur = s.cur := by rw [hr]
  have hk : u.cores = s.cores := by rw [hr]
  constructor
  · have e : u.issued = { u with strands := u.issued.strands, cores := u.issued.cores } := by
      simp only [State.issued, State.onCore]
    rw [e, hr]
  · intro n g
    rw [State.strand_issued, hc, ho n g]
  · intro c
    rw [State.core_issued, hc]
    simp only [State.core, hk]
  · rw [State.me_issued, hm, hc]
    simp only [Strand.turned, Strand.counted]
    split <;> rfl

/-! Registers. -/

@[simp] theorem Regs.get_set_same (r : Regs) (k : Nat) (v : Word) : (r.set k v).get k = v := SMap.look_put_same _ _ _ _

theorem Regs.get_set (r : Regs) (k j : Nat) (v : Word) : (r.set k v).get j = if j = k then v else r.get j :=
  SMap.look_put _ _ _ _ _

theorem Regs.get_of_x {r q : Regs} (h : r.x = q.x) (k : Nat) : r.get k = q.get k := by unfold Regs.get; rw [h]

/-- A write of an operand, read back by code. -/
theorem Regs.get_wr (r : Regs) (d : Sel) (v : Word) (k : Nat) :
    (r.wr d v).get k = if (d.writable = true ∧ d ≠ .nil) ∧ k = d.code.toNat then v else r.get k := by
  unfold Regs.wr
  by_cases h : d.writable = true ∧ d ≠ .nil
  · rw [if_pos (by simpa using h), Regs.get_set]
    simp [h]
  · rw [if_neg (by simpa using h), if_neg (fun g => h g.1)]

theorem Regs.wr_rest (r : Regs) (d : Sel) (v : Word) : r.wr d v = { r with x := (r.wr d v).x } := by
  unfold Regs.wr Regs.set; split <;> rfl

theorem Regs.get_pushZ (r : Regs) (v : Word) (k : Nat) :
    (r.pushZ v).get k = if k = 72 then v else if k = 73 then r.get 72 else r.get k := by
  unfold Regs.pushZ; rw [Regs.get_set, Regs.get_set]

theorem Regs.pushZ_rest (r : Regs) (v : Word) : r.pushZ v = { r with x := (r.pushZ v).x } := rfl

theorem isCounter_ctr (c : BitVec 2) (k : Nat) (h : isCounter k = false) : k ≠ ctrCode c := by
  unfold isCounter at h; unfold ctrCode
  have := c.isLt
  simp only [Bool.and_eq_false_iff, decide_eq_false_iff_not] at h
  omega

/-- A pass end changes only loop counters, the active loops and the PC. -/
theorem passEnd_rest (ls : List Loop) (r : Regs) :
    passEnd ls r = { r with x := (passEnd ls r).x, off := (passEnd ls r).off, loops := (passEnd ls r).loops } := by
  induction ls generalizing r with
  | nil => rfl
  | cons l ls ih =>
    unfold passEnd
    simp only
    split
    · cases ls with
      | nil => rfl
      | cons o rest =>
        simp only
        split
        · exact (ih _).trans (by simp only [Regs.set])
        · rfl
    · rfl

theorem passEnd_get (ls : List Loop) (r : Regs) (k : Nat) (h : isCounter k = false) : (passEnd ls r).get k = r.get k := by
  induction ls generalizing r with
  | nil => rfl
  | cons l ls ih =>
    have g : ∀ (q : Regs) (v : Word), q.x = (r.set (ctrCode l.ctr) v).x → q.get k = r.get k := by
      intro q v e
      rw [Regs.get_of_x e, Regs.get_set, if_neg (isCounter_ctr l.ctr k h)]
    unfold passEnd
    simp only
    split
    · cases ls with
      | nil => exact g _ 0 rfl
      | cons o rest =>
        simp only
        split
        · rw [ih]; exact g _ 0 rfl
        · exact g _ 0 rfl
    · exact g _ (r.get (ctrCode l.ctr) - 1) rfl

/-- Sequential execution. -/
theorem Regs.went_advance (r : Regs) (len : Nat) : Went r (r.advance len) len where
  rest := by
    unfold Regs.advance
    split
    · rfl
    · split
      · exact passEnd_rest _ _
      · rfl
  next h := by
    unfold Regs.ends at h
    unfold Regs.advance
    split
    · rfl
    · next l rest e =>
      rw [e] at h
      simp only [beq_eq_false_iff_ne] at h
      rw [if_neg h]
  kept k h := by
    unfold Regs.advance
    split
    · rfl
    · split
      · exact passEnd_get _ _ _ h
      · rfl

/-- A destination is no loop counter and no entry of the last-result file. -/
theorem sel_code (d : Sel) (h : d.writable = true) :
    isCounter d.code.toNat = false ∧ d.code.toNat ≠ 72 ∧ d.code.toNat ≠ 73 := by
  cases d with
  | g n => revert n; decide
  | k n => revert n; decide
  | _ => first | decide | cases h

/-- `u` is `s` but for the acting strand's registers, which are `q`. -/
structure Tuned (s u : State) (q : Regs) : Prop where
  rest : u = { s with strands := u.strands }
  others : ∀ n, n ≠ s.cur → u.strand n = s.strand n
  me : u.me = { s.me with regs := q }

theorem Tuned.refl : Tuned s s s.me.regs := ⟨rfl, fun _ _ => rfl, rfl⟩

theorem Tuned.cur {s u : State} {q : Regs} (h : Tuned s u q) : u.cur = s.cur := by rw [h.rest]

theorem Tuned.onRegs {s u : State} {q : Regs} (h : Tuned s u q) (f : Regs → Regs) : Tuned s (u.onRegs f) (f q) where
  rest := by
    have e : u.onRegs f = { u with strands := (u.onRegs f).strands } := by
      simp only [State.onRegs, State.onMe, State.onStrand, State.setStrand]
    rw [e, h.rest]
  others n g := by
    unfold State.onRegs
    rw [State.strand_onMe, h.cur, if_neg g, h.others n g]
  me := by rw [State.me_onRegs, h.me]

/-- The end of an instruction that changed only registers. -/
theorem Tuned.ran_done {s u : State} {q : Regs} (h : Tuned s u q) (len : Nat) : Ran s (u.done len) := by
  refine s.ran_issued _ ?_ ?_ ?_
  · have e : (u.onMe fun t => let v := t.counted; { v with regs := v.regs.advance len }) =
        { u with strands := (u.onMe fun t => let v := t.counted; { v with regs := v.regs.advance len }).strands } := by
      simp only [State.onMe, State.onStrand, State.setStrand]
    rw [e, h.rest]
  · intro n g
    rw [State.strand_onMe, h.cur, if_neg g, h.others n g]
  · simp only [State.me_onMe, h.me, Strand.counted]

/-- The registers after it. -/
theorem Tuned.regs_done {s u : State} {q : Regs} (h : Tuned s u q) (len : Nat) :
    (u.done len).me.regs = ({ q with count := q.count + 1 } : Regs).advance len := by
  unfold State.done
  rw [State.me_issued, Strand.turned_regs, State.me_onMe, h.me]
  simp only [Strand.counted]

/-- The common body of R95, after flags have been raised: the operand and the last-result file are written, and nothing
else. -/
theorem Tuned.wrote_result {s u : State} {q : Regs} {fl : Flags} (h : Tuned s u q) (d : Sel) (v : Word) (len : Nat)
    (hq : q = { s.me.regs with fps := s.me.regs.fps ||| fl }) : Wrote s (u.result d v len) d v fl len := by
  have t := h.onRegs fun r => (r.wr d v).pushZ v
  have hr := t.regs_done len
  have hx : (q.wr d v).pushZ v = { q with x := ((q.wr d v).pushZ v).x } := by
    rw [Regs.pushZ_rest, Regs.wr_rest]
  have w := Regs.went_advance { (q.wr d v).pushZ v with count := ((q.wr d v).pushZ v).count + 1 } len
  have hm : (u.result d v len).me.regs =
      ({ (q.wr d v).pushZ v with count := ((q.wr d v).pushZ v).count + 1 } : Regs).advance len := hr
  rw [← hm] at w
  have hg : ∀ k, isCounter k = false → (u.result d v len).reg k = ((q.wr d v).pushZ v).get k := fun k g => w.kept k g
  have he : ∀ k, ((q.wr d v).pushZ v).get k =
      if k = 72 then v else if k = 73 then (if (d.writable = true ∧ d ≠ .nil) ∧ 72 = d.code.toNat then v else s.reg 72)
      else if (d.writable = true ∧ d ≠ .nil) ∧ k = d.code.toNat then v else s.reg k := by
    intro k
    rw [Regs.get_pushZ, Regs.get_wr, Regs.get_wr, hq]
    rfl
  have hn : s.me.regs.ends len = false → (u.result d v len).me.regs =
      { (q.wr d v).pushZ v with count := ((q.wr d v).pushZ v).count + 1, off := s.me.regs.off + len } := by
    intro g
    have : ({ (q.wr d v).pushZ v with count := ((q.wr d v).pushZ v).count + 1 } : Regs).ends len = false := by
      rw [hx, hq]; exact g
    rw [w.next this, hx, hq]
  refine ⟨t.ran_done len, ?_, ?_, ?_, ?_, ?_, ?_⟩
  · rw [w.rest, hx, hq]
  · intro g1 g2
    obtain ⟨c, n2, n3⟩ := sel_code d g1
    rw [hg _ c, he, if_neg n2, if_neg n3, if_pos ⟨⟨g1, g2⟩, rfl⟩]
  · rw [hg 72 rfl, he]; rfl
  · rw [hg 73 rfl, he]
    rw [if_neg (by decide), if_pos rfl, if_neg (fun g => (sel_code d g.1.1).2.1 g.2.symm)]
  · intro k k2 k3 kd kc
    have hk : ((q.wr d v).pushZ v).get k = s.reg k := by
      rw [he, if_neg k2, if_neg k3, if_neg]
      rintro ⟨⟨g1, g2⟩, g3⟩
      rcases kd g3 with g | g
      · rw [g] at g1; cases g1
      · exact g2 g
    cases hc : isCounter k with
    | false => rw [hg k hc, hk]
    | true =>
      have e := hn (kc.resolve_left (by rw [hc]; decide))
      unfold State.reg
      rw [e]
      exact hk
  · intro g
    rw [hn g, hx, hq]
    exact ⟨rfl, rfl⟩

theorem State.wrote_result (d : Sel) (v : Word) (len : Nat) : Wrote s (s.result d v len) d v 0 len :=
  (Tuned.refl s).wrote_result d v len (by simp)

/-! Operations that can stop. -/

theorem ensure_of {b : Bool} (h : b = true) (e : Stop) : ensure b e = .ok () := by rw [h]; rfl
theorem ensure_not {b : Bool} (h : b = false) (e : Stop) : ensure b e = .error e := by rw [h]; rfl

theorem Res.ok_bind {α β : Type} (a : α) (f : α → Res β) : ((.ok a : Res α) >>= f) = f a := rfl
theorem Res.error_bind {α β : Type} (e : Stop) (f : α → Res β) : ((.error e : Res α) >>= f) = .error e := rfl

/-- The first check of an operation. -/
theorem ensure_then {α : Type} {b : Bool} (h : b = true) (e : Stop) (k : Unit → Res α) : (ensure b e >>= k) = k () := by
  rw [ensure_of h]; rfl

theorem ensure_stops {α : Type} {b : Bool} (h : b = false) (e : Stop) (k : Unit → Res α) : (ensure b e >>= k) = .error e := by
  rw [ensure_not h]; rfl

/-- An operation that completes has passed its first step. -/
theorem Res.bind_ok {α β : Type} {x : Res α} {f : α → Res β} {b : β} (h : (x >>= f) = .ok b) :
    ∃ a, x = .ok a ∧ f a = .ok b := by
  cases x with
  | ok a => exact ⟨a, rfl, h⟩
  | error e => cases h

@[simp] theorem State.answer_ok (t : State) : s.answer (.ok t) = .next t := rfl
@[simp] theorem State.answer_error (e : Stop) : s.answer (.error e) = .next (s.stop e) := rfl

/-! Traps, and the end of an instruction from given registers. -/

/-- A stop by a trap, after flags have been raised: its delivery is due, and nothing else changes. -/
theorem Tuned.trapped {s u : State} {q : Regs} {fl : Flags} (h : Tuned s u q) (c : Nat) (a x : Word)
    (hq : q = { s.me.regs with fps := s.me.regs.fps ||| fl }) : Trapped s (u.stop (.trap c a x)) c a x fl := by
  have e : u.stop (.trap c a x) = u.raise s.cur c a x := by rw [← h.cur]; rfl
  rw [e]
  constructor
  · have g : u.raise s.cur c a x =
        { u with strands := (u.raise s.cur c a x).strands, agenda := (u.raise s.cur c a x).agenda } := by
      simp only [State.raise, State.due, State.onStrand, State.setStrand]
    rw [g, h.rest]
  · intro n g
    have : (u.raise s.cur c a x).strand n = u.strand n := by
      simp only [State.raise, State.strand, State.due_strands]
      exact (State.strand_onStrand u s.cur n _).trans (if_neg g)
    rw [this, h.others n g]
  · have : (u.raise s.cur c a x).me =
        { u.strand s.cur with status := .trapping, shadow := Shadow.none, hold := .none, wait := .none, found := [] } := by
      simp only [State.raise, State.me, State.strand, State.due_strands, State.due_cur, State.onStrand_cur, h.cur]
      exact State.strand_onStrand_same u s.cur _
    have m : u.strand s.cur = u.me := by rw [State.me, h.cur]
    rw [this, m, h.me, hq]
  · have : u.agenda = s.agenda := by rw [h.rest]
    simp only [State.raise, State.due, State.onStrand_agenda, this]

/-- A stop by a trap with nothing raised. -/
theorem State.trapped (c : Nat) (a x : Word) : Trapped s (s.stop (.trap c a x)) c a x 0 :=
  (Tuned.refl s).trapped c a x (by simp)

/-- The sequential end of an instruction that changed only registers. -/
theorem Tuned.after {s u : State} {q : Regs} (h : Tuned s u q) (len : Nat) (hc : q.count = s.me.regs.count) :
    After s (u.done len) q len :=
  ⟨h.ran_done len, by rw [h.regs_done len, hc]; exact Regs.went_advance _ _⟩

theorem State.after_done (len : Nat) : After s (s.done len) s.me.regs len := (Tuned.refl s).after len rfl

/-- The end of a taken branch from an instruction that changed only registers. -/
theorem Tuned.jumped {s u : State} {q : Regs} (h : Tuned s u q) (w : Nat) (hc : q.count = s.me.regs.count) :
    Jumped s (u.doneAt w) q w := by
  constructor
  · refine s.ran_issued _ ?_ ?_ ?_
    · have e : (u.onMe fun t => let v := t.counted; { v with regs := v.regs.jump w }) =
          { u with strands := (u.onMe fun t => let v := t.counted; { v with regs := v.regs.jump w }).strands } := by
        simp only [State.onMe, State.onStrand, State.setStrand]
      rw [e, h.rest]
    · intro n g
      rw [State.strand_onMe, h.cur, if_neg g, h.others n g]
    · simp only [State.me_onMe, h.me, Strand.counted]
  · unfold State.doneAt
    rw [State.me_issued, Strand.turned_regs, State.me_onMe, h.me]
    simp only [Strand.counted, hc]

/-- A branch: not taken, to a target in the text, or to one outside. -/
theorem State.branch_spec (taken : Bool) (off : Int) (len : Nat) : let target : Int := (s.me.regs.off : Int) + off
    (taken = false → ∃ t, branch taken off len s = .next t ∧ After s t s.me.regs len) ∧
    (taken = true → 0 ≤ target ∧ target < (s.textLen s.me.regs.handle : Int) →
      ∃ t, branch taken off len s = .next t ∧ Jumped s t s.me.regs target.toNat) ∧
    (taken = true → ¬(0 ≤ target ∧ target < (s.textLen s.me.regs.handle : Int)) →
      ∃ t, branch taken off len s = .next t ∧
        Trapped s t 0x43 (BitVec.ofInt 64 ((s.me.regs.handle * 2 ^ 24 : Nat) + target)) 0 0) := by
  intro target
  refine ⟨?_, ?_, ?_⟩
  · rintro rfl
    exact ⟨_, rfl, s.after_done len⟩
  · rintro rfl h
    refine ⟨s.doneAt target.toNat, ?_, (Tuned.refl s).jumped _ rfl⟩
    have : s.inText target = .ok target.toNat := by
      unfold State.inText
      rw [if_pos (by simpa using h)]
    simp only [branch, State.target, State.answer, if_true]
    rw [this]
    rfl
  · rintro rfl h
    refine ⟨_, ?_, s.trapped 0x43 (BitVec.ofInt 64 ((s.me.regs.handle * 2 ^ 24 : Nat) + target)) 0⟩
    have : s.inText target = .error (.trap 0x43 (BitVec.ofInt 64 ((s.me.regs.handle * 2 ^ 24 : Nat) + target)) 0) := by
      unfold State.inText
      rw [if_neg (by simpa using h)]
    simp only [branch, State.target, State.answer, if_true]
    rw [this]
    rfl

end Sys2Proof.Machine
end

