-- ==== Sys2Proof/Laws/PerInstr.lean ====
section
/-! SUPPORT. One lemma per instruction: its encoding decodes to it. -/

set_option linter.unusedSimpArgs false
set_option linter.unusedVariables false

namespace Sys2Proof.Laws
open BitVec

/-- Decoding the words of a well-formed instruction gives it back, with every operand at every value. The steps of
other agents have no words. -/
def RoundTrip.Statement (i : Instr) : Prop :=
  (encode i).isEmpty = false → WellFormed i = true → decode (encode i) = .ok i
open RoundTrip
theorem RoundTrip.add (d : Sel) (a : Sel) (b : Sel) : Statement (.add d a b) := by
  intro _ hw
  have hw : (d.writable) = true := hw
  try simp [memFields, offField, copyP4, rmOf, convFields] at hw
  show decode ([encRRR 1 0 d a b.code 0]) = .ok (.add d a b)
  refine (decode_len0 1 5 (by simp [majorOf, lenOf]) (by simp [majorOf, lenOf]) rfl rfl).trans ?_
  refine (decodeMajor_01 _ 0#3 (by simp [majorOf, lenOf]) (by simp [majorOf, lenOf]) rfl).trans ?_
  simp [decRRR, noLa, extZero, srcK, lenOf, need, *]

theorem RoundTrip.addLit (d : Sel) (a : Sel) (b : Word) : Statement (.addLit d a b) := by
  intro _ hw
  have hw : (d.writable) = true := hw
  try simp [memFields, offField, copyP4, rmOf, convFields] at hw
  show decode (encRRR 1 0 d a 0 2 :: two b) = .ok (.addLit d a b)
  refine (decode_len2 1 5 (by simp [majorOf, lenOf]) (by simp [majorOf, lenOf]) rfl rfl).trans ?_
  refine (decodeMajor_01 _ 0#3 (by simp [majorOf, lenOf]) (by simp [majorOf, lenOf]) rfl).trans ?_
  simp [decRRR, noLa, extZero, srcK, lenOf, need, *]

theorem RoundTrip.sub (d : Sel) (a : Sel) (b : Sel) : Statement (.sub d a b) := by
  intro _ hw
  have hw : (d.writable) = true := hw
  try simp [memFields, offField, copyP4, rmOf, convFields] at hw
  show decode ([encRRR 1 1 d a b.code 0]) = .ok (.sub d a b)
  refine (decode_len0 1 5 (by simp [majorOf, lenOf]) (by simp [majorOf, lenOf]) rfl rfl).trans ?_
  refine (decodeMajor_01 _ 1#3 (by simp [majorOf, lenOf]) (by simp [majorOf, lenOf]) rfl).trans ?_
  simp [decRRR, noLa, extZero, srcK, lenOf, need, *]

theorem RoundTrip.subLit (d : Sel) (a : Sel) (b : Word) : Statement (.subLit d a b) := by
  intro _ hw
  have hw : (d.writable) = true := hw
  try simp [memFields, offField, copyP4, rmOf, convFields] at hw
  show decode (encRRR 1 1 d a 0 2 :: two b) = .ok (.subLit d a b)
  refine (decode_len2 1 5 (by simp [majorOf, lenOf]) (by simp [majorOf, lenOf]) rfl rfl).trans ?_
  refine (decodeMajor_01 _ 1#3 (by simp [majorOf, lenOf]) (by simp [majorOf, lenOf]) rfl).trans ?_
  simp [decRRR, noLa, extZero, srcK, lenOf, need, *]

theorem RoundTrip.and (d : Sel) (a : Sel) (b : Sel) : Statement (.and d a b) := by
  intro _ hw
  have hw : (d.writable) = true := hw
  try simp [memFields, offField, copyP4, rmOf, convFields] at hw
  show decode ([encRRR 1 2 d a b.code 0]) = .ok (.and d a b)
  refine (decode_len0 1 5 (by simp [majorOf, lenOf]) (by simp [majorOf, lenOf]) rfl rfl).trans ?_
  refine (decodeMajor_01 _ 2#3 (by simp [majorOf, lenOf]) (by simp [majorOf, lenOf]) rfl).trans ?_
  simp [decRRR, noLa, extZero, srcK, lenOf, need, *]

theorem RoundTrip.andLit (d : Sel) (a : Sel) (b : Word) : Statement (.andLit d a b) := by
  intro _ hw
  have hw : (d.writable) = true := hw
  try simp [memFields, offField, copyP4, rmOf, convFields] at hw
  show decode (encRRR 1 2 d a 0 2 :: two b) = .ok (.andLit d a b)
  refine (decode_len2 1 5 (by simp [majorOf, lenOf]) (by simp [majorOf, lenOf]) rfl rfl).trans ?_
  refine (decodeMajor_01 _ 2#3 (by simp [majorOf, lenOf]) (by simp [majorOf, lenOf]) rfl).trans ?_
  simp [decRRR, noLa, extZero, srcK, lenOf, need, *]

theorem RoundTrip.or (d : Sel) (a : Sel) (b : Sel) : Statement (.or d a b) := by
  intro _ hw
  have hw : (d.writable) = true := hw
  try simp [memFields, offField, copyP4, rmOf, convFields] at hw
  show decode ([encRRR 1 3 d a b.code 0]) = .ok (.or d a b)
  refine (decode_len0 1 5 (by simp [majorOf, lenOf]) (by simp [majorOf, lenOf]) rfl rfl).trans ?_
  refine (decodeMajor_01 _ 3#3 (by simp [majorOf, lenOf]) (by simp [majorOf, lenOf]) rfl).trans ?_
  simp [decRRR, noLa, extZero, srcK, lenOf, need, *]

theorem RoundTrip.orLit (d : Sel) (a : Sel) (b : Word) : Statement (.orLit d a b) := by
  intro _ hw
  have hw : (d.writable) = true := hw
  try simp [memFields, offField, copyP4, rmOf, convFields] at hw
  show decode (encRRR 1 3 d a 0 2 :: two b) = .ok (.orLit d a b)
  refine (decode_len2 1 5 (by simp [majorOf, lenOf]) (by simp [majorOf, lenOf]) rfl rfl).trans ?_
  refine (decodeMajor_01 _ 3#3 (by simp [majorOf, lenOf]) (by simp [majorOf, lenOf]) rfl).trans ?_
  simp [decRRR, noLa, extZero, srcK, lenOf, need, *]

theorem RoundTrip.xor (d : Sel) (a : Sel) (b : Sel) : Statement (.xor d a b) := by
  intro _ hw
  have hw : (d.writable) = true := hw
  try simp [memFields, offField, copyP4, rmOf, convFields] at hw
  show decode ([encRRR 1 4 d a b.code 0]) = .ok (.xor d a b)
  refine (decode_len0 1 5 (by simp [majorOf, lenOf]) (by simp [majorOf, lenOf]) rfl rfl).trans ?_
  refine (decodeMajor_01 _ 4#3 (by simp [majorOf, lenOf]) (by simp [majorOf, lenOf]) rfl).trans ?_
  simp [decRRR, noLa, extZero, srcK, lenOf, need, *]

theorem RoundTrip.xorLit (d : Sel) (a : Sel) (b : Word) : Statement (.xorLit d a b) := by
  intro _ hw
  have hw : (d.writable) = true := hw
  try simp [memFields, offField, copyP4, rmOf, convFields] at hw
  show decode (encRRR 1 4 d a 0 2 :: two b) = .ok (.xorLit d a b)
  refine (decode_len2 1 5 (by simp [majorOf, lenOf]) (by simp [majorOf, lenOf]) rfl rfl).trans ?_
  refine (decodeMajor_01 _ 4#3 (by simp [majorOf, lenOf]) (by simp [majorOf, lenOf]) rfl).trans ?_
  simp [decRRR, noLa, extZero, srcK, lenOf, need, *]

theorem RoundTrip.andn (d : Sel) (a : Sel) (b : Sel) : Statement (.andn d a b) := by
  intro _ hw
  have hw : (d.writable) = true := hw
  try simp [memFields, offField, copyP4, rmOf, convFields] at hw
  show decode ([encRRR 1 5 d a b.code 0]) = .ok (.andn d a b)
  refine (decode_len0 1 5 (by simp [majorOf, lenOf]) (by simp [majorOf, lenOf]) rfl rfl).trans ?_
  refine (decodeMajor_01 _ 5#3 (by simp [majorOf, lenOf]) (by simp [majorOf, lenOf]) rfl).trans ?_
  simp [decRRR, noLa, extZero, srcK, lenOf, need, *]

theorem RoundTrip.andnLit (d : Sel) (a : Sel) (b : Word) : Statement (.andnLit d a b) := by
  intro _ hw
  have hw : (d.writable) = true := hw
  try simp [memFields, offField, copyP4, rmOf, convFields] at hw
  show decode (encRRR 1 5 d a 0 2 :: two b) = .ok (.andnLit d a b)
  refine (decode_len2 1 5 (by simp [majorOf, lenOf]) (by simp [majorOf, lenOf]) rfl rfl).trans ?_
  refine (decodeMajor_01 _ 5#3 (by simp [majorOf, lenOf]) (by simp [majorOf, lenOf]) rfl).trans ?_
  simp [decRRR, noLa, extZero, srcK, lenOf, need, *]

theorem RoundTrip.min (d : Sel) (a : Sel) (b : Sel) : Statement (.min d a b) := by
  intro _ hw
  have hw : (d.writable) = true := hw
  try simp [memFields, offField, copyP4, rmOf, convFields] at hw
  show decode ([encRRR 1 6 d a b.code 0]) = .ok (.min d a b)
  refine (decode_len0 1 5 (by simp [majorOf, lenOf]) (by simp [majorOf, lenOf]) rfl rfl).trans ?_
  refine (decodeMajor_01 _ 6#3 (by simp [majorOf, lenOf]) (by simp [majorOf, lenOf]) rfl).trans ?_
  simp [decRRR, noLa, extZero, srcK, lenOf, need, *]

theorem RoundTrip.minLit (d : Sel) (a : Sel) (b : Word) : Statement (.minLit d a b) := by
  intro _ hw
  have hw : (d.writable) = true := hw
  try simp [memFields, offField, copyP4, rmOf, convFields] at hw
  show decode (encRRR 1 6 d a 0 2 :: two b) = .ok (.minLit d a b)
  refine (decode_len2 1 5 (by simp [majorOf, lenOf]) (by simp [majorOf, lenOf]) rfl rfl).trans ?_
  refine (decodeMajor_01 _ 6#3 (by simp [majorOf, lenOf]) (by simp [majorOf, lenOf]) rfl).trans ?_
  simp [decRRR, noLa, extZero, srcK, lenOf, need, *]

theorem RoundTrip.max (d : Sel) (a : Sel) (b : Sel) : Statement (.max d a b) := by
  intro _ hw
  have hw : (d.writable) = true := hw
  try simp [memFields, offField, copyP4, rmOf, convFields] at hw
  show decode ([encRRR 1 7 d a b.code 0]) = .ok (.max d a b)
  refine (decode_len0 1 5 (by simp [majorOf, lenOf]) (by simp [majorOf, lenOf]) rfl rfl).trans ?_
  refine (decodeMajor_01 _ 7#3 (by simp [majorOf, lenOf]) (by simp [majorOf, lenOf]) rfl).trans ?_
  simp [decRRR, noLa, extZero, srcK, lenOf, need, *]

theorem RoundTrip.maxLit (d : Sel) (a : Sel) (b : Word) : Statement (.maxLit d a b) := by
  intro _ hw
  have hw : (d.writable) = true := hw
  try simp [memFields, offField, copyP4, rmOf, convFields] at hw
  show decode (encRRR 1 7 d a 0 2 :: two b) = .ok (.maxLit d a b)
  refine (decode_len2 1 5 (by simp [majorOf, lenOf]) (by simp [majorOf, lenOf]) rfl rfl).trans ?_
  refine (decodeMajor_01 _ 7#3 (by simp [majorOf, lenOf]) (by simp [majorOf, lenOf]) rfl).trans ?_
  simp [decRRR, noLa, extZero, srcK, lenOf, need, *]

theorem RoundTrip.minu (d : Sel) (a : Sel) (b : Sel) : Statement (.minu d a b) := by
  intro _ hw
  have hw : (d.writable) = true := hw
  try simp [memFields, offField, copyP4, rmOf, convFields] at hw
  show decode ([encRRR 2 0 d a b.code 0]) = .ok (.minu d a b)
  refine (decode_len0 2 5 (by simp [majorOf, lenOf]) (by simp [majorOf, lenOf]) rfl rfl).trans ?_
  refine (decodeMajor_02 _ 0#3 (by simp [majorOf, lenOf]) (by simp [majorOf, lenOf]) rfl).trans ?_
  simp [decRRR, noLa, extZero, srcK, lenOf, need, *]

theorem RoundTrip.minuLit (d : Sel) (a : Sel) (b : Word) : Statement (.minuLit d a b) := by
  intro _ hw
  have hw : (d.writable) = true := hw
  try simp [memFields, offField, copyP4, rmOf, convFields] at hw
  show decode (encRRR 2 0 d a 0 2 :: two b) = .ok (.minuLit d a b)
  refine (decode_len2 2 5 (by simp [majorOf, lenOf]) (by simp [majorOf, lenOf]) rfl rfl).trans ?_
  refine (decodeMajor_02 _ 0#3 (by simp [majorOf, lenOf]) (by simp [majorOf, lenOf]) rfl).trans ?_
  simp [decRRR, noLa, extZero, srcK, lenOf, need, *]

theorem RoundTrip.maxu (d : Sel) (a : Sel) (b : Sel) : Statement (.maxu d a b) := by
  intro _ hw
  have hw : (d.writable) = true := hw
  try simp [memFields, offField, copyP4, rmOf, convFields] at hw
  show decode ([encRRR 2 1 d a b.code 0]) = .ok (.maxu d a b)
  refine (decode_len0 2 5 (by simp [majorOf, lenOf]) (by simp [majorOf, lenOf]) rfl rfl).trans ?_
  refine (decodeMajor_02 _ 1#3 (by simp [majorOf, lenOf]) (by simp [majorOf, lenOf]) rfl).trans ?_
  simp [decRRR, noLa, extZero, srcK, lenOf, need, *]

theorem RoundTrip.maxuLit (d : Sel) (a : Sel) (b : Word) : Statement (.maxuLit d a b) := by
  intro _ hw
  have hw : (d.writable) = true := hw
  try simp [memFields, offField, copyP4, rmOf, convFields] at hw
  show decode (encRRR 2 1 d a 0 2 :: two b) = .ok (.maxuLit d a b)
  refine (decode_len2 2 5 (by simp [majorOf, lenOf]) (by simp [majorOf, lenOf]) rfl rfl).trans ?_
  refine (decodeMajor_02 _ 1#3 (by simp [majorOf, lenOf]) (by simp [majorOf, lenOf]) rfl).trans ?_
  simp [decRRR, noLa, extZero, srcK, lenOf, need, *]

theorem RoundTrip.shl (d : Sel) (a : Sel) (b : Sel) : Statement (.shl d a b) := by
  intro _ hw
  have hw : (d.writable) = true := hw
  try simp [memFields, offField, copyP4, rmOf, convFields] at hw
  show decode ([encRRR 2 2 d a b.code 0]) = .ok (.shl d a b)
  refine (decode_len0 2 5 (by simp [majorOf, lenOf]) (by simp [majorOf, lenOf]) rfl rfl).trans ?_
  refine (decodeMajor_02 _ 2#3 (by simp [majorOf, lenOf]) (by simp [majorOf, lenOf]) rfl).trans ?_
  simp [decRRR, noLa, extZero, srcK, lenOf, need, *]

theorem RoundTrip.shlLit (d : Sel) (a : Sel) (b : Word) : Statement (.shlLit d a b) := by
  intro _ hw
  have hw : (d.writable) = true := hw
  try simp [memFields, offField, copyP4, rmOf, convFields] at hw
  show decode (encRRR 2 2 d a 0 2 :: two b) = .ok (.shlLit d a b)
  refine (decode_len2 2 5 (by simp [majorOf, lenOf]) (by simp [majorOf, lenOf]) rfl rfl).trans ?_
  refine (decodeMajor_02 _ 2#3 (by simp [majorOf, lenOf]) (by simp [majorOf, lenOf]) rfl).trans ?_
  simp [decRRR, noLa, extZero, srcK, lenOf, need, *]

theorem RoundTrip.shr (d : Sel) (a : Sel) (b : Sel) : Statement (.shr d a b) := by
  intro _ hw
  have hw : (d.writable) = true := hw
  try simp [memFields, offField, copyP4, rmOf, convFields] at hw
  show decode ([encRRR 2 3 d a b.code 0]) = .ok (.shr d a b)
  refine (decode_len0 2 5 (by simp [majorOf, lenOf]) (by simp [majorOf, lenOf]) rfl rfl).trans ?_
  refine (decodeMajor_02 _ 3#3 (by simp [majorOf, lenOf]) (by simp [majorOf, lenOf]) rfl).trans ?_
  simp [decRRR, noLa, extZero, srcK, lenOf, need, *]

theorem RoundTrip.shrLit (d : Sel) (a : Sel) (b : Word) : Statement (.shrLit d a b) := by
  intro _ hw
  have hw : (d.writable) = true := hw
  try simp [memFields, offField, copyP4, rmOf, convFields] at hw
  show decode (encRRR 2 3 d a 0 2 :: two b) = .ok (.shrLit d a b)
  refine (decode_len2 2 5 (by simp [majorOf, lenOf]) (by simp [majorOf, lenOf]) rfl rfl).trans ?_
  refine (decodeMajor_02 _ 3#3 (by simp [majorOf, lenOf]) (by simp [majorOf, lenOf]) rfl).trans ?_
  simp [decRRR, noLa, extZero, srcK, lenOf, need, *]

theorem RoundTrip.shra (d : Sel) (a : Sel) (b : Sel) : Statement (.shra d a b) := by
  intro _ hw
  have hw : (d.writable) = true := hw
  try simp [memFields, offField, copyP4, rmOf, convFields] at hw
  show decode ([encRRR 2 4 d a b.code 0]) = .ok (.shra d a b)
  refine (decode_len0 2 5 (by simp [majorOf, lenOf]) (by simp [majorOf, lenOf]) rfl rfl).trans ?_
  refine (decodeMajor_02 _ 4#3 (by simp [majorOf, lenOf]) (by simp [majorOf, lenOf]) rfl).trans ?_
  simp [decRRR, noLa, extZero, srcK, lenOf, need, *]

theorem RoundTrip.shraLit (d : Sel) (a : Sel) (b : Word) : Statement (.shraLit d a b) := by
  intro _ hw
  have hw : (d.writable) = true := hw
  try simp [memFields, offField, copyP4, rmOf, convFields] at hw
  show decode (encRRR 2 4 d a 0 2 :: two b) = .ok (.shraLit d a b)
  refine (decode_len2 2 5 (by simp [majorOf, lenOf]) (by simp [majorOf, lenOf]) rfl rfl).trans ?_
  refine (decodeMajor_02 _ 4#3 (by simp [majorOf, lenOf]) (by simp [majorOf, lenOf]) rfl).trans ?_
  simp [decRRR, noLa, extZero, srcK, lenOf, need, *]

theorem RoundTrip.rot (d : Sel) (a : Sel) (b : Sel) : Statement (.rot d a b) := by
  intro _ hw
  have hw : (d.writable) = true := hw
  try simp [memFields, offField, copyP4, rmOf, convFields] at hw
  show decode ([encRRR 2 5 d a b.code 0]) = .ok (.rot d a b)
  refine (decode_len0 2 5 (by simp [majorOf, lenOf]) (by simp [majorOf, lenOf]) rfl rfl).trans ?_
  refine (decodeMajor_02 _ 5#3 (by simp [majorOf, lenOf]) (by simp [majorOf, lenOf]) rfl).trans ?_
  simp [decRRR, noLa, extZero, srcK, lenOf, need, *]

theorem RoundTrip.rotLit (d : Sel) (a : Sel) (b : Word) : Statement (.rotLit d a b) := by
  intro _ hw
  have hw : (d.writable) = true := hw
  try simp [memFields, offField, copyP4, rmOf, convFields] at hw
  show decode (encRRR 2 5 d a 0 2 :: two b) = .ok (.rotLit d a b)
  refine (decode_len2 2 5 (by simp [majorOf, lenOf]) (by simp [majorOf, lenOf]) rfl rfl).trans ?_
  refine (decodeMajor_02 _ 5#3 (by simp [majorOf, lenOf]) (by simp [majorOf, lenOf]) rfl).trans ?_
  simp [decRRR, noLa, extZero, srcK, lenOf, need, *]

theorem RoundTrip.mul (d : Sel) (a : Sel) (b : Sel) : Statement (.mul d a b) := by
  intro _ hw
  have hw : (d.writable) = true := hw
  try simp [memFields, offField, copyP4, rmOf, convFields] at hw
  show decode ([encRRR 2 6 d a b.code 0]) = .ok (.mul d a b)
  refine (decode_len0 2 5 (by simp [majorOf, lenOf]) (by simp [majorOf, lenOf]) rfl rfl).trans ?_
  refine (decodeMajor_02 _ 6#3 (by simp [majorOf, lenOf]) (by simp [majorOf, lenOf]) rfl).trans ?_
  simp [decRRR, noLa, extZero, srcK, lenOf, need, *]

theorem RoundTrip.mulLit (d : Sel) (a : Sel) (b : Word) : Statement (.mulLit d a b) := by
  intro _ hw
  have hw : (d.writable) = true := hw
  try simp [memFields, offField, copyP4, rmOf, convFields] at hw
  show decode (encRRR 2 6 d a 0 2 :: two b) = .ok (.mulLit d a b)
  refine (decode_len2 2 5 (by simp [majorOf, lenOf]) (by simp [majorOf, lenOf]) rfl rfl).trans ?_
  refine (decodeMajor_02 _ 6#3 (by simp [majorOf, lenOf]) (by simp [majorOf, lenOf]) rfl).trans ?_
  simp [decRRR, noLa, extZero, srcK, lenOf, need, *]

theorem RoundTrip.mulh (d : Sel) (a : Sel) (b : Sel) : Statement (.mulh d a b) := by
  intro _ hw
  have hw : (d.writable) = true := hw
  try simp [memFields, offField, copyP4, rmOf, convFields] at hw
  show decode ([encRRR 2 7 d a b.code 0]) = .ok (.mulh d a b)
  refine (decode_len0 2 5 (by simp [majorOf, lenOf]) (by simp [majorOf, lenOf]) rfl rfl).trans ?_
  refine (decodeMajor_02 _ 7#3 (by simp [majorOf, lenOf]) (by simp [majorOf, lenOf]) rfl).trans ?_
  simp [decRRR, noLa, extZero, srcK, lenOf, need, *]

theorem RoundTrip.mulhLit (d : Sel) (a : Sel) (b : Word) : Statement (.mulhLit d a b) := by
  intro _ hw
  have hw : (d.writable) = true := hw
  try simp [memFields, offField, copyP4, rmOf, convFields] at hw
  show decode (encRRR 2 7 d a 0 2 :: two b) = .ok (.mulhLit d a b)
  refine (decode_len2 2 5 (by simp [majorOf, lenOf]) (by simp [majorOf, lenOf]) rfl rfl).trans ?_
  refine (decodeMajor_02 _ 7#3 (by simp [majorOf, lenOf]) (by simp [majorOf, lenOf]) rfl).trans ?_
  simp [decRRR, noLa, extZero, srcK, lenOf, need, *]

theorem RoundTrip.mulhu (d : Sel) (a : Sel) (b : Sel) : Statement (.mulhu d a b) := by
  intro _ hw
  have hw : (d.writable) = true := hw
  try simp [memFields, offField, copyP4, rmOf, convFields] at hw
  show decode ([encRRR 3 0 d a b.code 0]) = .ok (.mulhu d a b)
  refine (decode_len0 3 5 (by simp [majorOf, lenOf]) (by simp [majorOf, lenOf]) rfl rfl).trans ?_
  refine (decodeMajor_03 _ 0#3 (by simp [majorOf, lenOf]) (by simp [majorOf, lenOf]) rfl).trans ?_
  simp [decRRR, noLa, extZero, srcK, lenOf, need, *]

theorem RoundTrip.mulhuLit (d : Sel) (a : Sel) (b : Word) : Statement (.mulhuLit d a b) := by
  intro _ hw
  have hw : (d.writable) = true := hw
  try simp [memFields, offField, copyP4, rmOf, convFields] at hw
  show decode (encRRR 3 0 d a 0 2 :: two b) = .ok (.mulhuLit d a b)
  refine (decode_len2 3 5 (by simp [majorOf, lenOf]) (by simp [majorOf, lenOf]) rfl rfl).trans ?_
  refine (decodeMajor_03 _ 0#3 (by simp [majorOf, lenOf]) (by simp [majorOf, lenOf]) rfl).trans ?_
  simp [decRRR, noLa, extZero, srcK, lenOf, need, *]

theorem RoundTrip.div (d : Sel) (a : Sel) (b : Sel) : Statement (.div d a b) := by
  intro _ hw
  have hw : (d.writable) = true := hw
  try simp [memFields, offField, copyP4, rmOf, convFields] at hw
  show decode ([encRRR 3 1 d a b.code 0]) = .ok (.div d a b)
  refine (decode_len0 3 5 (by simp [majorOf, lenOf]) (by simp [majorOf, lenOf]) rfl rfl).trans ?_
  refine (decodeMajor_03 _ 1#3 (by simp [majorOf, lenOf]) (by simp [majorOf, lenOf]) rfl).trans ?_
  simp [decRRR, noLa, extZero, srcK, lenOf, need, *]

theorem RoundTrip.divLit (d : Sel) (a : Sel) (b : Word) : Statement (.divLit d a b) := by
  intro _ hw
  have hw : (d.writable) = true := hw
  try simp [memFields, offField, copyP4, rmOf, convFields] at hw
  show decode (encRRR 3 1 d a 0 2 :: two b) = .ok (.divLit d a b)
  refine (decode_len2 3 5 (by simp [majorOf, lenOf]) (by simp [majorOf, lenOf]) rfl rfl).trans ?_
  refine (decodeMajor_03 _ 1#3 (by simp [majorOf, lenOf]) (by simp [majorOf, lenOf]) rfl).trans ?_
  simp [decRRR, noLa, extZero, srcK, lenOf, need, *]

theorem RoundTrip.divu (d : Sel) (a : Sel) (b : Sel) : Statement (.divu d a b) := by
  intro _ hw
  have hw : (d.writable) = true := hw
  try simp [memFields, offField, copyP4, rmOf, convFields] at hw
  show decode ([encRRR 3 2 d a b.code 0]) = .ok (.divu d a b)
  refine (decode_len0 3 5 (by simp [majorOf, lenOf]) (by simp [majorOf, lenOf]) rfl rfl).trans ?_
  refine (decodeMajor_03 _ 2#3 (by simp [majorOf, lenOf]) (by simp [majorOf, lenOf]) rfl).trans ?_
  simp [decRRR, noLa, extZero, srcK, lenOf, need, *]

theorem RoundTrip.divuLit (d : Sel) (a : Sel) (b : Word) : Statement (.divuLit d a b) := by
  intro _ hw
  have hw : (d.writable) = true := hw
  try simp [memFields, offField, copyP4, rmOf, convFields] at hw
  show decode (encRRR 3 2 d a 0 2 :: two b) = .ok (.divuLit d a b)
  refine (decode_len2 3 5 (by simp [majorOf, lenOf]) (by simp [majorOf, lenOf]) rfl rfl).trans ?_
  refine (decodeMajor_03 _ 2#3 (by simp [majorOf, lenOf]) (by simp [majorOf, lenOf]) rfl).trans ?_
  simp [decRRR, noLa, extZero, srcK, lenOf, need, *]

theorem RoundTrip.rem (d : Sel) (a : Sel) (b : Sel) : Statement (.rem d a b) := by
  intro _ hw
  have hw : (d.writable) = true := hw
  try simp [memFields, offField, copyP4, rmOf, convFields] at hw
  show decode ([encRRR 3 3 d a b.code 0]) = .ok (.rem d a b)
  refine (decode_len0 3 5 (by simp [majorOf, lenOf]) (by simp [majorOf, lenOf]) rfl rfl).trans ?_
  refine (decodeMajor_03 _ 3#3 (by simp [majorOf, lenOf]) (by simp [majorOf, lenOf]) rfl).trans ?_
  simp [decRRR, noLa, extZero, srcK, lenOf, need, *]

theorem RoundTrip.remLit (d : Sel) (a : Sel) (b : Word) : Statement (.remLit d a b) := by
  intro _ hw
  have hw : (d.writable) = true := hw
  try simp [memFields, offField, copyP4, rmOf, convFields] at hw
  show decode (encRRR 3 3 d a 0 2 :: two b) = .ok (.remLit d a b)
  refine (decode_len2 3 5 (by simp [majorOf, lenOf]) (by simp [majorOf, lenOf]) rfl rfl).trans ?_
  refine (decodeMajor_03 _ 3#3 (by simp [majorOf, lenOf]) (by simp [majorOf, lenOf]) rfl).trans ?_
  simp [decRRR, noLa, extZero, srcK, lenOf, need, *]

theorem RoundTrip.remu (d : Sel) (a : Sel) (b : Sel) : Statement (.remu d a b) := by
  intro _ hw
  have hw : (d.writable) = true := hw
  try simp [memFields, offField, copyP4, rmOf, convFields] at hw
  show decode ([encRRR 3 4 d a b.code 0]) = .ok (.remu d a b)
  refine (decode_len0 3 5 (by simp [majorOf, lenOf]) (by simp [majorOf, lenOf]) rfl rfl).trans ?_
  refine (decodeMajor_03 _ 4#3 (by simp [majorOf, lenOf]) (by simp [majorOf, lenOf]) rfl).trans ?_
  simp [decRRR, noLa, extZero, srcK, lenOf, need, *]

theorem RoundTrip.remuLit (d : Sel) (a : Sel) (b : Word) : Statement (.remuLit d a b) := by
  intro _ hw
  have hw : (d.writable) = true := hw
  try simp [memFields, offField, copyP4, rmOf, convFields] at hw
  show decode (encRRR 3 4 d a 0 2 :: two b) = .ok (.remuLit d a b)
  refine (decode_len2 3 5 (by simp [majorOf, lenOf]) (by simp [majorOf, lenOf]) rfl rfl).trans ?_
  refine (decodeMajor_03 _ 4#3 (by simp [majorOf, lenOf]) (by simp [majorOf, lenOf]) rfl).trans ?_
  simp [decRRR, noLa, extZero, srcK, lenOf, need, *]

theorem RoundTrip.seteq (d : Sel) (a : Sel) (b : Sel) : Statement (.seteq d a b) := by
  intro _ hw
  have hw : (d.writable) = true := hw
  try simp [memFields, offField, copyP4, rmOf, convFields] at hw
  show decode ([encRRR 3 5 d a b.code 0]) = .ok (.seteq d a b)
  refine (decode_len0 3 5 (by simp [majorOf, lenOf]) (by simp [majorOf, lenOf]) rfl rfl).trans ?_
  refine (decodeMajor_03 _ 5#3 (by simp [majorOf, lenOf]) (by simp [majorOf, lenOf]) rfl).trans ?_
  simp [decRRR, noLa, extZero, srcK, lenOf, need, *]

theorem RoundTrip.seteqLit (d : Sel) (a : Sel) (b : Word) : Statement (.seteqLit d a b) := by
  intro _ hw
  have hw : (d.writable) = true := hw
  try simp [memFields, offField, copyP4, rmOf, convFields] at hw
  show decode (encRRR 3 5 d a 0 2 :: two b) = .ok (.seteqLit d a b)
  refine (decode_len2 3 5 (by simp [majorOf, lenOf]) (by simp [majorOf, lenOf]) rfl rfl).trans ?_
  refine (decodeMajor_03 _ 5#3 (by simp [majorOf, lenOf]) (by simp [majorOf, lenOf]) rfl).trans ?_
  simp [decRRR, noLa, extZero, srcK, lenOf, need, *]

theorem RoundTrip.setlt (d : Sel) (a : Sel) (b : Sel) : Statement (.setlt d a b) := by
  intro _ hw
  have hw : (d.writable) = true := hw
  try simp [memFields, offField, copyP4, rmOf, convFields] at hw
  show decode ([encRRR 3 6 d a b.code 0]) = .ok (.setlt d a b)
  refine (decode_len0 3 5 (by simp [majorOf, lenOf]) (by simp [majorOf, lenOf]) rfl rfl).trans ?_
  refine (decodeMajor_03 _ 6#3 (by simp [majorOf, lenOf]) (by simp [majorOf, lenOf]) rfl).trans ?_
  simp [decRRR, noLa, extZero, srcK, lenOf, need, *]

theorem RoundTrip.setltLit (d : Sel) (a : Sel) (b : Word) : Statement (.setltLit d a b) := by
  intro _ hw
  have hw : (d.writable) = true := hw
  try simp [memFields, offField, copyP4, rmOf, convFields] at hw
  show decode (encRRR 3 6 d a 0 2 :: two b) = .ok (.setltLit d a b)
  refine (decode_len2 3 5 (by simp [majorOf, lenOf]) (by simp [majorOf, lenOf]) rfl rfl).trans ?_
  refine (decodeMajor_03 _ 6#3 (by simp [majorOf, lenOf]) (by simp [majorOf, lenOf]) rfl).trans ?_
  simp [decRRR, noLa, extZero, srcK, lenOf, need, *]

theorem RoundTrip.setltu (d : Sel) (a : Sel) (b : Sel) : Statement (.setltu d a b) := by
  intro _ hw
  have hw : (d.writable) = true := hw
  try simp [memFields, offField, copyP4, rmOf, convFields] at hw
  show decode ([encRRR 3 7 d a b.code 0]) = .ok (.setltu d a b)
  refine (decode_len0 3 5 (by simp [majorOf, lenOf]) (by simp [majorOf, lenOf]) rfl rfl).trans ?_
  refine (decodeMajor_03 _ 7#3 (by simp [majorOf, lenOf]) (by simp [majorOf, lenOf]) rfl).trans ?_
  simp [decRRR, noLa, extZero, srcK, lenOf, need, *]

theorem RoundTrip.setltuLit (d : Sel) (a : Sel) (b : Word) : Statement (.setltuLit d a b) := by
  intro _ hw
  have hw : (d.writable) = true := hw
  try simp [memFields, offField, copyP4, rmOf, convFields] at hw
  show decode (encRRR 3 7 d a 0 2 :: two b) = .ok (.setltuLit d a b)
  refine (decode_len2 3 5 (by simp [majorOf, lenOf]) (by simp [majorOf, lenOf]) rfl rfl).trans ?_
  refine (decodeMajor_03 _ 7#3 (by simp [majorOf, lenOf]) (by simp [majorOf, lenOf]) rfl).trans ?_
  simp [decRRR, noLa, extZero, srcK, lenOf, need, *]

theorem RoundTrip.setne (d : Sel) (a : Sel) (b : Sel) : Statement (.setne d a b) := by
  intro _ hw
  have hw : (d.writable) = true := hw
  try simp [memFields, offField, copyP4, rmOf, convFields] at hw
  show decode ([encRRR 4 0 d a b.code 0]) = .ok (.setne d a b)
  refine (decode_len0 4 5 (by simp [majorOf, lenOf]) (by simp [majorOf, lenOf]) rfl rfl).trans ?_
  refine (decodeMajor_04 _ 0#3 (by simp [majorOf, lenOf]) (by simp [majorOf, lenOf]) rfl).trans ?_
  simp [decRRR, noLa, extZero, srcK, lenOf, need, *]

theorem RoundTrip.setneLit (d : Sel) (a : Sel) (b : Word) : Statement (.setneLit d a b) := by
  intro _ hw
  have hw : (d.writable) = true := hw
  try simp [memFields, offField, copyP4, rmOf, convFields] at hw
  show decode (encRRR 4 0 d a 0 2 :: two b) = .ok (.setneLit d a b)
  refine (decode_len2 4 5 (by simp [majorOf, lenOf]) (by simp [majorOf, lenOf]) rfl rfl).trans ?_
  refine (decodeMajor_04 _ 0#3 (by simp [majorOf, lenOf]) (by simp [majorOf, lenOf]) rfl).trans ?_
  simp [decRRR, noLa, extZero, srcK, lenOf, need, *]

theorem RoundTrip.setge (d : Sel) (a : Sel) (b : Sel) : Statement (.setge d a b) := by
  intro _ hw
  have hw : (d.writable) = true := hw
  try simp [memFields, offField, copyP4, rmOf, convFields] at hw
  show decode ([encRRR 4 1 d a b.code 0]) = .ok (.setge d a b)
  refine (decode_len0 4 5 (by simp [majorOf, lenOf]) (by simp [majorOf, lenOf]) rfl rfl).trans ?_
  refine (decodeMajor_04 _ 1#3 (by simp [majorOf, lenOf]) (by simp [majorOf, lenOf]) rfl).trans ?_
  simp [decRRR, noLa, extZero, srcK, lenOf, need, *]

theorem RoundTrip.setgeLit (d : Sel) (a : Sel) (b : Word) : Statement (.setgeLit d a b) := by
  intro _ hw
  have hw : (d.writable) = true := hw
  try simp [memFields, offField, copyP4, rmOf, convFields] at hw
  show decode (encRRR 4 1 d a 0 2 :: two b) = .ok (.setgeLit d a b)
  refine (decode_len2 4 5 (by simp [majorOf, lenOf]) (by simp [majorOf, lenOf]) rfl rfl).trans ?_
  refine (decodeMajor_04 _ 1#3 (by simp [majorOf, lenOf]) (by simp [majorOf, lenOf]) rfl).trans ?_
  simp [decRRR, noLa, extZero, srcK, lenOf, need, *]

theorem RoundTrip.setgeu (d : Sel) (a : Sel) (b : Sel) : Statement (.setgeu d a b) := by
  intro _ hw
  have hw : (d.writable) = true := hw
  try simp [memFields, offField, copyP4, rmOf, convFields] at hw
  show decode ([encRRR 4 2 d a b.code 0]) = .ok (.setgeu d a b)
  refine (decode_len0 4 5 (by simp [majorOf, lenOf]) (by simp [majorOf, lenOf]) rfl rfl).trans ?_
  refine (decodeMajor_04 _ 2#3 (by simp [majorOf, lenOf]) (by simp [majorOf, lenOf]) rfl).trans ?_
  simp [decRRR, noLa, extZero, srcK, lenOf, need, *]

theorem RoundTrip.setgeuLit (d : Sel) (a : Sel) (b : Word) : Statement (.setgeuLit d a b) := by
  intro _ hw
  have hw : (d.writable) = true := hw
  try simp [memFields, offField, copyP4, rmOf, convFields] at hw
  show decode (encRRR 4 2 d a 0 2 :: two b) = .ok (.setgeuLit d a b)
  refine (decode_len2 4 5 (by simp [majorOf, lenOf]) (by simp [majorOf, lenOf]) rfl rfl).trans ?_
  refine (decodeMajor_04 _ 2#3 (by simp [majorOf, lenOf]) (by simp [majorOf, lenOf]) rfl).trans ?_
  simp [decRRR, noLa, extZero, srcK, lenOf, need, *]

theorem RoundTrip.adds (d : Sel) (a : Sel) (b : Sel) : Statement (.adds d a b) := by
  intro _ hw
  have hw : (d.writable) = true := hw
  try simp [memFields, offField, copyP4, rmOf, convFields] at hw
  show decode ([encRRR 4 3 d a b.code 0]) = .ok (.adds d a b)
  refine (decode_len0 4 5 (by simp [majorOf, lenOf]) (by simp [majorOf, lenOf]) rfl rfl).trans ?_
  refine (decodeMajor_04 _ 3#3 (by simp [majorOf, lenOf]) (by simp [majorOf, lenOf]) rfl).trans ?_
  simp [decRRR, noLa, extZero, srcK, lenOf, need, *]

theorem RoundTrip.addsLit (d : Sel) (a : Sel) (b : Word) : Statement (.addsLit d a b) := by
  intro _ hw
  have hw : (d.writable) = true := hw
  try simp [memFields, offField, copyP4, rmOf, convFields] at hw
  show decode (encRRR 4 3 d a 0 2 :: two b) = .ok (.addsLit d a b)
  refine (decode_len2 4 5 (by simp [majorOf, lenOf]) (by simp [majorOf, lenOf]) rfl rfl).trans ?_
  refine (decodeMajor_04 _ 3#3 (by simp [majorOf, lenOf]) (by simp [majorOf, lenOf]) rfl).trans ?_
  simp [decRRR, noLa, extZero, srcK, lenOf, need, *]

theorem RoundTrip.subs (d : Sel) (a : Sel) (b : Sel) : Statement (.subs d a b) := by
  intro _ hw
  have hw : (d.writable) = true := hw
  try simp [memFields, offField, copyP4, rmOf, convFields] at hw
  show decode ([encRRR 4 4 d a b.code 0]) = .ok (.subs d a b)
  refine (decode_len0 4 5 (by simp [majorOf, lenOf]) (by simp [majorOf, lenOf]) rfl rfl).trans ?_
  refine (decodeMajor_04 _ 4#3 (by simp [majorOf, lenOf]) (by simp [majorOf, lenOf]) rfl).trans ?_
  simp [decRRR, noLa, extZero, srcK, lenOf, need, *]

theorem RoundTrip.subsLit (d : Sel) (a : Sel) (b : Word) : Statement (.subsLit d a b) := by
  intro _ hw
  have hw : (d.writable) = true := hw
  try simp [memFields, offField, copyP4, rmOf, convFields] at hw
  show decode (encRRR 4 4 d a 0 2 :: two b) = .ok (.subsLit d a b)
  refine (decode_len2 4 5 (by simp [majorOf, lenOf]) (by simp [majorOf, lenOf]) rfl rfl).trans ?_
  refine (decodeMajor_04 _ 4#3 (by simp [majorOf, lenOf]) (by simp [majorOf, lenOf]) rfl).trans ?_
  simp [decRRR, noLa, extZero, srcK, lenOf, need, *]

theorem RoundTrip.csel (d : Sel) (a : Sel) (b : Sel) : Statement (.csel d a b) := by
  intro _ hw
  have hw : (d.writable) = true := hw
  try simp [memFields, offField, copyP4, rmOf, convFields] at hw
  show decode ([encRRR 4 5 d a b.code 0]) = .ok (.csel d a b)
  refine (decode_len0 4 5 (by simp [majorOf, lenOf]) (by simp [majorOf, lenOf]) rfl rfl).trans ?_
  refine (decodeMajor_04 _ 5#3 (by simp [majorOf, lenOf]) (by simp [majorOf, lenOf]) rfl).trans ?_
  simp [decRRR, noLa, extZero, srcK, lenOf, need, *]

theorem RoundTrip.cselLit (d : Sel) (a : Sel) (b : Word) : Statement (.cselLit d a b) := by
  intro _ hw
  have hw : (d.writable) = true := hw
  try simp [memFields, offField, copyP4, rmOf, convFields] at hw
  show decode (encRRR 4 5 d a 0 2 :: two b) = .ok (.cselLit d a b)
  refine (decode_len2 4 5 (by simp [majorOf, lenOf]) (by simp [majorOf, lenOf]) rfl rfl).trans ?_
  refine (decodeMajor_04 _ 5#3 (by simp [majorOf, lenOf]) (by simp [majorOf, lenOf]) rfl).trans ?_
  simp [decRRR, noLa, extZero, srcK, lenOf, need, *]

theorem RoundTrip.absd (d : Sel) (a : Sel) (b : Sel) : Statement (.absd d a b) := by
  intro _ hw
  have hw : (d.writable) = true := hw
  try simp [memFields, offField, copyP4, rmOf, convFields] at hw
  show decode ([encRRR 4 6 d a b.code 0]) = .ok (.absd d a b)
  refine (decode_len0 4 5 (by simp [majorOf, lenOf]) (by simp [majorOf, lenOf]) rfl rfl).trans ?_
  refine (decodeMajor_04 _ 6#3 (by simp [majorOf, lenOf]) (by simp [majorOf, lenOf]) rfl).trans ?_
  simp [decRRR, noLa, extZero, srcK, lenOf, need, *]

theorem RoundTrip.absdLit (d : Sel) (a : Sel) (b : Word) : Statement (.absdLit d a b) := by
  intro _ hw
  have hw : (d.writable) = true := hw
  try simp [memFields, offField, copyP4, rmOf, convFields] at hw
  show decode (encRRR 4 6 d a 0 2 :: two b) = .ok (.absdLit d a b)
  refine (decode_len2 4 5 (by simp [majorOf, lenOf]) (by simp [majorOf, lenOf]) rfl rfl).trans ?_
  refine (decodeMajor_04 _ 6#3 (by simp [majorOf, lenOf]) (by simp [majorOf, lenOf]) rfl).trans ?_
  simp [decRRR, noLa, extZero, srcK, lenOf, need, *]

theorem RoundTrip.fadd (d : Sel) (a : Sel) (b : Sel) : Statement (.fadd d a b) := by
  intro _ hw
  have hw : (d.writable) = true := hw
  try simp [memFields, offField, copyP4, rmOf, convFields] at hw
  show decode ([encRRR 16 0 d a b.code 0]) = .ok (.fadd d a b)
  refine (decode_len0 16 5 (by simp [majorOf, lenOf]) (by simp [majorOf, lenOf]) rfl rfl).trans ?_
  refine (decodeMajor_10 _ 0#3 (by simp [majorOf, lenOf]) (by simp [majorOf, lenOf]) rfl).trans ?_
  simp [decRRR, noLa, extZero, srcK, lenOf, need, *]

theorem RoundTrip.faddLit (d : Sel) (a : Sel) (b : Word) : Statement (.faddLit d a b) := by
  intro _ hw
  have hw : (d.writable) = true := hw
  try simp [memFields, offField, copyP4, rmOf, convFields] at hw
  show decode (encRRR 16 0 d a 0 2 :: two b) = .ok (.faddLit d a b)
  refine (decode_len2 16 5 (by simp [majorOf, lenOf]) (by simp [majorOf, lenOf]) rfl rfl).trans ?_
  refine (decodeMajor_10 _ 0#3 (by simp [majorOf, lenOf]) (by simp [majorOf, lenOf]) rfl).trans ?_
  simp [decRRR, noLa, extZero, srcK, lenOf, need, *]

theorem RoundTrip.fsub (d : Sel) (a : Sel) (b : Sel) : Statement (.fsub d a b) := by
  intro _ hw
  have hw : (d.writable) = true := hw
  try simp [memFields, offField, copyP4, rmOf, convFields] at hw
  show decode ([encRRR 16 1 d a b.code 0]) = .ok (.fsub d a b)
  refine (decode_len0 16 5 (by simp [majorOf, lenOf]) (by simp [majorOf, lenOf]) rfl rfl).trans ?_
  refine (decodeMajor_10 _ 1#3 (by simp [majorOf, lenOf]) (by simp [majorOf, lenOf]) rfl).trans ?_
  simp [decRRR, noLa, extZero, srcK, lenOf, need, *]

theorem RoundTrip.fsubLit (d : Sel) (a : Sel) (b : Word) : Statement (.fsubLit d a b) := by
  intro _ hw
  have hw : (d.writable) = true := hw
  try simp [memFields, offField, copyP4, rmOf, convFields] at hw
  show decode (encRRR 16 1 d a 0 2 :: two b) = .ok (.fsubLit d a b)
  refine (decode_len2 16 5 (by simp [majorOf, lenOf]) (by simp [majorOf, lenOf]) rfl rfl).trans ?_
  refine (decodeMajor_10 _ 1#3 (by simp [majorOf, lenOf]) (by simp [majorOf, lenOf]) rfl).trans ?_
  simp [decRRR, noLa, extZero, srcK, lenOf, need, *]

theorem RoundTrip.fmul (d : Sel) (a : Sel) (b : Sel) : Statement (.fmul d a b) := by
  intro _ hw
  have hw : (d.writable) = true := hw
  try simp [memFields, offField, copyP4, rmOf, convFields] at hw
  show decode ([encRRR 16 2 d a b.code 0]) = .ok (.fmul d a b)
  refine (decode_len0 16 5 (by simp [majorOf, lenOf]) (by simp [majorOf, lenOf]) rfl rfl).trans ?_
  refine (decodeMajor_10 _ 2#3 (by simp [majorOf, lenOf]) (by simp [majorOf, lenOf]) rfl).trans ?_
  simp [decRRR, noLa, extZero, srcK, lenOf, need, *]

theorem RoundTrip.fmulLit (d : Sel) (a : Sel) (b : Word) : Statement (.fmulLit d a b) := by
  intro _ hw
  have hw : (d.writable) = true := hw
  try simp [memFields, offField, copyP4, rmOf, convFields] at hw
  show decode (encRRR 16 2 d a 0 2 :: two b) = .ok (.fmulLit d a b)
  refine (decode_len2 16 5 (by simp [majorOf, lenOf]) (by simp [majorOf, lenOf]) rfl rfl).trans ?_
  refine (decodeMajor_10 _ 2#3 (by simp [majorOf, lenOf]) (by simp [majorOf, lenOf]) rfl).trans ?_
  simp [decRRR, noLa, extZero, srcK, lenOf, need, *]

theorem RoundTrip.fdiv (d : Sel) (a : Sel) (b : Sel) : Statement (.fdiv d a b) := by
  intro _ hw
  have hw : (d.writable) = true := hw
  try simp [memFields, offField, copyP4, rmOf, convFields] at hw
  show decode ([encRRR 16 3 d a b.code 0]) = .ok (.fdiv d a b)
  refine (decode_len0 16 5 (by simp [majorOf, lenOf]) (by simp [majorOf, lenOf]) rfl rfl).trans ?_
  refine (decodeMajor_10 _ 3#3 (by simp [majorOf, lenOf]) (by simp [majorOf, lenOf]) rfl).trans ?_
  simp [decRRR, noLa, extZero, srcK, lenOf, need, *]

theorem RoundTrip.fdivLit (d : Sel) (a : Sel) (b : Word) : Statement (.fdivLit d a b) := by
  intro _ hw
  have hw : (d.writable) = true := hw
  try simp [memFields, offField, copyP4, rmOf, convFields] at hw
  show decode (encRRR 16 3 d a 0 2 :: two b) = .ok (.fdivLit d a b)
  refine (decode_len2 16 5 (by simp [majorOf, lenOf]) (by simp [majorOf, lenOf]) rfl rfl).trans ?_
  refine (decodeMajor_10 _ 3#3 (by simp [majorOf, lenOf]) (by simp [majorOf, lenOf]) rfl).trans ?_
  simp [decRRR, noLa, extZero, srcK, lenOf, need, *]

theorem RoundTrip.fmin (d : Sel) (a : Sel) (b : Sel) : Statement (.fmin d a b) := by
  intro _ hw
  have hw : (d.writable) = true := hw
  try simp [memFields, offField, copyP4, rmOf, convFields] at hw
  show decode ([encRRR 16 4 d a b.code 0]) = .ok (.fmin d a b)
  refine (decode_len0 16 5 (by simp [majorOf, lenOf]) (by simp [majorOf, lenOf]) rfl rfl).trans ?_
  refine (decodeMajor_10 _ 4#3 (by simp [majorOf, lenOf]) (by simp [majorOf, lenOf]) rfl).trans ?_
  simp [decRRR, noLa, extZero, srcK, lenOf, need, *]

theorem RoundTrip.fminLit (d : Sel) (a : Sel) (b : Word) : Statement (.fminLit d a b) := by
  intro _ hw
  have hw : (d.writable) = true := hw
  try simp [memFields, offField, copyP4, rmOf, convFields] at hw
  show decode (encRRR 16 4 d a 0 2 :: two b) = .ok (.fminLit d a b)
  refine (decode_len2 16 5 (by simp [majorOf, lenOf]) (by simp [majorOf, lenOf]) rfl rfl).trans ?_
  refine (decodeMajor_10 _ 4#3 (by simp [majorOf, lenOf]) (by simp [majorOf, lenOf]) rfl).trans ?_
  simp [decRRR, noLa, extZero, srcK, lenOf, need, *]

theorem RoundTrip.fmax (d : Sel) (a : Sel) (b : Sel) : Statement (.fmax d a b) := by
  intro _ hw
  have hw : (d.writable) = true := hw
  try simp [memFields, offField, copyP4, rmOf, convFields] at hw
  show decode ([encRRR 16 5 d a b.code 0]) = .ok (.fmax d a b)
  refine (decode_len0 16 5 (by simp [majorOf, lenOf]) (by simp [majorOf, lenOf]) rfl rfl).trans ?_
  refine (decodeMajor_10 _ 5#3 (by simp [majorOf, lenOf]) (by simp [majorOf, lenOf]) rfl).trans ?_
  simp [decRRR, noLa, extZero, srcK, lenOf, need, *]

theorem RoundTrip.fmaxLit (d : Sel) (a : Sel) (b : Word) : Statement (.fmaxLit d a b) := by
  intro _ hw
  have hw : (d.writable) = true := hw
  try simp [memFields, offField, copyP4, rmOf, convFields] at hw
  show decode (encRRR 16 5 d a 0 2 :: two b) = .ok (.fmaxLit d a b)
  refine (decode_len2 16 5 (by simp [majorOf, lenOf]) (by simp [majorOf, lenOf]) rfl rfl).trans ?_
  refine (decodeMajor_10 _ 5#3 (by simp [majorOf, lenOf]) (by simp [majorOf, lenOf]) rfl).trans ?_
  simp [decRRR, noLa, extZero, srcK, lenOf, need, *]

theorem RoundTrip.fminn (d : Sel) (a : Sel) (b : Sel) : Statement (.fminn d a b) := by
  intro _ hw
  have hw : (d.writable) = true := hw
  try simp [memFields, offField, copyP4, rmOf, convFields] at hw
  show decode ([encRRR 16 6 d a b.code 0]) = .ok (.fminn d a b)
  refine (decode_len0 16 5 (by simp [majorOf, lenOf]) (by simp [majorOf, lenOf]) rfl rfl).trans ?_
  refine (decodeMajor_10 _ 6#3 (by simp [majorOf, lenOf]) (by simp [majorOf, lenOf]) rfl).trans ?_
  simp [decRRR, noLa, extZero, srcK, lenOf, need, *]

theorem RoundTrip.fminnLit (d : Sel) (a : Sel) (b : Word) : Statement (.fminnLit d a b) := by
  intro _ hw
  have hw : (d.writable) = true := hw
  try simp [memFields, offField, copyP4, rmOf, convFields] at hw
  show decode (encRRR 16 6 d a 0 2 :: two b) = .ok (.fminnLit d a b)
  refine (decode_len2 16 5 (by simp [majorOf, lenOf]) (by simp [majorOf, lenOf]) rfl rfl).trans ?_
  refine (decodeMajor_10 _ 6#3 (by simp [majorOf, lenOf]) (by simp [majorOf, lenOf]) rfl).trans ?_
  simp [decRRR, noLa, extZero, srcK, lenOf, need, *]

theorem RoundTrip.fmaxn (d : Sel) (a : Sel) (b : Sel) : Statement (.fmaxn d a b) := by
  intro _ hw
  have hw : (d.writable) = true := hw
  try simp [memFields, offField, copyP4, rmOf, convFields] at hw
  show decode ([encRRR 16 7 d a b.code 0]) = .ok (.fmaxn d a b)
  refine (decode_len0 16 5 (by simp [majorOf, lenOf]) (by simp [majorOf, lenOf]) rfl rfl).trans ?_
  refine (decodeMajor_10 _ 7#3 (by simp [majorOf, lenOf]) (by simp [majorOf, lenOf]) rfl).trans ?_
  simp [decRRR, noLa, extZero, srcK, lenOf, need, *]

theorem RoundTrip.fmaxnLit (d : Sel) (a : Sel) (b : Word) : Statement (.fmaxnLit d a b) := by
  intro _ hw
  have hw : (d.writable) = true := hw
  try simp [memFields, offField, copyP4, rmOf, convFields] at hw
  show decode (encRRR 16 7 d a 0 2 :: two b) = .ok (.fmaxnLit d a b)
  refine (decode_len2 16 5 (by simp [majorOf, lenOf]) (by simp [majorOf, lenOf]) rfl rfl).trans ?_
  refine (decodeMajor_10 _ 7#3 (by simp [majorOf, lenOf]) (by simp [majorOf, lenOf]) rfl).trans ?_
  simp [decRRR, noLa, extZero, srcK, lenOf, need, *]

theorem RoundTrip.fma (d : Sel) (a : Sel) (b : Sel) : Statement (.fma d a b) := by
  intro _ hw
  have hw : (d.writable) = true := hw
  try simp [memFields, offField, copyP4, rmOf, convFields] at hw
  show decode ([encRRR 17 0 d a b.code 0]) = .ok (.fma d a b)
  refine (decode_len0 17 5 (by simp [majorOf, lenOf]) (by simp [majorOf, lenOf]) rfl rfl).trans ?_
  refine (decodeMajor_11 _ 0#3 (by simp [majorOf, lenOf]) (by simp [majorOf, lenOf]) rfl rfl).trans ?_
  simp [decRRR, noLa, extZero, srcK, lenOf, need, *]

theorem RoundTrip.fmaLit (d : Sel) (a : Sel) (b : Word) : Statement (.fmaLit d a b) := by
  intro _ hw
  have hw : (d.writable) = true := hw
  try simp [memFields, offField, copyP4, rmOf, convFields] at hw
  show decode (encRRR 17 0 d a 0 2 :: two b) = .ok (.fmaLit d a b)
  refine (decode_len2 17 5 (by simp [majorOf, lenOf]) (by simp [majorOf, lenOf]) rfl rfl).trans ?_
  refine (decodeMajor_11 _ 0#3 (by simp [majorOf, lenOf]) (by simp [majorOf, lenOf]) rfl rfl).trans ?_
  simp [decRRR, noLa, extZero, srcK, lenOf, need, *]

theorem RoundTrip.fms (d : Sel) (a : Sel) (b : Sel) : Statement (.fms d a b) := by
  intro _ hw
  have hw : (d.writable) = true := hw
  try simp [memFields, offField, copyP4, rmOf, convFields] at hw
  show decode ([encRRR 17 1 d a b.code 0]) = .ok (.fms d a b)
  refine (decode_len0 17 5 (by simp [majorOf, lenOf]) (by simp [majorOf, lenOf]) rfl rfl).trans ?_
  refine (decodeMajor_11 _ 1#3 (by simp [majorOf, lenOf]) (by simp [majorOf, lenOf]) rfl rfl).trans ?_
  simp [decRRR, noLa, extZero, srcK, lenOf, need, *]

theorem RoundTrip.fmsLit (d : Sel) (a : Sel) (b : Word) : Statement (.fmsLit d a b) := by
  intro _ hw
  have hw : (d.writable) = true := hw
  try simp [memFields, offField, copyP4, rmOf, convFields] at hw
  show decode (encRRR 17 1 d a 0 2 :: two b) = .ok (.fmsLit d a b)
  refine (decode_len2 17 5 (by simp [majorOf, lenOf]) (by simp [majorOf, lenOf]) rfl rfl).trans ?_
  refine (decodeMajor_11 _ 1#3 (by simp [majorOf, lenOf]) (by simp [majorOf, lenOf]) rfl rfl).trans ?_
  simp [decRRR, noLa, extZero, srcK, lenOf, need, *]

theorem RoundTrip.fcmpeq (d : Sel) (a : Sel) (b : Sel) : Statement (.fcmpeq d a b) := by
  intro _ hw
  have hw : (d.writable) = true := hw
  try simp [memFields, offField, copyP4, rmOf, convFields] at hw
  show decode ([encRRR 17 4 d a b.code 0]) = .ok (.fcmpeq d a b)
  refine (decode_len0 17 5 (by simp [majorOf, lenOf]) (by simp [majorOf, lenOf]) rfl rfl).trans ?_
  refine (decodeMajor_11 _ 4#3 (by simp [majorOf, lenOf]) (by simp [majorOf, lenOf]) rfl rfl).trans ?_
  simp [decRRR, noLa, extZero, srcK, lenOf, need, *]

theorem RoundTrip.fcmpeqLit (d : Sel) (a : Sel) (b : Word) : Statement (.fcmpeqLit d a b) := by
  intro _ hw
  have hw : (d.writable) = true := hw
  try simp [memFields, offField, copyP4, rmOf, convFields] at hw
  show decode (encRRR 17 4 d a 0 2 :: two b) = .ok (.fcmpeqLit d a b)
  refine (decode_len2 17 5 (by simp [majorOf, lenOf]) (by simp [majorOf, lenOf]) rfl rfl).trans ?_
  refine (decodeMajor_11 _ 4#3 (by simp [majorOf, lenOf]) (by simp [majorOf, lenOf]) rfl rfl).trans ?_
  simp [decRRR, noLa, extZero, srcK, lenOf, need, *]

theorem RoundTrip.fcmplt (d : Sel) (a : Sel) (b : Sel) : Statement (.fcmplt d a b) := by
  intro _ hw
  have hw : (d.writable) = true := hw
  try simp [memFields, offField, copyP4, rmOf, convFields] at hw
  show decode ([encRRR 17 5 d a b.code 0]) = .ok (.fcmplt d a b)
  refine (decode_len0 17 5 (by simp [majorOf, lenOf]) (by simp [majorOf, lenOf]) rfl rfl).trans ?_
  refine (decodeMajor_11 _ 5#3 (by simp [majorOf, lenOf]) (by simp [majorOf, lenOf]) rfl rfl).trans ?_
  simp [decRRR, noLa, extZero, srcK, lenOf, need, *]

theorem RoundTrip.fcmpltLit (d : Sel) (a : Sel) (b : Word) : Statement (.fcmpltLit d a b) := by
  intro _ hw
  have hw : (d.writable) = true := hw
  try simp [memFields, offField, copyP4, rmOf, convFields] at hw
  show decode (encRRR 17 5 d a 0 2 :: two b) = .ok (.fcmpltLit d a b)
  refine (decode_len2 17 5 (by simp [majorOf, lenOf]) (by simp [majorOf, lenOf]) rfl rfl).trans ?_
  refine (decodeMajor_11 _ 5#3 (by simp [majorOf, lenOf]) (by simp [majorOf, lenOf]) rfl rfl).trans ?_
  simp [decRRR, noLa, extZero, srcK, lenOf, need, *]

theorem RoundTrip.fcmple (d : Sel) (a : Sel) (b : Sel) : Statement (.fcmple d a b) := by
  intro _ hw
  have hw : (d.writable) = true := hw
  try simp [memFields, offField, copyP4, rmOf, convFields] at hw
  show decode ([encRRR 17 6 d a b.code 0]) = .ok (.fcmple d a b)
  refine (decode_len0 17 5 (by simp [majorOf, lenOf]) (by simp [majorOf, lenOf]) rfl rfl).trans ?_
  refine (decodeMajor_11 _ 6#3 (by simp [majorOf, lenOf]) (by simp [majorOf, lenOf]) rfl rfl).trans ?_
  simp [decRRR, noLa, extZero, srcK, lenOf, need, *]

theorem RoundTrip.fcmpleLit (d : Sel) (a : Sel) (b : Word) : Statement (.fcmpleLit d a b) := by
  intro _ hw
  have hw : (d.writable) = true := hw
  try simp [memFields, offField, copyP4, rmOf, convFields] at hw
  show decode (encRRR 17 6 d a 0 2 :: two b) = .ok (.fcmpleLit d a b)
  refine (decode_len2 17 5 (by simp [majorOf, lenOf]) (by simp [majorOf, lenOf]) rfl rfl).trans ?_
  refine (decodeMajor_11 _ 6#3 (by simp [majorOf, lenOf]) (by simp [majorOf, lenOf]) rfl rfl).trans ?_
  simp [decRRR, noLa, extZero, srcK, lenOf, need, *]

theorem RoundTrip.mov (d : Sel) (a : Sel) : Statement (.mov d a) := by
  intro _ hw
  have hw : (d.writable) = true := hw
  try simp [memFields, offField, copyP4, rmOf, convFields] at hw
  show decode ([encU 11 0 d.code a.code 0 0]) = .ok (.mov d a)
  refine (decode_len0 11 5 (by simp [majorOf, lenOf]) (by simp [majorOf, lenOf]) rfl rfl).trans ?_
  refine (decodeMajor_0B (by simp [majorOf, lenOf])).trans ?_
  simp [decU, noLa, extZero, srcK, lenOf, uOp, need, *]

theorem RoundTrip.movLit (d : Sel) (a : Word) : Statement (.movLit d a) := by
  intro _ hw
  have hw : (d.writable) = true := hw
  try simp [memFields, offField, copyP4, rmOf, convFields] at hw
  show decode (encU 11 0 d.code 0 0 2 :: two a) = .ok (.movLit d a)
  refine (decode_len2 11 5 (by simp [majorOf, lenOf]) (by simp [majorOf, lenOf]) rfl rfl).trans ?_
  refine (decodeMajor_0B (by simp [majorOf, lenOf])).trans ?_
  simp [decU, noLa, extZero, srcK, lenOf, uOp, need, *]

theorem RoundTrip.neg (d : Sel) (a : Sel) : Statement (.neg d a) := by
  intro _ hw
  have hw : (d.writable) = true := hw
  try simp [memFields, offField, copyP4, rmOf, convFields] at hw
  show decode ([encU 11 1 d.code a.code 0 0]) = .ok (.neg d a)
  refine (decode_len0 11 5 (by simp [majorOf, lenOf]) (by simp [majorOf, lenOf]) rfl rfl).trans ?_
  refine (decodeMajor_0B (by simp [majorOf, lenOf])).trans ?_
  simp [decU, noLa, extZero, srcK, lenOf, uOp, need, *]

theorem RoundTrip.negLit (d : Sel) (a : Word) : Statement (.negLit d a) := by
  intro _ hw
  have hw : (d.writable) = true := hw
  try simp [memFields, offField, copyP4, rmOf, convFields] at hw
  show decode (encU 11 1 d.code 0 0 2 :: two a) = .ok (.negLit d a)
  refine (decode_len2 11 5 (by simp [majorOf, lenOf]) (by simp [majorOf, lenOf]) rfl rfl).trans ?_
  refine (decodeMajor_0B (by simp [majorOf, lenOf])).trans ?_
  simp [decU, noLa, extZero, srcK, lenOf, uOp, need, *]

theorem RoundTrip.not (d : Sel) (a : Sel) : Statement (.not d a) := by
  intro _ hw
  have hw : (d.writable) = true := hw
  try simp [memFields, offField, copyP4, rmOf, convFields] at hw
  show decode ([encU 11 2 d.code a.code 0 0]) = .ok (.not d a)
  refine (decode_len0 11 5 (by simp [majorOf, lenOf]) (by simp [majorOf, lenOf]) rfl rfl).trans ?_
  refine (decodeMajor_0B (by simp [majorOf, lenOf])).trans ?_
  simp [decU, noLa, extZero, srcK, lenOf, uOp, need, *]

theorem RoundTrip.notLit (d : Sel) (a : Word) : Statement (.notLit d a) := by
  intro _ hw
  have hw : (d.writable) = true := hw
  try simp [memFields, offField, copyP4, rmOf, convFields] at hw
  show decode (encU 11 2 d.code 0 0 2 :: two a) = .ok (.notLit d a)
  refine (decode_len2 11 5 (by simp [majorOf, lenOf]) (by simp [majorOf, lenOf]) rfl rfl).trans ?_
  refine (decodeMajor_0B (by simp [majorOf, lenOf])).trans ?_
  simp [decU, noLa, extZero, srcK, lenOf, uOp, need, *]

theorem RoundTrip.clz (d : Sel) (a : Sel) : Statement (.clz d a) := by
  intro _ hw
  have hw : (d.writable) = true := hw
  try simp [memFields, offField, copyP4, rmOf, convFields] at hw
  show decode ([encU 11 3 d.code a.code 0 0]) = .ok (.clz d a)
  refine (decode_len0 11 5 (by simp [majorOf, lenOf]) (by simp [majorOf, lenOf]) rfl rfl).trans ?_
  refine (decodeMajor_0B (by simp [majorOf, lenOf])).trans ?_
  simp [decU, noLa, extZero, srcK, lenOf, uOp, need, *]

theorem RoundTrip.clzLit (d : Sel) (a : Word) : Statement (.clzLit d a) := by
  intro _ hw
  have hw : (d.writable) = true := hw
  try simp [memFields, offField, copyP4, rmOf, convFields] at hw
  show decode (encU 11 3 d.code 0 0 2 :: two a) = .ok (.clzLit d a)
  refine (decode_len2 11 5 (by simp [majorOf, lenOf]) (by simp [majorOf, lenOf]) rfl rfl).trans ?_
  refine (decodeMajor_0B (by simp [majorOf, lenOf])).trans ?_
  simp [decU, noLa, extZero, srcK, lenOf, uOp, need, *]

theorem RoundTrip.ctz (d : Sel) (a : Sel) : Statement (.ctz d a) := by
  intro _ hw
  have hw : (d.writable) = true := hw
  try simp [memFields, offField, copyP4, rmOf, convFields] at hw
  show decode ([encU 11 4 d.code a.code 0 0]) = .ok (.ctz d a)
  refine (decode_len0 11 5 (by simp [majorOf, lenOf]) (by simp [majorOf, lenOf]) rfl rfl).trans ?_
  refine (decodeMajor_0B (by simp [majorOf, lenOf])).trans ?_
  simp [decU, noLa, extZero, srcK, lenOf, uOp, need, *]

theorem RoundTrip.ctzLit (d : Sel) (a : Word) : Statement (.ctzLit d a) := by
  intro _ hw
  have hw : (d.writable) = true := hw
  try simp [memFields, offField, copyP4, rmOf, convFields] at hw
  show decode (encU 11 4 d.code 0 0 2 :: two a) = .ok (.ctzLit d a)
  refine (decode_len2 11 5 (by simp [majorOf, lenOf]) (by simp [majorOf, lenOf]) rfl rfl).trans ?_
  refine (decodeMajor_0B (by simp [majorOf, lenOf])).trans ?_
  simp [decU, noLa, extZero, srcK, lenOf, uOp, need, *]

theorem RoundTrip.popc (d : Sel) (a : Sel) : Statement (.popc d a) := by
  intro _ hw
  have hw : (d.writable) = true := hw
  try simp [memFields, offField, copyP4, rmOf, convFields] at hw
  show decode ([encU 11 5 d.code a.code 0 0]) = .ok (.popc d a)
  refine (decode_len0 11 5 (by simp [majorOf, lenOf]) (by simp [majorOf, lenOf]) rfl rfl).trans ?_
  refine (decodeMajor_0B (by simp [majorOf, lenOf])).trans ?_
  simp [decU, noLa, extZero, srcK, lenOf, uOp, need, *]

theorem RoundTrip.popcLit (d : Sel) (a : Word) : Statement (.popcLit d a) := by
  intro _ hw
  have hw : (d.writable) = true := hw
  try simp [memFields, offField, copyP4, rmOf, convFields] at hw
  show decode (encU 11 5 d.code 0 0 2 :: two a) = .ok (.popcLit d a)
  refine (decode_len2 11 5 (by simp [majorOf, lenOf]) (by simp [majorOf, lenOf]) rfl rfl).trans ?_
  refine (decodeMajor_0B (by simp [majorOf, lenOf])).trans ?_
  simp [decU, noLa, extZero, srcK, lenOf, uOp, need, *]

theorem RoundTrip.brev (d : Sel) (a : Sel) : Statement (.brev d a) := by
  intro _ hw
  have hw : (d.writable) = true := hw
  try simp [memFields, offField, copyP4, rmOf, convFields] at hw
  show decode ([encU 11 6 d.code a.code 0 0]) = .ok (.brev d a)
  refine (decode_len0 11 5 (by simp [majorOf, lenOf]) (by simp [majorOf, lenOf]) rfl rfl).trans ?_
  refine (decodeMajor_0B (by simp [majorOf, lenOf])).trans ?_
  simp [decU, noLa, extZero, srcK, lenOf, uOp, need, *]

theorem RoundTrip.brevLit (d : Sel) (a : Word) : Statement (.brevLit d a) := by
  intro _ hw
  have hw : (d.writable) = true := hw
  try simp [memFields, offField, copyP4, rmOf, convFields] at hw
  show decode (encU 11 6 d.code 0 0 2 :: two a) = .ok (.brevLit d a)
  refine (decode_len2 11 5 (by simp [majorOf, lenOf]) (by simp [majorOf, lenOf]) rfl rfl).trans ?_
  refine (decodeMajor_0B (by simp [majorOf, lenOf])).trans ?_
  simp [decU, noLa, extZero, srcK, lenOf, uOp, need, *]

theorem RoundTrip.sext (d : Sel) (a : Sel) : Statement (.sext d a) := by
  intro _ hw
  have hw : (d.writable) = true := hw
  try simp [memFields, offField, copyP4, rmOf, convFields] at hw
  show decode ([encU 11 7 d.code a.code 0 0]) = .ok (.sext d a)
  refine (decode_len0 11 5 (by simp [majorOf, lenOf]) (by simp [majorOf, lenOf]) rfl rfl).trans ?_
  refine (decodeMajor_0B (by simp [majorOf, lenOf])).trans ?_
  simp [decU, noLa, extZero, srcK, lenOf, uOp, need, *]

theorem RoundTrip.sextLit (d : Sel) (a : Word) : Statement (.sextLit d a) := by
  intro _ hw
  have hw : (d.writable) = true := hw
  try simp [memFields, offField, copyP4, rmOf, convFields] at hw
  show decode (encU 11 7 d.code 0 0 2 :: two a) = .ok (.sextLit d a)
  refine (decode_len2 11 5 (by simp [majorOf, lenOf]) (by simp [majorOf, lenOf]) rfl rfl).trans ?_
  refine (decodeMajor_0B (by simp [majorOf, lenOf])).trans ?_
  simp [decU, noLa, extZero, srcK, lenOf, uOp, need, *]

theorem RoundTrip.zext (d : Sel) (a : Sel) : Statement (.zext d a) := by
  intro _ hw
  have hw : (d.writable) = true := hw
  try simp [memFields, offField, copyP4, rmOf, convFields] at hw
  show decode ([encU 11 8 d.code a.code 0 0]) = .ok (.zext d a)
  refine (decode_len0 11 5 (by simp [majorOf, lenOf]) (by simp [majorOf, lenOf]) rfl rfl).trans ?_
  refine (decodeMajor_0B (by simp [majorOf, lenOf])).trans ?_
  simp [decU, noLa, extZero, srcK, lenOf, uOp, need, *]

theorem RoundTrip.zextLit (d : Sel) (a : Word) : Statement (.zextLit d a) := by
  intro _ hw
  have hw : (d.writable) = true := hw
  try simp [memFields, offField, copyP4, rmOf, convFields] at hw
  show decode (encU 11 8 d.code 0 0 2 :: two a) = .ok (.zextLit d a)
  refine (decode_len2 11 5 (by simp [majorOf, lenOf]) (by simp [majorOf, lenOf]) rfl rfl).trans ?_
  refine (decodeMajor_0B (by simp [majorOf, lenOf])).trans ?_
  simp [decU, noLa, extZero, srcK, lenOf, uOp, need, *]

theorem RoundTrip.beq (a : Sel) (b : Sel) (off : BitVec 7) : Statement (.beq a b off) := by
  intro _ hw
  show decode ([encBC 0 a.code b.code off 0]) = .ok (.beq a b off)
  refine (decode_len0 25 15 (by simp [majorOf, lenOf]) (by simp [majorOf, lenOf]) rfl rfl).trans ?_
  refine (decodeMajor_19 (by simp [majorOf, lenOf])).trans ?_
  simp [decBC, noLa, lenOf, extZero, memFields, offField, copyP4, need, *]

theorem RoundTrip.beqExt (a : Sel) (b : Sel) (off : BitVec 32) : Statement (.beqExt a b off) := by
  intro _ hw
  show decode (encBC 0 a.code b.code 0 1 :: two (off.setWidth 64)) = .ok (.beqExt a b off)
  refine (decode_len1 25 15 (by simp [majorOf, lenOf]) (by simp [majorOf, lenOf]) rfl rfl).trans ?_
  refine (decodeMajor_19 (by simp [majorOf, lenOf])).trans ?_
  simp [decBC, noLa, lenOf, extZero, memFields, offField, copyP4, need, *]

theorem RoundTrip.beqLit (a : Sel) (b : Word) (off : BitVec 7) : Statement (.beqLit a b off) := by
  intro _ hw
  show decode (encBC 0 a.code 0 off 2 :: two b) = .ok (.beqLit a b off)
  refine (decode_len2 25 15 (by simp [majorOf, lenOf]) (by simp [majorOf, lenOf]) rfl rfl).trans ?_
  refine (decodeMajor_19 (by simp [majorOf, lenOf])).trans ?_
  simp [decBC, noLa, lenOf, extZero, memFields, offField, copyP4, need, *]

theorem RoundTrip.beqExtLit (a : Sel) (b : Word) (off : BitVec 32) : Statement (.beqExtLit a b off) := by
  intro _ hw
  show decode (encBC 0 a.code 0 0 3 :: (two (off.setWidth 64) ++ two b)) = .ok (.beqExtLit a b off)
  refine (decode_len3 25 15 (by simp [majorOf, lenOf]) (by simp [majorOf, lenOf]) rfl rfl).trans ?_
  refine (decodeMajor_19 (by simp [majorOf, lenOf])).trans ?_
  simp [decBC, noLa, lenOf, extZero, memFields, offField, copyP4, need, *]

theorem RoundTrip.bne (a : Sel) (b : Sel) (off : BitVec 7) : Statement (.bne a b off) := by
  intro _ hw
  show decode ([encBC 1 a.code b.code off 0]) = .ok (.bne a b off)
  refine (decode_len0 25 15 (by simp [majorOf, lenOf]) (by simp [majorOf, lenOf]) rfl rfl).trans ?_
  refine (decodeMajor_19 (by simp [majorOf, lenOf])).trans ?_
  simp [decBC, noLa, lenOf, extZero, memFields, offField, copyP4, need, *]

theorem RoundTrip.bneExt (a : Sel) (b : Sel) (off : BitVec 32) : Statement (.bneExt a b off) := by
  intro _ hw
  show decode (encBC 1 a.code b.code 0 1 :: two (off.setWidth 64)) = .ok (.bneExt a b off)
  refine (decode_len1 25 15 (by simp [majorOf, lenOf]) (by simp [majorOf, lenOf]) rfl rfl).trans ?_
  refine (decodeMajor_19 (by simp [majorOf, lenOf])).trans ?_
  simp [decBC, noLa, lenOf, extZero, memFields, offField, copyP4, need, *]

theorem RoundTrip.bneLit (a : Sel) (b : Word) (off : BitVec 7) : Statement (.bneLit a b off) := by
  intro _ hw
  show decode (encBC 1 a.code 0 off 2 :: two b) = .ok (.bneLit a b off)
  refine (decode_len2 25 15 (by simp [majorOf, lenOf]) (by simp [majorOf, lenOf]) rfl rfl).trans ?_
  refine (decodeMajor_19 (by simp [majorOf, lenOf])).trans ?_
  simp [decBC, noLa, lenOf, extZero, memFields, offField, copyP4, need, *]

theorem RoundTrip.bneExtLit (a : Sel) (b : Word) (off : BitVec 32) : Statement (.bneExtLit a b off) := by
  intro _ hw
  show decode (encBC 1 a.code 0 0 3 :: (two (off.setWidth 64) ++ two b)) = .ok (.bneExtLit a b off)
  refine (decode_len3 25 15 (by simp [majorOf, lenOf]) (by simp [majorOf, lenOf]) rfl rfl).trans ?_
  refine (decodeMajor_19 (by simp [majorOf, lenOf])).trans ?_
  simp [decBC, noLa, lenOf, extZero, memFields, offField, copyP4, need, *]

theorem RoundTrip.blt (a : Sel) (b : Sel) (off : BitVec 7) : Statement (.blt a b off) := by
  intro _ hw
  show decode ([encBC 2 a.code b.code off 0]) = .ok (.blt a b off)
  refine (decode_len0 25 15 (by simp [majorOf, lenOf]) (by simp [majorOf, lenOf]) rfl rfl).trans ?_
  refine (decodeMajor_19 (by simp [majorOf, lenOf])).trans ?_
  simp [decBC, noLa, lenOf, extZero, memFields, offField, copyP4, need, *]

theorem RoundTrip.bltExt (a : Sel) (b : Sel) (off : BitVec 32) : Statement (.bltExt a b off) := by
  intro _ hw
  show decode (encBC 2 a.code b.code 0 1 :: two (off.setWidth 64)) = .ok (.bltExt a b off)
  refine (decode_len1 25 15 (by simp [majorOf, lenOf]) (by simp [majorOf, lenOf]) rfl rfl).trans ?_
  refine (decodeMajor_19 (by simp [majorOf, lenOf])).trans ?_
  simp [decBC, noLa, lenOf, extZero, memFields, offField, copyP4, need, *]

theorem RoundTrip.bltLit (a : Sel) (b : Word) (off : BitVec 7) : Statement (.bltLit a b off) := by
  intro _ hw
  show decode (encBC 2 a.code 0 off 2 :: two b) = .ok (.bltLit a b off)
  refine (decode_len2 25 15 (by simp [majorOf, lenOf]) (by simp [majorOf, lenOf]) rfl rfl).trans ?_
  refine (decodeMajor_19 (by simp [majorOf, lenOf])).trans ?_
  simp [decBC, noLa, lenOf, extZero, memFields, offField, copyP4, need, *]

theorem RoundTrip.bltExtLit (a : Sel) (b : Word) (off : BitVec 32) : Statement (.bltExtLit a b off) := by
  intro _ hw
  show decode (encBC 2 a.code 0 0 3 :: (two (off.setWidth 64) ++ two b)) = .ok (.bltExtLit a b off)
  refine (decode_len3 25 15 (by simp [majorOf, lenOf]) (by simp [majorOf, lenOf]) rfl rfl).trans ?_
  refine (decodeMajor_19 (by simp [majorOf, lenOf])).trans ?_
  simp [decBC, noLa, lenOf, extZero, memFields, offField, copyP4, need, *]

theorem RoundTrip.bge (a : Sel) (b : Sel) (off : BitVec 7) : Statement (.bge a b off) := by
  intro _ hw
  show decode ([encBC 3 a.code b.code off 0]) = .ok (.bge a b off)
  refine (decode_len0 25 15 (by simp [majorOf, lenOf]) (by simp [majorOf, lenOf]) rfl rfl).trans ?_
  refine (decodeMajor_19 (by simp [majorOf, lenOf])).trans ?_
  simp [decBC, noLa, lenOf, extZero, memFields, offField, copyP4, need, *]

theorem RoundTrip.bgeExt (a : Sel) (b : Sel) (off : BitVec 32) : Statement (.bgeExt a b off) := by
  intro _ hw
  show decode (encBC 3 a.code b.code 0 1 :: two (off.setWidth 64)) = .ok (.bgeExt a b off)
  refine (decode_len1 25 15 (by simp [majorOf, lenOf]) (by simp [majorOf, lenOf]) rfl rfl).trans ?_
  refine (decodeMajor_19 (by simp [majorOf, lenOf])).trans ?_
  simp [decBC, noLa, lenOf, extZero, memFields, offField, copyP4, need, *]

theorem RoundTrip.bgeLit (a : Sel) (b : Word) (off : BitVec 7) : Statement (.bgeLit a b off) := by
  intro _ hw
  show decode (encBC 3 a.code 0 off 2 :: two b) = .ok (.bgeLit a b off)
  refine (decode_len2 25 15 (by simp [majorOf, lenOf]) (by simp [majorOf, lenOf]) rfl rfl).trans ?_
  refine (decodeMajor_19 (by simp [majorOf, lenOf])).trans ?_
  simp [decBC, noLa, lenOf, extZero, memFields, offField, copyP4, need, *]

theorem RoundTrip.bgeExtLit (a : Sel) (b : Word) (off : BitVec 32) : Statement (.bgeExtLit a b off) := by
  intro _ hw
  show decode (encBC 3 a.code 0 0 3 :: (two (off.setWidth 64) ++ two b)) = .ok (.bgeExtLit a b off)
  refine (decode_len3 25 15 (by simp [majorOf, lenOf]) (by simp [majorOf, lenOf]) rfl rfl).trans ?_
  refine (decodeMajor_19 (by simp [majorOf, lenOf])).trans ?_
  simp [decBC, noLa, lenOf, extZero, memFields, offField, copyP4, need, *]

theorem RoundTrip.bltu (a : Sel) (b : Sel) (off : BitVec 7) : Statement (.bltu a b off) := by
  intro _ hw
  show decode ([encBC 4 a.code b.code off 0]) = .ok (.bltu a b off)
  refine (decode_len0 25 15 (by simp [majorOf, lenOf]) (by simp [majorOf, lenOf]) rfl rfl).trans ?_
  refine (decodeMajor_19 (by simp [majorOf, lenOf])).trans ?_
  simp [decBC, noLa, lenOf, extZero, memFields, offField, copyP4, need, *]

theorem RoundTrip.bltuExt (a : Sel) (b : Sel) (off : BitVec 32) : Statement (.bltuExt a b off) := by
  intro _ hw
  show decode (encBC 4 a.code b.code 0 1 :: two (off.setWidth 64)) = .ok (.bltuExt a b off)
  refine (decode_len1 25 15 (by simp [majorOf, lenOf]) (by simp [majorOf, lenOf]) rfl rfl).trans ?_
  refine (decodeMajor_19 (by simp [majorOf, lenOf])).trans ?_
  simp [decBC, noLa, lenOf, extZero, memFields, offField, copyP4, need, *]

theorem RoundTrip.bltuLit (a : Sel) (b : Word) (off : BitVec 7) : Statement (.bltuLit a b off) := by
  intro _ hw
  show decode (encBC 4 a.code 0 off 2 :: two b) = .ok (.bltuLit a b off)
  refine (decode_len2 25 15 (by simp [majorOf, lenOf]) (by simp [majorOf, lenOf]) rfl rfl).trans ?_
  refine (decodeMajor_19 (by simp [majorOf, lenOf])).trans ?_
  simp [decBC, noLa, lenOf, extZero, memFields, offField, copyP4, need, *]

theorem RoundTrip.bltuExtLit (a : Sel) (b : Word) (off : BitVec 32) : Statement (.bltuExtLit a b off) := by
  intro _ hw
  show decode (encBC 4 a.code 0 0 3 :: (two (off.setWidth 64) ++ two b)) = .ok (.bltuExtLit a b off)
  refine (decode_len3 25 15 (by simp [majorOf, lenOf]) (by simp [majorOf, lenOf]) rfl rfl).trans ?_
  refine (decodeMajor_19 (by simp [majorOf, lenOf])).trans ?_
  simp [decBC, noLa, lenOf, extZero, memFields, offField, copyP4, need, *]

theorem RoundTrip.bgeu (a : Sel) (b : Sel) (off : BitVec 7) : Statement (.bgeu a b off) := by
  intro _ hw
  show decode ([encBC 5 a.code b.code off 0]) = .ok (.bgeu a b off)
  refine (decode_len0 25 15 (by simp [majorOf, lenOf]) (by simp [majorOf, lenOf]) rfl rfl).trans ?_
  refine (decodeMajor_19 (by simp [majorOf, lenOf])).trans ?_
  simp [decBC, noLa, lenOf, extZero, memFields, offField, copyP4, need, *]

theorem RoundTrip.bgeuExt (a : Sel) (b : Sel) (off : BitVec 32) : Statement (.bgeuExt a b off) := by
  intro _ hw
  show decode (encBC 5 a.code b.code 0 1 :: two (off.setWidth 64)) = .ok (.bgeuExt a b off)
  refine (decode_len1 25 15 (by simp [majorOf, lenOf]) (by simp [majorOf, lenOf]) rfl rfl).trans ?_
  refine (decodeMajor_19 (by simp [majorOf, lenOf])).trans ?_
  simp [decBC, noLa, lenOf, extZero, memFields, offField, copyP4, need, *]

theorem RoundTrip.bgeuLit (a : Sel) (b : Word) (off : BitVec 7) : Statement (.bgeuLit a b off) := by
  intro _ hw
  show decode (encBC 5 a.code 0 off 2 :: two b) = .ok (.bgeuLit a b off)
  refine (decode_len2 25 15 (by simp [majorOf, lenOf]) (by simp [majorOf, lenOf]) rfl rfl).trans ?_
  refine (decodeMajor_19 (by simp [majorOf, lenOf])).trans ?_
  simp [decBC, noLa, lenOf, extZero, memFields, offField, copyP4, need, *]

theorem RoundTrip.bgeuExtLit (a : Sel) (b : Word) (off : BitVec 32) : Statement (.bgeuExtLit a b off) := by
  intro _ hw
  show decode (encBC 5 a.code 0 0 3 :: (two (off.setWidth 64) ++ two b)) = .ok (.bgeuExtLit a b off)
  refine (decode_len3 25 15 (by simp [majorOf, lenOf]) (by simp [majorOf, lenOf]) rfl rfl).trans ?_
  refine (decodeMajor_19 (by simp [majorOf, lenOf])).trans ?_
  simp [decBC, noLa, lenOf, extZero, memFields, offField, copyP4, need, *]

theorem RoundTrip.bwend (a : Sel) (b : Sel) (off : BitVec 7) : Statement (.bwend a b off) := by
  intro _ hw
  have hw : (a.isW) = true := hw
  try simp [memFields, offField, copyP4, rmOf, convFields] at hw
  show decode ([encBC 6 a.code b.code off 0]) = .ok (.bwend a b off)
  refine (decode_len0 25 15 (by simp [majorOf, lenOf]) (by simp [majorOf, lenOf]) rfl rfl).trans ?_
  refine (decodeMajor_19 (by simp [majorOf, lenOf])).trans ?_
  simp [decBC, noLa, lenOf, extZero, memFields, offField, copyP4, need, *]

theorem RoundTrip.bwendExt (a : Sel) (b : Sel) (off : BitVec 32) : Statement (.bwendExt a b off) := by
  intro _ hw
  have hw : (a.isW) = true := hw
  try simp [memFields, offField, copyP4, rmOf, convFields] at hw
  show decode (encBC 6 a.code b.code 0 1 :: two (off.setWidth 64)) = .ok (.bwendExt a b off)
  refine (decode_len1 25 15 (by simp [majorOf, lenOf]) (by simp [majorOf, lenOf]) rfl rfl).trans ?_
  refine (decodeMajor_19 (by simp [majorOf, lenOf])).trans ?_
  simp [decBC, noLa, lenOf, extZero, memFields, offField, copyP4, need, *]

theorem RoundTrip.bwendLit (a : Sel) (b : Word) (off : BitVec 7) : Statement (.bwendLit a b off) := by
  intro _ hw
  have hw : (a.isW) = true := hw
  try simp [memFields, offField, copyP4, rmOf, convFields] at hw
  show decode (encBC 6 a.code 0 off 2 :: two b) = .ok (.bwendLit a b off)
  refine (decode_len2 25 15 (by simp [majorOf, lenOf]) (by simp [majorOf, lenOf]) rfl rfl).trans ?_
  refine (decodeMajor_19 (by simp [majorOf, lenOf])).trans ?_
  simp [decBC, noLa, lenOf, extZero, memFields, offField, copyP4, need, *]

theorem RoundTrip.bwendExtLit (a : Sel) (b : Word) (off : BitVec 32) : Statement (.bwendExtLit a b off) := by
  intro _ hw
  have hw : (a.isW) = true := hw
  try simp [memFields, offField, copyP4, rmOf, convFields] at hw
  show decode (encBC 6 a.code 0 0 3 :: (two (off.setWidth 64) ++ two b)) = .ok (.bwendExtLit a b off)
  refine (decode_len3 25 15 (by simp [majorOf, lenOf]) (by simp [majorOf, lenOf]) rfl rfl).trans ?_
  refine (decodeMajor_19 (by simp [majorOf, lenOf])).trans ?_
  simp [decBC, noLa, lenOf, extZero, memFields, offField, copyP4, need, *]

theorem RoundTrip.fsqrt (d : Sel) (a : Sel) : Statement (.fsqrt d a) := by
  intro _ hw
  have hw : (d.writable) = true := hw
  try simp [memFields, offField, copyP4, rmOf, convFields] at hw
  show decode ([encRRR 17 2 d a 0 0]) = .ok (.fsqrt d a)
  refine (decode_len0 17 5 (by simp [majorOf, lenOf]) (by simp [majorOf, lenOf]) rfl rfl).trans ?_
  refine (decodeMajor_11_2 (by simp [majorOf, lenOf]) (by simp [majorOf, lenOf])).trans ?_
  simp [decRR, noLa, extZero, srcK, lenOf, need, *]

theorem RoundTrip.frcp (d : Sel) (a : Sel) : Statement (.frcp d a) := by
  intro _ hw
  have hw : (d.writable) = true := hw
  try simp [memFields, offField, copyP4, rmOf, convFields] at hw
  show decode ([encRRR 17 3 d a 0 0]) = .ok (.frcp d a)
  refine (decode_len0 17 5 (by simp [majorOf, lenOf]) (by simp [majorOf, lenOf]) rfl rfl).trans ?_
  refine (decodeMajor_11_3 (by simp [majorOf, lenOf]) (by simp [majorOf, lenOf])).trans ?_
  simp [decRR, noLa, extZero, srcK, lenOf, need, *]

theorem RoundTrip.fclass (d : Sel) (a : Sel) : Statement (.fclass d a) := by
  intro _ hw
  have hw : (d.writable) = true := hw
  try simp [memFields, offField, copyP4, rmOf, convFields] at hw
  show decode ([encRRR 17 7 d a 0 0]) = .ok (.fclass d a)
  refine (decode_len0 17 5 (by simp [majorOf, lenOf]) (by simp [majorOf, lenOf]) rfl rfl).trans ?_
  refine (decodeMajor_11_7 (by simp [majorOf, lenOf]) (by simp [majorOf, lenOf])).trans ?_
  simp [decRR, noLa, extZero, srcK, lenOf, need, *]

theorem RoundTrip.addi (d : Sel) (a : Sel) (i : BitVec 10) : Statement (.addi d a i) := by
  intro _ hw
  have hw : (d.writable) = true := hw
  try simp [memFields, offField, copyP4, rmOf, convFields] at hw
  show decode ([encRI 5 d a i]) = .ok (.addi d a i)
  refine (decode_len0 5 1 (by simp [majorOf, lenOf]) (by simp [majorOf, lenOf]) rfl rfl).trans ?_
  refine (decodeMajor_05 (by simp [majorOf, lenOf])).trans ?_
  simp [decRI, noLa, extZero, srcK, lenOf, need, *]

theorem RoundTrip.andi (d : Sel) (a : Sel) (i : BitVec 10) : Statement (.andi d a i) := by
  intro _ hw
  have hw : (d.writable) = true := hw
  try simp [memFields, offField, copyP4, rmOf, convFields] at hw
  show decode ([encRI 6 d a i]) = .ok (.andi d a i)
  refine (decode_len0 6 1 (by simp [majorOf, lenOf]) (by simp [majorOf, lenOf]) rfl rfl).trans ?_
  refine (decodeMajor_06 (by simp [majorOf, lenOf])).trans ?_
  simp [decRI, noLa, extZero, srcK, lenOf, need, *]

theorem RoundTrip.ori (d : Sel) (a : Sel) (i : BitVec 10) : Statement (.ori d a i) := by
  intro _ hw
  have hw : (d.writable) = true := hw
  try simp [memFields, offField, copyP4, rmOf, convFields] at hw
  show decode ([encRI 7 d a i]) = .ok (.ori d a i)
  refine (decode_len0 7 1 (by simp [majorOf, lenOf]) (by simp [majorOf, lenOf]) rfl rfl).trans ?_
  refine (decodeMajor_07 (by simp [majorOf, lenOf])).trans ?_
  simp [decRI, noLa, extZero, srcK, lenOf, need, *]

theorem RoundTrip.xori (d : Sel) (a : Sel) (i : BitVec 10) : Statement (.xori d a i) := by
  intro _ hw
  have hw : (d.writable) = true := hw
  try simp [memFields, offField, copyP4, rmOf, convFields] at hw
  show decode ([encRI 8 d a i]) = .ok (.xori d a i)
  refine (decode_len0 8 1 (by simp [majorOf, lenOf]) (by simp [majorOf, lenOf]) rfl rfl).trans ?_
  refine (decodeMajor_08 (by simp [majorOf, lenOf])).trans ?_
  simp [decRI, noLa, extZero, srcK, lenOf, need, *]

theorem RoundTrip.setlti (d : Sel) (a : Sel) (i : BitVec 10) : Statement (.setlti d a i) := by
  intro _ hw
  have hw : (d.writable) = true := hw
  try simp [memFields, offField, copyP4, rmOf, convFields] at hw
  show decode ([encRI 10 d a i]) = .ok (.setlti d a i)
  refine (decode_len0 10 1 (by simp [majorOf, lenOf]) (by simp [majorOf, lenOf]) rfl rfl).trans ?_
  refine (decodeMajor_0A (by simp [majorOf, lenOf])).trans ?_
  simp [decRI, noLa, extZero, srcK, lenOf, need, *]

theorem RoundTrip.shli (d : Sel) (a : Sel) (n : BitVec 6) : Statement (.shli d a n) := by
  intro _ hw
  have hw : (d.writable) = true := hw
  try simp [memFields, offField, copyP4, rmOf, convFields] at hw
  show decode ([encRI 9 d a (0#4 ++ n)]) = .ok (.shli d a n)
  refine (decode_len0 9 1 (by simp [majorOf, lenOf]) (by simp [majorOf, lenOf]) rfl rfl).trans ?_
  refine (decodeMajor_09 (by simp [majorOf, lenOf])).trans ?_
  simp [decShift, noLa, extZero, srcK, lenOf, need, *]

theorem RoundTrip.shri (d : Sel) (a : Sel) (n : BitVec 6) : Statement (.shri d a n) := by
  intro _ hw
  have hw : (d.writable) = true := hw
  try simp [memFields, offField, copyP4, rmOf, convFields] at hw
  show decode ([encRI 9 d a (1#4 ++ n)]) = .ok (.shri d a n)
  refine (decode_len0 9 1 (by simp [majorOf, lenOf]) (by simp [majorOf, lenOf]) rfl rfl).trans ?_
  refine (decodeMajor_09 (by simp [majorOf, lenOf])).trans ?_
  simp [decShift, noLa, extZero, srcK, lenOf, need, *]

theorem RoundTrip.shrai (d : Sel) (a : Sel) (n : BitVec 6) : Statement (.shrai d a n) := by
  intro _ hw
  have hw : (d.writable) = true := hw
  try simp [memFields, offField, copyP4, rmOf, convFields] at hw
  show decode ([encRI 9 d a (2#4 ++ n)]) = .ok (.shrai d a n)
  refine (decode_len0 9 1 (by simp [majorOf, lenOf]) (by simp [majorOf, lenOf]) rfl rfl).trans ?_
  refine (decodeMajor_09 (by simp [majorOf, lenOf])).trans ?_
  simp [decShift, noLa, extZero, srcK, lenOf, need, *]

theorem RoundTrip.roti (d : Sel) (a : Sel) (n : BitVec 6) : Statement (.roti d a n) := by
  intro _ hw
  have hw : (d.writable) = true := hw
  try simp [memFields, offField, copyP4, rmOf, convFields] at hw
  show decode ([encRI 9 d a (3#4 ++ n)]) = .ok (.roti d a n)
  refine (decode_len0 9 1 (by simp [majorOf, lenOf]) (by simp [majorOf, lenOf]) rfl rfl).trans ?_
  refine (decodeMajor_09 (by simp [majorOf, lenOf])).trans ?_
  simp [decShift, noLa, extZero, srcK, lenOf, need, *]

theorem RoundTrip.movi (d : Sel) (i : BitVec 17) : Statement (.movi d i) := by
  intro _ hw
  have hw : (d.writable) = true := hw
  try simp [memFields, offField, copyP4, rmOf, convFields] at hw
  show decode ([i ++ d.code ++ 0x0C#6 ++ 0#2]) = .ok (.movi d i)
  refine (decode_len0 12 5 (by simp [majorOf, lenOf]) (by simp [majorOf, lenOf]) rfl rfl).trans ?_
  refine (decodeMajor_0C (by simp [majorOf, lenOf])).trans ?_
  simp [decI, noLa, extZero, srcK, lenOf, need, *]

theorem RoundTrip.moviLit (d : Sel) (i : Word) : Statement (.moviLit d i) := by
  intro _ hw
  have hw : (d.writable) = true := hw
  try simp [memFields, offField, copyP4, rmOf, convFields] at hw
  show decode ((0#17 ++ d.code ++ 0x0C#6 ++ 2#2 : CodeWord) :: two i) = .ok (.moviLit d i)
  refine (decode_len2 12 5 (by simp [majorOf, lenOf]) (by simp [majorOf, lenOf]) rfl rfl).trans ?_
  refine (decodeMajor_0C (by simp [majorOf, lenOf])).trans ?_
  simp [decI, noLa, extZero, srcK, lenOf, need, *]

theorem RoundTrip.extb (d : Sel) (a : Sel) (b : Src) (p : BitVec 6) (w : BitVec 7) : Statement (.extb d a b p w) := by
  intro _ hw
  have hw : (d.writable && w != 0 && p.toNat + w.toNat ≤ 64) = true := hw
  try simp [memFields, offField, copyP4, rmOf, convFields] at hw
  cases b with
  | sel b =>
    show decode (encRRR 13 0 d a b.code 1 :: two (0#51 ++ w ++ p)) = .ok (.extb d a (.sel b) p w)
    refine (decode_len1 13 10 (by simp [majorOf, lenOf]) (by simp [majorOf, lenOf]) rfl rfl).trans ?_
    refine (decodeMajor_0D (by simp [majorOf, lenOf])).trans ?_
    simp [decField, noLa, extZero, srcK, lenOf, need, *]
  | lit b =>
    show decode (encRRR 13 0 d a 0 3 :: (two (0#51 ++ w ++ p) ++ two b)) = .ok (.extb d a (.lit b) p w)
    refine (decode_len3 13 10 (by simp [majorOf, lenOf]) (by simp [majorOf, lenOf]) rfl rfl).trans ?_
    refine (decodeMajor_0D (by simp [majorOf, lenOf])).trans ?_
    simp [decField, noLa, extZero, srcK, lenOf, need, *]

theorem RoundTrip.extbs (d : Sel) (a : Sel) (b : Src) (p : BitVec 6) (w : BitVec 7) : Statement (.extbs d a b p w) := by
  intro _ hw
  have hw : (d.writable && w != 0 && p.toNat + w.toNat ≤ 64) = true := hw
  try simp [memFields, offField, copyP4, rmOf, convFields] at hw
  cases b with
  | sel b =>
    show decode (encRRR 13 1 d a b.code 1 :: two (0#51 ++ w ++ p)) = .ok (.extbs d a (.sel b) p w)
    refine (decode_len1 13 10 (by simp [majorOf, lenOf]) (by simp [majorOf, lenOf]) rfl rfl).trans ?_
    refine (decodeMajor_0D (by simp [majorOf, lenOf])).trans ?_
    simp [decField, noLa, extZero, srcK, lenOf, need, *]
  | lit b =>
    show decode (encRRR 13 1 d a 0 3 :: (two (0#51 ++ w ++ p) ++ two b)) = .ok (.extbs d a (.lit b) p w)
    refine (decode_len3 13 10 (by simp [majorOf, lenOf]) (by simp [majorOf, lenOf]) rfl rfl).trans ?_
    refine (decodeMajor_0D (by simp [majorOf, lenOf])).trans ?_
    simp [decField, noLa, extZero, srcK, lenOf, need, *]

theorem RoundTrip.insb (d : Sel) (a : Sel) (b : Src) (p : BitVec 6) (w : BitVec 7) : Statement (.insb d a b p w) := by
  intro _ hw
  have hw : (d.writable && w != 0 && p.toNat + w.toNat ≤ 64) = true := hw
  try simp [memFields, offField, copyP4, rmOf, convFields] at hw
  cases b with
  | sel b =>
    show decode (encRRR 13 2 d a b.code 1 :: two (0#51 ++ w ++ p)) = .ok (.insb d a (.sel b) p w)
    refine (decode_len1 13 10 (by simp [majorOf, lenOf]) (by simp [majorOf, lenOf]) rfl rfl).trans ?_
    refine (decodeMajor_0D (by simp [majorOf, lenOf])).trans ?_
    simp [decField, noLa, extZero, srcK, lenOf, need, *]
  | lit b =>
    show decode (encRRR 13 2 d a 0 3 :: (two (0#51 ++ w ++ p) ++ two b)) = .ok (.insb d a (.lit b) p w)
    refine (decode_len3 13 10 (by simp [majorOf, lenOf]) (by simp [majorOf, lenOf]) rfl rfl).trans ?_
    refine (decodeMajor_0D (by simp [majorOf, lenOf])).trans ?_
    simp [decField, noLa, extZero, srcK, lenOf, need, *]

theorem RoundTrip.padd (d : Sel) (a : Sel) (b : Src) (c : Cls) : Statement (.padd d a b c) := by
  intro _ hw
  have hw : (d.writable) = true := hw
  try simp [memFields, offField, copyP4, rmOf, convFields] at hw
  cases b with
  | sel b =>
    show decode (encRRR 14 0 d a b.code 1 :: two (0#60 ++ c.code)) = .ok (.padd d a (.sel b) c)
    refine (decode_len1 14 10 (by simp [majorOf, lenOf]) (by simp [majorOf, lenOf]) rfl rfl).trans ?_
    refine (decodeMajor_0E (by simp [majorOf, lenOf])).trans ?_
    simp [decPtr, noLa, extZero, srcK, lenOf, need, *]
  | lit b =>
    show decode (encRRR 14 0 d a 0 3 :: (two (0#60 ++ c.code) ++ two b)) = .ok (.padd d a (.lit b) c)
    refine (decode_len3 14 10 (by simp [majorOf, lenOf]) (by simp [majorOf, lenOf]) rfl rfl).trans ?_
    refine (decodeMajor_0E (by simp [majorOf, lenOf])).trans ?_
    simp [decPtr, noLa, extZero, srcK, lenOf, need, *]

theorem RoundTrip.psub (d : Sel) (a : Sel) (b : Src) (c : Cls) : Statement (.psub d a b c) := by
  intro _ hw
  have hw : (d.writable) = true := hw
  try simp [memFields, offField, copyP4, rmOf, convFields] at hw
  cases b with
  | sel b =>
    show decode (encRRR 14 1 d a b.code 1 :: two (0#60 ++ c.code)) = .ok (.psub d a (.sel b) c)
    refine (decode_len1 14 10 (by simp [majorOf, lenOf]) (by simp [majorOf, lenOf]) rfl rfl).trans ?_
    refine (decodeMajor_0E (by simp [majorOf, lenOf])).trans ?_
    simp [decPtr, noLa, extZero, srcK, lenOf, need, *]
  | lit b =>
    show decode (encRRR 14 1 d a 0 3 :: (two (0#60 ++ c.code) ++ two b)) = .ok (.psub d a (.lit b) c)
    refine (decode_len3 14 10 (by simp [majorOf, lenOf]) (by simp [majorOf, lenOf]) rfl rfl).trans ?_
    refine (decodeMajor_0E (by simp [majorOf, lenOf])).trans ?_
    simp [decPtr, noLa, extZero, srcK, lenOf, need, *]

theorem RoundTrip.pdiff (d : Sel) (a : Sel) (b : Src) (c : Cls) : Statement (.pdiff d a b c) := by
  intro _ hw
  have hw : (d.writable) = true := hw
  try simp [memFields, offField, copyP4, rmOf, convFields] at hw
  cases b with
  | sel b =>
    show decode (encRRR 14 2 d a b.code 1 :: two (0#60 ++ c.code)) = .ok (.pdiff d a (.sel b) c)
    refine (decode_len1 14 10 (by simp [majorOf, lenOf]) (by simp [majorOf, lenOf]) rfl rfl).trans ?_
    refine (decodeMajor_0E (by simp [majorOf, lenOf])).trans ?_
    simp [decPtr, noLa, extZero, srcK, lenOf, need, *]
  | lit b =>
    show decode (encRRR 14 2 d a 0 3 :: (two (0#60 ++ c.code) ++ two b)) = .ok (.pdiff d a (.lit b) c)
    refine (decode_len3 14 10 (by simp [majorOf, lenOf]) (by simp [majorOf, lenOf]) rfl rfl).trans ?_
    refine (decodeMajor_0E (by simp [majorOf, lenOf])).trans ?_
    simp [decPtr, noLa, extZero, srcK, lenOf, need, *]

theorem RoundTrip.paln (d : Sel) (a : Sel) (c : Cls) : Statement (.paln d a c) := by
  intro _ hw
  have hw : (d.writable) = true := hw
  try simp [memFields, offField, copyP4, rmOf, convFields] at hw
  show decode (encRRR 14 3 d a 0 1 :: two (0#60 ++ c.code)) = .ok (.paln d a c)
  refine (decode_len1 14 10 (by simp [majorOf, lenOf]) (by simp [majorOf, lenOf]) rfl rfl).trans ?_
  refine (decodeMajor_0E (by simp [majorOf, lenOf])).trans ?_
  simp [decPtr, noLa, extZero, srcK, lenOf, need, *]

theorem RoundTrip.pchk (d : Sel) (a : Sel) (b : Src) (c : Cls) : Statement (.pchk d a b c) := by
  intro _ hw
  have hw : (d.writable) = true := hw
  try simp [memFields, offField, copyP4, rmOf, convFields] at hw
  cases b with
  | sel b =>
    show decode (encRRR 14 4 d a b.code 1 :: two (0#60 ++ c.code)) = .ok (.pchk d a (.sel b) c)
    refine (decode_len1 14 10 (by simp [majorOf, lenOf]) (by simp [majorOf, lenOf]) rfl rfl).trans ?_
    refine (decodeMajor_0E (by simp [majorOf, lenOf])).trans ?_
    simp [decPtr, noLa, extZero, srcK, lenOf, need, *]
  | lit b =>
    show decode (encRRR 14 4 d a 0 3 :: (two (0#60 ++ c.code) ++ two b)) = .ok (.pchk d a (.lit b) c)
    refine (decode_len3 14 10 (by simp [majorOf, lenOf]) (by simp [majorOf, lenOf]) rfl rfl).trans ?_
    refine (decodeMajor_0E (by simp [majorOf, lenOf])).trans ?_
    simp [decPtr, noLa, extZero, srcK, lenOf, need, *]

theorem RoundTrip.pwin (d : Sel) (a : Sel) (b : Src) (c : Cls) : Statement (.pwin d a b c) := by
  intro _ hw
  have hw : (d.writable) = true := hw
  try simp [memFields, offField, copyP4, rmOf, convFields] at hw
  cases b with
  | sel b =>
    show decode (encRRR 14 5 d a b.code 1 :: two (0#60 ++ c.code)) = .ok (.pwin d a (.sel b) c)
    refine (decode_len1 14 10 (by simp [majorOf, lenOf]) (by simp [majorOf, lenOf]) rfl rfl).trans ?_
    refine (decodeMajor_0E (by simp [majorOf, lenOf])).trans ?_
    simp [decPtr, noLa, extZero, srcK, lenOf, need, *]
  | lit b =>
    show decode (encRRR 14 5 d a 0 3 :: (two (0#60 ++ c.code) ++ two b)) = .ok (.pwin d a (.lit b) c)
    refine (decode_len3 14 10 (by simp [majorOf, lenOf]) (by simp [majorOf, lenOf]) rfl rfl).trans ?_
    refine (decodeMajor_0E (by simp [majorOf, lenOf])).trans ?_
    simp [decPtr, noLa, extZero, srcK, lenOf, need, *]

theorem RoundTrip.pcore (d : Sel) (a : Sel) : Statement (.pcore d a) := by
  intro _ hw
  have hw : (d.writable) = true := hw
  try simp [memFields, offField, copyP4, rmOf, convFields] at hw
  show decode (encRRR 14 6 d a 0 1 :: two 0) = .ok (.pcore d a)
  refine (decode_len1 14 10 (by simp [majorOf, lenOf]) (by simp [majorOf, lenOf]) rfl rfl).trans ?_
  refine (decodeMajor_0E (by simp [majorOf, lenOf])).trans ?_
  simp [decPtr, noLa, extZero, srcK, lenOf, need, *]

theorem RoundTrip.fcvt (d : Sel) (a : Src) (td : Ty) (ts : Ty) (x : BitVec 4) : Statement (.fcvt d a td ts x) := by
  intro _ hw
  have hw : (d.writable && fcvtTypes td ts && fcvtX td ts x) = true := hw
  try simp [memFields, offField, copyP4, rmOf, convFields] at hw
  have hn : fcvtTypes .n64 .n64 = false := rfl
  cases a with
  | sel a =>
    show decode (encU 18 0 d.code a.code x 1 :: two (0#54 ++ td.code ++ ts.code)) = .ok (.fcvt d (.sel a) td ts x)
    refine (decode_len1 18 10 (by simp [majorOf, lenOf]) (by simp [majorOf, lenOf]) rfl rfl).trans ?_
    refine (decodeMajor_12 (by simp [majorOf, lenOf])).trans ?_
    simp [decCvt, noLa, extZero, srcK, lenOf, uOp, need, *]
    all_goals grind [Ty.isInt]
  | lit a =>
    show decode (encU 18 0 d.code 0 x 3 :: (two (0#54 ++ td.code ++ ts.code) ++ two a)) = .ok (.fcvt d (.lit a) td ts x)
    refine (decode_len3 18 10 (by simp [majorOf, lenOf]) (by simp [majorOf, lenOf]) rfl rfl).trans ?_
    refine (decodeMajor_12 (by simp [majorOf, lenOf])).trans ?_
    simp [decCvt, noLa, extZero, srcK, lenOf, uOp, need, *]
    all_goals grind [Ty.isInt]

theorem RoundTrip.fsx (d : Sel) (a : Sel) : Statement (.fsx d a) := by
  intro _ hw
  have hw : (d.writable) = true := hw
  try simp [memFields, offField, copyP4, rmOf, convFields] at hw
  show decode (encU 18 0 d.code a.code 0 1 :: two 429) = .ok (.fsx d a)
  refine (decode_len1 18 10 (by simp [majorOf, lenOf]) (by simp [majorOf, lenOf]) rfl rfl).trans ?_
  refine (decodeMajor_12 (by simp [majorOf, lenOf])).trans ?_
  simp [decCvt, noLa, extZero, srcK, lenOf, uOp, need, *]

theorem RoundTrip.fsr (d : Sel) : Statement (.fsr d) := by
  intro _ hw
  have hw : (d.writable) = true := hw
  try simp [memFields, offField, copyP4, rmOf, convFields] at hw
  show decode (encU 18 0 d.code 74 1 1 :: two 429) = .ok (.fsr d)
  refine (decode_len1 18 10 (by simp [majorOf, lenOf]) (by simp [majorOf, lenOf]) rfl rfl).trans ?_
  refine (decodeMajor_12 (by simp [majorOf, lenOf])).trans ?_
  simp [decCvt, noLa, extZero, srcK, lenOf, uOp, need, *]

theorem RoundTrip.br (off : BitVec 24) : Statement (.br off) := by
  intro _ hw
  show decode ([off ++ 0x18#6 ++ 0#2]) = .ok (.br off)
  refine (decode_len0 24 1 (by simp [majorOf, lenOf]) (by simp [majorOf, lenOf]) rfl rfl).trans ?_
  refine (decodeMajor_18 (by simp [majorOf, lenOf])).trans ?_
  exact congrArg (fun o => Except.ok (Instr.br o)) ((extractLsb'_append_eq_of_le (by omega)).trans ((extractLsb'_append_eq_of_le (by omega)).trans extractLsb'_eq_self))

theorem RoundTrip.bnz (a : Sel) (off : BitVec 7) : Statement (.bnz a off) := by
  intro _ hw
  show decode ([encBC 7 a.code 0 off 0]) = .ok (.bnz a off)
  refine (decode_len0 25 15 (by simp [majorOf, lenOf]) (by simp [majorOf, lenOf]) rfl rfl).trans ?_
  refine (decodeMajor_19 (by simp [majorOf, lenOf])).trans ?_
  simp [decBC, noLa, lenOf, extZero, memFields, offField, copyP4, need, *]

theorem RoundTrip.bnzExt (a : Sel) (off : BitVec 32) : Statement (.bnzExt a off) := by
  intro _ hw
  show decode (encBC 7 a.code 0 0 1 :: two (off.setWidth 64)) = .ok (.bnzExt a off)
  refine (decode_len1 25 15 (by simp [majorOf, lenOf]) (by simp [majorOf, lenOf]) rfl rfl).trans ?_
  refine (decodeMajor_19 (by simp [majorOf, lenOf])).trans ?_
  simp [decBC, noLa, lenOf, extZero, memFields, offField, copyP4, need, *]

theorem RoundTrip.loop (c : BitVec 2) (n : Sel) (b : BitVec 15) : Statement (.loop c n b) := by
  intro _ hw
  show decode ([b ++ c ++ n.code ++ 0x1A#6 ++ 0#2]) = .ok (.loop c n b)
  refine (decode_len0 26 5 (by simp [majorOf, lenOf]) (by simp [majorOf, lenOf]) rfl rfl).trans ?_
  refine (decodeMajor_1A (by simp [majorOf, lenOf])).trans ?_
  simp [decLoop, noLa, lenOf, extZero, memFields, offField, copyP4, need, *]

theorem RoundTrip.loopLit (c : BitVec 2) (n : Word) (b : BitVec 15) : Statement (.loopLit c n b) := by
  intro _ hw
  show decode ((b ++ c ++ 0#7 ++ 0x1A#6 ++ 2#2 : CodeWord) :: two n) = .ok (.loopLit c n b)
  refine (decode_len2 26 5 (by simp [majorOf, lenOf]) (by simp [majorOf, lenOf]) rfl rfl).trans ?_
  refine (decodeMajor_1A (by simp [majorOf, lenOf])).trans ?_
  simp [decLoop, noLa, lenOf, extZero, memFields, offField, copyP4, need, *]

theorem RoundTrip.wset1 (w : BitVec 3) (b : Sel) (s0 : Sel) (n0 : Sel) : Statement (.wset1 w b s0 n0) := by
  intro _ hw
  show decode (encE 27 0 (w7 w) b.code 0 :: two (extE 0 s0.code n0.code 0 0)) = .ok (.wset1 w b s0 n0)
  refine (decode_len1 27 2 (by simp [majorOf, lenOf]) (by simp [majorOf, lenOf]) rfl rfl).trans ?_
  refine (decodeMajor_1B (by simp [majorOf, lenOf])).trans ?_
  simp [decWalk, noLa, lenOf, extZero, memFields, offField, copyP4, need, *]

theorem RoundTrip.wset2 (w : BitVec 3) (b : Sel) (s0 : Sel) (n0 : Sel) (s1 : Sel) (n1 : Sel) : Statement (.wset2 w b s0 n0 s1 n1) := by
  intro _ hw
  show decode (encE 27 1 (w7 w) b.code 0 :: two (extE 0 s0.code n0.code s1.code n1.code)) = .ok (.wset2 w b s0 n0 s1 n1)
  refine (decode_len1 27 2 (by simp [majorOf, lenOf]) (by simp [majorOf, lenOf]) rfl rfl).trans ?_
  refine (decodeMajor_1B (by simp [majorOf, lenOf])).trans ?_
  simp [decWalk, noLa, lenOf, extZero, memFields, offField, copyP4, need, *]

theorem RoundTrip.wset3 (w : BitVec 3) (b : Sel) (s0 : Sel) (n0 : Sel) (s1 : Sel) (n1 : Sel) (s2 : Sel) (n2 : Sel) : Statement (.wset3 w b s0 n0 s1 n1 s2 n2) := by
  intro _ hw
  show decode (encE 27 2 (w7 w) b.code 0 :: two (extE (0#22 ++ n2.code ++ s2.code) s0.code n0.code s1.code n1.code)) = .ok (.wset3 w b s0 n0 s1 n1 s2 n2)
  refine (decode_len1 27 2 (by simp [majorOf, lenOf]) (by simp [majorOf, lenOf]) rfl rfl).trans ?_
  refine (decodeMajor_1B (by simp [majorOf, lenOf])).trans ?_
  simp [decWalk, noLa, lenOf, extZero, memFields, offField, copyP4, need, *]

theorem RoundTrip.wget (d : Sel) (w : BitVec 3) (i : BitVec 7) (la : BitVec 4) : Statement (.wget d w i la) := by
  intro _ hw
  have hw : (d.writable && i.toNat ≤ 8) = true := hw
  try simp [memFields, offField, copyP4, rmOf, convFields] at hw
  show decode (encE 27 3 d.code (w7 w) la :: two (extE 0 i 0 0 0)) = .ok (.wget d w i la)
  refine (decode_len1 27 2 (by simp [majorOf, lenOf]) (by simp [majorOf, lenOf]) rfl rfl).trans ?_
  refine (decodeMajor_1B (by simp [majorOf, lenOf])).trans ?_
  simp [decWalk, noLa, lenOf, extZero, memFields, offField, copyP4, need, *]

theorem RoundTrip.wclr (w : BitVec 3) : Statement (.wclr w) := by
  intro _ hw
  show decode (encE 27 4 (w7 w) 0 0 :: two 0) = .ok (.wclr w)
  refine (decode_len1 27 2 (by simp [majorOf, lenOf]) (by simp [majorOf, lenOf]) rfl rfl).trans ?_
  refine (decodeMajor_1B (by simp [majorOf, lenOf])).trans ?_
  simp [decWalk, noLa, lenOf, extZero, memFields, offField, copyP4, need, *]

theorem RoundTrip.calld (i : BitVec 20) : Statement (.calld i) := by
  intro _ hw
  show decode ([i ++ 0#4 ++ 0x1C#6 ++ 0#2]) = .ok (.calld i)
  refine (decode_len0 28 1 (by simp [majorOf, lenOf]) (by simp [majorOf, lenOf]) rfl rfl).trans ?_
  refine (decodeMajor_1C (by simp [majorOf, lenOf])).trans ?_
  simp [noLa, lenOf, extZero, memFields, offField, copyP4, need, *]

theorem RoundTrip.spawnd (i : BitVec 20) : Statement (.spawnd i) := by
  intro _ hw
  show decode ([i ++ 0#4 ++ 0x1E#6 ++ 0#2]) = .ok (.spawnd i)
  refine (decode_len0 30 1 (by simp [majorOf, lenOf]) (by simp [majorOf, lenOf]) rfl rfl).trans ?_
  refine (decodeMajor_1E (by simp [majorOf, lenOf])).trans ?_
  simp [noLa, lenOf, extZero, memFields, offField, copyP4, need, *]

theorem RoundTrip.ret  : Statement (.ret) := by
  intro _ hw
  show decode ([encU 29 0 0 0 0 0]) = .ok (.ret)
  refine (decode_len0 29 1 (by simp [majorOf, lenOf]) (by simp [majorOf, lenOf]) rfl rfl).trans ?_
  refine (decodeMajor_1D (by simp [majorOf, lenOf])).trans ?_
  simp [decCtl, noLa, lenOf, extZero, memFields, offField, copyP4, need, *]

theorem RoundTrip.callx (a : Sel) : Statement (.callx a) := by
  intro _ hw
  show decode ([encU 29 1 0 a.code 0 0]) = .ok (.callx a)
  refine (decode_len0 29 1 (by simp [majorOf, lenOf]) (by simp [majorOf, lenOf]) rfl rfl).trans ?_
  refine (decodeMajor_1D (by simp [majorOf, lenOf])).trans ?_
  simp [decCtl, noLa, lenOf, extZero, memFields, offField, copyP4, need, *]

theorem RoundTrip.region  : Statement (.region) := by
  intro _ hw
  show decode ([encU 29 2 0 0 0 0]) = .ok (.region)
  refine (decode_len0 29 1 (by simp [majorOf, lenOf]) (by simp [majorOf, lenOf]) rfl rfl).trans ?_
  refine (decodeMajor_1D (by simp [majorOf, lenOf])).trans ?_
  simp [decCtl, noLa, lenOf, extZero, memFields, offField, copyP4, need, *]

theorem RoundTrip.yield  : Statement (.yield) := by
  intro _ hw
  show decode ([encU 29 3 0 0 0 0]) = .ok (.yield)
  refine (decode_len0 29 1 (by simp [majorOf, lenOf]) (by simp [majorOf, lenOf]) rfl rfl).trans ?_
  refine (decodeMajor_1D (by simp [majorOf, lenOf])).trans ?_
  simp [decCtl, noLa, lenOf, extZero, memFields, offField, copyP4, need, *]

theorem RoundTrip.stop  : Statement (.stop) := by
  intro _ hw
  show decode ([encU 29 4 0 0 0 0]) = .ok (.stop)
  refine (decode_len0 29 1 (by simp [majorOf, lenOf]) (by simp [majorOf, lenOf]) rfl rfl).trans ?_
  refine (decodeMajor_1D (by simp [majorOf, lenOf])).trans ?_
  simp [decCtl, noLa, lenOf, extZero, memFields, offField, copyP4, need, *]

theorem RoundTrip.trap (a : Sel) : Statement (.trap a) := by
  intro _ hw
  show decode ([encU 29 5 0 a.code 0 0]) = .ok (.trap a)
  refine (decode_len0 29 1 (by simp [majorOf, lenOf]) (by simp [majorOf, lenOf]) rfl rfl).trans ?_
  refine (decodeMajor_1D (by simp [majorOf, lenOf])).trans ?_
  simp [decCtl, noLa, lenOf, extZero, memFields, offField, copyP4, need, *]

theorem RoundTrip.brk  : Statement (.brk) := by
  intro _ hw
  show decode ([encU 29 6 0 0 0 0]) = .ok (.brk)
  refine (decode_len0 29 1 (by simp [majorOf, lenOf]) (by simp [majorOf, lenOf]) rfl rfl).trans ?_
  refine (decodeMajor_1D (by simp [majorOf, lenOf])).trans ?_
  simp [decCtl, noLa, lenOf, extZero, memFields, offField, copyP4, need, *]

theorem RoundTrip.nop  : Statement (.nop) := by
  intro _ hw
  show decode ([encU 29 7 0 0 0 0]) = .ok (.nop)
  refine (decode_len0 29 1 (by simp [majorOf, lenOf]) (by simp [majorOf, lenOf]) rfl rfl).trans ?_
  refine (decodeMajor_1D (by simp [majorOf, lenOf])).trans ?_
  simp [decCtl, noLa, lenOf, extZero, memFields, offField, copyP4, need, *]

theorem RoundTrip.sync  : Statement (.sync) := by
  intro _ hw
  show decode ([encU 31 0 0 0 0 0]) = .ok (.sync)
  refine (decode_len0 31 5 (by simp [majorOf, lenOf]) (by simp [majorOf, lenOf]) rfl rfl).trans ?_
  refine (decodeMajor_1F (by simp [majorOf, lenOf])).trans ?_
  simp [decTask, noLa, lenOf, extZero, memFields, offField, copyP4, need, *]

theorem RoundTrip.range (a : Sel) : Statement (.range a) := by
  intro _ hw
  have hw : (a.isG) = true := hw
  try simp [memFields, offField, copyP4, rmOf, convFields] at hw
  show decode ([encU 31 1 0 a.code 0 0]) = .ok (.range a)
  refine (decode_len0 31 5 (by simp [majorOf, lenOf]) (by simp [majorOf, lenOf]) rfl rfl).trans ?_
  refine (decodeMajor_1F (by simp [majorOf, lenOf])).trans ?_
  simp [decTask, noLa, lenOf, extZero, memFields, offField, copyP4, need, *]

theorem RoundTrip.rnext (d : Sel) : Statement (.rnext d) := by
  intro _ hw
  have hw : (d.writable) = true := hw
  try simp [memFields, offField, copyP4, rmOf, convFields] at hw
  show decode ([encU 31 2 d.code 0 0 0]) = .ok (.rnext d)
  refine (decode_len0 31 5 (by simp [majorOf, lenOf]) (by simp [majorOf, lenOf]) rfl rfl).trans ?_
  refine (decodeMajor_1F (by simp [majorOf, lenOf])).trans ?_
  simp [decTask, noLa, lenOf, extZero, memFields, offField, copyP4, need, *]

theorem RoundTrip.enq (d : Sel) (a : Sel) : Statement (.enq d a) := by
  intro _ hw
  have hw : (d.writable) = true := hw
  try simp [memFields, offField, copyP4, rmOf, convFields] at hw
  show decode ([encU 31 3 d.code a.code 0 0]) = .ok (.enq d a)
  refine (decode_len0 31 5 (by simp [majorOf, lenOf]) (by simp [majorOf, lenOf]) rfl rfl).trans ?_
  refine (decodeMajor_1F (by simp [majorOf, lenOf])).trans ?_
  simp [decTask, noLa, lenOf, extZero, memFields, offField, copyP4, need, *]

theorem RoundTrip.enqLit (d : Sel) (a : Word) : Statement (.enqLit d a) := by
  intro _ hw
  have hw : (d.writable) = true := hw
  try simp [memFields, offField, copyP4, rmOf, convFields] at hw
  show decode (encU 31 3 d.code 0 0 2 :: two a) = .ok (.enqLit d a)
  refine (decode_len2 31 5 (by simp [majorOf, lenOf]) (by simp [majorOf, lenOf]) rfl rfl).trans ?_
  refine (decodeMajor_1F (by simp [majorOf, lenOf])).trans ?_
  simp [decTask, noLa, lenOf, extZero, memFields, offField, copyP4, need, *]

theorem RoundTrip.deq (d : Sel) (a : Sel) : Statement (.deq d a) := by
  intro _ hw
  have hw : (d.writable) = true := hw
  try simp [memFields, offField, copyP4, rmOf, convFields] at hw
  show decode ([encU 31 4 d.code a.code 0 0]) = .ok (.deq d a)
  refine (decode_len0 31 5 (by simp [majorOf, lenOf]) (by simp [majorOf, lenOf]) rfl rfl).trans ?_
  refine (decodeMajor_1F (by simp [majorOf, lenOf])).trans ?_
  simp [decTask, noLa, lenOf, extZero, memFields, offField, copyP4, need, *]

theorem RoundTrip.deqLit (d : Sel) (a : Word) : Statement (.deqLit d a) := by
  intro _ hw
  have hw : (d.writable) = true := hw
  try simp [memFields, offField, copyP4, rmOf, convFields] at hw
  show decode (encU 31 4 d.code 0 0 2 :: two a) = .ok (.deqLit d a)
  refine (decode_len2 31 5 (by simp [majorOf, lenOf]) (by simp [majorOf, lenOf]) rfl rfl).trans ?_
  refine (decodeMajor_1F (by simp [majorOf, lenOf])).trans ?_
  simp [decTask, noLa, lenOf, extZero, memFields, offField, copyP4, need, *]

theorem RoundTrip.sendm (t : BitVec 6) (a : Sel) : Statement (.sendm t a) := by
  intro _ hw
  show decode ([encU 31 5 (g7 t) a.code 0 0]) = .ok (.sendm t a)
  refine (decode_len0 31 5 (by simp [majorOf, lenOf]) (by simp [majorOf, lenOf]) rfl rfl).trans ?_
  refine (decodeMajor_1F (by simp [majorOf, lenOf])).trans ?_
  simp [decTask, noLa, lenOf, extZero, memFields, offField, copyP4, need, *]

theorem RoundTrip.sendmLit (t : BitVec 6) (a : Word) : Statement (.sendmLit t a) := by
  intro _ hw
  show decode (encU 31 5 (g7 t) 0 0 2 :: two a) = .ok (.sendmLit t a)
  refine (decode_len2 31 5 (by simp [majorOf, lenOf]) (by simp [majorOf, lenOf]) rfl rfl).trans ?_
  refine (decodeMajor_1F (by simp [majorOf, lenOf])).trans ?_
  simp [decTask, noLa, lenOf, extZero, memFields, offField, copyP4, need, *]

theorem RoundTrip.ldp (am : BitVec 2) (w : Cls) (b : Sel) (d : Sel) (la : BitVec 4) : Statement (.ldp am w b d la) := by
  intro _ hw
  have hw : (w.scalar && d.writable) = true := hw
  try simp [memFields, offField, copyP4, rmOf, convFields] at hw
  show decode ([encM 0x20 am w b.code d.code la 0]) = .ok (.ldp am w b d la)
  refine (decode_len0 32 3 (by simp [majorOf, lenOf]) (by simp [majorOf, lenOf]) rfl rfl).trans ?_
  refine (decodeMajor_20 (by simp [majorOf, lenOf])).trans ?_
  simp [decLoad, noLa, lenOf, extZero, memFields, offField, copyP4, need, *]

theorem RoundTrip.ldpExt (am : BitVec 2) (w : Cls) (b : Sel) (d : Sel) (la : BitVec 4) (o : BitVec 48) (i : Sel) (sx : Bool) : Statement (.ldpExt am w b d la o i sx) := by
  intro _ hw
  have hw : (w.scalar && d.writable && memFields am o i) = true := hw
  try simp [memFields, offField, copyP4, rmOf, convFields] at hw
  show decode (encM 0x20 am w b.code d.code la 1 :: two (extM (0#7 ++ BitVec.ofBool sx) o i.code)) = .ok (.ldpExt am w b d la o i sx)
  refine (decode_len1 32 3 (by simp [majorOf, lenOf]) (by simp [majorOf, lenOf]) rfl rfl).trans ?_
  refine (decodeMajor_20 (by simp [majorOf, lenOf])).trans ?_
  simp [decLoad, noLa, lenOf, extZero, memFields, offField, copyP4, need, *]

theorem RoundTrip.stp (am : BitVec 2) (w : Cls) (b : Sel) (s : Sel) : Statement (.stp am w b s) := by
  intro _ hw
  have hw : (w.scalar) = true := hw
  try simp [memFields, offField, copyP4, rmOf, convFields] at hw
  show decode ([encM 0x21 am w b.code s.code 0 0]) = .ok (.stp am w b s)
  refine (decode_len0 33 3 (by simp [majorOf, lenOf]) (by simp [majorOf, lenOf]) rfl rfl).trans ?_
  refine (decodeMajor_21 (by simp [majorOf, lenOf])).trans ?_
  simp [decStore, noLa, lenOf, extZero, memFields, offField, copyP4, need, *]

theorem RoundTrip.stpExt (am : BitVec 2) (w : Cls) (b : Sel) (s : Sel) (o : BitVec 48) (i : Sel) : Statement (.stpExt am w b s o i) := by
  intro _ hw
  have hw : (w.scalar && memFields am o i) = true := hw
  try simp [memFields, offField, copyP4, rmOf, convFields] at hw
  show decode (encM 0x21 am w b.code s.code 0 1 :: two (extM 0 o i.code)) = .ok (.stpExt am w b s o i)
  refine (decode_len1 33 3 (by simp [majorOf, lenOf]) (by simp [majorOf, lenOf]) rfl rfl).trans ?_
  refine (decodeMajor_21 (by simp [majorOf, lenOf])).trans ?_
  simp [decStore, noLa, lenOf, extZero, memFields, offField, copyP4, need, *]

theorem RoundTrip.ldg (am : BitVec 2) (w : Cls) (b : Sel) (d : Sel) (la : BitVec 4) : Statement (.ldg am w b d la) := by
  intro _ hw
  have hw : (w.scalar && d.writable) = true := hw
  try simp [memFields, offField, copyP4, rmOf, convFields] at hw
  show decode ([encM 0x22 am w b.code d.code la 0]) = .ok (.ldg am w b d la)
  refine (decode_len0 34 3 (by simp [majorOf, lenOf]) (by simp [majorOf, lenOf]) rfl rfl).trans ?_
  refine (decodeMajor_22 (by simp [majorOf, lenOf])).trans ?_
  simp [decLoad, noLa, lenOf, extZero, memFields, offField, copyP4, need, *]

theorem RoundTrip.ldgExt (am : BitVec 2) (w : Cls) (b : Sel) (d : Sel) (la : BitVec 4) (o : BitVec 48) (i : Sel) (sx : Bool) : Statement (.ldgExt am w b d la o i sx) := by
  intro _ hw
  have hw : (w.scalar && d.writable && memFields am o i) = true := hw
  try simp [memFields, offField, copyP4, rmOf, convFields] at hw
  show decode (encM 0x22 am w b.code d.code la 1 :: two (extM (0#7 ++ BitVec.ofBool sx) o i.code)) = .ok (.ldgExt am w b d la o i sx)
  refine (decode_len1 34 3 (by simp [majorOf, lenOf]) (by simp [majorOf, lenOf]) rfl rfl).trans ?_
  refine (decodeMajor_22 (by simp [majorOf, lenOf])).trans ?_
  simp [decLoad, noLa, lenOf, extZero, memFields, offField, copyP4, need, *]

theorem RoundTrip.stg (am : BitVec 2) (w : Cls) (b : Sel) (s : Sel) : Statement (.stg am w b s) := by
  intro _ hw
  have hw : (w.scalar) = true := hw
  try simp [memFields, offField, copyP4, rmOf, convFields] at hw
  show decode ([encM 0x23 am w b.code s.code 0 0]) = .ok (.stg am w b s)
  refine (decode_len0 35 3 (by simp [majorOf, lenOf]) (by simp [majorOf, lenOf]) rfl rfl).trans ?_
  refine (decodeMajor_23 (by simp [majorOf, lenOf])).trans ?_
  simp [decStore, noLa, lenOf, extZero, memFields, offField, copyP4, need, *]

theorem RoundTrip.stgExt (am : BitVec 2) (w : Cls) (b : Sel) (s : Sel) (o : BitVec 48) (i : Sel) : Statement (.stgExt am w b s o i) := by
  intro _ hw
  have hw : (w.scalar && memFields am o i) = true := hw
  try simp [memFields, offField, copyP4, rmOf, convFields] at hw
  show decode (encM 0x23 am w b.code s.code 0 1 :: two (extM 0 o i.code)) = .ok (.stgExt am w b s o i)
  refine (decode_len1 35 3 (by simp [majorOf, lenOf]) (by simp [majorOf, lenOf]) rfl rfl).trans ?_
  refine (decodeMajor_23 (by simp [majorOf, lenOf])).trans ?_
  simp [decStore, noLa, lenOf, extZero, memFields, offField, copyP4, need, *]

theorem RoundTrip.ldk (am : BitVec 2) (w : Cls) (b : Sel) (d : Sel) (la : BitVec 4) : Statement (.ldk am w b d la) := by
  intro _ hw
  have hw : (w.scalar && d.writable) = true := hw
  try simp [memFields, offField, copyP4, rmOf, convFields] at hw
  show decode ([encM 0x24 am w b.code d.code la 0]) = .ok (.ldk am w b d la)
  refine (decode_len0 36 3 (by simp [majorOf, lenOf]) (by simp [majorOf, lenOf]) rfl rfl).trans ?_
  refine (decodeMajor_24 (by simp [majorOf, lenOf])).trans ?_
  simp [decLoad, noLa, lenOf, extZero, memFields, offField, copyP4, need, *]

theorem RoundTrip.ldkExt (am : BitVec 2) (w : Cls) (b : Sel) (d : Sel) (la : BitVec 4) (o : BitVec 48) (i : Sel) (sx : Bool) : Statement (.ldkExt am w b d la o i sx) := by
  intro _ hw
  have hw : (w.scalar && d.writable && memFields am o i) = true := hw
  try simp [memFields, offField, copyP4, rmOf, convFields] at hw
  show decode (encM 0x24 am w b.code d.code la 1 :: two (extM (0#7 ++ BitVec.ofBool sx) o i.code)) = .ok (.ldkExt am w b d la o i sx)
  refine (decode_len1 36 3 (by simp [majorOf, lenOf]) (by simp [majorOf, lenOf]) rfl rfl).trans ?_
  refine (decodeMajor_24 (by simp [majorOf, lenOf])).trans ?_
  simp [decLoad, noLa, lenOf, extZero, memFields, offField, copyP4, need, *]

theorem RoundTrip.vldp (am : BitVec 2) (w : Cls) (b : Sel) (v : VReg) (la : BitVec 4) : Statement (.vldp am w b v la) := by
  intro _ hw
  have hw : (w.vector) = true := hw
  try simp [memFields, offField, copyP4, rmOf, convFields] at hw
  show decode ([encM 0x25 am w b.code (v7 v) la 0]) = .ok (.vldp am w b v la)
  refine (decode_len0 37 3 (by simp [majorOf, lenOf]) (by simp [majorOf, lenOf]) rfl rfl).trans ?_
  refine (decodeMajor_25 (by simp [majorOf, lenOf])).trans ?_
  simp [decVLoad, noLa, lenOf, extZero, memFields, offField, copyP4, need, *]

theorem RoundTrip.vldpExt (am : BitVec 2) (w : Cls) (b : Sel) (v : VReg) (la : BitVec 4) (o : BitVec 48) : Statement (.vldpExt am w b v la o) := by
  intro _ hw
  have hw : (w.vector && offField am o) = true := hw
  try simp [memFields, offField, copyP4, rmOf, convFields] at hw
  show decode (encM 0x25 am w b.code (v7 v) la 1 :: two (extM 0 o 0)) = .ok (.vldpExt am w b v la o)
  refine (decode_len1 37 3 (by simp [majorOf, lenOf]) (by simp [majorOf, lenOf]) rfl rfl).trans ?_
  refine (decodeMajor_25 (by simp [majorOf, lenOf])).trans ?_
  simp [decVLoad, noLa, lenOf, extZero, memFields, offField, copyP4, need, *]

theorem RoundTrip.vstp (am : BitVec 2) (w : Cls) (b : Sel) (v : VReg) : Statement (.vstp am w b v) := by
  intro _ hw
  have hw : (w.vector) = true := hw
  try simp [memFields, offField, copyP4, rmOf, convFields] at hw
  show decode ([encM 0x26 am w b.code (v7 v) 0 0]) = .ok (.vstp am w b v)
  refine (decode_len0 38 3 (by simp [majorOf, lenOf]) (by simp [majorOf, lenOf]) rfl rfl).trans ?_
  refine (decodeMajor_26 (by simp [majorOf, lenOf])).trans ?_
  simp [decVStore, noLa, lenOf, extZero, memFields, offField, copyP4, need, *]

theorem RoundTrip.vstpExt (am : BitVec 2) (w : Cls) (b : Sel) (v : VReg) (o : BitVec 48) (i : Sel) : Statement (.vstpExt am w b v o i) := by
  intro _ hw
  have hw : (w.vector && offField am o) = true := hw
  try simp [memFields, offField, copyP4, rmOf, convFields] at hw
  show decode (encM 0x26 am w b.code (v7 v) 0 1 :: two (extM 0 o i.code)) = .ok (.vstpExt am w b v o i)
  refine (decode_len1 38 3 (by simp [majorOf, lenOf]) (by simp [majorOf, lenOf]) rfl rfl).trans ?_
  refine (decodeMajor_26 (by simp [majorOf, lenOf])).trans ?_
  simp [decVStore, noLa, lenOf, extZero, memFields, offField, copyP4, need, *]

theorem RoundTrip.vldg (am : BitVec 2) (w : Cls) (b : Sel) (v : VReg) (la : BitVec 4) : Statement (.vldg am w b v la) := by
  intro _ hw
  have hw : (w.vector) = true := hw
  try simp [memFields, offField, copyP4, rmOf, convFields] at hw
  show decode ([encM 0x27 am w b.code (v7 v) la 0]) = .ok (.vldg am w b v la)
  refine (decode_len0 39 3 (by simp [majorOf, lenOf]) (by simp [majorOf, lenOf]) rfl rfl).trans ?_
  refine (decodeMajor_27 (by simp [majorOf, lenOf])).trans ?_
  simp [decVLoad, noLa, lenOf, extZero, memFields, offField, copyP4, need, *]

theorem RoundTrip.vldgExt (am : BitVec 2) (w : Cls) (b : Sel) (v : VReg) (la : BitVec 4) (o : BitVec 48) : Statement (.vldgExt am w b v la o) := by
  intro _ hw
  have hw : (w.vector && offField am o) = true := hw
  try simp [memFields, offField, copyP4, rmOf, convFields] at hw
  show decode (encM 0x27 am w b.code (v7 v) la 1 :: two (extM 0 o 0)) = .ok (.vldgExt am w b v la o)
  refine (decode_len1 39 3 (by simp [majorOf, lenOf]) (by simp [majorOf, lenOf]) rfl rfl).trans ?_
  refine (decodeMajor_27 (by simp [majorOf, lenOf])).trans ?_
  simp [decVLoad, noLa, lenOf, extZero, memFields, offField, copyP4, need, *]

theorem RoundTrip.vstg (am : BitVec 2) (w : Cls) (b : Sel) (v : VReg) : Statement (.vstg am w b v) := by
  intro _ hw
  have hw : (w.vector) = true := hw
  try simp [memFields, offField, copyP4, rmOf, convFields] at hw
  show decode ([encM 0x28 am w b.code (v7 v) 0 0]) = .ok (.vstg am w b v)
  refine (decode_len0 40 3 (by simp [majorOf, lenOf]) (by simp [majorOf, lenOf]) rfl rfl).trans ?_
  refine (decodeMajor_28 (by simp [majorOf, lenOf])).trans ?_
  simp [decVStore, noLa, lenOf, extZero, memFields, offField, copyP4, need, *]

theorem RoundTrip.vstgExt (am : BitVec 2) (w : Cls) (b : Sel) (v : VReg) (o : BitVec 48) (i : Sel) : Statement (.vstgExt am w b v o i) := by
  intro _ hw
  have hw : (w.vector && offField am o) = true := hw
  try simp [memFields, offField, copyP4, rmOf, convFields] at hw
  show decode (encM 0x28 am w b.code (v7 v) 0 1 :: two (extM 0 o i.code)) = .ok (.vstgExt am w b v o i)
  refine (decode_len1 40 3 (by simp [majorOf, lenOf]) (by simp [majorOf, lenOf]) rfl rfl).trans ?_
  refine (decodeMajor_28 (by simp [majorOf, lenOf])).trans ?_
  simp [decVStore, noLa, lenOf, extZero, memFields, offField, copyP4, need, *]

theorem RoundTrip.vgath (w : Cls) (b : Sel) (v : VReg) (la : BitVec 4) (o : BitVec 48) (i : Sel) : Statement (.vgath w b v la o i) := by
  intro _ hw
  have hw : (w.scalar) = true := hw
  try simp [memFields, offField, copyP4, rmOf, convFields] at hw
  show decode (encM 0x29 0 w b.code (v7 v) la 1 :: two (extM 0 o i.code)) = .ok (.vgath w b v la o i)
  refine (decode_len1 41 3 (by simp [majorOf, lenOf]) (by simp [majorOf, lenOf]) rfl rfl).trans ?_
  refine (decodeMajor_29 (by simp [majorOf, lenOf])).trans ?_
  simp [decVIndexed, noLa, lenOf, extZero, memFields, offField, copyP4, need, *]

theorem RoundTrip.vscat (w : Cls) (b : Sel) (v : VReg) (o : BitVec 48) (i : Sel) : Statement (.vscat w b v o i) := by
  intro _ hw
  have hw : (w.scalar) = true := hw
  try simp [memFields, offField, copyP4, rmOf, convFields] at hw
  show decode (encM 0x2A 0 w b.code (v7 v) 0 1 :: two (extM 0 o i.code)) = .ok (.vscat w b v o i)
  refine (decode_len1 42 3 (by simp [majorOf, lenOf]) (by simp [majorOf, lenOf]) rfl rfl).trans ?_
  refine (decodeMajor_2A (by simp [majorOf, lenOf])).trans ?_
  simp [decVIndexed, noLa, lenOf, extZero, memFields, offField, copyP4, need, *]

theorem RoundTrip.iold (am : BitVec 2) (w : Cls) (b : Sel) (d : Sel) (la : BitVec 4) : Statement (.iold am w b d la) := by
  intro _ hw
  have hw : (w.io && d.writable) = true := hw
  try simp [memFields, offField, copyP4, rmOf, convFields] at hw
  show decode ([encM 0x2B am w b.code d.code la 0]) = .ok (.iold am w b d la)
  refine (decode_len0 43 3 (by simp [majorOf, lenOf]) (by simp [majorOf, lenOf]) rfl rfl).trans ?_
  refine (decodeMajor_2B (by simp [majorOf, lenOf])).trans ?_
  simp [decIo, noLa, lenOf, extZero, memFields, offField, copyP4, need, *]

theorem RoundTrip.ioldExt (am : BitVec 2) (w : Cls) (b : Sel) (d : Sel) (la : BitVec 4) (o : BitVec 48) (i : Sel) : Statement (.ioldExt am w b d la o i) := by
  intro _ hw
  have hw : (w.io && d.writable && memFields am o i) = true := hw
  try simp [memFields, offField, copyP4, rmOf, convFields] at hw
  show decode (encM 0x2B am w b.code d.code la 1 :: two (extM 0 o i.code)) = .ok (.ioldExt am w b d la o i)
  refine (decode_len1 43 3 (by simp [majorOf, lenOf]) (by simp [majorOf, lenOf]) rfl rfl).trans ?_
  refine (decodeMajor_2B (by simp [majorOf, lenOf])).trans ?_
  simp [decIo, noLa, lenOf, extZero, memFields, offField, copyP4, need, *]

theorem RoundTrip.iost (am : BitVec 2) (w : Cls) (b : Sel) (s : Sel) (o : BitVec 48) (i : Sel) : Statement (.iost am w b s o i) := by
  intro _ hw
  have hw : (w.io && memFields am o i) = true := hw
  try simp [memFields, offField, copyP4, rmOf, convFields] at hw
  show decode (encM 0x2B am w b.code s.code 0 1 :: two (extM 1 o i.code)) = .ok (.iost am w b s o i)
  refine (decode_len1 43 3 (by simp [majorOf, lenOf]) (by simp [majorOf, lenOf]) rfl rfl).trans ?_
  refine (decodeMajor_2B (by simp [majorOf, lenOf])).trans ?_
  simp [decIo, noLa, lenOf, extZero, memFields, offField, copyP4, need, *]

theorem RoundTrip.fence  : Statement (.fence) := by
  intro _ hw
  show decode ([encU 45 0 0 0 0 0]) = .ok (.fence)
  refine (decode_len0 45 1 (by simp [majorOf, lenOf]) (by simp [majorOf, lenOf]) rfl rfl).trans ?_
  refine (decodeMajor_2D (by simp [majorOf, lenOf])).trans ?_
  simp [decFence, noLa, lenOf, extZero, memFields, offField, copyP4, need, *]

theorem RoundTrip.fencep  : Statement (.fencep) := by
  intro _ hw
  show decode ([encU 45 1 0 0 0 0]) = .ok (.fencep)
  refine (decode_len0 45 1 (by simp [majorOf, lenOf]) (by simp [majorOf, lenOf]) rfl rfl).trans ?_
  refine (decodeMajor_2D (by simp [majorOf, lenOf])).trans ?_
  simp [decFence, noLa, lenOf, extZero, memFields, offField, copyP4, need, *]

theorem RoundTrip.fenceio  : Statement (.fenceio) := by
  intro _ hw
  show decode ([encU 45 2 0 0 0 0]) = .ok (.fenceio)
  refine (decode_len0 45 1 (by simp [majorOf, lenOf]) (by simp [majorOf, lenOf]) rfl rfl).trans ?_
  refine (decodeMajor_2D (by simp [majorOf, lenOf])).trans ?_
  simp [decFence, noLa, lenOf, extZero, memFields, offField, copyP4, need, *]

theorem RoundTrip.drain  : Statement (.drain) := by
  intro _ hw
  show decode ([encU 45 3 0 0 0 0]) = .ok (.drain)
  refine (decode_len0 45 1 (by simp [majorOf, lenOf]) (by simp [majorOf, lenOf]) rfl rfl).trans ?_
  refine (decodeMajor_2D (by simp [majorOf, lenOf])).trans ?_
  simp [decFence, noLa, lenOf, extZero, memFields, offField, copyP4, need, *]

theorem RoundTrip.cpy (t : BitVec 6) (la : BitVec 4) (a : Sel) (b : Sel) (c : Sel) (e : Sel) (f : CopyFlags) : Statement (.cpy t la a b c e f) := by
  intro _ hw
  have hw : (copyP4 e f) = true := hw
  try simp [memFields, offField, copyP4, rmOf, convFields] at hw
  show decode (encE 44 0 (g7 t) a.code la :: two (extE f.code b.code c.code e.code 0)) = .ok (.cpy t la a b c e f)
  refine (decode_len1 44 2 (by simp [majorOf, lenOf]) (by simp [majorOf, lenOf]) rfl rfl).trans ?_
  refine (decodeMajor_2C (by simp [majorOf, lenOf])).trans ?_
  simp [decCopy, copyFlagsK, noLa, lenOf, extZero, memFields, offField, copyP4, need, *]
  all_goals grind [Ty.isInt]

theorem RoundTrip.cpym (t : BitVec 6) (la : BitVec 4) (a : Sel) (b : Sel) (c : Sel) (e : Sel) (m : Sel) (f : CopyFlags) : Statement (.cpym t la a b c e m f) := by
  intro _ hw
  have hw : (copyP4 e f) = true := hw
  try simp [memFields, offField, copyP4, rmOf, convFields] at hw
  show decode (encE 44 1 (g7 t) a.code la :: two (extE f.code b.code c.code e.code m.code)) = .ok (.cpym t la a b c e m f)
  refine (decode_len1 44 2 (by simp [majorOf, lenOf]) (by simp [majorOf, lenOf]) rfl rfl).trans ?_
  refine (decodeMajor_2C (by simp [majorOf, lenOf])).trans ?_
  simp [decCopy, copyFlagsK, noLa, lenOf, extZero, memFields, offField, copyP4, need, *]
  all_goals grind [Ty.isInt]

theorem RoundTrip.cpyr (t : BitVec 6) (la : BitVec 4) (a : Sel) (b : Sel) (c : Sel) (e : Sel) (f : CopyFlags) : Statement (.cpyr t la a b c e f) := by
  intro _ hw
  have hw : (copyP4 e f && f.dfmt.isReduce) = true := hw
  try simp [memFields, offField, copyP4, rmOf, convFields] at hw
  show decode (encE 44 2 (g7 t) a.code la :: two (extE f.code b.code c.code e.code 0)) = .ok (.cpyr t la a b c e f)
  refine (decode_len1 44 2 (by simp [majorOf, lenOf]) (by simp [majorOf, lenOf]) rfl rfl).trans ?_
  refine (decodeMajor_2C (by simp [majorOf, lenOf])).trans ?_
  simp [decCopy, copyFlagsK, noLa, lenOf, extZero, memFields, offField, copyP4, need, *]
  all_goals grind [Ty.isInt]

theorem RoundTrip.cpys (t : BitVec 6) (la : BitVec 4) (s : BitVec 7) (b : Sel) (c : Sel) (e : Sel) (o : Sel) (f : CopyFlags) : Statement (.cpys t la s b c e o f) := by
  intro _ hw
  have hw : (copyP4 e f && !f.dsp) = true := hw
  try simp [memFields, offField, copyP4, rmOf, convFields] at hw
  have he : (⟨f.sat, f.rm, false, f.ssp, f.dfmt, f.sfmt⟩ : CopyFlags) = f := by cases f; simp_all
  show decode (encE 44 3 (g7 t) s la :: two (extE f.code b.code c.code e.code o.code)) = .ok (.cpys t la s b c e o f)
  refine (decode_len1 44 2 (by simp [majorOf, lenOf]) (by simp [majorOf, lenOf]) rfl rfl).trans ?_
  refine (decodeMajor_2C (by simp [majorOf, lenOf])).trans ?_
  simp [decCopy, copyFlagsK, noLa, lenOf, extZero, memFields, offField, copyP4, need, *]
  all_goals grind [Ty.isInt]

theorem RoundTrip.cpyc (t : BitVec 6) (la : BitVec 4) (a : Sel) (b : Sel) (c : Sel) (e : Sel) (dsp : Bool) (ssp : Bool) (kind : Bool) : Statement (.cpyc t la a b c e dsp ssp kind) := by
  intro _ hw
  show decode (encE 44 4 (g7 t) a.code la :: two (extE (crcFlags dsp ssp kind) b.code c.code e.code 0)) = .ok (.cpyc t la a b c e dsp ssp kind)
  refine (decode_len1 44 2 (by simp [majorOf, lenOf]) (by simp [majorOf, lenOf]) rfl rfl).trans ?_
  refine (decodeMajor_2C (by simp [majorOf, lenOf])).trans ?_
  simp [decCopy, copyFlagsK, noLa, lenOf, extZero, memFields, offField, copyP4, need, *]

theorem RoundTrip.cpyz (t : BitVec 6) (la : BitVec 4) (a : Sel) (b : Sel) (c : Sel) (e : Sel) (dsp : Bool) (ssp : Bool) (kind : Bool) : Statement (.cpyz t la a b c e dsp ssp kind) := by
  intro _ hw
  show decode (encE 44 5 (g7 t) a.code la :: two (extE (crcFlags dsp ssp kind) b.code c.code e.code 0)) = .ok (.cpyz t la a b c e dsp ssp kind)
  refine (decode_len1 44 2 (by simp [majorOf, lenOf]) (by simp [majorOf, lenOf]) rfl rfl).trans ?_
  refine (decodeMajor_2C (by simp [majorOf, lenOf])).trans ?_
  simp [decCopy, copyFlagsK, noLa, lenOf, extZero, memFields, offField, copyP4, need, *]

theorem RoundTrip.tpoll (d : Sel) (t : BitVec 6) (la : BitVec 4) : Statement (.tpoll d t la) := by
  intro _ hw
  have hw : (d.writable) = true := hw
  try simp [memFields, offField, copyP4, rmOf, convFields] at hw
  show decode (encE 44 6 d.code (g7 t) la :: two 0) = .ok (.tpoll d t la)
  refine (decode_len1 44 2 (by simp [majorOf, lenOf]) (by simp [majorOf, lenOf]) rfl rfl).trans ?_
  refine (decodeMajor_2C (by simp [majorOf, lenOf])).trans ?_
  simp [decCopy, copyFlagsK, noLa, lenOf, extZero, memFields, offField, copyP4, need, *]

theorem RoundTrip.twaita (d : Sel) (m : Sel) (any : Bool) (la : BitVec 4) : Statement (.twaita d m any la) := by
  intro _ hw
  have hw : (d.writable) = true := hw
  try simp [memFields, offField, copyP4, rmOf, convFields] at hw
  show decode (encE 44 7 d.code m.code la :: two (extE (0#35 ++ BitVec.ofBool any) 0 0 0 0)) = .ok (.twaita d m any la)
  refine (decode_len1 44 2 (by simp [majorOf, lenOf]) (by simp [majorOf, lenOf]) rfl rfl).trans ?_
  refine (decodeMajor_2C (by simp [majorOf, lenOf])).trans ?_
  simp [decCopy, copyFlagsK, noLa, lenOf, extZero, memFields, offField, copyP4, need, *]

theorem RoundTrip.vadd (t : Ty) (k : MReg) (d : VReg) (a : VReg) (b : VReg) (rm : Rm) : Statement (.vadd t k d a b rm) := by
  intro _ hw
  have hw : (t.hasLanes && rmOf t rm) = true := hw
  try simp [memFields, offField, copyP4, rmOf, convFields] at hw
  show decode ((encV 0x30 t.code k b a d) :: two (VExt.word { fn := 0, rm := rm.code })) = .ok (.vadd t k d a b rm)
  refine (decode_len1 48 2 (by simp [majorOf, lenOf]) (by simp [majorOf, lenOf]) rfl rfl).trans ?_
  refine (decodeMajor_30 (by simp [majorOf, lenOf])).trans ?_
  simp [decVArith, vFields, vRmOk, vSatOk, vConvOk, vZero, vT, vK, vA, vB, vD, vDm, vAm, vBm, xC, xT2, xSat, xRm, xLane, xSsel, xOp, xGrp, xTbl, need, *]
  all_goals grind [Ty.isInt]

theorem RoundTrip.vsub (t : Ty) (k : MReg) (d : VReg) (a : VReg) (b : VReg) (rm : Rm) : Statement (.vsub t k d a b rm) := by
  intro _ hw
  have hw : (t.hasLanes && rmOf t rm) = true := hw
  try simp [memFields, offField, copyP4, rmOf, convFields] at hw
  show decode ((encV 0x30 t.code k b a d) :: two (VExt.word { fn := 1, rm := rm.code })) = .ok (.vsub t k d a b rm)
  refine (decode_len1 48 2 (by simp [majorOf, lenOf]) (by simp [majorOf, lenOf]) rfl rfl).trans ?_
  refine (decodeMajor_30 (by simp [majorOf, lenOf])).trans ?_
  simp [decVArith, vFields, vRmOk, vSatOk, vConvOk, vZero, vT, vK, vA, vB, vD, vDm, vAm, vBm, xC, xT2, xSat, xRm, xLane, xSsel, xOp, xGrp, xTbl, need, *]
  all_goals grind [Ty.isInt]

theorem RoundTrip.vmul (t : Ty) (k : MReg) (d : VReg) (a : VReg) (b : VReg) (rm : Rm) : Statement (.vmul t k d a b rm) := by
  intro _ hw
  have hw : (t.hasLanes && rmOf t rm) = true := hw
  try simp [memFields, offField, copyP4, rmOf, convFields] at hw
  show decode ((encV 0x30 t.code k b a d) :: two (VExt.word { fn := 2, rm := rm.code })) = .ok (.vmul t k d a b rm)
  refine (decode_len1 48 2 (by simp [majorOf, lenOf]) (by simp [majorOf, lenOf]) rfl rfl).trans ?_
  refine (decodeMajor_30 (by simp [majorOf, lenOf])).trans ?_
  simp [decVArith, vFields, vRmOk, vSatOk, vConvOk, vZero, vT, vK, vA, vB, vD, vDm, vAm, vBm, xC, xT2, xSat, xRm, xLane, xSsel, xOp, xGrp, xTbl, need, *]
  all_goals grind [Ty.isInt]

theorem RoundTrip.vfma (t : Ty) (k : MReg) (d : VReg) (a : VReg) (b : VReg) (c : VReg) (rm : Rm) : Statement (.vfma t k d a b c rm) := by
  intro _ hw
  have hw : (t.hasLanes && rmOf t rm) = true := hw
  try simp [memFields, offField, copyP4, rmOf, convFields] at hw
  show decode ((encV 0x30 t.code k b a d) :: two (VExt.word { fn := 3, rm := rm.code, c := c })) = .ok (.vfma t k d a b c rm)
  refine (decode_len1 48 2 (by simp [majorOf, lenOf]) (by simp [majorOf, lenOf]) rfl rfl).trans ?_
  refine (decodeMajor_30 (by simp [majorOf, lenOf])).trans ?_
  simp [decVArith, vFields, vRmOk, vSatOk, vConvOk, vZero, vT, vK, vA, vB, vD, vDm, vAm, vBm, xC, xT2, xSat, xRm, xLane, xSsel, xOp, xGrp, xTbl, need, *]
  all_goals grind [Ty.isInt]

theorem RoundTrip.vfms (t : Ty) (k : MReg) (d : VReg) (a : VReg) (b : VReg) (c : VReg) (rm : Rm) : Statement (.vfms t k d a b c rm) := by
  intro _ hw
  have hw : (t.hasLanes && rmOf t rm) = true := hw
  try simp [memFields, offField, copyP4, rmOf, convFields] at hw
  show decode ((encV 0x30 t.code k b a d) :: two (VExt.word { fn := 4, rm := rm.code, c := c })) = .ok (.vfms t k d a b c rm)
  refine (decode_len1 48 2 (by simp [majorOf, lenOf]) (by simp [majorOf, lenOf]) rfl rfl).trans ?_
  refine (decodeMajor_30 (by simp [majorOf, lenOf])).trans ?_
  simp [decVArith, vFields, vRmOk, vSatOk, vConvOk, vZero, vT, vK, vA, vB, vD, vDm, vAm, vBm, xC, xT2, xSat, xRm, xLane, xSsel, xOp, xGrp, xTbl, need, *]
  all_goals grind [Ty.isInt]

theorem RoundTrip.vmin (t : Ty) (k : MReg) (d : VReg) (a : VReg) (b : VReg) : Statement (.vmin t k d a b) := by
  intro _ hw
  have hw : (t.hasLanes) = true := hw
  try simp [memFields, offField, copyP4, rmOf, convFields] at hw
  show decode ((encV 0x30 t.code k b a d) :: two (VExt.word { fn := 5 })) = .ok (.vmin t k d a b)
  refine (decode_len1 48 2 (by simp [majorOf, lenOf]) (by simp [majorOf, lenOf]) rfl rfl).trans ?_
  refine (decodeMajor_30 (by simp [majorOf, lenOf])).trans ?_
  simp [decVArith, vFields, vRmOk, vSatOk, vConvOk, vZero, vT, vK, vA, vB, vD, vDm, vAm, vBm, xC, xT2, xSat, xRm, xLane, xSsel, xOp, xGrp, xTbl, need, *]

theorem RoundTrip.vmax (t : Ty) (k : MReg) (d : VReg) (a : VReg) (b : VReg) : Statement (.vmax t k d a b) := by
  intro _ hw
  have hw : (t.hasLanes) = true := hw
  try simp [memFields, offField, copyP4, rmOf, convFields] at hw
  show decode ((encV 0x30 t.code k b a d) :: two (VExt.word { fn := 6 })) = .ok (.vmax t k d a b)
  refine (decode_len1 48 2 (by simp [majorOf, lenOf]) (by simp [majorOf, lenOf]) rfl rfl).trans ?_
  refine (decodeMajor_30 (by simp [majorOf, lenOf])).trans ?_
  simp [decVArith, vFields, vRmOk, vSatOk, vConvOk, vZero, vT, vK, vA, vB, vD, vDm, vAm, vBm, xC, xT2, xSat, xRm, xLane, xSsel, xOp, xGrp, xTbl, need, *]

theorem RoundTrip.vminn (t : Ty) (k : MReg) (d : VReg) (a : VReg) (b : VReg) : Statement (.vminn t k d a b) := by
  intro _ hw
  have hw : (t.isVFloat) = true := hw
  try simp [memFields, offField, copyP4, rmOf, convFields] at hw
  show decode ((encV 0x30 t.code k b a d) :: two (VExt.word { fn := 7 })) = .ok (.vminn t k d a b)
  refine (decode_len1 48 2 (by simp [majorOf, lenOf]) (by simp [majorOf, lenOf]) rfl rfl).trans ?_
  refine (decodeMajor_30 (by simp [majorOf, lenOf])).trans ?_
  simp [decVArith, vFields, vRmOk, vSatOk, vConvOk, vZero, vT, vK, vA, vB, vD, vDm, vAm, vBm, xC, xT2, xSat, xRm, xLane, xSsel, xOp, xGrp, xTbl, need, *]

theorem RoundTrip.vmaxn (t : Ty) (k : MReg) (d : VReg) (a : VReg) (b : VReg) : Statement (.vmaxn t k d a b) := by
  intro _ hw
  have hw : (t.isVFloat) = true := hw
  try simp [memFields, offField, copyP4, rmOf, convFields] at hw
  show decode ((encV 0x30 t.code k b a d) :: two (VExt.word { fn := 8 })) = .ok (.vmaxn t k d a b)
  refine (decode_len1 48 2 (by simp [majorOf, lenOf]) (by simp [majorOf, lenOf]) rfl rfl).trans ?_
  refine (decodeMajor_30 (by simp [majorOf, lenOf])).trans ?_
  simp [decVArith, vFields, vRmOk, vSatOk, vConvOk, vZero, vT, vK, vA, vB, vD, vDm, vAm, vBm, xC, xT2, xSat, xRm, xLane, xSsel, xOp, xGrp, xTbl, need, *]

theorem RoundTrip.vabs (t : Ty) (k : MReg) (d : VReg) (a : VReg) (sat : Bool) : Statement (.vabs t k d a sat) := by
  intro _ hw
  have hw : (t.hasLanes && (t.isInt || !sat)) = true := hw
  try simp [memFields, offField, copyP4, rmOf, convFields] at hw
  show decode ((encV 0x30 t.code k 0 a d) :: two (VExt.word { fn := 9, sat := sat })) = .ok (.vabs t k d a sat)
  refine (decode_len1 48 2 (by simp [majorOf, lenOf]) (by simp [majorOf, lenOf]) rfl rfl).trans ?_
  refine (decodeMajor_30 (by simp [majorOf, lenOf])).trans ?_
  simp [decVArith, vFields, vRmOk, vSatOk, vConvOk, vZero, vT, vK, vA, vB, vD, vDm, vAm, vBm, xC, xT2, xSat, xRm, xLane, xSsel, xOp, xGrp, xTbl, need, *]

theorem RoundTrip.vneg (t : Ty) (k : MReg) (d : VReg) (a : VReg) (sat : Bool) : Statement (.vneg t k d a sat) := by
  intro _ hw
  have hw : (t.hasLanes && (t.isInt || !sat)) = true := hw
  try simp [memFields, offField, copyP4, rmOf, convFields] at hw
  show decode ((encV 0x30 t.code k 0 a d) :: two (VExt.word { fn := 10, sat := sat })) = .ok (.vneg t k d a sat)
  refine (decode_len1 48 2 (by simp [majorOf, lenOf]) (by simp [majorOf, lenOf]) rfl rfl).trans ?_
  refine (decodeMajor_30 (by simp [majorOf, lenOf])).trans ?_
  simp [decVArith, vFields, vRmOk, vSatOk, vConvOk, vZero, vT, vK, vA, vB, vD, vDm, vAm, vBm, xC, xT2, xSat, xRm, xLane, xSsel, xOp, xGrp, xTbl, need, *]

theorem RoundTrip.vadds (t : Ty) (k : MReg) (d : VReg) (a : VReg) (b : VReg) : Statement (.vadds t k d a b) := by
  intro _ hw
  have hw : (t.isInt) = true := hw
  try simp [memFields, offField, copyP4, rmOf, convFields] at hw
  show decode ((encV 0x30 t.code k b a d) :: two (VExt.word { fn := 11 })) = .ok (.vadds t k d a b)
  refine (decode_len1 48 2 (by simp [majorOf, lenOf]) (by simp [majorOf, lenOf]) rfl rfl).trans ?_
  refine (decodeMajor_30 (by simp [majorOf, lenOf])).trans ?_
  simp [decVArith, vFields, vRmOk, vSatOk, vConvOk, vZero, vT, vK, vA, vB, vD, vDm, vAm, vBm, xC, xT2, xSat, xRm, xLane, xSsel, xOp, xGrp, xTbl, need, *]

theorem RoundTrip.vsubs (t : Ty) (k : MReg) (d : VReg) (a : VReg) (b : VReg) : Statement (.vsubs t k d a b) := by
  intro _ hw
  have hw : (t.isInt) = true := hw
  try simp [memFields, offField, copyP4, rmOf, convFields] at hw
  show decode ((encV 0x30 t.code k b a d) :: two (VExt.word { fn := 12 })) = .ok (.vsubs t k d a b)
  refine (decode_len1 48 2 (by simp [majorOf, lenOf]) (by simp [majorOf, lenOf]) rfl rfl).trans ?_
  refine (decodeMajor_30 (by simp [majorOf, lenOf])).trans ?_
  simp [decVArith, vFields, vRmOk, vSatOk, vConvOk, vZero, vT, vK, vA, vB, vD, vDm, vAm, vBm, xC, xT2, xSat, xRm, xLane, xSsel, xOp, xGrp, xTbl, need, *]

theorem RoundTrip.vmulh (t : Ty) (k : MReg) (d : VReg) (a : VReg) (b : VReg) : Statement (.vmulh t k d a b) := by
  intro _ hw
  have hw : (t.isInt) = true := hw
  try simp [memFields, offField, copyP4, rmOf, convFields] at hw
  show decode ((encV 0x30 t.code k b a d) :: two (VExt.word { fn := 13 })) = .ok (.vmulh t k d a b)
  refine (decode_len1 48 2 (by simp [majorOf, lenOf]) (by simp [majorOf, lenOf]) rfl rfl).trans ?_
  refine (decodeMajor_30 (by simp [majorOf, lenOf])).trans ?_
  simp [decVArith, vFields, vRmOk, vSatOk, vConvOk, vZero, vT, vK, vA, vB, vD, vDm, vAm, vBm, xC, xT2, xSat, xRm, xLane, xSsel, xOp, xGrp, xTbl, need, *]

theorem RoundTrip.vand (t : Ty) (k : MReg) (d : VReg) (a : VReg) (b : VReg) : Statement (.vand t k d a b) := by
  intro _ hw
  have hw : (t.isInt) = true := hw
  try simp [memFields, offField, copyP4, rmOf, convFields] at hw
  show decode ((encV 0x31 t.code k b a d) :: two (VExt.word { fn := 0 })) = .ok (.vand t k d a b)
  refine (decode_len1 49 2 (by simp [majorOf, lenOf]) (by simp [majorOf, lenOf]) rfl rfl).trans ?_
  refine (decodeMajor_31 (by simp [majorOf, lenOf])).trans ?_
  simp [decVLogic, vFields, vRmOk, vSatOk, vConvOk, vZero, vT, vK, vA, vB, vD, vDm, vAm, vBm, xC, xT2, xSat, xRm, xLane, xSsel, xOp, xGrp, xTbl, need, *]

theorem RoundTrip.vor (t : Ty) (k : MReg) (d : VReg) (a : VReg) (b : VReg) : Statement (.vor t k d a b) := by
  intro _ hw
  have hw : (t.isInt) = true := hw
  try simp [memFields, offField, copyP4, rmOf, convFields] at hw
  show decode ((encV 0x31 t.code k b a d) :: two (VExt.word { fn := 1 })) = .ok (.vor t k d a b)
  refine (decode_len1 49 2 (by simp [majorOf, lenOf]) (by simp [majorOf, lenOf]) rfl rfl).trans ?_
  refine (decodeMajor_31 (by simp [majorOf, lenOf])).trans ?_
  simp [decVLogic, vFields, vRmOk, vSatOk, vConvOk, vZero, vT, vK, vA, vB, vD, vDm, vAm, vBm, xC, xT2, xSat, xRm, xLane, xSsel, xOp, xGrp, xTbl, need, *]

theorem RoundTrip.vxor (t : Ty) (k : MReg) (d : VReg) (a : VReg) (b : VReg) : Statement (.vxor t k d a b) := by
  intro _ hw
  have hw : (t.isInt) = true := hw
  try simp [memFields, offField, copyP4, rmOf, convFields] at hw
  show decode ((encV 0x31 t.code k b a d) :: two (VExt.word { fn := 2 })) = .ok (.vxor t k d a b)
  refine (decode_len1 49 2 (by simp [majorOf, lenOf]) (by simp [majorOf, lenOf]) rfl rfl).trans ?_
  refine (decodeMajor_31 (by simp [majorOf, lenOf])).trans ?_
  simp [decVLogic, vFields, vRmOk, vSatOk, vConvOk, vZero, vT, vK, vA, vB, vD, vDm, vAm, vBm, xC, xT2, xSat, xRm, xLane, xSsel, xOp, xGrp, xTbl, need, *]

theorem RoundTrip.vandn (t : Ty) (k : MReg) (d : VReg) (a : VReg) (b : VReg) : Statement (.vandn t k d a b) := by
  intro _ hw
  have hw : (t.isInt) = true := hw
  try simp [memFields, offField, copyP4, rmOf, convFields] at hw
  show decode ((encV 0x31 t.code k b a d) :: two (VExt.word { fn := 3 })) = .ok (.vandn t k d a b)
  refine (decode_len1 49 2 (by simp [majorOf, lenOf]) (by simp [majorOf, lenOf]) rfl rfl).trans ?_
  refine (decodeMajor_31 (by simp [majorOf, lenOf])).trans ?_
  simp [decVLogic, vFields, vRmOk, vSatOk, vConvOk, vZero, vT, vK, vA, vB, vD, vDm, vAm, vBm, xC, xT2, xSat, xRm, xLane, xSsel, xOp, xGrp, xTbl, need, *]

theorem RoundTrip.vnot (t : Ty) (k : MReg) (d : VReg) (a : VReg) : Statement (.vnot t k d a) := by
  intro _ hw
  have hw : (t.isInt) = true := hw
  try simp [memFields, offField, copyP4, rmOf, convFields] at hw
  show decode ((encV 0x31 t.code k 0 a d) :: two (VExt.word { fn := 4 })) = .ok (.vnot t k d a)
  refine (decode_len1 49 2 (by simp [majorOf, lenOf]) (by simp [majorOf, lenOf]) rfl rfl).trans ?_
  refine (decodeMajor_31 (by simp [majorOf, lenOf])).trans ?_
  simp [decVLogic, vFields, vRmOk, vSatOk, vConvOk, vZero, vT, vK, vA, vB, vD, vDm, vAm, vBm, xC, xT2, xSat, xRm, xLane, xSsel, xOp, xGrp, xTbl, need, *]

theorem RoundTrip.vshl (t : Ty) (k : MReg) (d : VReg) (a : VReg) (amt : VAmt) : Statement (.vshl t k d a amt) := by
  intro _ hw
  have hw : (t.isInt) = true := hw
  try simp [memFields, offField, copyP4, rmOf, convFields] at hw
  cases amt with
  | reg b =>
    show decode ((encV 0x31 t.code k b a d) :: two (VExt.word { fn := 5 })) = .ok (.vshl t k d a (.reg b))
    refine (decode_len1 49 2 (by simp [majorOf, lenOf]) (by simp [majorOf, lenOf]) rfl rfl).trans ?_
    refine (decodeMajor_31 (by simp [majorOf, lenOf])).trans ?_
    simp [decVLogic, vFields, vRmOk, vSatOk, vConvOk, vZero, vT, vK, vA, vB, vD, vDm, vAm, vBm, xC, xT2, xSat, xRm, xLane, xSsel, xOp, xGrp, xTbl, need, *]
  | imm n =>
    show decode ((encV 0x31 t.code k 0 a d) :: two (VExt.word { fn := 5, flag := true, lane := 0#4 ++ n })) = .ok (.vshl t k d a (.imm n))
    refine (decode_len1 49 2 (by simp [majorOf, lenOf]) (by simp [majorOf, lenOf]) rfl rfl).trans ?_
    refine (decodeMajor_31 (by simp [majorOf, lenOf])).trans ?_
    simp [decVLogic, vFields, vRmOk, vSatOk, vConvOk, vZero, vT, vK, vA, vB, vD, vDm, vAm, vBm, xC, xT2, xSat, xRm, xLane, xSsel, xOp, xGrp, xTbl, need, *]

theorem RoundTrip.vshr (t : Ty) (k : MReg) (d : VReg) (a : VReg) (amt : VAmt) : Statement (.vshr t k d a amt) := by
  intro _ hw
  have hw : (t.isInt) = true := hw
  try simp [memFields, offField, copyP4, rmOf, convFields] at hw
  cases amt with
  | reg b =>
    show decode ((encV 0x31 t.code k b a d) :: two (VExt.word { fn := 6 })) = .ok (.vshr t k d a (.reg b))
    refine (decode_len1 49 2 (by simp [majorOf, lenOf]) (by simp [majorOf, lenOf]) rfl rfl).trans ?_
    refine (decodeMajor_31 (by simp [majorOf, lenOf])).trans ?_
    simp [decVLogic, vFields, vRmOk, vSatOk, vConvOk, vZero, vT, vK, vA, vB, vD, vDm, vAm, vBm, xC, xT2, xSat, xRm, xLane, xSsel, xOp, xGrp, xTbl, need, *]
  | imm n =>
    show decode ((encV 0x31 t.code k 0 a d) :: two (VExt.word { fn := 6, flag := true, lane := 0#4 ++ n })) = .ok (.vshr t k d a (.imm n))
    refine (decode_len1 49 2 (by simp [majorOf, lenOf]) (by simp [majorOf, lenOf]) rfl rfl).trans ?_
    refine (decodeMajor_31 (by simp [majorOf, lenOf])).trans ?_
    simp [decVLogic, vFields, vRmOk, vSatOk, vConvOk, vZero, vT, vK, vA, vB, vD, vDm, vAm, vBm, xC, xT2, xSat, xRm, xLane, xSsel, xOp, xGrp, xTbl, need, *]

theorem RoundTrip.vshra (t : Ty) (k : MReg) (d : VReg) (a : VReg) (amt : VAmt) : Statement (.vshra t k d a amt) := by
  intro _ hw
  have hw : (t.isInt) = true := hw
  try simp [memFields, offField, copyP4, rmOf, convFields] at hw
  cases amt with
  | reg b =>
    show decode ((encV 0x31 t.code k b a d) :: two (VExt.word { fn := 7 })) = .ok (.vshra t k d a (.reg b))
    refine (decode_len1 49 2 (by simp [majorOf, lenOf]) (by simp [majorOf, lenOf]) rfl rfl).trans ?_
    refine (decodeMajor_31 (by simp [majorOf, lenOf])).trans ?_
    simp [decVLogic, vFields, vRmOk, vSatOk, vConvOk, vZero, vT, vK, vA, vB, vD, vDm, vAm, vBm, xC, xT2, xSat, xRm, xLane, xSsel, xOp, xGrp, xTbl, need, *]
  | imm n =>
    show decode ((encV 0x31 t.code k 0 a d) :: two (VExt.word { fn := 7, flag := true, lane := 0#4 ++ n })) = .ok (.vshra t k d a (.imm n))
    refine (decode_len1 49 2 (by simp [majorOf, lenOf]) (by simp [majorOf, lenOf]) rfl rfl).trans ?_
    refine (decodeMajor_31 (by simp [majorOf, lenOf])).trans ?_
    simp [decVLogic, vFields, vRmOk, vSatOk, vConvOk, vZero, vT, vK, vA, vB, vD, vDm, vAm, vBm, xC, xT2, xSat, xRm, xLane, xSsel, xOp, xGrp, xTbl, need, *]

theorem RoundTrip.vcmpeq (t : Ty) (k : MReg) (m : MReg) (a : VReg) (b : VReg) : Statement (.vcmpeq t k m a b) := by
  intro _ hw
  have hw : (t.hasLanes) = true := hw
  try simp [memFields, offField, copyP4, rmOf, convFields] at hw
  show decode ((encV 0x32 t.code k b a (m5 m)) :: two (VExt.word { fn := 0 })) = .ok (.vcmpeq t k m a b)
  refine (decode_len1 50 2 (by simp [majorOf, lenOf]) (by simp [majorOf, lenOf]) rfl rfl).trans ?_
  refine (decodeMajor_32 (by simp [majorOf, lenOf])).trans ?_
  simp [decVCompare, vFields, vRmOk, vSatOk, vConvOk, vZero, vT, vK, vA, vB, vD, vDm, vAm, vBm, xC, xT2, xSat, xRm, xLane, xSsel, xOp, xGrp, xTbl, need, *]

theorem RoundTrip.vcmpne (t : Ty) (k : MReg) (m : MReg) (a : VReg) (b : VReg) : Statement (.vcmpne t k m a b) := by
  intro _ hw
  have hw : (t.hasLanes) = true := hw
  try simp [memFields, offField, copyP4, rmOf, convFields] at hw
  show decode ((encV 0x32 t.code k b a (m5 m)) :: two (VExt.word { fn := 1 })) = .ok (.vcmpne t k m a b)
  refine (decode_len1 50 2 (by simp [majorOf, lenOf]) (by simp [majorOf, lenOf]) rfl rfl).trans ?_
  refine (decodeMajor_32 (by simp [majorOf, lenOf])).trans ?_
  simp [decVCompare, vFields, vRmOk, vSatOk, vConvOk, vZero, vT, vK, vA, vB, vD, vDm, vAm, vBm, xC, xT2, xSat, xRm, xLane, xSsel, xOp, xGrp, xTbl, need, *]

theorem RoundTrip.vcmplt (t : Ty) (k : MReg) (m : MReg) (a : VReg) (b : VReg) : Statement (.vcmplt t k m a b) := by
  intro _ hw
  have hw : (t.hasLanes) = true := hw
  try simp [memFields, offField, copyP4, rmOf, convFields] at hw
  show decode ((encV 0x32 t.code k b a (m5 m)) :: two (VExt.word { fn := 2 })) = .ok (.vcmplt t k m a b)
  refine (decode_len1 50 2 (by simp [majorOf, lenOf]) (by simp [majorOf, lenOf]) rfl rfl).trans ?_
  refine (decodeMajor_32 (by simp [majorOf, lenOf])).trans ?_
  simp [decVCompare, vFields, vRmOk, vSatOk, vConvOk, vZero, vT, vK, vA, vB, vD, vDm, vAm, vBm, xC, xT2, xSat, xRm, xLane, xSsel, xOp, xGrp, xTbl, need, *]

theorem RoundTrip.vcmple (t : Ty) (k : MReg) (m : MReg) (a : VReg) (b : VReg) : Statement (.vcmple t k m a b) := by
  intro _ hw
  have hw : (t.hasLanes) = true := hw
  try simp [memFields, offField, copyP4, rmOf, convFields] at hw
  show decode ((encV 0x32 t.code k b a (m5 m)) :: two (VExt.word { fn := 3 })) = .ok (.vcmple t k m a b)
  refine (decode_len1 50 2 (by simp [majorOf, lenOf]) (by simp [majorOf, lenOf]) rfl rfl).trans ?_
  refine (decodeMajor_32 (by simp [majorOf, lenOf])).trans ?_
  simp [decVCompare, vFields, vRmOk, vSatOk, vConvOk, vZero, vT, vK, vA, vB, vD, vDm, vAm, vBm, xC, xT2, xSat, xRm, xLane, xSsel, xOp, xGrp, xTbl, need, *]

theorem RoundTrip.vsel (t : Ty) (k : MReg) (d : VReg) (a : VReg) (b : VReg) : Statement (.vsel t k d a b) := by
  intro _ hw
  have hw : (t.hasLanes) = true := hw
  try simp [memFields, offField, copyP4, rmOf, convFields] at hw
  show decode ((encV 0x32 t.code k b a d) :: two (VExt.word { fn := 4 })) = .ok (.vsel t k d a b)
  refine (decode_len1 50 2 (by simp [majorOf, lenOf]) (by simp [majorOf, lenOf]) rfl rfl).trans ?_
  refine (decodeMajor_32 (by simp [majorOf, lenOf])).trans ?_
  simp [decVCompare, vFields, vRmOk, vSatOk, vConvOk, vZero, vT, vK, vA, vB, vD, vDm, vAm, vBm, xC, xT2, xSat, xRm, xLane, xSsel, xOp, xGrp, xTbl, need, *]

theorem RoundTrip.vclass (t : Ty) (k : MReg) (d : VReg) (a : VReg) : Statement (.vclass t k d a) := by
  intro _ hw
  have hw : (t.isVFloat) = true := hw
  try simp [memFields, offField, copyP4, rmOf, convFields] at hw
  show decode ((encV 0x32 t.code k 0 a d) :: two (VExt.word { fn := 5 })) = .ok (.vclass t k d a)
  refine (decode_len1 50 2 (by simp [majorOf, lenOf]) (by simp [majorOf, lenOf]) rfl rfl).trans ?_
  refine (decodeMajor_32 (by simp [majorOf, lenOf])).trans ?_
  simp [decVCompare, vFields, vRmOk, vSatOk, vConvOk, vZero, vT, vK, vA, vB, vD, vDm, vAm, vBm, xC, xT2, xSat, xRm, xLane, xSsel, xOp, xGrp, xTbl, need, *]

theorem RoundTrip.vshuf (t : Ty) (t2 : Ty) (k : MReg) (d : VReg) (a : VReg) (b : VReg) : Statement (.vshuf t t2 k d a b) := by
  intro _ hw
  have hw : (t.hasLanes && 8 ≤ t.bits && (t2 == .n8 || t2 == .n16) && t.lanes ≤ t2.lanes) = true := hw
  try simp [memFields, offField, copyP4, rmOf, convFields] at hw
  show decode ((encV 0x33 t.code k b a d) :: two (VExt.word { fn := 0, t2 := t2.code })) = .ok (.vshuf t t2 k d a b)
  refine (decode_len1 51 2 (by simp [majorOf, lenOf]) (by simp [majorOf, lenOf]) rfl rfl).trans ?_
  refine (decodeMajor_33 (by simp [majorOf, lenOf])).trans ?_
  simp [decVMove, vFields, vRmOk, vSatOk, vConvOk, vZero, vT, vK, vA, vB, vD, vDm, vAm, vBm, xC, xT2, xSat, xRm, xLane, xSsel, xOp, xGrp, xTbl, need, *]

theorem RoundTrip.vbcast (t : Ty) (k : MReg) (d : VReg) (s : Sel) : Statement (.vbcast t k d s) := by
  intro _ hw
  have hw : (t.hasLanes) = true := hw
  try simp [memFields, offField, copyP4, rmOf, convFields] at hw
  show decode ((encV 0x33 t.code k 0 0 d) :: two (VExt.word { fn := 1, ssel := s.code })) = .ok (.vbcast t k d s)
  refine (decode_len1 51 2 (by simp [majorOf, lenOf]) (by simp [majorOf, lenOf]) rfl rfl).trans ?_
  refine (decodeMajor_33 (by simp [majorOf, lenOf])).trans ?_
  simp [decVMove, vFields, vRmOk, vSatOk, vConvOk, vZero, vT, vK, vA, vB, vD, vDm, vAm, vBm, xC, xT2, xSat, xRm, xLane, xSsel, xOp, xGrp, xTbl, need, *]

theorem RoundTrip.vslide (t : Ty) (k : MReg) (d : VReg) (a : VReg) (b : VReg) (n : BitVec 11) : Statement (.vslide t k d a b n) := by
  intro _ hw
  have hw : (t.hasLanes && n.toNat ≤ t.lanes) = true := hw
  try simp [memFields, offField, copyP4, rmOf, convFields] at hw
  show decode ((encV 0x33 t.code k b a d) :: two (VExt.word { fn := 2, lane := n })) = .ok (.vslide t k d a b n)
  refine (decode_len1 51 2 (by simp [majorOf, lenOf]) (by simp [majorOf, lenOf]) rfl rfl).trans ?_
  refine (decodeMajor_33 (by simp [majorOf, lenOf])).trans ?_
  simp [decVMove, vFields, vRmOk, vSatOk, vConvOk, vZero, vT, vK, vA, vB, vD, vDm, vAm, vBm, xC, xT2, xSat, xRm, xLane, xSsel, xOp, xGrp, xTbl, need, Nat.lt_succ_iff, *]

theorem RoundTrip.vidx (t : Ty) (k : MReg) (d : VReg) (s : Sel) : Statement (.vidx t k d s) := by
  intro _ hw
  have hw : (t.isInt) = true := hw
  try simp [memFields, offField, copyP4, rmOf, convFields] at hw
  show decode ((encV 0x33 t.code k 0 0 d) :: two (VExt.word { fn := 3, ssel := s.code })) = .ok (.vidx t k d s)
  refine (decode_len1 51 2 (by simp [majorOf, lenOf]) (by simp [majorOf, lenOf]) rfl rfl).trans ?_
  refine (decodeMajor_33 (by simp [majorOf, lenOf])).trans ?_
  simp [decVMove, vFields, vRmOk, vSatOk, vConvOk, vZero, vT, vK, vA, vB, vD, vDm, vAm, vBm, xC, xT2, xSat, xRm, xLane, xSsel, xOp, xGrp, xTbl, need, *]

theorem RoundTrip.vmovs (t : Ty) (d : Sel) (a : VReg) (n : BitVec 11) : Statement (.vmovs t d a n) := by
  intro _ hw
  have hw : (t.hasLanes && n.toNat < t.lanes && d.writable) = true := hw
  try simp [memFields, offField, copyP4, rmOf, convFields] at hw
  show decode ((encV 0x33 t.code 0 0 a 0) :: two (VExt.word { fn := 4, ssel := d.code, lane := n })) = .ok (.vmovs t d a n)
  refine (decode_len1 51 2 (by simp [majorOf, lenOf]) (by simp [majorOf, lenOf]) rfl rfl).trans ?_
  refine (decodeMajor_33 (by simp [majorOf, lenOf])).trans ?_
  simp [decVMove, vFields, vRmOk, vSatOk, vConvOk, vZero, vT, vK, vA, vB, vD, vDm, vAm, vBm, xC, xT2, xSat, xRm, xLane, xSsel, xOp, xGrp, xTbl, need, *]

theorem RoundTrip.vmovv (t : Ty) (d : VReg) (s : Sel) (n : BitVec 11) : Statement (.vmovv t d s n) := by
  intro _ hw
  have hw : (t.hasLanes && n.toNat < t.lanes) = true := hw
  try simp [memFields, offField, copyP4, rmOf, convFields] at hw
  show decode ((encV 0x33 t.code 0 0 0 d) :: two (VExt.word { fn := 5, ssel := s.code, lane := n })) = .ok (.vmovv t d s n)
  refine (decode_len1 51 2 (by simp [majorOf, lenOf]) (by simp [majorOf, lenOf]) rfl rfl).trans ?_
  refine (decodeMajor_33 (by simp [majorOf, lenOf])).trans ?_
  simp [decVMove, vFields, vRmOk, vSatOk, vConvOk, vZero, vT, vK, vA, vB, vD, vDm, vAm, vBm, xC, xT2, xSat, xRm, xLane, xSsel, xOp, xGrp, xTbl, need, *]

theorem RoundTrip.vpack (t : Ty) (t2 : Ty) (k : MReg) (d : VReg) (a : VReg) (n : BitVec 11) (sat : Bool) : Statement (.vpack t t2 k d a n sat) := by
  intro _ hw
  have hw : (t.isInt && t2.isInt && t.bits < t2.bits && n.toNat < t.lanes) = true := hw
  try simp [memFields, offField, copyP4, rmOf, convFields] at hw
  show decode ((encV 0x33 t.code k 0 a d) :: two (VExt.word { fn := 6, t2 := t2.code, lane := n, sat := sat })) = .ok (.vpack t t2 k d a n sat)
  refine (decode_len1 51 2 (by simp [majorOf, lenOf]) (by simp [majorOf, lenOf]) rfl rfl).trans ?_
  refine (decodeMajor_33 (by simp [majorOf, lenOf])).trans ?_
  simp [decVMove, vFields, vRmOk, vSatOk, vConvOk, vZero, vT, vK, vA, vB, vD, vDm, vAm, vBm, xC, xT2, xSat, xRm, xLane, xSsel, xOp, xGrp, xTbl, need, *]

theorem RoundTrip.vunpk (t : Ty) (t2 : Ty) (k : MReg) (d : VReg) (a : VReg) (n : BitVec 11) (sat : Bool) : Statement (.vunpk t t2 k d a n sat) := by
  intro _ hw
  have hw : (t.isInt && t2.isInt && t2.bits < t.bits && n.toNat < t2.lanes) = true := hw
  try simp [memFields, offField, copyP4, rmOf, convFields] at hw
  show decode ((encV 0x33 t.code k 0 a d) :: two (VExt.word { fn := 7, t2 := t2.code, lane := n, sat := sat })) = .ok (.vunpk t t2 k d a n sat)
  refine (decode_len1 51 2 (by simp [majorOf, lenOf]) (by simp [majorOf, lenOf]) rfl rfl).trans ?_
  refine (decodeMajor_33 (by simp [majorOf, lenOf])).trans ?_
  simp [decVMove, vFields, vRmOk, vSatOk, vConvOk, vZero, vT, vK, vA, vB, vD, vDm, vAm, vBm, xC, xT2, xSat, xRm, xLane, xSsel, xOp, xGrp, xTbl, need, *]

theorem RoundTrip.vred (t : Ty) (k : MReg) (op : BitVec 4) (d : Sel) (a : VReg) (rm : Rm) (sat : Bool) : Statement (.vred t k op d a rm sat) := by
  intro _ hw
  have hw : (vredOk op t rm sat && d.writable) = true := hw
  try simp [memFields, offField, copyP4, rmOf, convFields] at hw
  have ho := vredOk_op op t rm sat hw.1
  show decode ((encV 0x34 t.code k 0 a 0) :: two (VExt.word { fn := 0, op := op, ssel := d.code, rm := rm.code, sat := sat })) = .ok (.vred t k op d a rm sat)
  refine (decode_len1 52 2 (by simp [majorOf, lenOf]) (by simp [majorOf, lenOf]) rfl rfl).trans ?_
  refine (decodeMajor_34 (by simp [majorOf, lenOf])).trans ?_
  simp [decVConv, decVRed, decVQuant, vFields, vRmOk, vSatOk, vConvOk, vZero, vT, vK, vA, vB, vD, vDm, vAm, vBm, xC, xT2, xSat, xRm, xLane, xSsel, xOp, xGrp, xTbl, need, *]

theorem RoundTrip.vcvt (t : Ty) (t2 : Ty) (k : MReg) (d : VReg) (a : VReg) (b : VReg) (n : BitVec 11) (rm : Rm) (sat : Bool) : Statement (.vcvt t t2 k d a b n rm sat) := by
  intro _ hw
  have hw : (t.hasLanes && t2.hasLanes && convFields t t2 rm sat && n.toNat < 2 * t2.lanes) = true := hw
  try simp [memFields, offField, copyP4, rmOf, convFields] at hw
  show decode ((encV 0x34 t.code k b a d) :: two (VExt.word { fn := 1, t2 := t2.code, lane := n, rm := rm.code, sat := sat })) = .ok (.vcvt t t2 k d a b n rm sat)
  refine (decode_len1 52 2 (by simp [majorOf, lenOf]) (by simp [majorOf, lenOf]) rfl rfl).trans ?_
  refine (decodeMajor_34 (by simp [majorOf, lenOf])).trans ?_
  simp [decVConv, decVRed, decVQuant, vFields, vRmOk, vSatOk, vConvOk, vZero, vT, vK, vA, vB, vD, vDm, vAm, vBm, xC, xT2, xSat, xRm, xLane, xSsel, xOp, xGrp, xTbl, need, *]

theorem RoundTrip.vqnt (t : Ty) (t2 : Ty) (k : MReg) (d : VReg) (a : VReg) (b : VReg) (g : Grp) (n : BitVec 11) (rm : Rm) : Statement (.vqnt t t2 k d a b g n rm) := by
  intro _ hw
  have hw : (t.isCode && t2.isVFloat && n.toNat < t.lanes) = true := hw
  try simp [memFields, offField, copyP4, rmOf, convFields] at hw
  show decode ((encV 0x34 t.code k b a d) :: two (VExt.word { fn := 2, t2 := t2.code, grp := g.code, lane := n, rm := rm.code })) = .ok (.vqnt t t2 k d a b g n rm)
  refine (decode_len1 52 2 (by simp [majorOf, lenOf]) (by simp [majorOf, lenOf]) rfl rfl).trans ?_
  refine (decodeMajor_34 (by simp [majorOf, lenOf])).trans ?_
  simp [decVConv, decVRed, decVQuant, vFields, vRmOk, vSatOk, vConvOk, vZero, vT, vK, vA, vB, vD, vDm, vAm, vBm, xC, xT2, xSat, xRm, xLane, xSsel, xOp, xGrp, xTbl, need, *]

theorem RoundTrip.vdqnt (t : Ty) (t2 : Ty) (k : MReg) (d : VReg) (a : VReg) (b : VReg) (g : Grp) (n : BitVec 11) (rm : Rm) : Statement (.vdqnt t t2 k d a b g n rm) := by
  intro _ hw
  have hw : (t.isVFloat && t2.isCode && n.toNat < t2.lanes) = true := hw
  try simp [memFields, offField, copyP4, rmOf, convFields] at hw
  show decode ((encV 0x34 t.code k b a d) :: two (VExt.word { fn := 3, t2 := t2.code, grp := g.code, lane := n, rm := rm.code })) = .ok (.vdqnt t t2 k d a b g n rm)
  refine (decode_len1 52 2 (by simp [majorOf, lenOf]) (by simp [majorOf, lenOf]) rfl rfl).trans ?_
  refine (decodeMajor_34 (by simp [majorOf, lenOf])).trans ?_
  simp [decVConv, decVRed, decVQuant, vFields, vRmOk, vSatOk, vConvOk, vZero, vT, vK, vA, vB, vD, vDm, vAm, vBm, xC, xT2, xSat, xRm, xLane, xSsel, xOp, xGrp, xTbl, need, *]

theorem RoundTrip.vqdiv (t : Ty) (t2 : Ty) (k : MReg) (d : VReg) (a : VReg) (b : VReg) (g : Grp) (n : BitVec 11) (rm : Rm) : Statement (.vqdiv t t2 k d a b g n rm) := by
  intro _ hw
  have hw : (t.isCode && t2.isVFloat && n.toNat < t.lanes) = true := hw
  try simp [memFields, offField, copyP4, rmOf, convFields] at hw
  show decode ((encV 0x34 t.code k b a d) :: two (VExt.word { fn := 4, t2 := t2.code, grp := g.code, lane := n, rm := rm.code })) = .ok (.vqdiv t t2 k d a b g n rm)
  refine (decode_len1 52 2 (by simp [majorOf, lenOf]) (by simp [majorOf, lenOf]) rfl rfl).trans ?_
  refine (decodeMajor_34 (by simp [majorOf, lenOf])).trans ?_
  simp [decVConv, decVRed, decVQuant, vFields, vRmOk, vSatOk, vConvOk, vZero, vT, vK, vA, vB, vD, vDm, vAm, vBm, xC, xT2, xSat, xRm, xLane, xSsel, xOp, xGrp, xTbl, need, *]

theorem RoundTrip.vsend (a : VReg) (cons : BitVec 5) (sp : Bool) (s : Sel) : Statement (.vsend a cons sp s) := by
  intro _ hw
  have hw : (cons != 0 && (cons.getLsbD 2 || (!sp && s == .g 0))) = true := hw
  try simp [memFields, offField, copyP4, rmOf, convFields] at hw
  show decode ((encV 0x34 0 0 0 a 0) :: two (VExt.word { fn := 5, lane := 0#6 ++ cons, sp := sp, ssel := s.code })) = .ok (.vsend a cons sp s)
  refine (decode_len1 52 2 (by simp [majorOf, lenOf]) (by simp [majorOf, lenOf]) rfl rfl).trans ?_
  refine (decodeMajor_34 (by simp [majorOf, lenOf])).trans ?_
  cases hc : cons[2]
  · simp [hc] at hw
    obtain ⟨hz, rfl, rfl⟩ := hw
    simp [decVConv, decVRed, decVQuant, vFields, vRmOk, vSatOk, vConvOk, vZero, vT, vK, vA, vB, vD, vDm, vAm, vBm, xC, xT2, xSat, xRm, xLane, xSsel, xOp, xGrp, xTbl, need, hc, hz, Sel.code, g7]
  · simp [decVConv, decVRed, decVQuant, vFields, vRmOk, vSatOk, vConvOk, vZero, vT, vK, vA, vB, vD, vDm, vAm, vBm, xC, xT2, xSat, xRm, xLane, xSsel, xOp, xGrp, xTbl, need, *]

theorem RoundTrip.vitp (t : Ty) (t2 : Ty) (k : MReg) (d : VReg) (x : VIn) (tbl : BitVec 2) (rm : Rm) : Statement (.vitp t t2 k d x tbl rm) := by
  intro _ hw
  have hw : (t.isVFloat && t2.isVFloat && ((t == .f32) == (t2 == .f32))) = true := hw
  try simp [memFields, offField, copyP4, rmOf, convFields] at hw
  cases x with
  | reg a =>
    show decode ((encV 0x35 t.code k 0 a d) :: two (VExt.word { fn := 0, t2 := t2.code, tbl := tbl, rm := rm.code })) = .ok (.vitp t t2 k d (.reg a) tbl rm)
    refine (decode_len1 53 2 (by simp [majorOf, lenOf]) (by simp [majorOf, lenOf]) rfl rfl).trans ?_
    refine (decodeMajor_35 (by simp [majorOf, lenOf])).trans ?_
    simp [decVItp, vFields, vRmOk, vSatOk, vConvOk, vZero, vT, vK, vA, vB, vD, vDm, vAm, vBm, xC, xT2, xSat, xRm, xLane, xSsel, xOp, xGrp, xTbl, need, *]
  | vin =>
    show decode ((encV 0x35 t.code k 0 0 d) :: two (VExt.word { fn := 0, t2 := t2.code, tbl := tbl, rm := rm.code, qin := true })) = .ok (.vitp t t2 k d .vin tbl rm)
    refine (decode_len1 53 2 (by simp [majorOf, lenOf]) (by simp [majorOf, lenOf]) rfl rfl).trans ?_
    refine (decodeMajor_35 (by simp [majorOf, lenOf])).trans ?_
    simp [decVItp, vFields, vRmOk, vSatOk, vConvOk, vZero, vT, vK, vA, vB, vD, vDm, vAm, vBm, xC, xT2, xSat, xRm, xLane, xSsel, xOp, xGrp, xTbl, need, *]

theorem RoundTrip.tload (tbl : BitVec 2) (s : Sel) : Statement (.tload tbl s) := by
  intro _ hw
  show decode ((encV 0x35 0 0 0 0 0) :: two (VExt.word { fn := 1, tbl := tbl, ssel := s.code })) = .ok (.tload tbl s)
  refine (decode_len1 53 2 (by simp [majorOf, lenOf]) (by simp [majorOf, lenOf]) rfl rfl).trans ?_
  refine (decodeMajor_35 (by simp [majorOf, lenOf])).trans ?_
  simp [decVItp, vFields, vRmOk, vSatOk, vConvOk, vZero, vT, vK, vA, vB, vD, vDm, vAm, vBm, xC, xT2, xSat, xRm, xLane, xSsel, xOp, xGrp, xTbl, need, *]

theorem RoundTrip.mand (d : MReg) (a : MReg) (b : MReg) : Statement (.mand d a b) := by
  intro _ hw
  show decode ((encV 0x36 0 0 (m5 b) (m5 a) (m5 d)) :: two (VExt.word { fn := 0 })) = .ok (.mand d a b)
  refine (decode_len1 54 2 (by simp [majorOf, lenOf]) (by simp [majorOf, lenOf]) rfl rfl).trans ?_
  refine (decodeMajor_36 (by simp [majorOf, lenOf])).trans ?_
  simp [decMask, vFields, vRmOk, vSatOk, vConvOk, vZero, vT, vK, vA, vB, vD, vDm, vAm, vBm, xC, xT2, xSat, xRm, xLane, xSsel, xOp, xGrp, xTbl, need, *]

theorem RoundTrip.mor (d : MReg) (a : MReg) (b : MReg) : Statement (.mor d a b) := by
  intro _ hw
  show decode ((encV 0x36 0 0 (m5 b) (m5 a) (m5 d)) :: two (VExt.word { fn := 1 })) = .ok (.mor d a b)
  refine (decode_len1 54 2 (by simp [majorOf, lenOf]) (by simp [majorOf, lenOf]) rfl rfl).trans ?_
  refine (decodeMajor_36 (by simp [majorOf, lenOf])).trans ?_
  simp [decMask, vFields, vRmOk, vSatOk, vConvOk, vZero, vT, vK, vA, vB, vD, vDm, vAm, vBm, xC, xT2, xSat, xRm, xLane, xSsel, xOp, xGrp, xTbl, need, *]

theorem RoundTrip.mxor (d : MReg) (a : MReg) (b : MReg) : Statement (.mxor d a b) := by
  intro _ hw
  show decode ((encV 0x36 0 0 (m5 b) (m5 a) (m5 d)) :: two (VExt.word { fn := 2 })) = .ok (.mxor d a b)
  refine (decode_len1 54 2 (by simp [majorOf, lenOf]) (by simp [majorOf, lenOf]) rfl rfl).trans ?_
  refine (decodeMajor_36 (by simp [majorOf, lenOf])).trans ?_
  simp [decMask, vFields, vRmOk, vSatOk, vConvOk, vZero, vT, vK, vA, vB, vD, vDm, vAm, vBm, xC, xT2, xSat, xRm, xLane, xSsel, xOp, xGrp, xTbl, need, *]

theorem RoundTrip.mnot (d : MReg) (a : MReg) : Statement (.mnot d a) := by
  intro _ hw
  show decode ((encV 0x36 0 0 0 (m5 a) (m5 d)) :: two (VExt.word { fn := 3 })) = .ok (.mnot d a)
  refine (decode_len1 54 2 (by simp [majorOf, lenOf]) (by simp [majorOf, lenOf]) rfl rfl).trans ?_
  refine (decodeMajor_36 (by simp [majorOf, lenOf])).trans ?_
  simp [decMask, vFields, vRmOk, vSatOk, vConvOk, vZero, vT, vK, vA, vB, vD, vDm, vAm, vBm, xC, xT2, xSat, xRm, xLane, xSsel, xOp, xGrp, xTbl, need, *]

theorem RoundTrip.mcnt (t : Ty) (d : Sel) (a : MReg) : Statement (.mcnt t d a) := by
  intro _ hw
  have hw : (t.hasLanes && d.writable) = true := hw
  try simp [memFields, offField, copyP4, rmOf, convFields] at hw
  show decode ((encV 0x36 t.code 0 0 (m5 a) 0) :: two (VExt.word { fn := 4, ssel := d.code })) = .ok (.mcnt t d a)
  refine (decode_len1 54 2 (by simp [majorOf, lenOf]) (by simp [majorOf, lenOf]) rfl rfl).trans ?_
  refine (decodeMajor_36 (by simp [majorOf, lenOf])).trans ?_
  simp [decMask, vFields, vRmOk, vSatOk, vConvOk, vZero, vT, vK, vA, vB, vD, vDm, vAm, vBm, xC, xT2, xSat, xRm, xLane, xSsel, xOp, xGrp, xTbl, need, *]

theorem RoundTrip.mfirst (t : Ty) (d : Sel) (a : MReg) : Statement (.mfirst t d a) := by
  intro _ hw
  have hw : (t.hasLanes && d.writable) = true := hw
  try simp [memFields, offField, copyP4, rmOf, convFields] at hw
  show decode ((encV 0x36 t.code 0 0 (m5 a) 0) :: two (VExt.word { fn := 5, ssel := d.code })) = .ok (.mfirst t d a)
  refine (decode_len1 54 2 (by simp [majorOf, lenOf]) (by simp [majorOf, lenOf]) rfl rfl).trans ?_
  refine (decodeMajor_36 (by simp [majorOf, lenOf])).trans ?_
  simp [decMask, vFields, vRmOk, vSatOk, vConvOk, vZero, vT, vK, vA, vB, vD, vDm, vAm, vBm, xC, xT2, xSat, xRm, xLane, xSsel, xOp, xGrp, xTbl, need, *]

theorem RoundTrip.msetg (d : MReg) (s : Sel) (p : BitVec 4) : Statement (.msetg d s p) := by
  intro _ hw
  show decode ((encV 0x36 0 0 0 0 (m5 d)) :: two (VExt.word { fn := 6, ssel := s.code, lane := 0#7 ++ p })) = .ok (.msetg d s p)
  refine (decode_len1 54 2 (by simp [majorOf, lenOf]) (by simp [majorOf, lenOf]) rfl rfl).trans ?_
  refine (decodeMajor_36 (by simp [majorOf, lenOf])).trans ?_
  simp [decMask, vFields, vRmOk, vSatOk, vConvOk, vZero, vT, vK, vA, vB, vD, vDm, vAm, vBm, xC, xT2, xSat, xRm, xLane, xSsel, xOp, xGrp, xTbl, need, *]

theorem RoundTrip.msetgPre (d : MReg) (s : Sel) : Statement (.msetgPre d s) := by
  intro _ hw
  show decode ((encV 0x36 0 0 0 0 (m5 d)) :: two (VExt.word { fn := 6, ssel := s.code, flag := true })) = .ok (.msetgPre d s)
  refine (decode_len1 54 2 (by simp [majorOf, lenOf]) (by simp [majorOf, lenOf]) rfl rfl).trans ?_
  refine (decodeMajor_36 (by simp [majorOf, lenOf])).trans ?_
  simp [decMask, vFields, vRmOk, vSatOk, vConvOk, vZero, vT, vK, vA, vB, vD, vDm, vAm, vBm, xC, xT2, xSat, xRm, xLane, xSsel, xOp, xGrp, xTbl, need, *]

theorem RoundTrip.mgetg (d : Sel) (a : MReg) (p : BitVec 4) : Statement (.mgetg d a p) := by
  intro _ hw
  have hw : (d.writable) = true := hw
  try simp [memFields, offField, copyP4, rmOf, convFields] at hw
  show decode ((encV 0x36 0 0 0 (m5 a) 0) :: two (VExt.word { fn := 7, ssel := d.code, lane := 0#7 ++ p })) = .ok (.mgetg d a p)
  refine (decode_len1 54 2 (by simp [majorOf, lenOf]) (by simp [majorOf, lenOf]) rfl rfl).trans ?_
  refine (decodeMajor_36 (by simp [majorOf, lenOf])).trans ?_
  simp [decMask, vFields, vRmOk, vSatOk, vConvOk, vZero, vT, vK, vA, vB, vD, vDm, vAm, vBm, xC, xT2, xSat, xRm, xLane, xSsel, xOp, xGrp, xTbl, need, *]

theorem RoundTrip.slresv (d : BitVec 6) (m : Sel) (any : Bool) (la : BitVec 4) : Statement (.slresv d m any la) := by
  intro _ hw
  show decode (encE 56 0 (g7 d) m.code la :: two (extE (0#35 ++ BitVec.ofBool any) 0 0 0 0)) = .ok (.slresv d m any la)
  refine (decode_len1 56 2 (by simp [majorOf, lenOf]) (by simp [majorOf, lenOf]) rfl rfl).trans ?_
  refine (decodeMajor_38 (by simp [majorOf, lenOf])).trans ?_
  simp [decMatrix, noLa, lenOf, extZero, memFields, offField, copyP4, need, *]

theorem RoundTrip.slfree (d : BitVec 6) (m : Sel) (la : BitVec 4) : Statement (.slfree d m la) := by
  intro _ hw
  show decode (encE 56 1 (g7 d) m.code la :: two 0) = .ok (.slfree d m la)
  refine (decode_len1 56 2 (by simp [majorOf, lenOf]) (by simp [majorOf, lenOf]) rfl rfl).trans ?_
  refine (decodeMajor_38 (by simp [majorOf, lenOf])).trans ?_
  simp [decMatrix, noLa, lenOf, extZero, memFields, offField, copyP4, need, *]

theorem RoundTrip.mwld (t : BitVec 6) (la : BitVec 4) (s : BitVec 7) (o : Sel) (k : Sel) (n : Sel) (wf : Fmt) (h : Bool) : Statement (.mwld t la s o k n wf h) := by
  intro _ hw
  have hw : (wf.isWeight) = true := hw
  try simp [memFields, offField, copyP4, rmOf, convFields] at hw
  show decode (encE 56 2 (g7 t) s la :: two (extE (0#29 ++ BitVec.ofBool h ++ wf.code) o.code k.code n.code 0)) = .ok (.mwld t la s o k n wf h)
  refine (decode_len1 56 2 (by simp [majorOf, lenOf]) (by simp [majorOf, lenOf]) rfl rfl).trans ?_
  refine (decodeMajor_38 (by simp [majorOf, lenOf])).trans ?_
  simp [decMatrix, noLa, lenOf, extZero, memFields, offField, copyP4, need, *]

theorem RoundTrip.mstrm (t : BitVec 6) (la : BitVec 4) (s : BitVec 7) (o : Sel) (m : Sel) (sc : Sel) (af : Fmt) (acc : Bool) (tr : Bool) : Statement (.mstrm t la s o m sc af acc tr) := by
  intro _ hw
  have hw : (af.isActivation) = true := hw
  try simp [memFields, offField, copyP4, rmOf, convFields] at hw
  show decode (encE 56 3 (g7 t) s la :: two (extE (0#28 ++ BitVec.ofBool tr ++ BitVec.ofBool acc ++ af.code) o.code m.code sc.code 0)) = .ok (.mstrm t la s o m sc af acc tr)
  refine (decode_len1 56 2 (by simp [majorOf, lenOf]) (by simp [majorOf, lenOf]) rfl rfl).trans ?_
  refine (decodeMajor_38 (by simp [majorOf, lenOf])).trans ?_
  simp [decMatrix, noLa, lenOf, extZero, memFields, offField, copyP4, need, *]

theorem RoundTrip.mgrp (t : BitVec 6) (la : BitVec 4) (s : BitVec 7) (m : Sel) (c : Sel) (sc : Sel) (af : Fmt) (wf : Fmt) (acc : Bool) : Statement (.mgrp t la s m c sc af wf acc) := by
  intro _ hw
  have hw : (af.isActivation && wf.isWeight) = true := hw
  try simp [memFields, offField, copyP4, rmOf, convFields] at hw
  show decode (encE 56 4 (g7 t) s la :: two (extE (0#23 ++ BitVec.ofBool acc ++ wf.code ++ af.code) m.code c.code sc.code 0)) = .ok (.mgrp t la s m c sc af wf acc)
  refine (decode_len1 56 2 (by simp [majorOf, lenOf]) (by simp [majorOf, lenOf]) rfl rfl).trans ?_
  refine (decodeMajor_38 (by simp [majorOf, lenOf])).trans ?_
  simp [decMatrix, noLa, lenOf, extZero, memFields, offField, copyP4, need, *]

theorem RoundTrip.mdrn (t : BitVec 6) (la : BitVec 4) (d : Sel) (r : Sel) (e : Sel) (df : Fmt) (rm : Rm) (sat : Bool) (dsp : Bool) (acc : Bool) (clr : Bool) : Statement (.mdrn t la d r e df rm sat dsp acc clr) := by
  intro _ hw
  have hw : (!df.isGrouped && (clr || e == .g 0)) = true := hw
  try simp [memFields, offField, copyP4, rmOf, convFields] at hw
  show decode (encE 56 5 (g7 t) d.code la :: two (extE (0#23 ++ BitVec.ofBool clr ++ BitVec.ofBool acc ++ BitVec.ofBool dsp ++ BitVec.ofBool sat ++ rm.code ++ df.code) r.code e.code 0 0)) = .ok (.mdrn t la d r e df rm sat dsp acc clr)
  refine (decode_len1 56 2 (by simp [majorOf, lenOf]) (by simp [majorOf, lenOf]) rfl rfl).trans ?_
  refine (decodeMajor_38 (by simp [majorOf, lenOf])).trans ?_
  simp [decMatrix, noLa, lenOf, extZero, memFields, offField, copyP4, need, *]

theorem RoundTrip.mclr (t : BitVec 6) (la : BitVec 4) (e : Sel) (acc : Bool) : Statement (.mclr t la e acc) := by
  intro _ hw
  show decode (encE 56 6 (g7 t) e.code la :: two (extE (0#35 ++ BitVec.ofBool acc) 0 0 0 0)) = .ok (.mclr t la e acc)
  refine (decode_len1 56 2 (by simp [majorOf, lenOf]) (by simp [majorOf, lenOf]) rfl rfl).trans ?_
  refine (decodeMajor_38 (by simp [majorOf, lenOf])).trans ?_
  simp [decMatrix, noLa, lenOf, extZero, memFields, offField, copyP4, need, *]

theorem RoundTrip.mcfg (t : BitVec 6) (la : BitVec 4) (c : Sel) : Statement (.mcfg t la c) := by
  intro _ hw
  show decode (encE 56 7 (g7 t) c.code la :: two 0) = .ok (.mcfg t la c)
  refine (decode_len1 56 2 (by simp [majorOf, lenOf]) (by simp [majorOf, lenOf]) rfl rfl).trans ?_
  refine (decodeMajor_38 (by simp [majorOf, lenOf])).trans ?_
  simp [decMatrix, noLa, lenOf, extZero, memFields, offField, copyP4, need, *]

theorem RoundTrip.mrmt (t : BitVec 6) (la : BitVec 4) (c : Sel) (v : VReg) : Statement (.mrmt t la c v) := by
  intro _ hw
  show decode (encE 57 0 (g7 t) c.code la :: two (extE 0 (v7 v) 0 0 0)) = .ok (.mrmt t la c v)
  refine (decode_len1 57 2 (by simp [majorOf, lenOf]) (by simp [majorOf, lenOf]) rfl rfl).trans ?_
  refine (decodeMajor_39 (by simp [majorOf, lenOf])).trans ?_
  simp [decMatrix2, noLa, lenOf, extZero, memFields, offField, copyP4, need, *]

theorem RoundTrip.mcap (d : BitVec 6) (la : BitVec 4) (c : Sel) (m : Sel) (r : BitVec 3) : Statement (.mcap d la c m r) := by
  intro _ hw
  show decode (encE 57 1 (g7 d) c.code la :: two (extE (0#33 ++ r) m.code 0 0 0)) = .ok (.mcap d la c m r)
  refine (decode_len1 57 2 (by simp [majorOf, lenOf]) (by simp [majorOf, lenOf]) rfl rfl).trans ?_
  refine (decodeMajor_39 (by simp [majorOf, lenOf])).trans ?_
  simp [decMatrix2, noLa, lenOf, extZero, memFields, offField, copyP4, need, *]

theorem RoundTrip.addw (t : BitVec 6) (la : BitVec 4) (a : Sel) (b : Sel) (n : Sel) (sf : Fmt) : Statement (.addw t la a b n sf) := by
  intro _ hw
  have hw : (sf.isWindow) = true := hw
  try simp [memFields, offField, copyP4, rmOf, convFields] at hw
  show decode (encE 57 2 (g7 t) a.code la :: two (extE (0#30 ++ sf.code) b.code n.code 0 0)) = .ok (.addw t la a b n sf)
  refine (decode_len1 57 2 (by simp [majorOf, lenOf]) (by simp [majorOf, lenOf]) rfl rfl).trans ?_
  refine (decodeMajor_39 (by simp [majorOf, lenOf])).trans ?_
  simp [decMatrix2, noLa, lenOf, extZero, memFields, offField, copyP4, need, *]

theorem RoundTrip.wnorm (t : BitVec 6) (la : BitVec 4) (a : Sel) (b : Sel) (n : Sel) (df : Fmt) (rm : Rm) : Statement (.wnorm t la a b n df rm) := by
  intro _ hw
  have hw : (df.isWindow) = true := hw
  try simp [memFields, offField, copyP4, rmOf, convFields] at hw
  show decode (encE 57 3 (g7 t) a.code la :: two (extE (0#27 ++ rm.code ++ df.code) b.code n.code 0 0)) = .ok (.wnorm t la a b n df rm)
  refine (decode_len1 57 2 (by simp [majorOf, lenOf]) (by simp [majorOf, lenOf]) rfl rfl).trans ?_
  refine (decodeMajor_39 (by simp [majorOf, lenOf])).trans ?_
  simp [decMatrix2, noLa, lenOf, extZero, memFields, offField, copyP4, need, *]

theorem RoundTrip.wzero (t : BitVec 6) (la : BitVec 4) (a : Sel) (n : Sel) : Statement (.wzero t la a n) := by
  intro _ hw
  show decode (encE 57 4 (g7 t) a.code la :: two (extE 0 n.code 0 0 0)) = .ok (.wzero t la a n)
  refine (decode_len1 57 2 (by simp [majorOf, lenOf]) (by simp [majorOf, lenOf]) rfl rfl).trans ?_
  refine (decodeMajor_39 (by simp [majorOf, lenOf])).trans ?_
  simp [decMatrix2, noLa, lenOf, extZero, memFields, offField, copyP4, need, *]

theorem RoundTrip.amo (am : BitVec 2) (w : Cls) (b : Sel) (d : Sel) (la : BitVec 4) (g : Bool) (op : AOp) (o : BitVec 48) (v : Sel) : Statement (.amo am w b d la g op o v) := by
  intro _ hw
  have hw : (op.accepts w && d.writable && offField am o) = true := hw
  try simp [memFields, offField, copyP4, rmOf, convFields] at hw
  show decode (encM 0x3C am w b.code d.code la 1 :: two (extM (0#1 ++ op.code ++ BitVec.ofBool g ++ 0#2) o v.code)) = .ok (.amo am w b d la g op o v)
  refine (decode_len1 60 2 (by simp [majorOf, lenOf]) (by simp [majorOf, lenOf]) rfl rfl).trans ?_
  refine (decodeMajor_3C (by simp [majorOf, lenOf])).trans ?_
  simp [decAtomic, noLa, lenOf, extZero, memFields, offField, copyP4, need, *]

theorem RoundTrip.red (am : BitVec 2) (w : Cls) (b : Sel) (g : Bool) (op : AOp) (o : BitVec 48) (v : Sel) : Statement (.red am w b g op o v) := by
  intro _ hw
  have hw : (op.accepts w && offField am o) = true := hw
  try simp [memFields, offField, copyP4, rmOf, convFields] at hw
  show decode (encM 0x3C am w b.code 74 0 1 :: two (extM (0#1 ++ op.code ++ BitVec.ofBool g ++ 1#2) o v.code)) = .ok (.red am w b g op o v)
  refine (decode_len1 60 2 (by simp [majorOf, lenOf]) (by simp [majorOf, lenOf]) rfl rfl).trans ?_
  refine (decodeMajor_3C (by simp [majorOf, lenOf])).trans ?_
  simp [decAtomic, noLa, lenOf, extZero, memFields, offField, copyP4, need, *]

theorem RoundTrip.cas (am : BitVec 2) (w : Cls) (b : Sel) (d : Sel) (la : BitVec 4) (g : Bool) (o : BitVec 48) (v : Sel) : Statement (.cas am w b d la g o v) := by
  intro _ hw
  have hw : (w.scalar && d.writable && offField am o) = true := hw
  try simp [memFields, offField, copyP4, rmOf, convFields] at hw
  show decode (encM 0x3C am w b.code d.code la 1 :: two (extM (0#5 ++ BitVec.ofBool g ++ 2#2) o v.code)) = .ok (.cas am w b d la g o v)
  refine (decode_len1 60 2 (by simp [majorOf, lenOf]) (by simp [majorOf, lenOf]) rfl rfl).trans ?_
  refine (decodeMajor_3C (by simp [majorOf, lenOf])).trans ?_
  simp [decAtomic, noLa, lenOf, extZero, memFields, offField, copyP4, need, *]

theorem RoundTrip.bari (d : Sel) (h : Sel) (n : Sel) (la : BitVec 4) : Statement (.bari d h n la) := by
  intro _ hw
  have hw : (d.writable) = true := hw
  try simp [memFields, offField, copyP4, rmOf, convFields] at hw
  show decode (encE 61 0 d.code h.code la :: two (extE 0 n.code 0 0 0)) = .ok (.bari d h n la)
  refine (decode_len1 61 2 (by simp [majorOf, lenOf]) (by simp [majorOf, lenOf]) rfl rfl).trans ?_
  refine (decodeMajor_3D (by simp [majorOf, lenOf])).trans ?_
  simp [decBarrier, noLa, lenOf, extZero, memFields, offField, copyP4, need, *]

theorem RoundTrip.bara (d : Sel) (h : Sel) (la : BitVec 4) : Statement (.bara d h la) := by
  intro _ hw
  have hw : (d.writable) = true := hw
  try simp [memFields, offField, copyP4, rmOf, convFields] at hw
  show decode (encE 61 1 d.code h.code la :: two 0) = .ok (.bara d h la)
  refine (decode_len1 61 2 (by simp [majorOf, lenOf]) (by simp [majorOf, lenOf]) rfl rfl).trans ?_
  refine (decodeMajor_3D (by simp [majorOf, lenOf])).trans ?_
  simp [decBarrier, noLa, lenOf, extZero, memFields, offField, copyP4, need, *]

theorem RoundTrip.barw (d : Sel) (h : Sel) (la : BitVec 4) : Statement (.barw d h la) := by
  intro _ hw
  have hw : (d.writable) = true := hw
  try simp [memFields, offField, copyP4, rmOf, convFields] at hw
  show decode (encE 61 2 d.code h.code la :: two 0) = .ok (.barw d h la)
  refine (decode_len1 61 2 (by simp [majorOf, lenOf]) (by simp [majorOf, lenOf]) rfl rfl).trans ?_
  refine (decodeMajor_3D (by simp [majorOf, lenOf])).trans ?_
  simp [decBarrier, noLa, lenOf, extZero, memFields, offField, copyP4, need, *]

theorem RoundTrip.claim (d : Sel) (hd : Sel) (v : VReg) (la : BitVec 4) : Statement (.claim d hd v la) := by
  intro _ hw
  have hw : (d.writable && hd.writable) = true := hw
  try simp [memFields, offField, copyP4, rmOf, convFields] at hw
  show decode (encE 61 3 d.code (v7 v) la :: two (extE 0 hd.code 0 0 0)) = .ok (.claim d hd v la)
  refine (decode_len1 61 2 (by simp [majorOf, lenOf]) (by simp [majorOf, lenOf]) rfl rfl).trans ?_
  refine (decodeMajor_3D (by simp [majorOf, lenOf])).trans ?_
  simp [decBarrier, noLa, lenOf, extZero, memFields, offField, copyP4, need, *]

theorem RoundTrip.cwait (d : Sel) (hd : Sel) (v : VReg) (la : BitVec 4) : Statement (.cwait d hd v la) := by
  intro _ hw
  have hw : (d.writable && hd.writable) = true := hw
  try simp [memFields, offField, copyP4, rmOf, convFields] at hw
  show decode (encE 61 4 d.code (v7 v) la :: two (extE 0 hd.code 0 0 0)) = .ok (.cwait d hd v la)
  refine (decode_len1 61 2 (by simp [majorOf, lenOf]) (by simp [majorOf, lenOf]) rfl rfl).trans ?_
  refine (decodeMajor_3D (by simp [majorOf, lenOf])).trans ?_
  simp [decBarrier, noLa, lenOf, extZero, memFields, offField, copyP4, need, *]

theorem RoundTrip.fulfil (d : Sel) (v : VReg) (hv : Sel) (la : BitVec 4) : Statement (.fulfil d v hv la) := by
  intro _ hw
  have hw : (d.writable) = true := hw
  try simp [memFields, offField, copyP4, rmOf, convFields] at hw
  show decode (encE 61 5 d.code (v7 v) la :: two (extE 0 hv.code 0 0 0)) = .ok (.fulfil d v hv la)
  refine (decode_len1 61 2 (by simp [majorOf, lenOf]) (by simp [majorOf, lenOf]) rfl rfl).trans ?_
  refine (decodeMajor_3D (by simp [majorOf, lenOf])).trans ?_
  simp [decBarrier, noLa, lenOf, extZero, memFields, offField, copyP4, need, *]

theorem RoundTrip.abandon (d : Sel) (v : VReg) (la : BitVec 4) : Statement (.abandon d v la) := by
  intro _ hw
  have hw : (d.writable) = true := hw
  try simp [memFields, offField, copyP4, rmOf, convFields] at hw
  show decode (encE 61 6 d.code (v7 v) la :: two 0) = .ok (.abandon d v la)
  refine (decode_len1 61 2 (by simp [majorOf, lenOf]) (by simp [majorOf, lenOf]) rfl rfl).trans ?_
  refine (decodeMajor_3D (by simp [majorOf, lenOf])).trans ?_
  simp [decBarrier, noLa, lenOf, extZero, memFields, offField, copyP4, need, *]

theorem RoundTrip.unpin (d : Sel) (v : VReg) (la : BitVec 4) : Statement (.unpin d v la) := by
  intro _ hw
  have hw : (d.writable) = true := hw
  try simp [memFields, offField, copyP4, rmOf, convFields] at hw
  show decode (encE 61 7 d.code (v7 v) la :: two 0) = .ok (.unpin d v la)
  refine (decode_len1 61 2 (by simp [majorOf, lenOf]) (by simp [majorOf, lenOf]) rfl rfl).trans ?_
  refine (decodeMajor_3D (by simp [majorOf, lenOf])).trans ?_
  simp [decBarrier, noLa, lenOf, extZero, memFields, offField, copyP4, need, *]

theorem RoundTrip.cpeek (d : Sel) (hd : Sel) (v : VReg) (la : BitVec 4) : Statement (.cpeek d hd v la) := by
  intro _ hw
  have hw : (d.writable && hd.writable) = true := hw
  try simp [memFields, offField, copyP4, rmOf, convFields] at hw
  show decode (encE 61 8 d.code (v7 v) la :: two (extE 0 hd.code 0 0 0)) = .ok (.cpeek d hd v la)
  refine (decode_len1 61 2 (by simp [majorOf, lenOf]) (by simp [majorOf, lenOf]) rfl rfl).trans ?_
  refine (decodeMajor_3D (by simp [majorOf, lenOf])).trans ?_
  simp [decBarrier, noLa, lenOf, extZero, memFields, offField, copyP4, need, *]

theorem RoundTrip.csrr (d : Sel) (n : Sel) : Statement (.csrr d n) := by
  intro _ hw
  have hw : (d.writable) = true := hw
  try simp [memFields, offField, copyP4, rmOf, convFields] at hw
  show decode ([encU 63 0 d.code n.code 0 0]) = .ok (.csrr d n)
  refine (decode_len0 63 5 (by simp [majorOf, lenOf]) (by simp [majorOf, lenOf]) rfl rfl).trans ?_
  refine (decodeMajor_3F (by simp [majorOf, lenOf])).trans ?_
  simp [decPriv, noLa, lenOf, extZero, memFields, offField, copyP4, need, *]

theorem RoundTrip.csrrLit (d : Sel) (n : Word) : Statement (.csrrLit d n) := by
  intro _ hw
  have hw : (d.writable) = true := hw
  try simp [memFields, offField, copyP4, rmOf, convFields] at hw
  show decode (encU 63 0 d.code 0 0 2 :: two n) = .ok (.csrrLit d n)
  refine (decode_len2 63 5 (by simp [majorOf, lenOf]) (by simp [majorOf, lenOf]) rfl rfl).trans ?_
  refine (decodeMajor_3F (by simp [majorOf, lenOf])).trans ?_
  simp [decPriv, noLa, lenOf, extZero, memFields, offField, copyP4, need, *]

theorem RoundTrip.csrw (n : Sel) (s : Sel) : Statement (.csrw n s) := by
  intro _ hw
  show decode ([encU 63 1 s.code n.code 0 0]) = .ok (.csrw n s)
  refine (decode_len0 63 5 (by simp [majorOf, lenOf]) (by simp [majorOf, lenOf]) rfl rfl).trans ?_
  refine (decodeMajor_3F (by simp [majorOf, lenOf])).trans ?_
  simp [decPriv, noLa, lenOf, extZero, memFields, offField, copyP4, need, *]

theorem RoundTrip.csrwLit (n : Word) (s : Sel) : Statement (.csrwLit n s) := by
  intro _ hw
  show decode (encU 63 1 s.code 0 0 2 :: two n) = .ok (.csrwLit n s)
  refine (decode_len2 63 5 (by simp [majorOf, lenOf]) (by simp [majorOf, lenOf]) rfl rfl).trans ?_
  refine (decodeMajor_3F (by simp [majorOf, lenOf])).trans ?_
  simp [decPriv, noLa, lenOf, extZero, memFields, offField, copyP4, need, *]

theorem RoundTrip.csrs (n : Sel) (s : Sel) : Statement (.csrs n s) := by
  intro _ hw
  show decode ([encU 63 2 s.code n.code 0 0]) = .ok (.csrs n s)
  refine (decode_len0 63 5 (by simp [majorOf, lenOf]) (by simp [majorOf, lenOf]) rfl rfl).trans ?_
  refine (decodeMajor_3F (by simp [majorOf, lenOf])).trans ?_
  simp [decPriv, noLa, lenOf, extZero, memFields, offField, copyP4, need, *]

theorem RoundTrip.csrsLit (n : Word) (s : Sel) : Statement (.csrsLit n s) := by
  intro _ hw
  show decode (encU 63 2 s.code 0 0 2 :: two n) = .ok (.csrsLit n s)
  refine (decode_len2 63 5 (by simp [majorOf, lenOf]) (by simp [majorOf, lenOf]) rfl rfl).trans ?_
  refine (decodeMajor_3F (by simp [majorOf, lenOf])).trans ?_
  simp [decPriv, noLa, lenOf, extZero, memFields, offField, copyP4, need, *]

theorem RoundTrip.csrc (n : Sel) (s : Sel) : Statement (.csrc n s) := by
  intro _ hw
  show decode ([encU 63 3 s.code n.code 0 0]) = .ok (.csrc n s)
  refine (decode_len0 63 5 (by simp [majorOf, lenOf]) (by simp [majorOf, lenOf]) rfl rfl).trans ?_
  refine (decodeMajor_3F (by simp [majorOf, lenOf])).trans ?_
  simp [decPriv, noLa, lenOf, extZero, memFields, offField, copyP4, need, *]

theorem RoundTrip.csrcLit (n : Word) (s : Sel) : Statement (.csrcLit n s) := by
  intro _ hw
  show decode (encU 63 3 s.code 0 0 2 :: two n) = .ok (.csrcLit n s)
  refine (decode_len2 63 5 (by simp [majorOf, lenOf]) (by simp [majorOf, lenOf]) rfl rfl).trans ?_
  refine (decodeMajor_3F (by simp [majorOf, lenOf])).trans ?_
  simp [decPriv, noLa, lenOf, extZero, memFields, offField, copyP4, need, *]

theorem RoundTrip.eret (a : Sel) : Statement (.eret a) := by
  intro _ hw
  show decode ([encU 63 4 0 a.code 0 0]) = .ok (.eret a)
  refine (decode_len0 63 5 (by simp [majorOf, lenOf]) (by simp [majorOf, lenOf]) rfl rfl).trans ?_
  refine (decodeMajor_3F (by simp [majorOf, lenOf])).trans ?_
  simp [decPriv, noLa, lenOf, extZero, memFields, offField, copyP4, need, *]

theorem RoundTrip.eretLit (a : Word) : Statement (.eretLit a) := by
  intro _ hw
  show decode (encU 63 4 0 0 0 2 :: two a) = .ok (.eretLit a)
  refine (decode_len2 63 5 (by simp [majorOf, lenOf]) (by simp [majorOf, lenOf]) rfl rfl).trans ?_
  refine (decodeMajor_3F (by simp [majorOf, lenOf])).trans ?_
  simp [decPriv, noLa, lenOf, extZero, memFields, offField, copyP4, need, *]

theorem RoundTrip.tlbw (a : Sel) (s : Sel) : Statement (.tlbw a s) := by
  intro _ hw
  show decode ([encU 63 5 s.code a.code 0 0]) = .ok (.tlbw a s)
  refine (decode_len0 63 5 (by simp [majorOf, lenOf]) (by simp [majorOf, lenOf]) rfl rfl).trans ?_
  refine (decodeMajor_3F (by simp [majorOf, lenOf])).trans ?_
  simp [decPriv, noLa, lenOf, extZero, memFields, offField, copyP4, need, *]

theorem RoundTrip.tlbwLit (a : Word) (s : Sel) : Statement (.tlbwLit a s) := by
  intro _ hw
  show decode (encU 63 5 s.code 0 0 2 :: two a) = .ok (.tlbwLit a s)
  refine (decode_len2 63 5 (by simp [majorOf, lenOf]) (by simp [majorOf, lenOf]) rfl rfl).trans ?_
  refine (decodeMajor_3F (by simp [majorOf, lenOf])).trans ?_
  simp [decPriv, noLa, lenOf, extZero, memFields, offField, copyP4, need, *]

theorem RoundTrip.tlbi (a : Sel) (s : Sel) : Statement (.tlbi a s) := by
  intro _ hw
  show decode ([encU 63 6 s.code a.code 0 0]) = .ok (.tlbi a s)
  refine (decode_len0 63 5 (by simp [majorOf, lenOf]) (by simp [majorOf, lenOf]) rfl rfl).trans ?_
  refine (decodeMajor_3F (by simp [majorOf, lenOf])).trans ?_
  simp [decPriv, noLa, lenOf, extZero, memFields, offField, copyP4, need, *]

theorem RoundTrip.tlbiLit (a : Word) (s : Sel) : Statement (.tlbiLit a s) := by
  intro _ hw
  show decode (encU 63 6 s.code 0 0 2 :: two a) = .ok (.tlbiLit a s)
  refine (decode_len2 63 5 (by simp [majorOf, lenOf]) (by simp [majorOf, lenOf]) rfl rfl).trans ?_
  refine (decodeMajor_3F (by simp [majorOf, lenOf])).trans ?_
  simp [decPriv, noLa, lenOf, extZero, memFields, offField, copyP4, need, *]

theorem RoundTrip.wake (a : Sel) : Statement (.wake a) := by
  intro _ hw
  show decode ([encU 63 7 0 a.code 0 0]) = .ok (.wake a)
  refine (decode_len0 63 5 (by simp [majorOf, lenOf]) (by simp [majorOf, lenOf]) rfl rfl).trans ?_
  refine (decodeMajor_3F (by simp [majorOf, lenOf])).trans ?_
  simp [decPriv, noLa, lenOf, extZero, memFields, offField, copyP4, need, *]

theorem RoundTrip.wakeLit (a : Word) : Statement (.wakeLit a) := by
  intro _ hw
  show decode (encU 63 7 0 0 0 2 :: two a) = .ok (.wakeLit a)
  refine (decode_len2 63 5 (by simp [majorOf, lenOf]) (by simp [majorOf, lenOf]) rfl rfl).trans ?_
  refine (decodeMajor_3F (by simp [majorOf, lenOf])).trans ?_
  simp [decPriv, noLa, lenOf, extZero, memFields, offField, copyP4, need, *]

theorem RoundTrip.leaseq (d : Sel) (a : Sel) : Statement (.leaseq d a) := by
  intro _ hw
  have hw : (d.writable) = true := hw
  try simp [memFields, offField, copyP4, rmOf, convFields] at hw
  show decode ([encU 63 8 d.code a.code 0 0]) = .ok (.leaseq d a)
  refine (decode_len0 63 5 (by simp [majorOf, lenOf]) (by simp [majorOf, lenOf]) rfl rfl).trans ?_
  refine (decodeMajor_3F (by simp [majorOf, lenOf])).trans ?_
  simp [decPriv, noLa, lenOf, extZero, memFields, offField, copyP4, need, *]

theorem RoundTrip.leaseqLit (d : Sel) (a : Word) : Statement (.leaseqLit d a) := by
  intro _ hw
  have hw : (d.writable) = true := hw
  try simp [memFields, offField, copyP4, rmOf, convFields] at hw
  show decode (encU 63 8 d.code 0 0 2 :: two a) = .ok (.leaseqLit d a)
  refine (decode_len2 63 5 (by simp [majorOf, lenOf]) (by simp [majorOf, lenOf]) rfl rfl).trans ?_
  refine (decodeMajor_3F (by simp [majorOf, lenOf])).trans ?_
  simp [decPriv, noLa, lenOf, extZero, memFields, offField, copyP4, need, *]
theorem RoundTrip.vsendPlacement (n : Nat) : Statement (.vsendPlacement n) := by intro h; cases h
theorem RoundTrip.chunkCommit (n : Nat) : Statement (.chunkCommit n) := by intro h; cases h
theorem RoundTrip.soloCommitGrant (n : Nat) : Statement (.soloCommitGrant n) := by intro h; cases h
theorem RoundTrip.chunkInstructionLimit (n : Nat) : Statement (.chunkInstructionLimit n) := by intro h; cases h
theorem RoundTrip.storeBufferFull (n : Nat) : Statement (.storeBufferFull n) := by intro h; cases h
theorem RoundTrip.loadReply (n : Nat) (data : Reply) : Statement (.loadReply n data) := by intro h; cases h
theorem RoundTrip.atomicApplication (pkg : BitVec 10) (who : Issuer) (tag : Nat) (bit : Nat) (w : Cls) (op : Option AOp) (v : Word) (e : Word) : Statement (.atomicApplication pkg who tag bit w op v e) := by intro h; cases h
theorem RoundTrip.atomicReply (n : Nat) (data : Reply) : Statement (.atomicReply n data) := by intro h; cases h
theorem RoundTrip.copyCommandAcceptance (core : Nat) : Statement (.copyCommandAcceptance core) := by intro h; cases h
theorem RoundTrip.copySectorWrite (core : Nat) : Statement (.copySectorWrite core) := by intro h; cases h
theorem RoundTrip.copyCommandCompletion (core : Nat) : Statement (.copyCommandCompletion core) := by intro h; cases h
theorem RoundTrip.matrixCommandAcceptance (core : Nat) : Statement (.matrixCommandAcceptance core) := by intro h; cases h
theorem RoundTrip.matrixCommandStart (core : Nat) : Statement (.matrixCommandStart core) := by intro h; cases h
theorem RoundTrip.matrixCommandCompletion (core : Nat) : Statement (.matrixCommandCompletion core) := by intro h; cases h
theorem RoundTrip.remoteCommandArrival (owner : Nat) (sender : Nat) (ctx : BitVec 8) (cap : Word) (image : BitVec 1024) : Statement (.remoteCommandArrival owner sender ctx cap image) := by intro h; cases h
theorem RoundTrip.steal (thief : Nat) : Statement (.steal thief) := by intro h; cases h
theorem RoundTrip.spanSplit (thief : Nat) : Statement (.spanSplit thief) := by intro h; cases h
theorem RoundTrip.taskEnd (n : Nat) : Statement (.taskEnd n) := by intro h; cases h
theorem RoundTrip.workSearchRetry (n : Nat) : Statement (.workSearchRetry n) := by intro h; cases h
theorem RoundTrip.messageFrameArrival (f : Frame) : Statement (.messageFrameArrival f) := by intro h; cases h
theorem RoundTrip.inboxSpill (core : Nat) : Statement (.inboxSpill core) := by intro h; cases h
theorem RoundTrip.inboxReplay (core : Nat) : Statement (.inboxReplay core) := by intro h; cases h
theorem RoundTrip.sendmAcceptTimeout (n : Nat) (tok : BitVec 6) : Statement (.sendmAcceptTimeout n tok) := by intro h; cases h
theorem RoundTrip.stageGovernorEvaluation (launch : Nat) : Statement (.stageGovernorEvaluation launch) := by intro h; cases h
theorem RoundTrip.stageCoreMove (core : Nat) : Statement (.stageCoreMove core) := by intro h; cases h
theorem RoundTrip.tailwindBinChange (tile : Nat) : Statement (.tailwindBinChange tile) := by intro h; cases h
theorem RoundTrip.codeWaitExpiry (n : Nat) : Statement (.codeWaitExpiry n) := by intro h; cases h
theorem RoundTrip.codeSourceAnswer (req : Nat) (a : SourceAnswer) : Statement (.codeSourceAnswer req a) := by intro h; cases h
theorem RoundTrip.codeSourceTimeLimit (req : Nat) : Statement (.codeSourceTimeLimit req) := by intro h; cases h
theorem RoundTrip.codeTranslationEnd (req : Nat) : Statement (.codeTranslationEnd req) := by intro h; cases h
theorem RoundTrip.codeInstall (req : Nat) : Statement (.codeInstall req) := by intro h; cases h
theorem RoundTrip.coldTextFetch (handle : Nat) : Statement (.coldTextFetch handle) := by intro h; cases h
theorem RoundTrip.codePoisonRefetch (n : Nat) (clean : Bool) : Statement (.codePoisonRefetch n clean) := by intro h; cases h
theorem RoundTrip.codeShelfRead (req : Nat) (bucket : BitVec 512) (item : List Byte) : Statement (.codeShelfRead req bucket item) := by intro h; cases h
theorem RoundTrip.codeRequestFlit (req : Nat) (a : CodeFlit) : Statement (.codeRequestFlit req a) := by intro h; cases h
theorem RoundTrip.tlbMiss (n : Nat) : Statement (.tlbMiss n) := by intro h; cases h
theorem RoundTrip.tlbProbe (w : WalkId) (size : BitVec 2) : Statement (.tlbProbe w size) := by intro h; cases h
theorem RoundTrip.tlbProbeReply (w : WalkId) (size : BitVec 2) (entry : Option (BitVec 128)) : Statement (.tlbProbeReply w size entry) := by intro h; cases h
theorem RoundTrip.tlbFill (w : WalkId) (entry : BitVec 128) : Statement (.tlbFill w entry) := by intro h; cases h
theorem RoundTrip.tlbFail (w : WalkId) : Statement (.tlbFail w) := by intro h; cases h
theorem RoundTrip.queueNotify (q : Nat) (port : Option Nat) : Statement (.queueNotify q port) := by intro h; cases h
theorem RoundTrip.queuePeriodicScan (q : Nat) : Statement (.queuePeriodicScan q) := by intro h; cases h
theorem RoundTrip.partitionServiceRound : Statement (.partitionServiceRound) := by intro h; cases h
theorem RoundTrip.leaseResident (launch : Nat) : Statement (.leaseResident launch) := by intro h; cases h
theorem RoundTrip.launchBind (launch : Nat) : Statement (.launchBind launch) := by intro h; cases h
theorem RoundTrip.launchForward (q : Nat) (record : LaunchMsg) (args : List Word) : Statement (.launchForward q record args) := by intro h; cases h
theorem RoundTrip.memberReport (launch : Nat) (pkg : BitVec 10) (status : BitVec 8) (cause : BitVec 8) (field : BitVec 16) (addr : Word) (extra : Word) : Statement (.memberReport launch pkg status cause field addr extra) := by intro h; cases h
theorem RoundTrip.launchEnd (launch : Nat) : Statement (.launchEnd launch) := by intro h; cases h
theorem RoundTrip.leaseDrained (launch : Nat) : Statement (.leaseDrained launch) := by intro h; cases h
theorem RoundTrip.launchPreemption (part : Nat) : Statement (.launchPreemption part) := by intro h; cases h
theorem RoundTrip.lanternFrameStart (tile : Nat) (thr : Nat) : Statement (.lanternFrameStart tile thr) := by intro h; cases h
theorem RoundTrip.lanternSlotBoundary (tile : Nat) (thr : Nat) : Statement (.lanternSlotBoundary tile thr) := by intro h; cases h
theorem RoundTrip.trapDelivery (n : Nat) (cause : BitVec 8) (addr : Word) (extra : Word) : Statement (.trapDelivery n cause addr extra) := by intro h; cases h
theorem RoundTrip.trapHandlerStart (tile : Nat) : Statement (.trapHandlerStart tile) := by intro h; cases h
theorem RoundTrip.lanternThreadFault (n : Nat) (cause : BitVec 8) (addr : Word) (extra : Word) : Statement (.lanternThreadFault n cause addr extra) := by intro h; cases h
theorem RoundTrip.preemptionRequest (ctx : BitVec 8) : Statement (.preemptionRequest ctx) := by intro h; cases h
theorem RoundTrip.strandPreemption (n : Nat) : Statement (.strandPreemption n) := by intro h; cases h
theorem RoundTrip.contextSave (ctx : BitVec 8) : Statement (.contextSave ctx) := by intro h; cases h
theorem RoundTrip.contextRestore (ctx : BitVec 8) : Statement (.contextRestore ctx) := by intro h; cases h
theorem RoundTrip.ctxResident (ctx : BitVec 8) : Statement (.ctxResident ctx) := by intro h; cases h
theorem RoundTrip.ctxSuspend (ctx : BitVec 8) : Statement (.ctxSuspend ctx) := by intro h; cases h
theorem RoundTrip.ctxResume (ctx : BitVec 8) : Statement (.ctxResume ctx) := by intro h; cases h
theorem RoundTrip.ctxSwapOut (ctx : BitVec 8) : Statement (.ctxSwapOut ctx) := by intro h; cases h
theorem RoundTrip.ctxTeardown (ctx : BitVec 8) : Statement (.ctxTeardown ctx) := by intro h; cases h
theorem RoundTrip.ctxTeardownComplete (ctx : BitVec 8) : Statement (.ctxTeardownComplete ctx) := by intro h; cases h
theorem RoundTrip.ctxdescWrite (ctx : BitVec 8) (v : Word) : Statement (.ctxdescWrite ctx v) := by intro h; cases h
theorem RoundTrip.icwaysWrite (tile : Nat) (ctx : BitVec 8) (v : Word) : Statement (.icwaysWrite tile ctx v) := by intro h; cases h
theorem RoundTrip.hstatWrite (unit : Nat) (v : Word) : Statement (.hstatWrite unit v) := by intro h; cases h
theorem RoundTrip.lfstatWrite (thread : Nat) (v : Word) : Statement (.lfstatWrite thread v) := by intro h; cases h
theorem RoundTrip.hwinWrite (v : Word) : Statement (.hwinWrite v) := by intro h; cases h
theorem RoundTrip.ptbitsWrite (v : Word) : Statement (.ptbitsWrite v) := by intro h; cases h
theorem RoundTrip.claimbaseWrite (ctx : BitVec 8) (v : Word) : Statement (.claimbaseWrite ctx v) := by intro h; cases h
theorem RoundTrip.claimlenWrite (ctx : BitVec 8) (v : Word) : Statement (.claimlenWrite ctx v) := by intro h; cases h
theorem RoundTrip.registerWrite (num : Nat) (scope : Nat) (v : Word) : Statement (.registerWrite num scope v) := by intro h; cases h
theorem RoundTrip.hleaseRenew (port : Nat) : Statement (.hleaseRenew port) := by intro h; cases h
theorem RoundTrip.hleasePeriodWrite (port : Nat) (v : Word) : Statement (.hleasePeriodWrite port v) := by intro h; cases h
theorem RoundTrip.hostLeaseExpiry : Statement (.hostLeaseExpiry) := by intro h; cases h
theorem RoundTrip.dualEnable : Statement (.dualEnable) := by intro h; cases h
theorem RoundTrip.dualClear : Statement (.dualClear) := by intro h; cases h
theorem RoundTrip.portLinkDown (port : Nat) : Statement (.portLinkDown port) := by intro h; cases h
theorem RoundTrip.portEnumeration (port : Nat) (found : List (BitVec 256)) : Statement (.portEnumeration port found) := by intro h; cases h
theorem RoundTrip.bar2Write (port : Nat) (off : BarAt) (data : Tlp) : Statement (.bar2Write port off data) := by intro h; cases h
theorem RoundTrip.bar2Read (port : Nat) (off : BarAt) (len : Nat) : Statement (.bar2Read port off len) := by intro h; cases h
theorem RoundTrip.inboundWrite (port : Nat) (fn : Nat) (addr : Nat) (data : List Byte) (poisoned : Bool) : Statement (.inboundWrite port fn addr data poisoned) := by intro h; cases h
theorem RoundTrip.inboundRead (port : Nat) (fn : Nat) (addr : Nat) (len : Nat) : Statement (.inboundRead port fn addr len) := by intro h; cases h
theorem RoundTrip.iostAcceptance (port : Nat) : Statement (.iostAcceptance port) := by intro h; cases h
theorem RoundTrip.ioldCompletion (n : Nat) (data : Word) (error : Bool) : Statement (.ioldCompletion n data error) := by intro h; cases h
theorem RoundTrip.ioldTimeout (n : Nat) : Statement (.ioldTimeout n) := by intro h; cases h
theorem RoundTrip.remoteAccessArrival (pkg : BitVec 10) (who : Issuer) (tag : Nat) (bit : Nat) (w : Cls) (store : Option FarData) : Statement (.remoteAccessArrival pkg who tag bit w store) := by intro h; cases h
theorem RoundTrip.remoteReplyTimeout (n : Nat) : Statement (.remoteReplyTimeout n) := by intro h; cases h
theorem RoundTrip.flitRetry (link : Nat) : Statement (.flitRetry link) := by intro h; cases h
theorem RoundTrip.podLinkDown (link : Nat) : Statement (.podLinkDown link) := by intro h; cases h
theorem RoundTrip.flitForward (dest : BitVec 10) (hops : Nat) (body : Nat) : Statement (.flitForward dest hops body) := by intro h; cases h
theorem RoundTrip.routeFailover (dest : BitVec 10) : Statement (.routeFailover dest) := by intro h; cases h
theorem RoundTrip.ckptStart : Statement (.ckptStart) := by intro h; cases h
theorem RoundTrip.checkpointQuiesced : Statement (.checkpointQuiesced) := by intro h; cases h
theorem RoundTrip.checkpointQuiesceTimeout : Statement (.checkpointQuiesceTimeout) := by intro h; cases h
theorem RoundTrip.checkpointWritten : Statement (.checkpointWritten) := by intro h; cases h
theorem RoundTrip.checkpointWriteError : Statement (.checkpointWriteError) := by intro h; cases h
theorem RoundTrip.checkpointFlushed : Statement (.checkpointFlushed) := by intro h; cases h
theorem RoundTrip.ckptRestore : Statement (.ckptRestore) := by intro h; cases h
theorem RoundTrip.restoreComplete (image : Option (List (Nat × Byte))) : Statement (.restoreComplete image) := by intro h; cases h
theorem RoundTrip.attestationNonceWrite (i : BitVec 3) (v : Word) : Statement (.attestationNonceWrite i v) := by intro h; cases h
theorem RoundTrip.attreq (v : Word) : Statement (.attreq v) := by intro h; cases h
theorem RoundTrip.attestationReportReady : Statement (.attestationReportReady) := by intro h; cases h
theorem RoundTrip.powerOn (p : PowerUp) : Statement (.powerOn p) := by intro h; cases h
theorem RoundTrip.thermalHalt : Statement (.thermalHalt) := by intro h; cases h
theorem RoundTrip.thermalLimit (tile : Nat) : Statement (.thermalLimit tile) := by intro h; cases h
theorem RoundTrip.throttleBinStep (core : Nat) : Statement (.throttleBinStep core) := by intro h; cases h
theorem RoundTrip.correctedError (unit : Nat) (addr : Nat) : Statement (.correctedError unit addr) := by intro h; cases h
theorem RoundTrip.uncorrectableError (unit : Nat) (bit : Nat) (src : ErrSource) : Statement (.uncorrectableError unit bit src) := by intro h; cases h
theorem RoundTrip.strandStateError (n : Nat) (recoverable : Bool) : Statement (.strandStateError n recoverable) := by intro h; cases h
theorem RoundTrip.patrolScrub (bit : Nat) : Statement (.patrolScrub bit) := by intro h; cases h
theorem RoundTrip.barometerDecay (tile : Nat) : Statement (.barometerDecay tile) := by intro h; cases h
theorem RoundTrip.wearUpdate (unit : Nat) : Statement (.wearUpdate unit) := by intro h; cases h
theorem RoundTrip.trustListChange (part : Nat) : Statement (.trustListChange part) := by intro h; cases h
theorem RoundTrip.powerFailure : Statement (.powerFailure) := by intro h; cases h
theorem RoundTrip.thermalLimitCleared (tile : Nat) : Statement (.thermalLimitCleared tile) := by intro h; cases h
theorem RoundTrip.iostFailedBeyondPort (port : Nat) (ctx : BitVec 8) (addr : Word) : Statement (.iostFailedBeyondPort port ctx addr) := by intro h; cases h
theorem RoundTrip.claimRequestArrival (r : ClaimReq) : Statement (.claimRequestArrival r) := by intro h; cases h
theorem RoundTrip.inboundAtomicop (port : Nat) (fn : Nat) (addr : Nat) (wide : Bool) (op : HostAtomic) (v : Word) (e : Word) : Statement (.inboundAtomicop port fn addr wide op v e) := by intro h; cases h
theorem RoundTrip.ioQueuePairCreation (port : Nat) (fn : Nat) (depth : Nat) (sq : Word) (cq : Word) : Statement (.ioQueuePairCreation port fn depth sq cq) := by intro h; cases h
theorem RoundTrip.rollbackFuseBlow (count : Nat) : Statement (.rollbackFuseBlow count) := by intro h; cases h

end Sys2Proof.Laws
end

