-- ==== Sys2Proof/Tests/Slice0.lean ====
section
/-! SUPPORT. Small tests: ill-formed terms that WellFormed refuses, words written out from the tables of
spec/ that decode to their instructions, the worked examples of the spec, and for every statement with
hypotheses a witness that meets them all (meets_<the statement or its part>). -/

namespace Sys2Proof.Tests
open Sys2Proof.Machine

-- One test after another: each waits for the kernel, and waiting threads keep their stacks.
set_option Elab.async false

/-- Whether each list of words decodes to its instruction. -/
noncomputable def shows (l : List (List CodeWord × Instr)) : Bool :=
  l.all fun p => match decode p.1 with
    | .ok i => decide (i = p.2)
    | .error _ => false

/-! A small state: one strand of context 0, ready in slot 0 of core 0 at word 0 of object 1, whose text has 64 words. -/

/-- Registers with some operands set, at word 0 of object 1. -/
def regsAt (x : List (Nat × Word)) : Regs := { Regs.zero with x := x, handle := 1 }

/-- A slot bound to launch 0 with a scratchpad of 2^16 bits. -/
def slotBind : Binding := { Binding.none with valid := true, spSize := 65536, quota := 16, sp0 := 65536, stk := 32768 }

/-- A ready strand. -/
def strandAt (r : Regs) : Strand := { Strand.reset with status := .ready, regs := r, chunk := Chunk.start r, bind := slotBind }

/-- Sixty-four words of hot text at bit 2^20 of HBM. -/
def text64 : Obj := { placedObj with hotLen := 64, base := 2 ^ 20, hotBits := 2048 }

/-- A ready context. -/
def ctx0 : Ctx := { Ctx.reset with state := .resident }

/-- The state of one strand. -/
def oneStrand (t : Strand) : State := { State.reset with strands := [(0, t)], objs := [(1, text64)], ctxs := [(0, ctx0)] }

/-- The state of a strand with some operands set. -/
def small (x : List (Nat × Word)) : State := oneStrand (strandAt (regsAt x))

/-- Whether an operation that can stop answers a value. -/
def okIs {α : Type} [DecidableEq α] (r : Res α) (a : α) : Bool :=
  match r with
  | .ok b => b == a
  | .error _ => false

theorem ok_of {α : Type} [DecidableEq α] {r : Res α} {a : α} (h : okIs r a = true) : r = .ok a := by
  cases r with
  | ok b => exact congrArg Except.ok (by simpa [okIs] using h)
  | error e => simp [okIs] at h

/-- Whether an operation stops for a reason. -/
def stopIs {α : Type} (r : Res α) (e : Stop) : Bool :=
  match r with
  | .ok _ => false
  | .error d => d == e

theorem stop_of {α : Type} {r : Res α} {e : Stop} (h : stopIs r e = true) : r = .error e := by
  cases r with
  | ok b => simp [stopIs] at h
  | error d => exact congrArg Except.error (by simpa [stopIs] using h)


/-! Ill-formed terms: each check refuses one. -/

theorem test_ill_formed_destinations : [Instr.add .clk (.g 1) (.g 2), .addLit (.z 0) (.g 1) 0, .fsqrt .lp (.g 1), .movLit .tp 0,
    .addi (.w 1) (.g 1) 0, .shli (.c 0) (.g 1) 3, .padd (.mb 0) (.g 1) (.lit 0) .w8, .paln .sid (.g 1) .w8,
    .enq .cid (.g 1), .enqLit .slo 0, .tpoll .shi 0 0, .twaita (.z 1) (.g 1) false 0, .mgetg .clk 0 0, .bari .clk (.g 1) (.g 2) 0,
    .bara .clk (.g 1) 0, .claim (.g 1) .clk 0 0, .claim .clk (.g 1) 0 0, .fulfil .clk 0 (.g 1) 0, .abandon .clk 0 0, .csrr .clk (.g 1),
    .csrrLit .clk 0, .ldp 0 .w8 (.g 1) .clk 0, .ldpExt 0 .w8 (.g 1) .clk 0 0 (.g 0) false, .iold 0 .w8 (.g 1) .clk 0,
    .amo 0 .w64 (.g 1) .clk 0 true .add 0 (.g 2), .cas 0 .w64 (.g 1) .clk 0 true 0 (.g 2), .vmovs .s8 .clk 0 0,
    .vred .s8 0 0 .clk 0 .ne false, .mcnt .s8 .clk 0, .fcvt .clk (.lit 0) .s32 .f32 0, .wget .clk 0 0 0].all
    (fun i => !WellFormed i) = true := by decide

theorem test_ill_formed_fields : [Instr.extb (.g 1) (.g 2) (.lit 0) 3 0, .insb (.g 1) (.g 2) (.lit 0) 60 5,
    .fcvt (.g 1) (.lit 0) .s32 .s16 2, .fcvt (.g 1) (.lit 0) .f32 .s16 5, .fcvt (.g 1) (.lit 0) .n64 .n64 0, .fcvt (.g 1) (.lit 0) .e4m3 .f32 0,
    .bwend (.g 1) (.g 2) 0, .bwendLit (.g 1) 0 0, .wget (.g 1) 0 9 0, .range .sp, .ldg 0 .w128 (.g 1) (.g 2) 0,
    .ldgExt 1 .w8 (.g 1) (.g 2) 0 8 (.g 0) false, .ldkExt 0 .w8 (.g 1) (.g 2) 0 8 (.g 1) false, .stp 0 .w256 (.g 1) (.g 2),
    .stgExt 2 .w8 (.g 1) (.g 2) 8 (.g 0), .vldp 0 .w64 (.g 1) 0 0, .vldgExt 1 .w128 (.g 1) 0 0 8, .vstp 0 .w64 (.g 1) 0,
    .vstgExt 3 .w128 (.g 1) 0 8 (.g 2), .vgath .w128 (.g 1) 0 0 0 (.g 2), .vscat .w1024 (.g 1) 0 0 (.g 2), .iold 0 .w4 (.g 1) (.g 2) 0,
    .ioldExt 1 .w8 (.g 1) (.g 2) 0 8 (.g 0), .iost 0 .w3 (.g 1) (.g 2) 0 (.g 0),
    .cpy 0 0 (.g 1) (.g 2) (.g 3) (.g 4) ⟨false, .ne, false, false, .ty .s8, .ty .s8⟩,
    .cpyr 0 0 (.g 1) (.g 2) (.g 3) (.g 0) ⟨false, .ne, false, false, .ty .s4, .ty .s8⟩,
    .cpys 0 0 1 (.g 2) (.g 3) (.g 0) (.g 4) ⟨false, .ne, true, false, .ty .s8, .ty .s8⟩].all (fun i => !WellFormed i) = true := by decide

theorem test_ill_formed_vectors : [Instr.vadd .e4m3 0 0 0 0 .ne, .vadd .s8 0 0 0 0 .tz, .vfma .e5m2 0 0 0 0 0 .ne, .vmin .e4m3 0 0 0 0,
    .vminn .s8 0 0 0 0, .vadds .f32 0 0 0 0, .vabs .f32 0 0 0 true, .vnot .f32 0 0 0, .vclass .s8 0 0 0, .vshl .bf16 0 0 0 (.imm 1),
    .vcmpeq .e4m3 0 0 0 0, .vshuf .s4 .n8 0 0 0 0, .vshuf .f32 .n32 0 0 0 0, .vshuf .s8 .n16 0 0 0 0, .vbcast .e4m3 0 0 (.g 0), .vidx .f32 0 0 (.g 0),
    .vslide .f32 0 0 0 0 33, .vmovs .f32 (.g 0) 0 32, .vmovv .s64 0 (.g 0) 16, .vpack .s16 .s8 0 0 0 0 false, .vpack .s8 .s16 0 0 0 128 false,
    .vunpk .s8 .s16 0 0 0 0 false, .vred .s8 0 3 (.g 0) 0 .ne false, .vred .f32 0 5 (.g 0) 0 .ne false, .vred .s8 0 8 (.g 0) 0 .ne false,
    .vred .s8 0 0 (.g 0) 0 .tz false, .vcvt .s8 .s16 0 0 0 0 0 .tz false, .vcvt .f32 .s16 0 0 0 0 0 .ne true, .vcvt .f32 .s16 0 0 0 0 128 .ne false,
    .vqnt .s16 .f32 0 0 0 0 .g32 0 .ne, .vqdiv .s8 .s16 0 0 0 0 .g32 0 .ne, .vdqnt .s8 .s8 0 0 0 0 .g32 0 .ne, .vsend 0 0 false (.g 0),
    .vsend 0 1 true (.g 0), .vsend 0 2 false (.g 1), .vitp .f32 .f16 0 0 .vin 0 .ne, .mwld 0 0 0 (.g 0) (.g 0) (.g 0) (.ty .f32) false,
    .mstrm 0 0 0 (.g 0) (.g 0) (.g 0) (.ty .f32) false false, .mgrp 0 0 0 (.g 0) (.g 0) (.g 0) (.ty .s16) (.ty .s8) false,
    .mgrp 0 0 0 (.g 0) (.g 0) (.g 0) (.ty .s8) (.ty .f32) false, .mdrn 0 0 (.g 0) (.g 0) (.g 1) (.ty .f32) .ne false false false false,
    .mdrn 0 0 (.g 0) (.g 0) (.g 0) (.grouped .q4 .g32) .ne false false false false, .addw 0 0 (.g 0) (.g 0) (.g 0) (.ty .s8),
    .wnorm 0 0 (.g 0) (.g 0) (.g 0) (.ty .s8) .ne, .amo 0 .w8 (.g 0) (.g 0) 0 true .fadd 0 (.g 0), .amo 0 .w128 (.g 0) (.g 0) 0 true .add 0 (.g 0),
    .red 0 .w32 (.g 0) true .bfadd 0 (.g 0), .red 1 .w32 (.g 0) true .add 8 (.g 0), .cas 0 .w128 (.g 0) (.g 0) 0 true 0 (.g 0)].all
    (fun i => !WellFormed i) = true := by decide

theorem test_well_formed : [Instr.add (.g 63) .shi .lp, .extb (.g 1) (.g 2) (.lit 0) 0 64, .insb (.g 1) (.g 2) (.lit 0) 59 5, .wget .nil 7 8 15,
    .fcvt (.g 1) (.lit 0) .f32 .n64 4, .ldgExt 0 .w64 .fp (.g 2) 0 8 (.g 0) true, .ldgExt 2 .w3 (.g 1) (.g 2) 0 0 (.g 9) false, .vslide .f32 0 0 0 0 32,
    .vmovs .s64 (.g 0) 0 15, .vcvt .f32 .s16 0 0 0 0 127 .up false, .vsend 0 4 true (.g 7)].all WellFormed = true := by decide

/-- Whether each list of words is rejected with its reason code of R65. -/
noncomputable def refuses (l : List (List CodeWord × Nat)) : Bool :=
  l.all fun p => match decode p.1 with
    | .error (.reason r) => r == p.2
    | .error (.late r _) => r == p.2
    | _ => false

/-- Reserved majors and functions, lengths a major does not take, fields that must be zero, reserved types, classes and modes,
selectors that may not be written, and LA where nothing is pending (R65). -/
theorem test_rejected_words : refuses [([0x00000000], 1), ([0x0000003C], 1), ([0x000000F8], 1), ([0xE0000010], 3), ([0x0240002C], 3),
    ([0x02000074], 3), ([0x00000005, 0, 0], 2), ([0x00000061, 0, 0], 2), ([0x1000002C], 4), ([0x40000024], 4), ([0x00008032, 5, 0], 4),
    ([0x12848435, 0x218C, 0], 4), ([0x00000035, 0x0FFD, 0], 4), ([0x3C000080], 5), ([0x34000080], 5), ([0x00C10239, 15, 0], 5),
    ([0x00004E04], 6), ([0x00004804], 6), ([0x00007F04], 6), ([0x00000174], 4), ([0x00000170], 9)] = true := by decide

theorem test_decode_major_01_1 : shows [
    ([0x02419404], .add (.g 20) (.g 3) (.g 9)),
    ([0x00019406, 0x9ABCDEF0, 0x12345678], .addLit (.g 20) (.g 3) 0x123456789ABCDEF0),
    ([0x22821504], .sub (.g 21) (.g 4) (.g 10)),
    ([0x20021506, 0x9ABCDEF0, 0x12345678], .subLit (.g 21) (.g 4) 0x123456789ABCDEF0),
    ([0x42C29604], .and (.g 22) (.g 5) (.g 11)),
    ([0x40029606, 0x9ABCDEF0, 0x12345678], .andLit (.g 22) (.g 5) 0x123456789ABCDEF0),
    ([0x63031704], .or (.g 23) (.g 6) (.g 12)),
    ([0x60031706, 0x9ABCDEF0, 0x12345678], .orLit (.g 23) (.g 6) 0x123456789ABCDEF0),
    ([0x83439804], .xor (.g 24) (.g 7) (.g 13)),
    ([0x80039806, 0x9ABCDEF0, 0x12345678], .xorLit (.g 24) (.g 7) 0x123456789ABCDEF0),
    ([0xA3841904], .andn (.g 25) (.g 8) (.g 14)),
    ([0xA0041906, 0x9ABCDEF0, 0x12345678], .andnLit (.g 25) (.g 8) 0x123456789ABCDEF0),
    ([0xC3C49A04], .min (.g 26) (.g 9) (.g 15)),
    ([0xC0049A06, 0x9ABCDEF0, 0x12345678], .minLit (.g 26) (.g 9) 0x123456789ABCDEF0)] = true := by decide

theorem test_decode_major_01_2 : shows [
    ([0xE4051B04], .max (.g 27) (.g 10) (.g 16)),
    ([0xE0051B06, 0x9ABCDEF0, 0x12345678], .maxLit (.g 27) (.g 10) 0x123456789ABCDEF0)] = true := by decide

theorem test_decode_major_02_1 : shows [
    ([0x02419408], .minu (.g 20) (.g 3) (.g 9)),
    ([0x0001940A, 0x9ABCDEF0, 0x12345678], .minuLit (.g 20) (.g 3) 0x123456789ABCDEF0),
    ([0x22821508], .maxu (.g 21) (.g 4) (.g 10)),
    ([0x2002150A, 0x9ABCDEF0, 0x12345678], .maxuLit (.g 21) (.g 4) 0x123456789ABCDEF0),
    ([0x42C29608], .shl (.g 22) (.g 5) (.g 11)),
    ([0x4002960A, 0x9ABCDEF0, 0x12345678], .shlLit (.g 22) (.g 5) 0x123456789ABCDEF0),
    ([0x63031708], .shr (.g 23) (.g 6) (.g 12)),
    ([0x6003170A, 0x9ABCDEF0, 0x12345678], .shrLit (.g 23) (.g 6) 0x123456789ABCDEF0),
    ([0x83439808], .shra (.g 24) (.g 7) (.g 13)),
    ([0x8003980A, 0x9ABCDEF0, 0x12345678], .shraLit (.g 24) (.g 7) 0x123456789ABCDEF0),
    ([0xA3841908], .rot (.g 25) (.g 8) (.g 14)),
    ([0xA004190A, 0x9ABCDEF0, 0x12345678], .rotLit (.g 25) (.g 8) 0x123456789ABCDEF0),
    ([0xC3C49A08], .mul (.g 26) (.g 9) (.g 15)),
    ([0xC0049A0A, 0x9ABCDEF0, 0x12345678], .mulLit (.g 26) (.g 9) 0x123456789ABCDEF0)] = true := by decide

theorem test_decode_major_02_2 : shows [
    ([0xE4051B08], .mulh (.g 27) (.g 10) (.g 16)),
    ([0xE0051B0A, 0x9ABCDEF0, 0x12345678], .mulhLit (.g 27) (.g 10) 0x123456789ABCDEF0)] = true := by decide

theorem test_decode_major_03_1 : shows [
    ([0x0241940C], .mulhu (.g 20) (.g 3) (.g 9)),
    ([0x0001940E, 0x9ABCDEF0, 0x12345678], .mulhuLit (.g 20) (.g 3) 0x123456789ABCDEF0),
    ([0x2282150C], .div (.g 21) (.g 4) (.g 10)),
    ([0x2002150E, 0x9ABCDEF0, 0x12345678], .divLit (.g 21) (.g 4) 0x123456789ABCDEF0),
    ([0x42C2960C], .divu (.g 22) (.g 5) (.g 11)),
    ([0x4002960E, 0x9ABCDEF0, 0x12345678], .divuLit (.g 22) (.g 5) 0x123456789ABCDEF0),
    ([0x6303170C], .rem (.g 23) (.g 6) (.g 12)),
    ([0x6003170E, 0x9ABCDEF0, 0x12345678], .remLit (.g 23) (.g 6) 0x123456789ABCDEF0),
    ([0x8343980C], .remu (.g 24) (.g 7) (.g 13)),
    ([0x8003980E, 0x9ABCDEF0, 0x12345678], .remuLit (.g 24) (.g 7) 0x123456789ABCDEF0),
    ([0xA384190C], .seteq (.g 25) (.g 8) (.g 14)),
    ([0xA004190E, 0x9ABCDEF0, 0x12345678], .seteqLit (.g 25) (.g 8) 0x123456789ABCDEF0),
    ([0xC3C49A0C], .setlt (.g 26) (.g 9) (.g 15)),
    ([0xC0049A0E, 0x9ABCDEF0, 0x12345678], .setltLit (.g 26) (.g 9) 0x123456789ABCDEF0)] = true := by decide

theorem test_decode_major_03_2 : shows [
    ([0xE4051B0C], .setltu (.g 27) (.g 10) (.g 16)),
    ([0xE0051B0E, 0x9ABCDEF0, 0x12345678], .setltuLit (.g 27) (.g 10) 0x123456789ABCDEF0)] = true := by decide

theorem test_decode_major_04 : shows [
    ([0x02419410], .setne (.g 20) (.g 3) (.g 9)),
    ([0x00019412, 0x9ABCDEF0, 0x12345678], .setneLit (.g 20) (.g 3) 0x123456789ABCDEF0),
    ([0x22821510], .setge (.g 21) (.g 4) (.g 10)),
    ([0x20021512, 0x9ABCDEF0, 0x12345678], .setgeLit (.g 21) (.g 4) 0x123456789ABCDEF0),
    ([0x42C29610], .setgeu (.g 22) (.g 5) (.g 11)),
    ([0x40029612, 0x9ABCDEF0, 0x12345678], .setgeuLit (.g 22) (.g 5) 0x123456789ABCDEF0),
    ([0x63031710], .adds (.g 23) (.g 6) (.g 12)),
    ([0x60031712, 0x9ABCDEF0, 0x12345678], .addsLit (.g 23) (.g 6) 0x123456789ABCDEF0),
    ([0x83439810], .subs (.g 24) (.g 7) (.g 13)),
    ([0x80039812, 0x9ABCDEF0, 0x12345678], .subsLit (.g 24) (.g 7) 0x123456789ABCDEF0),
    ([0xA3841910], .csel (.g 25) (.g 8) (.g 14)),
    ([0xA0041912, 0x9ABCDEF0, 0x12345678], .cselLit (.g 25) (.g 8) 0x123456789ABCDEF0),
    ([0xC3C49A10], .absd (.g 26) (.g 9) (.g 15)),
    ([0xC0049A12, 0x9ABCDEF0, 0x12345678], .absdLit (.g 26) (.g 9) 0x123456789ABCDEF0)] = true := by decide

theorem test_decode_major_10_1 : shows [
    ([0x02419440], .fadd (.g 20) (.g 3) (.g 9)),
    ([0x00019442, 0x9ABCDEF0, 0x12345678], .faddLit (.g 20) (.g 3) 0x123456789ABCDEF0),
    ([0x22821540], .fsub (.g 21) (.g 4) (.g 10)),
    ([0x20021542, 0x9ABCDEF0, 0x12345678], .fsubLit (.g 21) (.g 4) 0x123456789ABCDEF0),
    ([0x42C29640], .fmul (.g 22) (.g 5) (.g 11)),
    ([0x40029642, 0x9ABCDEF0, 0x12345678], .fmulLit (.g 22) (.g 5) 0x123456789ABCDEF0),
    ([0x63031740], .fdiv (.g 23) (.g 6) (.g 12)),
    ([0x60031742, 0x9ABCDEF0, 0x12345678], .fdivLit (.g 23) (.g 6) 0x123456789ABCDEF0),
    ([0x83439840], .fmin (.g 24) (.g 7) (.g 13)),
    ([0x80039842, 0x9ABCDEF0, 0x12345678], .fminLit (.g 24) (.g 7) 0x123456789ABCDEF0),
    ([0xA3841940], .fmax (.g 25) (.g 8) (.g 14)),
    ([0xA0041942, 0x9ABCDEF0, 0x12345678], .fmaxLit (.g 25) (.g 8) 0x123456789ABCDEF0),
    ([0xC3C49A40], .fminn (.g 26) (.g 9) (.g 15)),
    ([0xC0049A42, 0x9ABCDEF0, 0x12345678], .fminnLit (.g 26) (.g 9) 0x123456789ABCDEF0)] = true := by decide

theorem test_decode_major_10_2 : shows [
    ([0xE4051B40], .fmaxn (.g 27) (.g 10) (.g 16)),
    ([0xE0051B42, 0x9ABCDEF0, 0x12345678], .fmaxnLit (.g 27) (.g 10) 0x123456789ABCDEF0)] = true := by decide

theorem test_decode_major_11 : shows [
    ([0x01430744], .fma (.g 7) (.g 6) (.g 5)),
    ([0x00030746, 0x9ABCDEF0, 0x12345678], .fmaLit (.g 7) (.g 6) 0x123456789ABCDEF0),
    ([0x21430744], .fms (.g 7) (.g 6) (.g 5)),
    ([0x20030746, 0x9ABCDEF0, 0x12345678], .fmsLit (.g 7) (.g 6) 0x123456789ABCDEF0),
    ([0x81430744], .fcmpeq (.g 7) (.g 6) (.g 5)),
    ([0x80030746, 0x9ABCDEF0, 0x12345678], .fcmpeqLit (.g 7) (.g 6) 0x123456789ABCDEF0),
    ([0xA1430744], .fcmplt (.g 7) (.g 6) (.g 5)),
    ([0xA0030746, 0x9ABCDEF0, 0x12345678], .fcmpltLit (.g 7) (.g 6) 0x123456789ABCDEF0),
    ([0xC1430744], .fcmple (.g 7) (.g 6) (.g 5)),
    ([0xC0030746, 0x9ABCDEF0, 0x12345678], .fcmpleLit (.g 7) (.g 6) 0x123456789ABCDEF0),
    ([0x40030744], .fsqrt (.g 7) (.g 6)),
    ([0x60030744], .frcp (.g 7) (.g 6)),
    ([0xE0030744], .fclass (.g 7) (.g 6))] = true := by decide

theorem test_decode_immediates : shows [
    ([0x81612D14], .addi (.g 45) (.k 2) 517),
    ([0x81A12E18], .andi (.g 46) (.k 2) 518),
    ([0x81E12F1C], .ori (.g 47) (.k 2) 519),
    ([0x82213020], .xori (.g 48) (.k 2) 520),
    ([0x82A13228], .setlti (.g 50) (.k 2) 522),
    ([0x08640A24], .shli (.g 10) (.z 0) 33),
    ([0x18640A24], .shri (.g 10) (.z 0) 33),
    ([0x28640A24], .shrai (.g 10) (.z 0) 33),
    ([0x38640A24], .roti (.g 10) (.z 0) 33),
    ([0xFFFF8530], .movi (.g 5) 0x1FFFF),
    ([0x00000532, 0x9ABCDEF0, 0x12345678], .moviLit (.g 5) 0x123456789ABCDEF0)] = true := by decide

theorem test_decode_major_0b_1 : shows [
    ([0x0026BF2C], .mov (.g 63) .clk),
    ([0x00004A2E, 0x9ABCDEF0, 0x12345678], .movLit .nil 0x123456789ABCDEF0),
    ([0x0066BF2C], .neg (.g 63) .clk),
    ([0x00404A2E, 0x9ABCDEF0, 0x12345678], .negLit .nil 0x123456789ABCDEF0),
    ([0x00A6BF2C], .not (.g 63) .clk),
    ([0x00804A2E, 0x9ABCDEF0, 0x12345678], .notLit .nil 0x123456789ABCDEF0),
    ([0x00E6BF2C], .clz (.g 63) .clk),
    ([0x00C04A2E, 0x9ABCDEF0, 0x12345678], .clzLit .nil 0x123456789ABCDEF0),
    ([0x0126BF2C], .ctz (.g 63) .clk),
    ([0x01004A2E, 0x9ABCDEF0, 0x12345678], .ctzLit .nil 0x123456789ABCDEF0),
    ([0x0166BF2C], .popc (.g 63) .clk),
    ([0x01404A2E, 0x9ABCDEF0, 0x12345678], .popcLit .nil 0x123456789ABCDEF0),
    ([0x01A6BF2C], .brev (.g 63) .clk),
    ([0x01804A2E, 0x9ABCDEF0, 0x12345678], .brevLit .nil 0x123456789ABCDEF0)] = true := by decide

theorem test_decode_major_0b_2 : shows [
    ([0x01E6BF2C], .sext (.g 63) .clk),
    ([0x01C04A2E, 0x9ABCDEF0, 0x12345678], .sextLit .nil 0x123456789ABCDEF0),
    ([0x0226BF2C], .zext (.g 63) .clk),
    ([0x02004A2E, 0x9ABCDEF0, 0x12345678], .zextLit .nil 0x123456789ABCDEF0)] = true := by decide

theorem test_decode_bit_fields : shows [
    ([0x01018235, 0x0000018C, 0x00000000], .extb (.g 2) (.g 3) (.sel (.g 4)) 12 6),
    ([0x00018237, 0x00001000, 0x00000000, 0x9ABCDEF0, 0x12345678], .extb (.g 2) (.g 3) (.lit 0x123456789ABCDEF0) 0 64),
    ([0x21018235, 0x0000018C, 0x00000000], .extbs (.g 2) (.g 3) (.sel (.g 4)) 12 6),
    ([0x20018237, 0x00001000, 0x00000000, 0x9ABCDEF0, 0x12345678], .extbs (.g 2) (.g 3) (.lit 0x123456789ABCDEF0) 0 64),
    ([0x41018235, 0x0000018C, 0x00000000], .insb (.g 2) (.g 3) (.sel (.g 4)) 12 6),
    ([0x40018237, 0x00001000, 0x00000000, 0x9ABCDEF0, 0x12345678], .insb (.g 2) (.g 3) (.lit 0x123456789ABCDEF0) 0 64)] = true := by decide

theorem test_decode_pointers : shows [
    ([0x19018239, 0x00000004, 0x00000000], .padd (.g 2) (.g 3) (.sel .sp) .w6),
    ([0x0001823B, 0x00000009, 0x00000000, 0x9ABCDEF0, 0x12345678], .padd (.g 2) (.g 3) (.lit 0x123456789ABCDEF0) .w128),
    ([0x39018239, 0x00000004, 0x00000000], .psub (.g 2) (.g 3) (.sel .sp) .w6),
    ([0x2001823B, 0x00000009, 0x00000000, 0x9ABCDEF0, 0x12345678], .psub (.g 2) (.g 3) (.lit 0x123456789ABCDEF0) .w128),
    ([0x59018239, 0x00000004, 0x00000000], .pdiff (.g 2) (.g 3) (.sel .sp) .w6),
    ([0x4001823B, 0x00000009, 0x00000000, 0x9ABCDEF0, 0x12345678], .pdiff (.g 2) (.g 3) (.lit 0x123456789ABCDEF0) .w128),
    ([0x99018239, 0x00000004, 0x00000000], .pchk (.g 2) (.g 3) (.sel .sp) .w6),
    ([0x8001823B, 0x00000009, 0x00000000, 0x9ABCDEF0, 0x12345678], .pchk (.g 2) (.g 3) (.lit 0x123456789ABCDEF0) .w128),
    ([0xB9018239, 0x00000004, 0x00000000], .pwin (.g 2) (.g 3) (.sel .sp) .w6),
    ([0xA001823B, 0x00000009, 0x00000000, 0x9ABCDEF0, 0x12345678], .pwin (.g 2) (.g 3) (.lit 0x123456789ABCDEF0) .w128),
    ([0x60018239, 0x00000002, 0x00000000], .paln (.g 2) (.g 3) .w3),
    ([0xC0018239, 0x00000000, 0x00000000], .pcore (.g 2) (.g 3))] = true := by decide

theorem test_decode_conversions : shows [
    ([0x10028449, 0x00000152, 0x00000000], .fcvt (.g 4) (.sel (.g 5)) .s32 .f32 1),
    ([0x0000044B, 0x0000024D, 0x00000000, 0x9ABCDEF0, 0x12345678], .fcvt (.g 4) (.lit 0x123456789ABCDEF0) .f32 .n64 0),
    ([0x00028449, 0x000001AD, 0x00000000], .fsx (.g 4) (.g 5)),
    ([0x10250449, 0x000001AD, 0x00000000], .fsr (.g 4))] = true := by decide

theorem test_decode_branches_1 : shows [
    ([0xFFFFFE60], .br 0xFFFFFE),
    ([0xFA048864], .beq (.g 8) (.g 9) 125),
    ([0x00048865, 0xFFFFFF00, 0x00000000], .beqExt (.g 8) (.g 9) 0xFFFFFF00),
    ([0x0A000866, 0x9ABCDEF0, 0x12345678], .beqLit (.g 8) 0x123456789ABCDEF0 5),
    ([0x00000867, 0x00000100, 0x00000000, 0x9ABCDEF0, 0x12345678], .beqExtLit (.g 8) 0x123456789ABCDEF0 0x100),
    ([0xFA448864], .bne (.g 8) (.g 9) 125),
    ([0x00448865, 0xFFFFFF00, 0x00000000], .bneExt (.g 8) (.g 9) 0xFFFFFF00),
    ([0x0A400866, 0x9ABCDEF0, 0x12345678], .bneLit (.g 8) 0x123456789ABCDEF0 5),
    ([0x00400867, 0x00000100, 0x00000000, 0x9ABCDEF0, 0x12345678], .bneExtLit (.g 8) 0x123456789ABCDEF0 0x100),
    ([0xFA848864], .blt (.g 8) (.g 9) 125),
    ([0x00848865, 0xFFFFFF00, 0x00000000], .bltExt (.g 8) (.g 9) 0xFFFFFF00),
    ([0x0A800866, 0x9ABCDEF0, 0x12345678], .bltLit (.g 8) 0x123456789ABCDEF0 5),
    ([0x00800867, 0x00000100, 0x00000000, 0x9ABCDEF0, 0x12345678], .bltExtLit (.g 8) 0x123456789ABCDEF0 0x100),
    ([0xFAC48864], .bge (.g 8) (.g 9) 125)] = true := by decide

theorem test_decode_branches_2 : shows [
    ([0x00C48865, 0xFFFFFF00, 0x00000000], .bgeExt (.g 8) (.g 9) 0xFFFFFF00),
    ([0x0AC00866, 0x9ABCDEF0, 0x12345678], .bgeLit (.g 8) 0x123456789ABCDEF0 5),
    ([0x00C00867, 0x00000100, 0x00000000, 0x9ABCDEF0, 0x12345678], .bgeExtLit (.g 8) 0x123456789ABCDEF0 0x100),
    ([0xFB048864], .bltu (.g 8) (.g 9) 125),
    ([0x01048865, 0xFFFFFF00, 0x00000000], .bltuExt (.g 8) (.g 9) 0xFFFFFF00),
    ([0x0B000866, 0x9ABCDEF0, 0x12345678], .bltuLit (.g 8) 0x123456789ABCDEF0 5),
    ([0x01000867, 0x00000100, 0x00000000, 0x9ABCDEF0, 0x12345678], .bltuExtLit (.g 8) 0x123456789ABCDEF0 0x100),
    ([0xFB448864], .bgeu (.g 8) (.g 9) 125),
    ([0x01448865, 0xFFFFFF00, 0x00000000], .bgeuExt (.g 8) (.g 9) 0xFFFFFF00),
    ([0x0B400866, 0x9ABCDEF0, 0x12345678], .bgeuLit (.g 8) 0x123456789ABCDEF0 5),
    ([0x01400867, 0x00000100, 0x00000000, 0x9ABCDEF0, 0x12345678], .bgeuExtLit (.g 8) 0x123456789ABCDEF0 0x100),
    ([0xFB84D164], .bwend (.w 1) (.g 9) 125),
    ([0x0184D765, 0x00000007, 0x00000000], .bwendExt (.w 7) (.g 9) 7),
    ([0x0B805066, 0x9ABCDEF0, 0x12345678], .bwendLit (.w 0) 0x123456789ABCDEF0 5)] = true := by decide

theorem test_decode_branches_3 : shows [
    ([0x01805067, 0x00000009, 0x00000000, 0x9ABCDEF0, 0x12345678], .bwendExtLit (.w 0) 0x123456789ABCDEF0 9),
    ([0x7FC04864], .bnz (.z 0) 63),
    ([0x01C04865, 0x80000000, 0x00000000], .bnzExt (.z 0) 0x80000000)] = true := by decide

theorem test_decode_loops_and_walks : shows [
    ([0xFFFF1168], .loop 2 (.g 17) 0x7FFF),
    ([0x0006806A, 0x9ABCDEF0, 0x12345678], .loopLit 1 0x123456789ABCDEF0 3),
    ([0x0005006D, 0x00000305, 0x00000000], .wset1 0 (.g 0) (.g 5) (.g 6)),
    ([0x040D106D, 0x00A10182, 0x00000000], .wset2 1 (.g 1) (.g 2) (.g 3) (.g 4) (.g 5)),
    ([0x080D706D, 0x60A10182, 0x00000038], .wset3 7 (.g 1) (.g 2) (.g 3) (.g 4) (.g 5) (.g 6) (.g 7)),
    ([0x0E80146D, 0x00000003, 0x00000000], .wget (.g 1) 0 3 4),
    ([0x1005206D, 0x00000000, 0x00000000], .wclr 2)] = true := by decide

theorem test_decode_calls_and_tasks_1 : shows [
    ([0xABCDE070], .calld 0xABCDE),
    ([0x00001078], .spawnd 1),
    ([0x00000074], .ret),
    ([0x00800074], .region),
    ([0x00C00074], .yield),
    ([0x01000074], .stop),
    ([0x01800074], .brk),
    ([0x01C00074], .nop),
    ([0x00448074], .callx (.g 9)),
    ([0x01448074], .trap (.g 9)),
    ([0x0000007C], .sync),
    ([0x0044807C], .range (.g 9)),
    ([0x0080097C], .rnext (.g 9)),
    ([0x00C1827C], .enq (.g 2) (.g 3))] = true := by decide

theorem test_decode_calls_and_tasks_2 : shows [
    ([0x00C0027E, 0x9ABCDEF0, 0x12345678], .enqLit (.g 2) 0x123456789ABCDEF0),
    ([0x0101827C], .deq (.g 2) (.g 3)),
    ([0x0100027E, 0x9ABCDEF0, 0x12345678], .deqLit (.g 2) 0x123456789ABCDEF0),
    ([0x0141827C], .sendm 2 (.g 3)),
    ([0x0140027E, 0x9ABCDEF0, 0x12345678], .sendmLit 2 0x123456789ABCDEF0)] = true := by decide

theorem test_decode_loads_and_stores_1 : shows [
    ([0x20105380], .ldp 0 .w64 (.g 2) (.g 5) 3),
    ([0x94203081, 0x00000005, 0x01000000], .ldpExt 2 .w8 (.g 4) (.g 3) 0 0 (.g 5) true),
    ([0x20105388], .ldg 0 .w64 (.g 2) (.g 5) 3),
    ([0x94203089, 0x00000005, 0x01000000], .ldgExt 2 .w8 (.g 4) (.g 3) 0 0 (.g 5) true),
    ([0x20105390], .ldk 0 .w64 (.g 2) (.g 5) 3),
    ([0x94203091, 0x00000005, 0x01000000], .ldkExt 2 .w8 (.g 4) (.g 3) 0 0 (.g 5) true),
    ([0x48108084], .stp 1 .w3 (.g 2) (.g 8)),
    ([0x1C001085, 0xFFFC0000, 0x00FFFFFF], .stpExt 0 .w32 (.g 0) (.g 1) 0xFFFFFFFFFC00 (.g 0)),
    ([0x4810808C], .stg 1 .w3 (.g 2) (.g 8)),
    ([0x1C00108D, 0xFFFC0000, 0x00FFFFFF], .stgExt 0 .w32 (.g 0) (.g 1) 0xFFFFFFFFFC00 (.g 0)),
    ([0x30001094], .vldp 0 .w1024 (.g 0) 1 0),
    ([0x2831FF95, 0x00020000, 0x00000000], .vldpExt 0 .w256 (.g 6) 31 15 512),
    ([0x3000109C], .vldg 0 .w1024 (.g 0) 1 0),
    ([0x2831FF9D, 0x00020000, 0x00000000], .vldgExt 0 .w256 (.g 6) 31 15 512)] = true := by decide

theorem test_decode_loads_and_stores_2 : shows [
    ([0x30001098], .vstp 0 .w1024 (.g 0) 1),
    ([0x2C309099, 0x00020007, 0x00000000], .vstpExt 0 .w512 (.g 6) 9 512 (.g 7)),
    ([0x300010A0], .vstg 0 .w1024 (.g 0) 1),
    ([0x2C3090A1, 0x00020007, 0x00000000], .vstgExt 0 .w512 (.g 6) 9 512 (.g 7)),
    ([0x1C3092A5, 0x00002007, 0x00000000], .vgath .w32 (.g 6) 9 2 32 (.g 7)),
    ([0x1C3090A9, 0x00002007, 0x00000000], .vscat .w32 (.g 6) 9 32 (.g 7)),
    ([0x1C3091AC], .iold 0 .w32 (.g 6) (.g 9) 1),
    ([0x1C3091AD, 0x00004000, 0x00000000], .ioldExt 0 .w32 (.g 6) (.g 9) 1 64 (.g 0)),
    ([0x1C3090AD, 0x00004000, 0x01000000], .iost 0 .w32 (.g 6) (.g 9) 64 (.g 0)),
    ([0x000000B4], .fence),
    ([0x004000B4], .fencep),
    ([0x008000B4], .fenceio),
    ([0x00C000B4], .drain)] = true := by decide

theorem test_decode_copy_engine : shows [
    ([0x000850B1, 0x2000C100, 0x00000091], .cpy 5 0 (.g 1) (.g 0) (.g 2) (.g 3) ⟨false, .ne, false, false, .grouped .q4 .g32, .ty .f32⟩),
    ([0x040862B1, 0x20A10182, 0x00002691], .cpym 6 2 (.g 1) (.g 2) (.g 3) (.g 4) (.g 5) ⟨true, .tz, true, false, .grouped .q4 .g32, .ty .f32⟩),
    ([0x080862B1, 0x10000182, 0x00000049], .cpyr 6 2 (.g 1) (.g 2) (.g 3) (.g 0) ⟨false, .ne, false, false, .ty .f32, .ty .bf16⟩),
    ([0x0C0880B1, 0x29404150, 0x00000091], .cpys 8 0 1 (.w 0) (.g 2) (.g 1) .nil ⟨false, .ne, false, false, .grouped .q4 .g32, .ty .f32⟩),
    ([0x125060B1, 0x00010182, 0x00004100], .cpyc 6 0 .nil (.g 2) (.g 3) (.g 4) false true true),
    ([0x140860B1, 0x00010182, 0x00000200], .cpyz 6 0 (.g 1) (.g 2) (.g 3) (.g 4) true false false),
    ([0x182890B1, 0x00000000, 0x00000000], .tpoll (.g 9) 5 0),
    ([0x1C5090B1, 0x00000000, 0x00000000], .twaita (.g 9) (.g 10) false 0),
    ([0x1C5093B1, 0x10000000, 0x00000000], .twaita (.g 9) (.g 10) true 3)] = true := by decide

theorem test_decode_vector_arithmetic : shows [
    ([0x489062C1, 0x00000200, 0x00000000], .vadd .f32 1 2 3 4 .dn),
    ([0x489062C1, 0x00000201, 0x00000000], .vsub .f32 1 2 3 4 .dn),
    ([0x489062C1, 0x00000202, 0x00000000], .vmul .f32 1 2 3 4 .dn),
    ([0x481062C1, 0x00140003, 0x00000000], .vfma .f32 0 2 3 4 5 .ne),
    ([0x4B9062C1, 0x007C0404, 0x00000000], .vfms .f32 7 2 3 4 31 .na),
    ([0x449062C1, 0x00000005, 0x00000000], .vmin .bf16 1 2 3 4),
    ([0x449062C1, 0x00000006, 0x00000000], .vmax .bf16 1 2 3 4),
    ([0x449062C1, 0x00000007, 0x00000000], .vminn .bf16 1 2 3 4),
    ([0x449062C1, 0x00000008, 0x00000000], .vmaxn .bf16 1 2 3 4),
    ([0x188062C1, 0x00000809, 0x00000000], .vabs .s8 1 2 3 true),
    ([0x188062C1, 0x0000080A, 0x00000000], .vneg .s8 1 2 3 true),
    ([0x009062C1, 0x0000000B, 0x00000000], .vadds .s3 1 2 3 4),
    ([0x009062C1, 0x0000000C, 0x00000000], .vsubs .s3 1 2 3 4),
    ([0x009062C1, 0x0000000D, 0x00000000], .vmulh .s3 1 2 3 4)] = true := by decide

theorem test_decode_vector_bits : shows [
    ([0x241062C5, 0x00000000, 0x00000000], .vand .n16 0 2 3 4),
    ([0x241062C5, 0x00000001, 0x00000000], .vor .n16 0 2 3 4),
    ([0x241062C5, 0x00000002, 0x00000000], .vxor .n16 0 2 3 4),
    ([0x241062C5, 0x00000003, 0x00000000], .vandn .n16 0 2 3 4),
    ([0x240062C5, 0x00000004, 0x00000000], .vnot .n16 0 2 3),
    ([0x241062C5, 0x00000005, 0x00000000], .vshl .n16 0 2 3 (.reg 4)),
    ([0x240062C5, 0x00000005, 0x80006400], .vshl .n16 0 2 3 (.imm 100)),
    ([0x241062C5, 0x00000006, 0x00000000], .vshr .n16 0 2 3 (.reg 4)),
    ([0x240062C5, 0x00000006, 0x80006400], .vshr .n16 0 2 3 (.imm 100)),
    ([0x241062C5, 0x00000007, 0x00000000], .vshra .n16 0 2 3 (.reg 4)),
    ([0x240062C5, 0x00000007, 0x80006400], .vshra .n16 0 2 3 (.imm 100))] = true := by decide

theorem test_decode_vector_selection : shows [
    ([0x188823C9, 0x00000000, 0x00000000], .vcmpeq .s8 1 3 1 2),
    ([0x188823C9, 0x00000001, 0x00000000], .vcmpne .s8 1 3 1 2),
    ([0x188823C9, 0x00000003, 0x00000000], .vcmple .s8 1 3 1 2),
    ([0x188823C9, 0x00000002, 0x00000000], .vcmplt .s8 1 3 1 2),
    ([0x188823C9, 0x00000004, 0x00000000], .vsel .s8 1 3 1 2),
    ([0x488023C9, 0x00000005, 0x00000000], .vclass .f32 1 3 1),
    ([0x488823CD, 0x00012000, 0x00000000], .vshuf .f32 .n16 1 3 1 2),
    ([0x488003CD, 0x00000001, 0x00000009], .vbcast .f32 1 3 (.g 9)),
    ([0x488823CD, 0x00000002, 0x00002000], .vslide .f32 1 3 1 2 32),
    ([0x1C8003CD, 0x00000003, 0x00000009], .vidx .n8 1 3 (.g 9)),
    ([0x480020CD, 0x00000004, 0x00001F09], .vmovs .f32 (.g 9) 1 31),
    ([0x480003CD, 0x00000005, 0x00001F09], .vmovv .f32 3 (.g 9) 31)] = true := by decide

theorem test_decode_vector_conversions : shows [
    ([0x0C8023CD, 0x00012806, 0x00004000], .vpack .n4 .n16 1 3 1 64 true),
    ([0x248023CD, 0x00006007, 0x00004000], .vunpk .n16 .n4 1 3 1 64 false),
    ([0x480020D1, 0x00000000, 0x00000001], .vred .f32 0 0 (.g 1) 1 .ne false),
    ([0x190020D1, 0x00000000, 0x00100001], .vred .s8 2 2 (.g 1) 1 .ne false),
    ([0x448823D1, 0x00024101, 0x00000000], .vcvt .bf16 .f32 1 3 1 2 0 .tz false),
    ([0x0C1C06D1, 0x00024002, 0x00000000], .vqnt .n4 .f32 0 6 0 7 .g32 0 .ne),
    ([0x481CC0D1, 0x00006003, 0x00802000], .vdqnt .f32 .n4 0 0 6 7 .g64 32 .ne),
    ([0x0C1C06D1, 0x00024304, 0x01002000], .vqdiv .n4 .f32 0 6 0 7 .g128 32 .up),
    ([0x000120D1, 0x00000005, 0x00000200], .vsend 9 2 false (.g 0)),
    ([0x000120D1, 0x00000005, 0x00000487], .vsend 9 4 true (.g 7))] = true := by decide

theorem test_decode_masks_and_tables : shows [
    ([0x440064D5, 0x00022000, 0x02000000], .vitp .bf16 .bf16 0 4 (.reg 3) 1 .ne),
    ([0x490004D5, 0x00024100, 0x0E000000], .vitp .f32 .f32 2 4 .vin 3 .tz),
    ([0x000000D5, 0x00000001, 0x04000009], .tload 2 (.g 9)),
    ([0x001CC5D9, 0x00000000, 0x00000000], .mand 5 6 7),
    ([0x001CC5D9, 0x00000001, 0x00000000], .mor 5 6 7),
    ([0x001CC5D9, 0x00000002, 0x00000000], .mxor 5 6 7),
    ([0x0000C5D9, 0x00000003, 0x00000000], .mnot 5 6),
    ([0x0000C0D9, 0x00000004, 0x00000009], .mcnt .s3 (.g 9) 6),
    ([0x0000C0D9, 0x00000005, 0x00000009], .mfirst .s3 (.g 9) 6),
    ([0x000005D9, 0x00000006, 0x00000F09], .msetg 5 (.g 9) 15),
    ([0x000005D9, 0x00000006, 0x80000009], .msetgPre 5 (.g 9)),
    ([0x0000C0D9, 0x00000007, 0x00000309], .mgetg (.g 9) 6 3)] = true := by decide

theorem test_decode_matrix_unit_1 : shows [
    ([0x0048A0E1, 0x00000000, 0x00000000], .slresv 10 (.g 9) false 0),
    ([0x0048A1E1, 0x10000000, 0x00000000], .slresv 10 (.g 9) true 1),
    ([0x0448A1E1, 0x00000000, 0x00000000], .slfree 10 (.g 9) 1),
    ([0x0800B0E1, 0x4001814A, 0x00000002], .mwld 11 0 0 .nil (.g 2) (.g 6) (.grouped .q4 .g32) false),
    ([0x0C08D0E1, 0x6003034A, 0x00000000], .mstrm 13 0 1 .nil (.g 6) (.g 12) (.ty .s8) false false),
    ([0x0C80D2E1, 0x6003034A, 0x00000004], .mstrm 13 2 16 .nil (.g 6) (.g 12) (.ty .s8) true false),
    ([0x1010D2E1, 0x60030305, 0x0000010C], .mgrp 13 2 2 (.g 5) (.g 6) (.g 12) (.ty .s8) (.ty .n4) true),
    ([0x1438A0E1, 0x20000009, 0x00000001], .mdrn 10 0 (.g 7) (.g 9) (.g 0) (.ty .f32) .ne false false false false),
    ([0x1438A0E1, 0x60000409, 0x000001E8], .mdrn 10 0 (.g 7) (.g 9) (.g 8) (.ty .s8) .dn true true true true),
    ([0x184880E1, 0x00000000, 0x00000000], .mclr 8 0 (.g 9) false),
    ([0x1C4881E1, 0x00000000, 0x00000000], .mcfg 8 1 (.g 9)),
    ([0x004881E5, 0x0000001F, 0x00000000], .mrmt 8 1 (.g 9) 31),
    ([0x044881E5, 0x50000007, 0x00000000], .mcap 8 1 (.g 9) (.g 7) 5),
    ([0x084881E5, 0x20000307, 0x00000001], .addw 8 1 (.g 9) (.g 7) (.g 6) (.ty .f32))] = true := by decide

theorem test_decode_matrix_unit_2 : shows [
    ([0x0C4881E5, 0x20000307, 0x00000005], .wnorm 8 1 (.g 9) (.g 7) (.g 6) (.ty .f32) .tz),
    ([0x104881E5, 0x00000007, 0x00000000], .wzero 8 1 (.g 9) (.g 7))] = true := by decide

theorem test_decode_atomics_and_claims_1 : shows [
    ([0x201050F1, 0x00000006, 0x04000000], .amo 0 .w64 (.g 2) (.g 5) 0 true .add 0 (.g 6)),
    ([0x1C1CA0F1, 0x00002007, 0x29000000], .red 0 .w32 (.g 3) false .fadd 32 (.g 7)),
    ([0x201040F1, 0x00000005, 0x06000000], .cas 0 .w64 (.g 2) (.g 4) 0 true 0 (.g 5)),
    ([0x581053F1, 0x00000006, 0x00000000], .amo 1 .w16 (.g 2) (.g 5) 3 false .add 0 (.g 6)),
    ([0x581053F1, 0x00000006, 0x08000000], .amo 1 .w16 (.g 2) (.g 5) 3 false .smin 0 (.g 6)),
    ([0x581053F1, 0x00000006, 0x10000000], .amo 1 .w16 (.g 2) (.g 5) 3 false .smax 0 (.g 6)),
    ([0x581053F1, 0x00000006, 0x18000000], .amo 1 .w16 (.g 2) (.g 5) 3 false .nmin 0 (.g 6)),
    ([0x581053F1, 0x00000006, 0x20000000], .amo 1 .w16 (.g 2) (.g 5) 3 false .nmax 0 (.g 6)),
    ([0x581053F1, 0x00000006, 0x28000000], .amo 1 .w16 (.g 2) (.g 5) 3 false .fadd 0 (.g 6)),
    ([0x581053F1, 0x00000006, 0x30000000], .amo 1 .w16 (.g 2) (.g 5) 3 false .bfadd 0 (.g 6)),
    ([0x581053F1, 0x00000006, 0x38000000], .amo 1 .w16 (.g 2) (.g 5) 3 false .fmax 0 (.g 6)),
    ([0x581053F1, 0x00000006, 0x40000000], .amo 1 .w16 (.g 2) (.g 5) 3 false .fmin 0 (.g 6)),
    ([0x581053F1, 0x00000006, 0x48000000], .amo 1 .w16 (.g 2) (.g 5) 3 false .and 0 (.g 6)),
    ([0x581053F1, 0x00000006, 0x50000000], .amo 1 .w16 (.g 2) (.g 5) 3 false .or 0 (.g 6))] = true := by decide

theorem test_decode_atomics_and_claims_2 : shows [
    ([0x581053F1, 0x00000006, 0x58000000], .amo 1 .w16 (.g 2) (.g 5) 3 false .xor 0 (.g 6)),
    ([0x581053F1, 0x00000006, 0x60000000], .amo 1 .w16 (.g 2) (.g 5) 3 false .swap 0 (.g 6)),
    ([0x004831F5, 0x00000004, 0x00000000], .bari (.g 3) (.g 9) (.g 4) 1),
    ([0x044831F5, 0x00000000, 0x00000000], .bara (.g 3) (.g 9) 1),
    ([0x084830F5, 0x00000000, 0x00000000], .barw (.g 3) (.g 9) 0),
    ([0x0C1040F5, 0x00000005, 0x00000000], .claim (.g 4) (.g 5) 2 0),
    ([0x101040F5, 0x00000005, 0x00000000], .cwait (.g 4) (.g 5) 2 0),
    ([0x141060F5, 0x00000007, 0x00000000], .fulfil (.g 6) 2 (.g 7) 0),
    ([0x181047F5, 0x00000000, 0x00000000], .abandon (.g 4) 2 7),
    ([0x1C1047F5, 0x00000000, 0x00000000], .unpin (.g 4) 2 7),
    ([0x201047F5, 0x00000005, 0x00000000], .cpeek (.g 4) (.g 5) 2 7)] = true := by decide

theorem test_decode_privileged_1 : shows [
    ([0x000182FC], .csrr (.g 2) (.g 3)),
    ([0x000002FE, 0x00000002, 0x00000000], .csrrLit (.g 2) 2),
    ([0x004182FC], .csrw (.g 3) (.g 2)),
    ([0x004003FE, 0x00001820, 0x00000000], .csrwLit 0x1820 (.g 3)),
    ([0x008182FC], .csrs (.g 3) (.g 2)),
    ([0x008003FE, 0x00001820, 0x00000000], .csrsLit 0x1820 (.g 3)),
    ([0x00C182FC], .csrc (.g 3) (.g 2)),
    ([0x00C003FE, 0x00001820, 0x00000000], .csrcLit 0x1820 (.g 3)),
    ([0x012500FC], .eret .nil),
    ([0x010000FE, 0x9ABCDEF0, 0x12345678], .eretLit 0x123456789ABCDEF0),
    ([0x014182FC], .tlbw (.g 3) (.g 2)),
    ([0x014002FE, 0x9ABCDEF0, 0x12345678], .tlbwLit 0x123456789ABCDEF0 (.g 2)),
    ([0x018182FC], .tlbi (.g 3) (.g 2)),
    ([0x018002FE, 0x9ABCDEF0, 0x12345678], .tlbiLit 0x123456789ABCDEF0 (.g 2))] = true := by decide

theorem test_decode_privileged_2 : shows [
    ([0x01C180FC], .wake (.g 3)),
    ([0x01C000FE, 0x9ABCDEF0, 0x12345678], .wakeLit 0x123456789ABCDEF0),
    ([0x020182FC], .leaseq (.g 2) (.g 3)),
    ([0x020002FE, 0x9ABCDEF0, 0x12345678], .leaseqLit (.g 2) 0x123456789ABCDEF0)] = true := by decide


/-! Hypotheses are met: for every clause of a statement, a state and operands that meet what it assumes. -/

theorem meets_BitFields : (64 : BitVec 7) ≠ 0 ∧ (0 : BitVec 6).toNat + (64 : BitVec 7).toNat ≤ 64 ∧ (1 : BitVec 7) ≠ 0 ∧
    (63 : BitVec 6).toNat + (1 : BitVec 7).toNat ≤ 64 := by decide

/-- Both ends of the address space, a packed class, and a window. -/
theorem meets_PointerResults : let s := small [(1, 0), (2, BitVec.ofNat 64 (2 ^ 57 - 64)), (3, 0x3F), (4, 0x200000), (5, 60)]
    let at_ (k : BitVec 6) (c : Cls) (n : Int) : Int := addrOf ((index (s.rd (.g k)).toNat c : Int) + n) c
    (legal (s.rd (.g 1)).toNat .w64 = true ∧ 0 ≤ at_ 1 .w64 0 ∧ at_ 1 .w64 0 < 2 ^ 57) ∧
    (legal (s.rd (.g 2)).toNat .w64 = true ∧ 0 ≤ at_ 2 .w64 0 ∧ at_ 2 .w64 0 < 2 ^ 57) ∧
    (legal (s.rd (.g 5)).toNat .w3 = true ∧ 0 ≤ at_ 5 .w3 5 ∧ at_ 5 .w3 5 < 2 ^ 57) ∧
    (legal (s.rd (.g 1)).toNat .w64 = true ∧ (s.rd (.g 1)).toNat < 2 ^ 21 ∧ (0x3FFFFF : Word).toNat < 2 ^ 22) ∧
    (0x1FFF80000000000 ≤ (0x1FFF80000000000 : Word).toNat ∧ (0x1FFF80000000000 : Word).toNat < 2 ^ 57) := by decide

/-- The start of the run that `PCHK` judges: of a misaligned address, and of a legal one. -/
theorem meets_PointerChecks : (legal 0 .w64 = true ∧ 0 ≤ 63 ∧ ∀ z, legal z .w64 = true → z ≤ 63 → z ≤ 0) ∧
    (legal 64 .w64 = true ∧ ∀ z, legal z .w64 = true → z ≤ 64 → z ≤ 64) := by
  have h (z : Nat) (hz : legal z .w64 = true) : z % 64 = 0 := by simpa [legal, Cls.packed, Cls.bits] using hz
  refine ⟨⟨by decide, by decide, fun z hz hl => ?_⟩, by decide, fun z _ hl => hl⟩
  have := h z hz
  omega

theorem meets_PointerFaults : let s := small [(1, 0), (2, BitVec.ofNat 64 (2 ^ 57 - 64)), (3, 0x3F), (4, 0x200000)]
    let at_ (k : BitVec 6) (c : Cls) (n : Int) : Int := addrOf ((index (s.rd (.g k)).toNat c : Int) + n) c
    legal (s.rd (.g 3)).toNat .w3 = false ∧
    (legal (s.rd (.g 1)).toNat .w64 = true ∧ at_ 1 .w64 (-1) < 0) ∧
    (legal (s.rd (.g 2)).toNat .w64 = true ∧ 2 ^ 57 ≤ at_ 2 .w64 1) ∧
    (legal (s.rd (.g 1)).toNat .w64 = true ∧ legal (2 ^ 57 : Nat) .w64 = true ∧ (2 : Nat) ^ 57 ≤ (BitVec.ofNat 64 (2 ^ 57)).toNat) ∧
    (legal (s.rd (.g 4)).toNat .w64 = true ∧ 2 ^ 21 ≤ (s.rd (.g 4)).toNat) ∧ (2 ^ 22 ≤ (0x400000 : Word).toNat) := by decide

/-- No condition is enabled; or the one raised is not. -/
theorem meets_FloatingPoint : (small []).calm fNV ∧ (small []).calm fDZ ∧
    (oneStrand (strandAt { regsAt [] with fps := 0x40 })).calm fDZ ∧ (oneStrand (strandAt { regsAt [] with fps := 0x80 })).calm fNV := by
  unfold State.calm; decide

/-- 0 × ∞ raises NV with ENV set, and 1 / 0 raises DZ with EDZ set. -/
theorem meets_FloatTraps :
    (let s := oneStrand (strandAt { regsAt [(1, 0), (2, 0x7F800000)] with fps := 0x40 });
      s.me.regs.fps.getLsbD 6 = true ∧ (fpBin .f32 .ne FV.mul (f32Of (s.rd (.g 1))) (f32Of (s.rd (.g 2)))).2.getLsbD 0 = true) ∧
    (let s := oneStrand (strandAt { regsAt [(1, 0x3F800000), (2, 0)] with fps := 0x80 });
      let fl := (fpBin .f32 .ne FV.div (f32Of (s.rd (.g 1))) (f32Of (s.rd (.g 2)))).2;
      s.me.regs.fps.getLsbD 7 = true ∧ fl.getLsbD 0 = false ∧ fl.getLsbD 1 = true) := by decide

/-- A branch is taken to the first and to the last word of the text, and to the words just outside it. -/
theorem meets_Branches : let s := small [(1, 5), (2, 5), (3, 7)]
    let target (o : Int) : Int := (s.me.regs.off : Int) + o
    s.rd (.g 1) = s.rd (.g 2) ∧ s.rd (.g 1) ≠ s.rd (.g 3) ∧ s.textLen s.me.regs.handle = 64 ∧
    (0 ≤ target (0 : BitVec 7).toInt ∧ target (0 : BitVec 7).toInt < 64) ∧ (0 ≤ target (63 : BitVec 7).toInt ∧ target (63 : BitVec 7).toInt < 64) ∧
    ¬(0 ≤ target (127 : BitVec 7).toInt) ∧ ¬(target (64 : BitVec 32).toInt < 64) := by decide

/-- A walk of two elements, and none. -/
def walk2 : Walk := { Walk.unbound with bound := true, base := 0x400, s0 := 64, n0 := 2, n1 := 1, n2 := 1 }

theorem meets_WalkBranches : let s := oneStrand (strandAt { regsAt [] with w := [(2, walk2)] })
    (s.me.regs.walk (2 : BitVec 3).toNat).bound = true ∧ (s.me.regs.walk (1 : BitVec 3).toNat).bound = false := by decide

/-- An outer loop of words 0 to 8 and an inner one with the same end. -/
def innerLoop : Loop := { ctr := 1, start := 4, stop := 8, walk := none, finished := false }

/-- The enclosing loop. -/
def outerLoop : Loop := { ctr := 0, start := 0, stop := 8, walk := none, finished := false }

/-- Loops of the right shape, that an instruction and a return bring about. -/
theorem meets_LoopShapes : (∀ l ∈ [innerLoop, outerLoop], l.start < l.stop) ∧ loopsValid [0, 8 * 2 ^ 24 + 2 ^ 48] = true ∧
    (∃ t, exec (.loop 1 (.g 1) 0) (small [(1, 1)]) = .next t) ∧ (∃ t, exec (.loopLit 1 1 0) (small []) = .next t) ∧
    (∀ l ∈ (small []).me.regs.loops, l.start < l.stop) :=
  ⟨by decide, by decide +kernel, ⟨_, rfl⟩, ⟨_, rfl⟩, by decide⟩

/-- The last pass and one before it; a walk that has finished; inside, at the edges and outside. -/
theorem meets_LoopRules :
    (let r := { regsAt [(88, 2), (89, 1)] with off := 7, loops := [innerLoop, outerLoop] };
      r.loops = [innerLoop, outerLoop] ∧ r.off + 1 = 8 ∧ r.get (88 + (1 : BitVec 2).toNat) = 1 ∧
      (∃ o, [outerLoop].head? = some o ∧ o.stop = 8) ∧ innerLoop.start < innerLoop.stop) ∧
    (let r := { regsAt [(88, 2)] with off := 7, loops := [outerLoop] };
      r.loops = [outerLoop] ∧ r.off + 1 = 8 ∧ r.get (88 + (0 : BitVec 2).toNat) ≠ 1 ∧ r.off + 2 ≠ 8 ∧ (0 ≤ 0 ∧ 0 < 8) ∧ 8 < 9 ∧ outerLoop.start < outerLoop.stop) ∧
    (regsAt []).loops = [] := by
  refine ⟨⟨rfl, rfl, by decide, ⟨_, rfl, rfl⟩, by decide⟩, by decide, rfl⟩

/-- A body of one word, and one that ends with the text; an enclosing loop that ends before. -/
theorem meets_LoopStarts : (let s := small [(1, 1), (2, 0)];
      (∀ n, Sel.g 1 ≠ .w n) ∧ 0 + 1 + (0 : BitVec 15).toNat + 1 ≤ s.textLen 1 ∧ 0 + 1 + (62 : BitVec 15).toNat + 1 ≤ s.textLen 1 ∧
      (∀ l ∈ s.me.regs.loops, l.ctr ≠ 0) ∧ s.me.regs.loops.head? = none ∧ 0 < (s.rd (.g 1)).toNat ∧ (s.rd (.g 2)).toNat = 0 ∧
      0 + 1 + (60 : BitVec 15).toNat + 1 < s.textLen 1 ∧ s.textLen 1 < 0 + 1 + (63 : BitVec 15).toNat + 1) ∧
    (let s := oneStrand (strandAt { regsAt [(88, 2)] with loops := [outerLoop], w := [(2, walk2)] });
      (∀ l ∈ s.me.regs.loops, l.ctr ≠ (2 : BitVec 2)) ∧ (∃ l, s.me.regs.loops.head? = some l ∧ l.stop < 0 + 1 + (7 : BitVec 15).toNat + 1) ∧
      (s.me.regs.walk (2 : BitVec 3).toNat).bound = true ∧ 0 < (s.me.regs.walk (2 : BitVec 3).toNat).elements ∧
      (s.me.regs.walk (1 : BitVec 3).toNat).bound = false ∧ s.me.regs.loops.find? (fun l => l.ctr == 0) = some outerLoop ∧
      ∀ l, s.me.regs.loops.head? = some l → 0 + 1 + (6 : BitVec 15).toNat + 1 ≤ l.stop) := by
  refine ⟨⟨fun n h => (nomatch h), by decide⟩, by decide, ⟨_, rfl, by decide⟩, by decide, by decide, by decide, by decide, ?_⟩
  intro l h; cases h; decide

theorem meets_WalkRegisters : let s := small [(1, 1), (2, 0x100000), (3, 0), (4, 0x100001)]
    let ok (k : Sel) : Prop := 1 ≤ (s.rd k).toNat ∧ (s.rd k).toNat ≤ 2 ^ 20
    ok (.g 1) ∧ ok (.g 2) ∧ ¬ok (.g 3) ∧ ¬ok (.g 4) := by decide

/-- A chunk at its start, and one with an instruction in it. -/
theorem meets_SmallForms : (small []).me.chunk.fresh = true ∧
    (oneStrand { strandAt (regsAt []) with chunk := { Chunk.start (regsAt []) with count := 1 } }).me.chunk.fresh = false ∧
    (1 : BitVec 4) ≠ 0 := by decide


/-- A callee, whose digest the first import of `caller` names. -/
def callee : Obj := { text64 with digest := 7, base := 2 ^ 21 }

/-- An object that imports the callee and one that nothing answers; only g0 and g1 live on at word 1. -/
def caller : Obj := { text64 with imports := [7, 9], regions := [(1, 3)] }

/-- The caller's strand at the top of its stack, in a package with the callee, and memory with some containers. -/
def calling (r : Regs) (m : Memory) : State :=
  { oneStrand (strandAt r) with objs := [(1, caller), (2, callee)], mem := m }

/-- Registers with sp and fp at the stack top of slot 0, below the first frame. -/
def framed (x : List (Nat × Word)) : Regs := regsAt (x ++ [(100, 65408), (101, 65408)])

/-- Memory with one container of core 0's scratchpad. -/
def padMem (p : Nat) (w : Nat) : Memory := Memory.setBits [] (padBase 0 + p) 64 w

theorem meets_CallsByDigest : let s := calling { framed [(3, 5)] with v := [(5, 9)] } []
    (9 : Digest) = (s.me.regs.vec (s.rd (.g 3)).toNat).setWidth 256 ∧
    s.importOf (0 : BitVec 20).toNat = .ok 7 ∧ (s.rd (.g 3)).toNat < 32 ∧ (s.rd (.g 3)).toNat < s.vBudget s.cur ∧
    s.me.chunk.fresh = true ∧ s.checkFrame 0 = .ok 65280 ∧
    s.barred (some s.cur) (padBase (coreOf s.cur) + 65280) (128 + 128 * s.me.regs.loops.length) = false ∧
    (s.resolveCode s.cur 7).2 = some (2, callee) ∧ s.importOf (1 : BitVec 20).toNat = .ok 9 ∧ (s.resolveCode s.cur 9).2 = none := by
  and_intros <;> first | exact ok_of (by decide +kernel) | decide +kernel

/-- A record whose token goes back to word 3 of object 1. -/
theorem meets_Returns : let s := calling { framed [] with handle := 2 } (padMem 65408 (2 ^ 24 + 3))
    let x := (s.padRead s.cur s.me.regs.fp).toNat
    s.me.chunk.fresh = true ∧ s.me.regs.role = .off ∧ s.checkPad s.me.regs.fp 64 = .ok () ∧ x / 2 ^ 51 ≤ 4 ∧ x.testBit 48 = false ∧
    x.testBit 49 = false ∧ x.testBit 50 = false ∧ s.checkPad (s.me.regs.fp + 64) (64 + 128 * (x / 2 ^ 51)) = .ok () ∧
    (s.obj (x / 2 ^ 24 % 2 ^ 24)).isSome = true ∧ loopsValid (s.padReads s.cur (s.me.regs.fp + 128) (2 * (x / 2 ^ 51))) = true := by
  and_intros <;> first | exact ok_of (by decide +kernel) | decide +kernel

theorem meets_TaskEnds : let s := calling (framed []) (padMem 65408 (2 ^ 50))
    let t := calling { framed [] with role := .owner } []
    s.me.chunk.fresh = true ∧ s.me.regs.role = .off ∧ s.checkPad s.me.regs.fp 64 = .ok () ∧
    (s.padRead s.cur s.me.regs.fp).toNat.testBit 50 = true ∧ (s.padRead s.cur s.me.regs.fp).toNat < 2 ^ 51 ∧ s.me.kind ≠ .continuation ∧
    t.me.chunk.fresh = true ∧ t.me.regs.role ≠ .off ∧ t.checkPad t.me.regs.fp 64 = .ok () := by
  and_intros <;> first | exact ok_of (by decide +kernel) | decide +kernel

theorem meets_LazySpawn : let s := calling (framed [(1, 4), (2, 9), (3, 1)]) []
    let m := s.regionMask s.cur s.me.regs.handle (s.me.regs.off + 1)
    let b := s.me.regs.sp - 128 - imageBits m
    s.me.chunk.fresh = true ∧ s.importOf (0 : BitVec 20).toNat = .ok 7 ∧ s.checkFrame (128 + imageBits m) = .ok 64896 ∧
    s.barred (some s.cur) (padBase (coreOf s.cur) + 64896) (s.me.regs.sp - 64896) = false ∧
    (s.resolveCode s.cur 7).2 = some (2, callee) ∧ s.me.regs.role = .off ∧ s.me.regs.loops = [] ∧ s.me.regs.get (1 + 2) ≠ 0 ∧
    128 + imageBits m ≤ s.me.regs.sp ∧ s.me.bind.floor (s.cur % 4) ≤ b ∧ b % 64 = 0 ∧ s.me.regs.sp ≤ s.me.bind.spSize ∧
    s.barred (some s.cur) (padBase (coreOf s.cur) + b) (128 + imageBits m) = false := by
  and_intros <;> first | exact ok_of (by decide +kernel) | decide +kernel

/-- Join cells of the frame's own and of a thief's, at zero and not. -/
theorem meets_Syncs : let s := calling (framed []) []
    let t := calling (framed []) (padMem 65344 1)
    let u := { oneStrand { strandAt (framed []) with kind := .continuation } with
      mem := Memory.setBits (Memory.setBits [] 1024 128 (2 ^ 63 + 2 ^ 62 + 3 * 2 ^ 55 + 2 ^ 14 * 2 ^ 64)) (2 ^ 33 + 128) 64 0x1FFF80000000040,
      parts := [(0, { Part.reset with granules := [1] })] }
    s.me.chunk.fresh = true ∧ s.stolenFrame s.cur = false ∧ s.checkPad 65344 64 = .ok () ∧ s.bits (padBase 0 + 65344) 64 = 0 ∧
    t.bits (padBase 0 + 65344) 64 ≠ 0 ∧ u.stolenFrame u.cur = true ∧ u.cellBit (u.joinCell u.cur) = some (padBase 0 + 64) := by
  and_intros <;> first | exact ok_of (by decide +kernel) | decide +kernel

/-- Spans with an index left and without, with parts away and not; on a thief and on no range. -/
theorem meets_Ranges : let s := calling { framed [] with role := .owner, block := 64000, x := [(104, 3), (105, 4)] } []
    let t := calling { framed [] with role := .owner, block := 64000, x := [(104, 4), (105, 4)] } []
    let u := { t with mem := padMem 64000 1 }
    s.me.regs.role ≠ .off ∧ (s.me.regs.get 104).toNat < (s.me.regs.get 105).toNat ∧
    s.me.regs.off + 1 + wordLen (s.textWord s.me.regs.handle (s.me.regs.off + 1)) < s.textLen s.me.regs.handle ∧
    t.me.regs.role = .owner ∧ (t.me.regs.get 105).toNat ≤ (t.me.regs.get 104).toNat ∧ t.checkPad t.me.regs.block 256 = .ok () ∧
    t.peek t.cur (padBase (coreOf t.cur) + t.me.regs.block) 64 = 0 ∧ u.checkPad u.me.regs.block 256 = .ok () ∧
    u.peek u.cur (padBase (coreOf u.cur) + u.me.regs.block) 64 ≠ 0 ∧ (calling (framed []) []).me.regs.role = .off := by
  and_intros <;> first | exact ok_of (by decide +kernel) | decide +kernel

/-- Alone on its core, and with another ready strand. -/
theorem meets_Yields : (small []).me.chunk.fresh = true ∧ (small []).others = [] ∧
    ({ small [] with strands := [(0, strandAt (regsAt [])), (1, strandAt (regsAt []))] } : State).others = [1] := by
  and_intros <;> first | exact ok_of (by decide +kernel) | decide +kernel

/-- Page 0 of 2^33 bits of context 0, readable and writable, at granule 1. -/
def pageEntry : BitVec 128 := BitVec.ofNat 128 (2 ^ 63 + 2 ^ 62 + 3 * 2 ^ 55 + 2 ^ 14 * 2 ^ 64)

/-- A launch whose lease covers the first 2^30 bits of G with every right. -/
def leased : Launch :=
  { Launch.fresh 0 0 0 0 [] 0 with record := [0x100] ++ List.replicate 31 0 ++ [0, BitVec.ofNat 64 (2 ^ 30 + 7 * 2 ^ 60)], lease := .held, cores := [0] }

/-- A state whose strand reaches page 0: page table, TLB, granule and lease. -/
def mapped (t : Strand) : State :=
  { oneStrand t with
    mem := Memory.setBits [] 1024 128 pageEntry.toNat
    parts := [(0, { Part.reset with granules := [1] })]
    cores := [(0, { Core.reset with tlb := [pageEntry], held := some 0 })]
    launches := [leased] }

/-- A ring of four items at G 0x10000, whose table lies at G 0x2000. -/
def ringState (head tail : Nat) : State :=
  let s := mapped (strandAt (regsAt [(3, 0x205)]))
  { s with ctxs := [(0, { ctx0 with desc := [0, 0, 0x2000] })]
           mem := s.mem.setBits (2 ^ 33 + 0x2000 + 256 * 5) 256 (2 ^ 63 + 0x10000 + 2 ^ 64 * 2 + 2 ^ 128 * head + 2 ^ 192 * tail) }

/-- The ring's entry as read. -/
def ring4 (head tail : Nat) : Ring :=
  { bit := 2 ^ 33 + 0x2500, base := 0x10000, valid := true, cap := 4, head := BitVec.ofNat 64 head, tail := BitVec.ofNat 64 tail }

/-- A state whose strand has entries queued for its ring operations. -/
def queuing (q : List Vec) (s : State) : State := { s with strands := s.strands.map fun p => (p.1, { p.2 with vRing := q }) }

/-- An empty, a part-filled and a full ring; an item of a register, of the queue, and of an empty queue. -/
theorem meets_RingOperations : (ringState 8 8).me.chunk.fresh = true ∧ (ringState 8 8).farSettled 0 = true ∧
    (ringState 8 8).ringBusy (ring4 8 8).bit = false ∧
    (ringState 8 11).ringCheck 0x205 true = .ok (ring4 8 11) ∧ (ring4 8 11).tail.toNat - (ring4 8 11).head.toNat < 4 ∧
    (ringState 8 12).ringCheck 0x205 true = .ok (ring4 8 12) ∧ 4 ≤ (ring4 8 12).tail.toNat - (ring4 8 12).head.toNat ∧
    (0x205 : Word).getLsbD 16 = false ∧ (ringState 8 11).access 0 .g ((ring4 8 11).item 11) .w512 2 0 = .ok (.here (2 ^ 33 + 0x10600)) ∧
    (2 ^ 33 + 0x10600) % 64 = 0 ∧ (ring4 8 11).bit % 64 = 0 ∧ (ring4 8 11).bit + 256 ≤ 2 ^ 33 + 0x10600 ∧
    (ringState 8 8).ringCheck 0x205 false = .ok (ring4 8 8) ∧ (ring4 8 8).tail.toNat ≤ (ring4 8 8).head.toNat ∧
    (ringState 8 9).ringCheck 0x205 false = .ok (ring4 8 9) ∧ (ring4 8 9).head.toNat < (ring4 8 9).tail.toNat ∧
    (ringState 8 9).access 0 .g ((ring4 8 9).item 8) .w512 1 0 = .ok (.here (2 ^ 33 + 0x10000)) ∧
    (ringState 8 9).poisonFor 0 (2 ^ 33 + 0x10000) 512 = none ∧ (0x10005 : Word).getLsbD 16 = true ∧
    (ringState 8 11).ringCheck 0x10005 true = .ok (ring4 8 11) ∧ (ringState 8 11).me.vRing = [] ∧
    (queuing [7] (ringState 8 11)).ringCheck 0x10005 true = .ok (ring4 8 11) ∧ (queuing [7] (ringState 8 11)).me.vRing ≠ [] ∧
    (queuing [7] (ringState 8 11)).access 0 .g ((ring4 8 11).item 11) .w512 2 0 = .ok (.here (2 ^ 33 + 0x10600)) ∧
    (queuing [7] (ringState 8 12)).ringCheck 0x10005 true = .ok (ring4 8 12) ∧ (queuing [7] (ringState 8 12)).me.vRing ≠ [] := by
  and_intros <;> first | exact ok_of (by decide +kernel) | decide +kernel

/-- A load pending, of an operand and of a vector. -/
def loadPend (reg bits : Nat) : Pend :=
  { reg := reg, kind := .load, sx := false, bits := bits, far := none, snap := none, part := none, old := false }

/-- A strand with an access to package 3 on its way, of which a ring's HEAD may wait. -/
def away (ring : Option Nat) (s : State) : State :=
  { s with strands := s.strands.map fun p => (p.1, { p.2 with pend := [{ loadPend 5 64 with far := some (3, 0), snap := some (regsAt []), ring := ring }] }) }

/-- Page 1 of 2^19 bits of context 0, whose frame lies in package 3. -/
def farEntry : BitVec 128 := BitVec.ofNat 128 (2 ^ 63 + 3 * 2 ^ 55 + 1 + 3 * 2 ^ 112)

/-- A ring whose items lie in package 3, which a link reaches. -/
def farRing : State :=
  let s := ringState 8 11
  { s with mem := s.mem.setBits (2 ^ 33 + 0x2000 + 256 * 5) 64 (2 ^ 63 + 0x80000), cores := [(0, { Core.reset with tlb := [farEntry], held := some 0 })]
           csr := [(0x1311 * 2 ^ 20 + 3, 0x8000), (0x1312 * 2 ^ 20, 1)] }

/-- Whether an access goes to another package. -/
def goesFar (r : Res Place) (p : BitVec 10) : Bool :=
  match r with
  | .ok (.far q _) => q == p
  | _ => false

theorem far_of {r : Res Place} {p : BitVec 10} (h : goesFar r p = true) : ∃ c, r = .ok (.far p c) := by
  cases r with
  | error e => simp [goesFar] at h
  | ok x => cases x <;> simp [goesFar] at h; subst h; exact ⟨_, rfl⟩

/-- A strand that waits for another package, a ring that does, and items that lie in one. -/
theorem meets_FarRings : let g := { ring4 8 11 with base := 0x80000 }
    (away none (ringState 8 11)).me.chunk.fresh = true ∧ (away none (ringState 8 11)).farSettled 0 = false ∧
    (away none (ringState 8 11)).ringCheck 0x205 true = .ok (ring4 8 11) ∧ (away none (ringState 8 11)).ringCheck 0x205 false = .ok (ring4 8 11) ∧
    (let s := { ringState 8 11 with strands := (ringState 8 11).strands ++ [(1, (away (some (2 ^ 33 + 0x2580)) (ringState 8 11)).me)] }
     s.farSettled 0 = true ∧ s.ringBusy (ring4 8 11).bit = true ∧ s.ringCheck 0x205 true = .ok (ring4 8 11) ∧ s.ringCheck 0x205 false = .ok (ring4 8 11)) ∧
    farRing.ringCheck 0x205 true = .ok g ∧ farRing.ringCheck 0x205 false = .ok g ∧ g.tail.toNat - g.head.toNat < g.cap ∧
    (∃ c, farRing.access 0 .g (g.item g.tail) .w512 2 0 = .ok (.far 3 c)) ∧ farRing.hasRoute 3 = true ∧
    (∃ c, farRing.access 0 .g (g.item g.head) .w512 1 0 = .ok (.far 3 c)) ∧ farRing.farSettled 0 = true ∧ farRing.ringBusy g.bit = false := by
  and_intros <;> first | exact ok_of (by decide +kernel) | exact far_of (by decide +kernel) | decide +kernel

/-- A message to core 1 of this package and one to a pod member, with room in the port and without. -/
theorem meets_Messages : let s := small [(1, 1)]
    let f := s.frameOf 2 1
    let t := { small [] with csr := [(0x1311 * 2 ^ 20 + 3, 0x8000)], cores := [(0, { Core.reset with outPort := [f, f, f, f] })] }
    s.me.chunk.fresh = true ∧ s.msgCheck 1 = .ok () ∧ (s.core (coreOf s.cur)).outPort.length < 4 ∧ f.pkg = s.pkg ∧
    t.msgCheck 0xC00001 = .ok () ∧ (t.frameOf 2 0xC00001).pkg ≠ t.pkg ∧ 4 ≤ (t.core (coreOf t.cur)).outPort.length ∧ s.farSettled s.cur = true ∧
    (away none s).msgCheck 1 = .ok () ∧ (away none s).farSettled (away none s).cur = false ∧
    ({ t with csr := [(0x1311 * 2 ^ 20 + 3, 0x8000), (0x1312 * 2 ^ 20, 1)] } : State).hasRoute 3 = true := by
  and_intros <;> first | exact ok_of (by decide +kernel) | decide +kernel


/-- Legal and misaligned addresses of an element, in and beyond each space; walks bound and not. -/
theorem meets_Addresses : let s := small [(1, 0x40), (2, 0x3F)]
    legal (s.rd (.g 1)).toNat .w64 = true ∧ legal (s.rd (.g 2)).toNat .w3 = false ∧
    (legal 65472 .w64 = true ∧ 65472 + Cls.w64.bits ≤ s.me.bind.spSize) ∧ (legal 65536 .w64 = true ∧ s.me.bind.spSize < 65536 + Cls.w64.bits) ∧
    (legal 65535 .w1 = true ∧ 65535 + Cls.w1.bits ≤ 2 ^ 16) ∧ (legal 65536 .w1 = true ∧ 2 ^ 16 < 65536 + Cls.w1.bits) ∧
    (2 ^ 57 - 1 < 2 ^ 57 ∧ legal (2 ^ 57 - 1) .w64 = false) ∧ (winStart - 64 < winStart ∧ legal (winStart - 64) .w64 = true) ∧
    (resStart ≤ resStart ∧ resStart < padStart ∧ legal resStart .w64 = true) ∧ (padStart - 1 < padStart ∧ legal (padStart - 1) .w1 = true) := by
  decide +kernel

/-- Windows of core 0, which has a launch, of core 1, which has none, of a lantern core and of another member's core; mailboxes; runs
that lie in one window, that leave it, and that reach the windows. -/
theorem meets_WindowChecks : let s := { small [] with csr := [(0x1311 * 2 ^ 20 + 3, 0x8000)] }
    s.isMember 0 = true ∧ s.isMember 3 = true ∧ s.isMember 5 = false ∧ s.pkg.toNat = 0 ∧ (0 % 32 ≠ 31 ∧ 31 % 32 = 31 ∧ 3072 ≤ 3072) ∧
    (0x1FFF00000000000 ≤ 0x1FFF00000000040 ∧ 0x1FFF00000000040 < 0x1FFF00080000000 ∧ 0x1FFF00000000040 % 64 = 0 ∧ 0x1FFF00000000008 % 64 ≠ 0) ∧
    legal 0x1FFF80000000000 .w64 = true ∧ 0x1FFF80000000000 / 2 ^ 33 % 2 ^ 10 = 0 ∧ 0x1FFF80000000000 / 2 ^ 21 % 2 ^ 12 = 0 ∧
    0x1FFF80000200000 / 2 ^ 21 % 2 ^ 12 = 1 ∧ 0x1FFF80003E00000 / 2 ^ 21 % 2 ^ 12 = 31 ∧ 0x1FFF80600000000 / 2 ^ 33 % 2 ^ 10 = 3 ∧
    ((s.strand (4 * 0 + 0)).bind.valid = true ∧ (s.strand (4 * 0 + 0)).bind.ctx = s.ctxOf s.cur) ∧ (∀ k, k < 4 → (s.strand (4 * 1 + k)).bind.valid = false) ∧
    (0x1FFF80000000000 % 2 ^ 21 + Cls.w64.bits ≤ s.padSize 0 ∧ s.padSize 0 < 0x1FFF80000010000 % 2 ^ 21 + Cls.w64.bits) ∧
    (let last (a len : Nat) : Nat := lastBit (a + len - Cls.w64.bits) .w64
     (Cls.w64.bits ≤ 128 ∧ 0x1FFEFFFFFFFFFC0 < 0x1FFF00000000000 ∧ 0x1FFF00000000000 ≤ last 0x1FFEFFFFFFFFFC0 128) ∧
     0x1FFF00000000000 / 2 ^ 6 ≠ last 0x1FFF00000000000 128 / 2 ^ 6 ∧ 0x1FFF80000000000 ≤ last 0x1FFF7FFFFFFFFC0 128 ∧
     0x1FFF800001FFFC0 / 2 ^ 21 ≠ last 0x1FFF800001FFFC0 128 / 2 ^ 21 ∧ 0x1FFF80000000000 / 2 ^ 21 = last 0x1FFF80000000000 128 / 2 ^ 21) := by decide +kernel

/-- Loads of the three spaces with each addressing mode, and of a vector. -/
theorem meets_Loads : let s := mapped (strandAt { regsAt [(2, 0x400), (3, 5)] with w := [(2, walk2)] })
    s.operand .p 0 .w64 (.g 2) 0 .nil 1 = .ok (0x400, .here (padBase 0 + 0x400)) ∧
    s.operand .p 1 .w3 (.g 2) 0 .nil 1 = .ok (0x400, .here (padBase 0 + 0x400)) ∧
    s.operand .k 2 .w8 (.g 2) 0 (.g 3) 1 = .ok (0x428, .here (constBase 0 + 0x428)) ∧
    s.operand .g 3 .w64 (.w 2) 0 .nil 1 = .ok (0x400, .here (2 ^ 33 + 0x400)) ∧
    s.operand .g 0 .w1024 (.g 2) 0x400 .nil 1 = .ok (0x800, .here (2 ^ 33 + 0x800)) ∧
    s.poisonFor s.cur (2 ^ 33 + 0x800) 1024 = none ∧ s.poisonFor s.cur (padBase 0 + 0x400) 64 = none := by
  and_intros <;> first | exact ok_of (by decide +kernel) | decide +kernel

theorem meets_LoadReplies : let p := loadPend 5 64
    let q := loadPend (128 + 31) 1024
    (oneStrand { strandAt (regsAt []) with pend := [p] }).me.pend = p :: [] ∧ p.kind = .load ∧ p.far = none ∧ p.snap = none ∧ p.part = none ∧
    (Sel.g 5).writable = true ∧ p.reg = (Sel.g 5).code.toNat ∧ 1 ≤ p.bits ∧ p.bits ≤ 64 ∧
    q.kind = .load ∧ q.reg = 128 + 31 ∧ q.sx = false ∧ q.bits ≤ 1024 := by decide +kernel

theorem meets_Stores : let s := mapped (strandAt (regsAt [(2, 0x400), (3, 5)]))
    s.operand .p 0 .w32 (.g 2) 0 .nil 2 = .ok (0x400, .here (padBase 0 + 0x400)) ∧ s.me.chunk.stores = [] ∧
    s.operand .g 0 .w3 (.g 2) 60 .nil 2 = .ok (0x43C, .here (2 ^ 33 + 0x43C)) ∧
    ((2 ^ 33 + 0x43C) % 64) % Cls.w3.bits = 0 ∧ (2 ^ 33 + 0x43C) % 64 < Cls.w3.bits * Cls.w3.perContainer ∧
    entriesUsed ([] ++ elemStores none (2 ^ 33 + 0x43C) .w3 (s.rd (.g 3)).toNat) ≤ 64 := by
  and_intros <;> first | exact ok_of (by decide +kernel) | decide +kernel

/-- A store of a whole vector and one of the w32 lanes of mask 1. -/
theorem meets_VectorStores : let s := mapped (strandAt { regsAt [(2, 0x400), (3, 0x71)] with m := [(1, 0b101)] })
    s.operand .g 0 .w1024 (.g 2) 0 .nil 2 = .ok (0x400, .here (2 ^ 33 + 0x400)) ∧ s.checkDesc 0 false = .ok () ∧
    s.checkDesc (s.rd (.g 3)) false = .ok () ∧ s.me.chunk.stores = [] ∧ Cls.w1024.bits ≤ 1024 := by
  and_intros <;> first | exact ok_of (by decide +kernel) | decide +kernel

/-- Lanes 0 and 2 of 32 bits, under mask 1, with their indices in v4; descriptors outside the map; a base that is not aligned. -/
theorem meets_GathersAndScatters :
    let s := mapped (strandAt { regsAt [(2, 0x400), (3, 0x401), (4, 0x2000), (5, 8), (6, 0x401), (7, 16), (8, 0x1F01)] with m := [(1, 0b101)], v := [(4, 2 ^ 64 * 3 + 1)] })
    let few := mapped { strandAt (regsAt [(8, 0x1F01)]) with bind := { slotBind with vbud := 16 } }
    let placed := [(0, 0x420, 2 ^ 33 + 0x420), (2, 0x460, 2 ^ 33 + 0x460)]
    s.lanes .w32 (.g 2) 0 (s.rd (.g 3)) 1 = .ok (placed.map fun l => (l.1, l.2.1, Place.here l.2.2)) ∧
    s.lanes .w32 (.g 2) 0 (s.rd (.g 3)) 2 = .ok (placed.map fun l => (l.1, l.2.1, Place.here l.2.2)) ∧
    (∀ l ∈ placed, s.poisonFor s.cur l.2.2 Cls.w32.bits = none) ∧ s.me.chunk.stores = [] ∧ 2 ^ 13 ≤ (s.rd (.g 4)).toNat ∧
    (s.rd (.g 5)).getLsbD 3 = true ∧ (s.rd (.g 7)).toNat / 2 ^ 4 % 2 ^ 4 ≠ 0 ∧ few.vBudget few.cur ≤ (few.rd (.g 8)).toNat / 2 ^ 8 % 2 ^ 5 ∧ legal (s.rd (.g 2) + (0 : BitVec 48).signExtend 64).toNat .w32 = true ∧
    legal (s.rd (.g 6) + (0 : BitVec 48).signExtend 64).toNat .w32 = false := by
  and_intros <;> first | exact ok_of (by decide +kernel) | decide +kernel

/-- An I/O page of port 2 of context 0 at G 2^19. -/
def ioEntry : BitVec 128 := BitVec.ofNat 128 (2 ^ 63 + 2 ^ 60 + 2 * 2 ^ 57 + 3 * 2 ^ 55 + 1 + 3 * 2 ^ 64)

/-- An I/O access with no store outstanding, and with one. -/
theorem meets_IoAccesses : let s0 := mapped (strandAt (regsAt [(2, 0x80000)]))
    let s := { s0 with cores := [(0, { Core.reset with tlb := [ioEntry] })] }
    let t := { s with strands := [(0, { strandAt (regsAt [(2, 0x80000)]) with ioLeft := 1 })] }
    s.me.chunk.fresh = true ∧ s.ioOperand 0 .w32 (.g 2) 64 (.g 0) 1 = .ok (0x80040, 2, 3 * 2 ^ 16 + 8) ∧
    s.ioOperand 0 .w32 (.g 2) 64 (.g 0) 2 = .ok (0x80040, 2, 3 * 2 ^ 16 + 8) ∧ s.me.ioLeft = 0 ∧ t.me.ioLeft ≠ 0 ∧
    t.ioOperand 0 .w32 (.g 2) 64 (.g 0) 1 = .ok (0x80040, 2, 3 * 2 ^ 16 + 8) := by
  and_intros <;> first | exact ok_of (by decide +kernel) | decide +kernel

/-- A posted write, a read outstanding before and after its limit. -/
theorem meets_IoCompletions : let p : Pend := { loadPend 5 32 with kind := .io }
    let s := { oneStrand { strandAt (regsAt []) with pend := [p] } with
      posted := [(2, [{ strand := 0, byte := 8, bytes := 4, value := 1 }])], clk := 40000000 }
    let t := { s with clk := 39999999 }
    SMap.look [] s.posted 2 = { strand := 0, byte := 8, bytes := 4, value := 1 } :: [] ∧
    (s.strand 0).pend.find? (fun p => p.kind == .io) = some p ∧ s.past (s.strand 0).since 40000000 = true ∧
    t.past (t.strand 0).since 40000000 = false := by decide +kernel

/-- Nothing outstanding, and what each fence waits for. -/
theorem meets_Fences : let s := small []
    let t := oneStrand { strandAt (regsAt []) with pend := [{ loadPend 5 64 with far := some (3, 0), snap := some (regsAt []) }] }
    let u := oneStrand { strandAt (regsAt []) with pend := [{ loadPend 5 64 with kind := .token }], ioLeft := 1 }
    s.me.chunk.fresh = true ∧ (∀ p ∈ s.me.pend, p.far = none) ∧ s.me.ioLeft = 0 ∧ (∀ p ∈ s.me.pend, p.kind ≠ .io ∧ p.kind ≠ .token) ∧
    (s.core (coreOf s.cur)).copyQ = [] ∧ (s.core (coreOf s.cur)).matQ = [] ∧ t.me.chunk.fresh = true ∧ ¬(∀ p ∈ t.me.pend, p.far = none) ∧
    u.me.chunk.fresh = true ∧ ¬(∀ p ∈ u.me.pend, p.kind ≠ .token) ∧ u.me.ioLeft ≠ 0 := by decide +kernel

/-- Masks that name no token, one that is written and one that is not. -/
theorem meets_Tokens : let s := oneStrand { strandAt (regsAt [(1, 0), (2, 0x30)]) with pend := [{ loadPend 5 64 with kind := .token }] }
    let named := (List.range (s.gBudget s.cur)).filter fun j => (s.rd (.g 2)).getLsbD j
    ((List.range (s.gBudget s.cur)).filter fun j => (s.rd (.g 1)).getLsbD j) = [] ∧ named = [4, 5] ∧
    (named.filter fun j => !s.me.token j) = [4] ∧ (∃ j ∈ named, s.me.token j = true) ∧ s.gBudget s.cur ≤ 64 := by decide +kernel

/-- A table of one segment in core 0, with an entry in the input queue and without. -/
theorem meets_Interpolation : let s := { oneStrand { strandAt (regsAt []) with vItp := [5] } with cores := [(0, { Core.reset with tables := [(1, some 7)] })] }
    SMap.look none (s.core (coreOf s.cur)).tables (1 : BitVec 2).toNat = some 7 ∧ s.me.vItp = 5 :: [] ∧ s.me.regs.fps.toNat < 64 ∧
    (small []).me.vItp = [] ∧ SMap.look none (s.core (coreOf s.cur)).tables (2 : BitVec 2).toNat = none := by decide +kernel

/-- An image of one segment at the end of the scratchpad, and one with a reserved bit. -/
theorem meets_TableLoads : let s := small [(1, 65280)]
    let t := { s with mem := padMem 65344 (2 ^ 9) }
    let p := (s.rd (.g 1)).toNat
    let bit := padBase (coreOf s.cur) + p
    p % 64 = 0 ∧ s.checkPad p 128 = .ok () ∧ s.me.chunk.raced = [] ∧ s.peek s.cur bit 128 < 2 ^ 73 ∧ s.ownPeek s.cur bit 128 < 2 ^ 73 ∧
    p + 128 + 128 ≤ s.me.bind.spSize ∧ s.poisonIn (padBase (coreOf s.cur) + p + 128) 128 = none ∧
    t.checkPad p 128 = .ok () ∧ 2 ^ 73 ≤ t.ownPeek t.cur bit 128 := by
  and_intros <;> first | exact ok_of (by decide +kernel) | decide +kernel

/-- Sends to each queue, with room and full. -/
theorem meets_VectorSends : let s := small [(1, 0x400)]
    let v : Sending := { data := s.vec 3, cons := 0b11111, va := 0x400, place := some (.here (padBase 0 + 0x400)) }
    let t := oneStrand { strandAt (regsAt []) with vItp := [1, 2], vMsg := [3], vRing := [4] }
    let u := oneStrand { strandAt (regsAt []) with sending := some v, hold := .vsend 31 }
    s.me.chunk.fresh = true ∧ s.vsendCheck 3 0b11111 false (.g 1) = .ok v ∧ 2 ≤ t.me.vItp.length ∧ t.me.vMsg ≠ [] ∧ t.me.vRing ≠ [] ∧
    (u.strand 0).sending = some v ∧ (u.strand 0).hold = .vsend v.cons.toNat ∧ (u.strand 0).vMat.length < 2 ∧
    (u.core (coreOf 0)).copyRoom = true ∧ v.place.isSome = v.cons.getLsbD 2 := by
  and_intros <;> first | exact ok_of (by decide +kernel) | decide +kernel

/-- Lane numbers at the ends of a register, and no condition enabled. -/
theorem meets_VectorMoves : (0 : BitVec 11).toNat < Ty.s64.lanes ∧ (15 : BitVec 11).toNat < Ty.s64.lanes ∧
    (oneStrand (strandAt { regsAt [] with fps := 0x3F })).me.regs.fps.getLsbD 6 = false := by decide

/-! Witnesses: the engines. -/

/-- Whether an operation answers. -/
def passes {α : Type} (r : Res α) : Bool :=
  match r with
  | .ok _ => true
  | .error _ => false

theorem of_passes {α : Type} {r : Res α} (h : passes r = true) : ∃ a, r = .ok a := by
  cases r with
  | ok b => exact ⟨b, rfl⟩
  | error e => simp [passes] at h

/-- The pattern of a copy between two scratchpads. -/
def flags8 (dsp ssp : Bool) : CopyFlags := { noFlags with dsp := dsp, ssp := ssp }

/-- A state whose strand holds operand slot 2, with two operands for a copy, a full copy queue on demand. -/
def copying (full : Bool) : State :=
  let c := CopyCmd.empty .cpy 0 noFlags
  { small [(1, 1024), (2, 512), (3, 4), (4, BitVec.ofNat 64 (padStart + 1024)), (5, 0), (6, 2 ^ 25)] with
    cores := [(0, { Core.reset with mat := { Matrix.reset with slots := [(2, 1)] }, copyQ := if full then [c, c] else [] })] }

/-- A command of each copy function, with room in the queue and without; a run that is too long; runs at the scratchpad's
ends. -/
theorem meets_CopyCommands : let s := copying false
    let t := copying true
    s.me.chunk.fresh = true ∧ (s.core (coreOf s.cur)).copyRoom = true ∧
    (∃ c, s.copyCommand .cpy (.g 1) 0 (.g 2) (.g 3) (.g 0) 0 (flags8 false false) = .ok c) ∧
    (∃ c, s.copyCommand .cpym (.g 4) 0 (.g 2) (.g 3) (.g 0) (s.rd (.g 5)) (flags8 true false) = .ok c) ∧
    (∃ c, s.copyCommand .cpyr (.g 1) 0 (.g 2) (.g 3) (.g 0) 0 (flags8 false false) = .ok c) ∧
    (∃ c, s.copyCommand .cpys .nil 2 (.g 2) (.g 3) (.g 0) (s.rd (.g 5)) (flags8 false false) = .ok c) ∧
    (∃ c, s.byteCheck .cpyc (.g 1) (.g 2) (.g 3) (.g 5) false false true = .ok c) ∧
    (∃ c, s.byteCheck .cpyz (.g 1) (.g 2) (.g 3) (.g 3) false false false = .ok c) ∧
    t.me.chunk.fresh = true ∧ (t.core (coreOf t.cur)).copyRoom = false ∧ 2 ^ 24 < (s.rd (.g 6)).toNat ∧ s.rd (.g 5) = 0 ∧
    legal (s.rd (.g 2)).toNat (Ty.n8).cls = true ∧ (s.rd (.g 2)).toNat + runBits (s.rd (.g 2)).toNat (Ty.n8).cls 1 ≤ s.me.bind.spSize ∧
    legal 65528 (Ty.n8).cls = true ∧ 65528 + runBits 65528 (Ty.n8).cls 1 ≤ s.me.bind.spSize := by
  and_intros <;> first | decide +kernel | exact of_passes (by decide +kernel)

/-- Side of one run of the scratchpad of core 0. -/
def padSide (a bits : Nat) : Side :=
  { g := false, walked := false, starts := [a], segs := [{ va := a, bits := bits, place := .here (padBase 0 + a) }] }

/-- A token pending. -/
def tokenPend (reg : Nat) : Pend := { loadPend reg 64 with kind := .token }

/-- A command to be accepted, one of which two of four elements are left, and one that has finished. -/
theorem meets_CopyEngine : let c : CopyCmd := { CopyCmd.empty .cpy 0 noFlags with
      len := 4, rows := 1, mask := 1, src := padSide 512 32, dst := padSide 1024 32 }
    let d : CopyCmd := { c with accepted := true, done := 2 }
    let e : CopyCmd := { c with accepted := true, done := 4, tok := 5 }
    let t := oneStrand { strandAt (regsAt []) with pend := [tokenPend 5] }
    let far : FarStore := { tag := copyTag 0, inst := 0, strand := 0, tok := 5, part := 0, launch := none, pkg := 3, bit := 0, site := (0, 0) }
    let mine (f : FarStore) : Prop := f.tag = copyTag (coreOf e.strand) ∧ f.strand = e.strand ∧ f.tok = e.tok
    d.held = [] ∧ d.sent = 0 ∧ d.bad = false ∧ t.awaited d = false ∧ (∀ f ∈ t.farStores, ¬mine f) ∧ (∃ f ∈ ({ t with farStores := [far] } : State).farStores, mine f) ∧ c.accepted = false ∧ d.accepted = true ∧ d.fn = .cpy ∧ d.flags.sfmt = .ty .n8 ∧ d.flags.dfmt = .ty .n8 ∧
    (Ty.n8).cls.packed = false ∧ d.rows = 1 ∧ d.hdr.starts = [] ∧ d.mask = 1 ∧ d.done < d.len ∧
    d.src = { g := false, walked := false, starts := [512], segs := [{ va := 512, bits := 32, place := .here (padBase 0 + 512) }] } ∧
    d.dst = { g := false, walked := false, starts := [1024], segs := [{ va := 1024, bits := 32, place := .here (padBase (coreOf d.strand) + 1024) }] } ∧
    512 % (Ty.n8).bits = 0 ∧ (padBase 0 + 512) % (Ty.n8).bits = 0 ∧ 1024 % (Ty.n8).bits = 0 ∧ d.len * (Ty.n8).bits ≤ 32 ∧ t.poison = [] ∧
    e.accepted = true ∧ e.finished = true ∧ e.fn ≠ .vsend ∧ (t.strand e.strand).pend = [tokenPend 5] ∧ (tokenPend 5).kind = .token ∧
    (tokenPend 5).reg = e.tok ∧ e.tok < 64 ∧ (tokenPend 5).snap = none ∧ (tokenPend 5).part = none := by decide +kernel

/-- A state whose strand holds operand slot 2, with operands for the matrix commands, a full queue on demand. -/
def tiling (x : List (Nat × Word)) (full : Bool) : State :=
  let c : MatCmd := { op := .mclr 0 false, strand := 0, tok := 0, remote := false, accepted := none, started := false, busy := false,
                      rowsTaken := 0, todo := [], status := 0, nv := false, sa := false }
  { small x with cores := [(0, { Core.reset with mat := { Matrix.reset with slots := [(2, 1)] }, matQ := if full then [c, c] else [] })] }

/-- A command of each kind whose shape, slots and addresses pass, at the ends of the ranges of its fields. -/
theorem meets_MatrixCommands :
    let s := tiling [(1, 32768), (2, 64), (3, 64), (4, 4), (5, 0x01010000), (6, -512), (7, 511), (8, 0x40403F3F)] false
    s.me.chunk.fresh = true ∧ (s.core (coreOf s.cur)).matRoom = true ∧
    (s.rd (.g 1)).toNat % 64 = 0 ∧ (s.rd (.g 2)).toNat = 64 ∧ (s.rd (.g 1)).toNat + tileBits (.ty .s8) 64 64 ≤ 65536 ∧
    (∀ op, op = .mwld 2 32768 64 64 (.ty .s8) false ∨ op = .mstrm 2 32768 64 64 (.ty .s8) false true ∨
        op = .mstrm 16 32768 64 64 (.ty .s8) false false ∨ op = .mclr (-512) true ∨ op = .mclr 511 false ∨
        op = .mcfg (s.rd (.g 4)) ∨ op = .mrmt 0 0 0 →
      (∀ j ∈ op.slots, SMap.look 0 (s.mat (coreOf s.cur)).slots j = s.cur + 1) ∧ ∃ f, s.matAddrs op = .ok f) ∧
    (s.rd (.g 6)).toInt = -512 ∧ (s.rd (.g 7)).toInt = 511 ∧ s.mcfgShape (s.rd (.g 4)).toNat = .ok (.mcfg (s.rd (.g 4))) ∧
    (∃ f, s.matAddrs (.mgrp 2 8 1024 64 (.ty .s8) (.ty .s8) false) = .ok f) ∧ (4 : Nat) < 2 ^ 16 ∧
    s.sideOf false (.g 1) = .ok { g := false, walked := false, starts := [32768], segs := [] } ∧
    s.region 0x01010000 = .ok (0x01010000 % 64, 0x01010000 / 2 ^ 8 % 64, 0x01010000 / 2 ^ 16 % 128, 0x01010000 / 2 ^ 24 % 128) ∧
    ∃ f, s.matAddrs (.mdrn { g := false, walked := false, starts := [32768], segs := [] } 0 0 1 1 0 (.ty .s8) .ne false false false) = .ok f := by
  and_intros
  all_goals first
    | decide +kernel
    | exact ok_of (by decide +kernel)
    | exact of_passes (by decide +kernel)
    | (rintro op (rfl | rfl | rfl | rfl | rfl | rfl | rfl) <;> exact ⟨by decide +kernel, of_passes (by decide +kernel)⟩)

/-- A mask of two slots that `MGRP` reads beside its own. -/
theorem meets_MatrixGroups : let s := { tiling [] false with cores := [(0, { Core.reset with mat := { Matrix.reset with slots := [(2, 1), (3, 1)] } })] }
    ∀ j ∈ (MatOp.mgrp 2 8 1024 64 (.ty .s8) (.ty .s8) false).slots, SMap.look 0 (s.mat (coreOf s.cur)).slots j = s.cur + 1 := by
  decide +kernel

/-- Each field out of its range, at the boundary, with the fields before it in theirs. -/
theorem meets_MatrixChecks :
    let s := tiling [(1, 64), (2, 0), (3, 65), (4, 32), (5, 64), (6, -513), (7, 512), (8, 2 ^ 16)] false
    let t := tiling [] true
    s.me.chunk.fresh = true ∧ t.me.chunk.fresh = true ∧ (t.core (coreOf t.cur)).matRoom = false ∧ (s.core (coreOf s.cur)).matRoom = true ∧
    16 ≤ (16 : BitVec 7).toNat ∧ (15 : BitVec 7).toNat < 16 ∧ (s.rd (.g 4)).toNat % 64 ≠ 0 ∧ (s.rd (.g 1)).toNat % 64 = 0 ∧
    ¬(1 ≤ (s.rd (.g 2)).toNat ∧ (s.rd (.g 2)).toNat ≤ 64) ∧ ¬(1 ≤ (s.rd (.g 3)).toNat ∧ (s.rd (.g 3)).toNat ≤ 64) ∧
    (1 ≤ (s.rd (.g 5)).toNat ∧ (s.rd (.g 5)).toNat ≤ 64) ∧ SMap.look 0 (s.core (coreOf s.cur)).mat.slots 15 ≠ s.cur + 1 ∧
    (s.rd (.g 6)).toInt < -512 ∧ 511 < (s.rd (.g 7)).toInt ∧ 2 ^ 16 ≤ (s.rd (.g 8)).toNat ∧ s.rd (.g 2) = 0 := by decide +kernel

/-- Masks of free slots within the quota, of a slot held and idle, and one too wide. -/
theorem meets_OperandSlots : let s := tiling [(1, 0xFFF8), (2, 4), (3, 2 ^ 16), (4, 255)] false
    let core := coreOf s.cur
    s.me.chunk.fresh = true ∧ (s.rd (.g 1)).toNat < 2 ^ 16 ∧
    (∀ j, j < 16 → (s.rd (.g 1)).toNat.testBit j = true → SMap.look 0 (s.mat core).slots j = 0) ∧
    (maskSlots (s.rd (.g 1)).toNat).length + (s.heldSlots s.cur).length ≤ s.me.bind.quota ∧
    (∀ j, j < 16 → (s.rd (.g 2)).toNat.testBit j = true → SMap.look 0 (s.mat core).slots j = s.cur + 1 → ¬(s.core core).slotsUsed.contains j) ∧
    SMap.look 0 (s.mat core).slots 2 = s.cur + 1 ∧ (s.rd (.g 4)).toNat < 2 ^ 8 ∧ 2 ^ 16 ≤ (s.rd (.g 3)).toNat := by decide +kernel

/-- Window commands of one, of some, of no and of too many values in the scratchpad. -/
theorem meets_WindowCommands : let s := tiling [(1, 1024), (2, 4096), (3, 1), (4, 4), (5, 0), (6, 2 ^ 24 + 1)] false
    s.me.chunk.fresh = true ∧ (s.core (coreOf s.cur)).matRoom = true ∧ 1 ≤ (s.rd (.g 3)).toNat ∧ (s.rd (.g 4)).toNat ≤ 2 ^ 24 ∧ (s.rd (.g 5)).toNat = 0 ∧ 2 ^ 24 < (s.rd (.g 6)).toNat ∧
    1024 % 64 = 0 ∧ 4096 % 64 = 0 ∧ (∃ g, s.checkRun false 1024 384 .w64 2 0 = .ok g) ∧
    (∃ g, s.checkRun false 4096 (packedBits (fmtCls (.ty .f16)) 4) (fmtCls (.ty .f16)) 1 0 = .ok g) ∧
    (∃ g, s.checkRun false 1024 (packedBits (fmtCls (.ty .bf16)) 4) (fmtCls (.ty .bf16)) 2 0 = .ok g) ∧
    (∃ g, s.checkRun false 4096 (384 * 4) .w64 1 0 = .ok g) ∧ (∃ g, s.checkRun false 1024 (384 * 4) .w64 2 0 = .ok g) := by
  and_intros <;> first | decide +kernel | exact of_passes (by decide +kernel)

/-- A matrix command with nothing done. -/
def matCmd (op : MatOp) : MatCmd :=
  { op := op, strand := 0, tok := 5, remote := false, accepted := none, started := false, busy := false,
    rowsTaken := 0, todo := [], status := 0, nv := false, sa := false }

/-- Commands to accept, to start and to complete. -/
theorem meets_MatrixUnit : let k := matCmd (.mwld 2 0 64 1 (.ty .s8) false)
    let a := { k with accepted := some 3 }
    let b := { a with op := .mclr (-512) true }
    let e := { a with started := true }
    let core (q : List MatCmd) : State := { oneStrand { strandAt (regsAt []) with pend := [tokenPend 5] } with cores := [(0, { Core.reset with matQ := q })] }
    ((core [k]).core 0).matQ = k :: [] ∧ k.accepted = none ∧ ((core [a]).core 0).matQ = [a] ∧ ((core [a]).core 0).port = [] ∧
    a.accepted.isSome = true ∧ a.started = false ∧ a.busy = false ∧ a.op = .mwld 2 0 64 1 (.ty .s8) false ∧ 64 ≤ 64 ∧
    ((core [b]).core 0).matQ = [b] ∧ b.accepted.isSome = true ∧ b.started = false ∧ b.busy = false ∧ b.op = .mclr (-512) true ∧
    ((core [e]).core 0).matQ = [e] ∧ e.accepted.isSome = true ∧ e.started = true ∧ e.busy = false ∧ e.todo = [] ∧
    ((core [e]).strand e.strand).pend = [tokenPend 5] ∧ (tokenPend 5).kind = .token ∧ (tokenPend 5).reg = e.tok ∧ e.tok < 64 ∧
    (core [e]).farStores = [] ∧ (tokenPend 5).snap = none ∧ (tokenPend 5).part = none := by decide +kernel

/-- A plane of integer weights, and an element with its NaN bit set. -/
theorem meets_IntegerStreams : SMap.look false ((Acc.clear 0).setNan 3).nan 3 = true ∧ SMap.look false (Acc.clear 0).nan 3 = false ∧ Plane.reset.fmt = .ty .s8 ∧ 1 ≤ Plane.reset.kdim ∧ 63 < Plane.reset.ndim ∧ Plane.reset.ndim ≤ 64 := by
  decide

/-- A remote command at an owner with room in its port, with none and at no core's unit, and one at its start whose capability is of another
context. The value that binds a capability to its core is a free value, so that none that passes can be written down. -/
theorem meets_RemoteCommands : let k := { matCmd (.mrmt 1 0 0) with accepted := some 0, started := true, busy := true }
    let s (c : Core) : State := { oneStrand { strandAt (regsAt []) with pend := [tokenPend 5] } with cores := [(0, { Core.reset with matQ := [k] }), (1, c)] }
    let q := { matCmd (.mrmt 31 0 0) with accepted := some 0, started := true, busy := true }
    let r := { matCmd (.mrmt 1 0 0) with remote := true, accepted := some 0 }
    let t := { s { Core.reset with port := [r] } with cores := [(1, { Core.reset with port := [r] })] }
    ((s Core.reset).core (coreOf 0)).matQ = [k] ∧ k.strand = 0 ∧ k.started = true ∧ k.busy = true ∧ k.op = .mrmt 1 0 0 ∧ 1 ≠ coreOf 0 ∧
    isTaper 1 = true ∧ ((s Core.reset).core 1).port.length < 4 ∧ (s Core.reset).closing 1 = false ∧
    4 ≤ ((s { Core.reset with port := [r, r, r, r] }).core 1).port.length ∧ isTaper 31 = false ∧ q.op = .mrmt 31 0 0 ∧ q.strand = 0 ∧
    ((s Core.reset).strand 0).pend = [tokenPend 5] ∧ (tokenPend 5).kind = .token ∧ (tokenPend 5).reg = k.tok ∧ k.tok < 64 ∧
    (tokenPend 5).snap = none ∧ (tokenPend 5).part = none ∧ (t.core 1).matQ = [] ∧ (t.core 1).port = [r] ∧ r.op = .mrmt 1 0 0 ∧
    r.remote = true ∧ r.accepted.isSome = true ∧ r.started = false ∧ r.busy = false ∧ r.status = 0 ∧
    t.remoteCheck 1 (t.strand r.strand).bind.ctx (t.partOf r.strand) 0 0 = .inl 0x89 ∧
    (upFrom (4 * 1) 4).all (fun n => !(t.strand n).bind.valid) = true ∧ bitsOf (0 : Word).toNat 16 12 ≠ 1 := by decide +kernel

/-! Witnesses: atomics, barriers, claims and the supervisor. -/

/-- Values of each width at its ends. -/
theorem meets_AtomicFunctions : (0 : Nat) < 2 ^ Cls.w1.bits ∧ (1 : Nat) < 2 ^ Cls.w1.bits ∧ (2 ^ 64 - 1 : Nat) < 2 ^ Cls.w64.bits := by decide

/-- Atomics of the space of tasks and of the scratchpad. -/
theorem meets_Atomics : let s := mapped (strandAt (regsAt [(2, 0x400)]))
    s.me.chunk.fresh = true ∧ s.farSettled s.cur = true ∧ s.operand .g 0 .w64 (.g 2) 0 .nil 7 = .ok (0x400, .here (2 ^ 33 + 0x400)) ∧
    s.operand .p 1 .w1 (.g 2) 3 .nil 7 = .ok (0x400, .here (padBase 0 + 0x400)) ∧
    s.poisonFor s.cur (2 ^ 33 + 0x400) 64 = none ∧ s.poisonFor s.cur (padBase 0 + 0x400) 1 = none ∧
    (2 ^ 33 + 0x400) % Cls.w64.bits = 0 ∧ (padBase 0 + 0x400) % Cls.w1.bits = 0 ∧ Cls.w64.packed = false ∧ Cls.w1.packed = false ∧
    Cls.w64.bits ≤ 64 := by
  and_intros <;> first | exact ok_of (by decide +kernel) | decide +kernel

/-- An atomic pending; homes that admit an access, that do not, and that find poison. -/
theorem meets_AtomicReplies : let p : Pend := { loadPend 5 64 with kind := .atomic }
    let s := mapped { strandAt (regsAt []) with pend := [p] }
    let t := { s with csr := [(0x1330 * 2 ^ 20, 0x10007)] }
    (s.strand 0).pend = p :: [] ∧ p.kind = .atomic ∧ p.far = none ∧ p.snap = none ∧ p.part = none ∧ p.reg = (Sel.g 5).code.toNat ∧
    (Sel.g 5).writable = true ∧ 1 ≤ p.bits ∧ p.bits ≤ 64 ∧ Cls.w64.packed = false ∧ Cls.w64.bits ≤ 64 ∧ (2 ^ 33 + 0x400) % Cls.w64.bits = 0 ∧
    t.homeFails { ppid := 7, ctx := 0 } (2 ^ 33 + 0x400) Cls.w64.bits = none ∧ t.poisonIn (2 ^ 33 + 0x400) Cls.w64.bits = none ∧
    t.homeFails { ppid := 8, ctx := 0 } (2 ^ 33 + 0x400) Cls.w64.bits = some 0x2A ∧ 0 < pkgTag ∧
    ({ t with poison := [(2 ^ 27 + 16, true)] } : State).homeFails { ppid := 7, ctx := 0 } (2 ^ 33 + 0x400) Cls.w64.bits = none ∧
    ({ t with poison := [(2 ^ 27 + 16, true)] } : State).poisonIn (2 ^ 33 + 0x400) Cls.w64.bits = some (2 ^ 33 + 0x400) := by
  decide +kernel

/-- A barrier table at G 0x4000 with an entry 5. -/
def barrierState (word : Nat) : State :=
  let s := mapped (strandAt (regsAt [(3, 5), (4, 2 ^ 20)]))
  { s with ctxs := [(0, { ctx0 with desc := [0, 0x4000] })], mem := s.mem.setBits (2 ^ 33 + 0x4000 + 128 * 5) 128 word }

/-- An entry before its start, before and at its last arrival. -/
theorem meets_Barriers :
    let b : Nat → Nat → Bool → Barrier := fun arrived count valid => { gen := 7, arrived := arrived, count := count, valid := valid }
    (barrierState 7).me.chunk.fresh = true ∧
    (barrierState 7).barrier 5 = .ok (2 ^ 33 + 0x4280, b 0 1 false) ∧
    (barrierState (7 + 2 * 2 ^ 44 + 2 ^ 64)).barrier 5 = .ok (2 ^ 33 + 0x4280, b 0 3 true) ∧
    (barrierState (7 + 2 * 2 ^ 24 + 2 * 2 ^ 44 + 2 ^ 64)).barrier 5 = .ok (2 ^ 33 + 0x4280, b 2 3 true) ∧
    (2 ^ 33 + 0x4280) % 64 = 0 ∧ (barrierState 7).poisonIn (2 ^ 33 + 0x4280) 128 = none ∧ 1 ≤ (2 ^ 20 : Word).toNat ∧ (2 ^ 20 : Word).toNat ≤ 2 ^ 20 ∧
    (b 0 1 false).valid = false ∧ ((b 0 3 true).valid = true ∧ (b 0 3 true).arrived < (b 0 3 true).count ∧ (b 0 3 true).arrived + 1 ≠ (b 0 3 true).count) ∧
    ((b 2 3 true).valid = true ∧ (b 2 3 true).arrived + 1 = (b 2 3 true).count) := by
  and_intros <;> first | exact ok_of (by decide +kernel) | decide +kernel

/-- Names with a home here and at another package, of a partition with a pod identifier and without; a handle in the arena. -/
theorem meets_ClaimFunctions :
    let s := { small [(4, 0x1000)] with csr := [(0x1002 * 2 ^ 20, 0x1000), (0x1003 * 2 ^ 20, 64), (0x1314 * 2 ^ 20, 0x8000), (0x1330 * 2 ^ 20, 0x10007)] }
    let t := { s with csr := [(0x1314 * 2 ^ 20, 0x8003), (0x1330 * 2 ^ 20, 0x10007)] }
    s.farSettled s.cur = true ∧ (away none s).farSettled (away none s).cur = false ∧ (away none s).me.chunk.fresh = true ∧
    s.me.chunk.fresh = true ∧ (s.me.pend.all fun p => p.kind != .peek) = true ∧ (s.csrAt 0x1330 (s.partOf s.cur)).getLsbD 16 = true ∧
    s.csrAt 0x1314 ((s.claimReq .claim 3 0).name.toNat % 1024) = 0x8000 ∧ (0x8000 : Word).getLsbD 15 = true ∧
    (0x8000 : Word).setWidth 10 = s.pkg ∧ (0x8003 : Word).setWidth 10 ≠ t.pkg ∧ t.csrAt 0x1314 ((t.claimReq .claim 3 0).name.toNat % 1024) = 0x8003 ∧
    s.arena (s.ctxOf s.cur) = some (0x1000, 64, 7) ∧ 0x1000 ≤ (s.rd (.g 4)).toNat ∧ (s.rd (.g 4)).toNat < 0x1000 + 64 ∧
    (s.rd (.g 4)).toNat < 2 ^ 57 ∧ ((small []).csrAt 0x1330 ((small []).partOf 0)).getLsbD 16 = false := by decide +kernel

/-- A request of strand 0, whose task is 9. -/
def request (fn : ClaimFn) : ClaimReq :=
  { fn := fn, name := 77, ppid := 7, domain := 1, pkg := 0, ctx := 0, task := 9, strand := 0, handle := 0x1000 }

/-- An entry of the requested name. -/
def entry (made : Bool) (task pins : Nat) : Claim :=
  { name := 77, ppid := 7, domain := 1, made := made, owed := false, maker := { pkg := 0, ctx := 0, task := task, strand := 4 },
    handle := 0x1000, pins := pins, used := 0, recs := [] }

/-- A strand that waits for a claim, whose home knows the name or not. -/
def claiming (two : Bool) (cs : List Claim) : State :=
  let p : Pend := { loadPend 5 64 with kind := .claim, snap := some (regsAt []) }
  { oneStrand { strandAt (regsAt []) with task := 9, wait := .claim 77 5 6, pend := if two then [p, { p with reg := 6 }] else [p] } with
    claims := cs.map fun c => (homeTile 77, c) }

/-- A free name, a made one with no pin, some and the most, and one that another task or the task itself makes. -/
theorem meets_ClaimTransitions : let p : Pend := { loadPend 5 64 with kind := .claim, snap := some (regsAt []) }
    let s (c : Claim) : State := claiming true [c]
    (request .claim).pkg = (claiming true []).pkg ∧ ((claiming true []).strand 0).task = (request .claim).task ∧
    ((claiming true []).strand 0).wait = .claim (request .claim).name 5 6 ∧
    ((claiming true []).strand 0).pend = [p, { p with reg := 6 }] ∧ ((claiming false []).strand 0).pend = [p] ∧
    p.kind = .claim ∧ p ≠ { p with reg := 6 } ∧ p.snap.isSome = true ∧ p.part = none ∧ (Sel.g 5).writable = true ∧ (Sel.g 6).writable = true ∧
    p.reg = (Sel.g 5).code.toNat ∧ ({ p with reg := 6 } : Pend).reg = (Sel.g 6).code.toNat ∧
    (∀ e ∈ (claiming true []).claims, e.2.matches (request .claim) = false) ∧ (claiming true []).recordsOf (homeTile 77) < 8192 ∧
    ((claiming true []).claims.filter fun e => e.1 == homeTile 77 && bucketOfName e.2.name == bucketOfName 77).length < 4 ∧
    (s (entry true 8 0)).claims.find? (fun e => e.2.matches (request .unpin)) = some (homeTile 77, entry true 8 0) ∧
    (entry true 8 0).made = true ∧ (entry true 8 0).pins = 0 ∧ 0 < (entry true 8 65534).pins ∧ (entry true 8 65534).pins < 2 ^ 16 - 1 ∧
    (s (entry false 8 0)).claims.find? (fun e => e.2.matches (request .claim)) = some (homeTile 77, entry false 8 0) ∧
    (entry false 8 0).made = false ∧ (entry false 8 0).maker.same (reqWho (request .claim)) = false ∧
    ((entry false 8 0).recs.any fun w => w.who.same (reqWho (request .claim))) = false ∧
    (s (entry false 9 0)).claims.find? (fun e => e.2.matches (request .fulfil)) = some (homeTile 77, entry false 9 0) ∧
    (entry false 9 0).maker.same (reqWho (request .fulfil)) = true ∧ (entry false 9 0).recs = [] := by decide +kernel

/-- A strand past a `CPEEK` of a name that the claim table knows or not. -/
theorem meets_ClaimPeeks :
    let p : Pend := { loadPend 5 64 with kind := .peek }
    let s (cs : List Claim) : State :=
      { oneStrand { strandAt (regsAt []) with task := 9, pend := [p, { p with reg := 6 }] } with claims := cs.map fun c => (homeTile 77, c) }
    (request .cpeek).pkg = (s []).pkg ∧ ((s []).strand 0).task = (request .cpeek).task ∧ ((s []).strand 0).pend = [p, { p with reg := 6 }] ∧
    p.kind = (if (request .cpeek).fn = .cpeek then PendKind.peek else .claim) ∧ p ≠ { p with reg := 6 } ∧
    p.snap.isSome = decide ((request .cpeek).fn ≠ .cpeek) ∧ (∀ e ∈ (s []).claims, e.2.matches (request .cpeek) = false) ∧
    (s [entry true 8 0]).claims.find? (fun e => e.2.matches (request .cpeek)) = some (homeTile 77, entry true 8 0) ∧
    (s [entry false 8 0]).claims.find? (fun e => e.2.matches (request .cpeek)) = some (homeTile 77, entry false 8 0) ∧
    (entry false 8 0).maker.same (reqWho (request .cpeek)) = false := by decide +kernel

/-- R231, R234: past a `CPEEK` of this package the strand issues on, and the reply writes DONE and the handle. -/
theorem test_cpeek :
    let s := { small [] with csr := [(0x1314 * 2 ^ 20, 0x8000), (0x1330 * 2 ^ 20, 0x10007)],
                             claims := [(homeTile 0, { entry true 8 0 with name := 0, domain := 0 })] }
    let q := s.claimReq .cpeek 3 0
    (match exec (.cpeek (.g 4) (.g 5) 3 0) s with
      | .next t => t.me.hold == .none && t.me.pending 4 && t.me.pending 5 && t.agenda == [.claimRequestArrival q] &&
          (match exec (.claimRequestArrival q) t with
            | .next u => u.rd (.g 4) == 2 && u.rd (.g 5) == 0x1000 && u.me.pend.isEmpty
            | _ => false)
      | _ => false) = true := by decide +kernel

/-- A home tile whose record store is full. -/
theorem meets_ClaimRecordsFull :
    let e : Claim := { entry false 8 0 with recs := List.replicate 8192 { who := { pkg := 0, ctx := 0, task := 3, strand := 5 }, resolved := false, asleep := [] } }
    8192 ≤ (claiming true [e]).recordsOf (homeTile 77) := by
  simp only [State.recordsOf, claiming, List.map_cons, List.map_nil, List.filter_cons, beq_self_eq_true, if_true, List.filter_nil,
    List.foldl_cons, List.foldl_nil, List.length_replicate]
  omega

/-- Numbers of registers that are there and that are not, and the supervisor's scratch registers. -/
theorem meets_ControlRegisters : let s := small []
    s.me.chunk.fresh = true ∧ s.csrRead s.cur 0x20 = some 0 ∧ s.csrRead s.cur 0x30 = none ∧ s.cur < 2 ^ 20 ∧ scopeOf 0x30 = none ∧
    scopeOf 0xFFFF = none ∧ 0x20 ≤ (0x23 : Word).toNat ∧ (0x23 : Word).toNat ≤ 0x23 := by decide +kernel

/-- Entry images that keep R335 and that do not, no chunk open, and a value that `TLBI` does not have. -/
theorem meets_TranslationControl : let s0 := mapped (strandAt (regsAt [(1, 0x400), (2, 0), (3, 2), (4, 0x600)]))
    let s := { s0 with mem := s0.mem.setBits (2 ^ 33 + 0x400) 128 pageEntry.toNat }
    s.me.chunk.fresh = true ∧ (s.rd (.g 2)).getLsbD 63 = false ∧ s.entryImage (s.rd (.g 1)) = .ok pageEntry ∧
    s.imageOk (s.ctxSel s.cur) pageEntry = true ∧ s.entryImage (s.rd (.g 4)) = .ok 0 ∧ s.imageOk (s.ctxSel s.cur) 0 = false ∧
    s.rd (.g 2) = 0 ∧ s.chunksOpen [tileOf s.cur] (s.ctxSel s.cur) = [] ∧ 2 ≤ (s.rd (.g 3)).toNat ∧ (s.rd (.g 1)).toNat ≠ s.cur := by
  and_intros <;> first | exact ok_of (by decide +kernel) | decide +kernel

/-- Thread 1 of tile 0 serves strand 0 of context 0, whose trap frame is at G 0x10000. -/
def trapState (t : Strand) : State :=
  let s := mapped t
  { s with strands := [(0, t), (125, { Strand.reset with status := .ready })], cur := 125
           ctxs := [(0, { ctx0 with desc := [0, 0, 0, 0, 0, 0, 0x10000] })]
           mem := s.mem.setBits (2 ^ 33 + 0x10040) 64 (2 ^ 24 + 9)
           csr := [(0x1 * 2 ^ 20 + 125, 0), (0x2 * 2 ^ 20 + 125, 0x10000)]
           tiles := [(0, { Tile.reset with serving := some 0 })] }


/-- An address in page 0 of the largest size is looked up as the page's first. -/
theorem bucketFind_page (s : State) (ctx va : Nat) (h : va / 2 ^ pageShift 2 = 0) (f bit : Nat) :
    s.bucketFind ctx va 2 bit f = s.bucketFind ctx 0 2 bit f := by
  induction f generalizing bit with
  | zero => rfl
  | succ f ih =>
    have hok : ∀ e : BitVec 128, (pte e 61 2 == 2 && entryHits e ctx va) = (pte e 61 2 == 2 && entryHits e ctx 0) := by
      intro e
      by_cases hp : pte e 61 2 = 2
      · simp only [entryHits, hp, h, Nat.zero_div]
      · simp only [beq_eq_false_iff_ne.mpr hp, Bool.false_and]
    simp only [State.bucketFind, hok, ih]

theorem walk_page (s : State) (ctx va : Nat) (h : va / 2 ^ pageShift 2 = 0) (e : BitVec 128) (he : s.probe ctx 0 2 = some e) :
    s.walk ctx va = some e := by
  have hp : s.probe ctx va 2 = some e := by
    unfold State.probe at he ⊢
    have hb : s.bucketOf ctx va 2 = s.bucketOf ctx 0 2 := by
      unfold State.bucketOf
      rw [h, Nat.zero_div]
    rw [hb, bucketFind_page s ctx va h, he]
  unfold State.walk
  rw [hp]

theorem ctxBit_page (s : State) (ctx va : Nat) (e : BitVec 128) (g : Nat) (hz : va / 2 ^ pageShift 2 = 0) (he : s.probe ctx 0 2 = some e)
    (hi : e.getLsbD 60 = false) (hp : pte e 112 10 = s.pkg.toNat) (hs : pte e 61 2 = 2) (hg : pte e 64 25 = 2 ^ 14 * g)
    (ho : (s.part (s.ctx ctx).part).granules.contains g = true) : s.ctxBit ctx va = some (2 ^ 33 * g + va) := by
  have hm : va % 2 ^ pageShift 2 = va := by
    have h := Nat.div_add_mod va (2 ^ pageShift 2)
    rw [hz, Nat.mul_zero, Nat.zero_add] at h
    exact h
  have hv : va < 2 ^ 33 := by
    rw [← hm]
    exact Nat.mod_lt _ (by decide)
  have hf : s.framePlace e va = .here (2 ^ 33 * g + va) := by
    unfold State.framePlace
    rw [hi, hp, hs, hm, hg, if_neg (by decide), if_pos rfl]
    congr 1
    omega
  unfold State.ctxBit
  rw [walk_page s ctx va hz e he]
  simp only [hf]
  have hq : (2 ^ 33 * g + va) / 2 ^ 33 = g := by omega
  unfold State.ownsBit
  rw [hq, ho, if_pos rfl]

def trapped : State := trapState { strandAt (regsAt []) with status := .migrated }


theorem trap_bit (va : Nat) (h : va / 2 ^ pageShift 2 = 0) : trapped.ctxBit 0 va = some (2 ^ 33 * 1 + va) :=
  ctxBit_page trapped 0 va pageEntry 1 h (by decide +kernel) (by decide +kernel) (by decide +kernel) (by decide +kernel) (by decide +kernel) (by decide +kernel)

theorem lt_of_mem_upFrom {i a n : Nat} (h : i ∈ upFrom a n) : i < a + n := by
  induction n generalizing a with
  | zero => simp [upFrom] at h
  | succ n ih =>
    rcases List.mem_cons.mp h with rfl | h
    · omega
    · have := ih h
      omega

theorem poisonIn_clean (s : State) (h : s.poison = []) (b n : Nat) : s.poisonIn b n = none := by
  unfold State.poisonIn
  simp [h, SMap.look]

theorem page_zero (i : Nat) (h : i < 1024) : (0x10000 + 64 * i) / 2 ^ pageShift 2 = 0 := by
  apply Nat.div_eq_of_lt
  have : (2 : Nat) ^ pageShift 2 = 8589934592 := by decide
  omega

/-- The containers of the frame area. -/
def areaWords (k : Nat) : List Word := (upFrom 0 k).map fun i => BitVec.ofNat 64 (trapped.bits (2 ^ 33 * 1 + (0x10000 + 64 * i)) 64)

theorem trap_area (k : Nat) (hk : k ≤ 1024) : trapped.readArea 0 k = some (areaWords k) := by
  have hc : trapped.ctxOf 0 = 0 := by decide +kernel
  have ha : trapped.trapArea 0 = 0x10000 := by decide +kernel
  have hb : ((upFrom 0 k).map fun i => trapped.ctxBit (trapped.ctxOf 0) (trapped.trapArea 0 + 64 * i)) =
      (upFrom 0 k).map fun i => some (2 ^ 33 * 1 + (0x10000 + 64 * i)) := by
    refine List.map_congr_left fun i hi => ?_
    rw [hc, ha, trap_bit _ (page_zero i (by have := lt_of_mem_upFrom hi; omega))]
  have hp : ∀ b n, trapped.poisonIn b n = none := poisonIn_clean trapped rfl
  unfold State.readArea areaWords
  simp only [hb, hp, List.all_map, List.map_map, Function.comp_def, Option.isNone_none, Option.getD_some, List.all_eq_true, implies_true, if_true]

/-- The frame in memory names no register in its image. -/
theorem trap_frame : ∃ ws, trapped.readFrame 0 = some ws ∧ trapped.frameOk 0 ws = true := by
  have hk : 19 + imageBits (imageMask ((areaWords 21).drop 19)) / 64 = 21 := by decide +kernel
  refine ⟨areaWords 21, ?_, by decide +kernel⟩
  unfold State.readFrame
  rw [trap_area 21 (by decide), Option.bind_some, hk, trap_area 21 (by decide)]

/-- The modes of a return on thread 1, and returns with no strand served. -/
theorem meets_ExceptionReturns : let s := trapped
    let t := { small [] with cur := 125 }
    let u := small []
    s.me.chunk.fresh = true ∧ s.cur = lanternStrand (tileOf s.cur) 1 ∧ s.csrAt 0x2 s.cur ≠ 0 ∧ (s.tile (tileOf s.cur)).serving = some 0 ∧
    0 ≠ s.cur ∧ (∃ ws, s.readFrame 0 = some ws ∧ s.frameOk 0 ws = true) ∧ (s.strand 0).regs.wicks = [] ∧
    t.me.chunk.fresh = true ∧ t.csrAt 0x2 t.cur = 0 ∧ u.me.chunk.fresh = true ∧ u.cur % 4 ≠ 1 ∧ s.cur % 4 = 1 ∧ 2 < (3 : Word).toNat := by
  and_intros
  all_goals first
    | exact trap_frame
    | decide +kernel

/-- A strand whose trap is to be delivered. -/
def delivering : State := trapState { strandAt (regsAt []) with status := .trapping }

theorem delivered_bit (va : Nat) (h : va / 2 ^ pageShift 2 = 0) : delivering.ctxBit 0 va = some (2 ^ 33 * 1 + va) :=
  ctxBit_page delivering 0 va pageEntry 1 h (by decide +kernel) (by decide +kernel) (by decide +kernel) (by decide +kernel) (by decide +kernel)
    (by decide +kernel)

theorem trapFrame_length (s : State) (n : Nat) (f g : FaultRec) : (s.trapFrame n f).length = (s.trapFrame n g).length := by
  unfold State.trapFrame
  have hw : ∀ f : FaultRec, f.words.length = 4 := fun _ => rfl
  simp only [List.length_append, hw]

/-- The frame's containers are consecutive, whatever the fault's address and second word. -/
theorem meets_TrapDelivery_frame (addr extra : Word) :
    let f : FaultRec := { cause := 0x20, handle := 1, off := 0, addr := addr, extra := extra }
    ∀ k, k < (delivering.trapFrame 0 f).length →
      delivering.ctxBit (delivering.ctxOf 0) (delivering.trapArea 0 + 64 * k) = some (2 ^ 33 + 0x10000 + 64 * k) := by
  intro f k hk
  have hl : (delivering.trapFrame 0 f).length ≤ 1024 := by
    rw [trapFrame_length delivering 0 f { cause := 0x20, handle := 1, off := 0, addr := 0, extra := 0 }]
    decide +kernel
  have hc : delivering.ctxOf 0 = 0 := by decide +kernel
  have ha : delivering.trapArea 0 = 0x10000 := by decide +kernel
  rw [hc, ha, delivered_bit _ (page_zero k (by omega))]
  congr 1
  omega

/-- A tile whose thread 1 stands in a slot of partition 0. -/
def turning (queue : List Nat) (serving : Option Nat) (shelved : List (Nat × Service)) : Tile :=
  { Tile.reset with trapQ := queue, serving := serving, shelved := shelved, slots := [(1, { todo := [], now := some 0 })] }

/-- What thread 1 of tile 0 takes up in its slot: a strand that waits, a service interrupted, the one under way, and one of partition 0
for partition 1. -/
theorem meets_TrapDelivery_turns : let s (t : Tile) : State := { delivering with tiles := [(0, t)], csr := [] }
    let h := lanternStrand 0 1
    let v : Service := { strand := some 0, thread := Strand.reset, regs := [] }
    let a := s (turning [0] none [])
    let b := s (turning [] none [(0, v)])
    let c := s (turning [] (some 0) [])
    let d := { s { turning [] (some 0) [(1, v)] with slots := [(1, { todo := [], now := some 1 })] } with
      strands := [(0, strandAt (regsAt [])), (125, { Strand.reset with status := .ready })] }
    let e := { d with tiles := [(0, { turning [0] (some 0) [] with slots := [(1, { todo := [], now := some 1 })] })],
                      strands := [(0, { strandAt (regsAt []) with bind := { slotBind with ctx := 1 } }), (125, { Strand.reset with status := .ready })] }
    h < 2 ^ 20 ∧ (∀ x ∈ [a, b, c], x.slotOwner 0 1 = some 0) ∧ (a.tile 0).serving = none ∧ a.csrAt 0x2 h = 0 ∧
    (a.tile 0).shelved.lookup 0 = none ∧ ((a.tile 0).trapQ.find? fun n => a.partOf n == 0) = some 0 ∧ 0 ≠ h ∧ (b.tile 0).serving = none ∧
    (b.tile 0).shelved.lookup 0 = some v ∧ (c.tile 0).serving = some 0 ∧ c.partOf 0 = 0 ∧ d.slotOwner 0 1 = some 1 ∧ d.partOf 0 ≠ 1 ∧
    d.interruptible h = true ∧ (d.strand h).chunk.fresh = true ∧ (d.strand h).chunk.conflict = none ∧ (d.strand h).pend = [] ∧
    (e.tile 0).shelved = [] := by decide +kernel

/-- A strand and a lantern thread that trap, a lease error's cause, and a strand that waits for thread 1. -/
theorem meets_TrapDelivery : let s := delivering
    let u := { s with strands := [(124, { strandAt (regsAt []) with status := .trapping })] }
    (s.strand 0).status = .trapping ∧ (s.strand 0).killed = false ∧ (s.strand 0).chunk.fresh = true ∧ (s.strand 0).chunk.conflict = none ∧
    (s.strand 0).pend = [] ∧ s.granted = none ∧ (0x20 : BitVec 8).toNat ≠ 0x29 ∧ (0x20 : BitVec 8).toNat ≠ 0x2A ∧ (0x20 : BitVec 8).toNat ≠ 0xC1 ∧
    (0x29 : BitVec 8).toNat = 0x29 ∧ (s.strand 0).regs.wicks = [] ∧ (s.strand 0).frameErr = false ∧
    ({ s.strand 0 with frameErr := true } : Strand).frameErr = true ∧ (u.strand 124).status = .trapping ∧ (u.strand 124).chunk.fresh = true ∧
    (u.strand 124).chunk.conflict = none ∧ (u.strand 124).pend = [] ∧ u.granted = none ∧ 124 % 4 ≠ 1 ∧ (u.csrAt 0x1804 124).getLsbD 0 = false := by
  decide +kernel

/-! Witnesses: chunks, work, messages, stages, code and translation. -/

/-- A strand that waits for the arbiter with one store, its chunk in conflict or not, after some aborts. -/
def committing (conflict : Option Nat) (aborts : Nat) : Strand :=
  let r := regsAt []
  { strandAt r with hold := .commit, chunk := { Chunk.start r with stores := [{ pkg := none, bit := 2 ^ 33, bits := 64, val := 1 }], conflict := conflict, aborts := aborts } }

/-- Chunks that commit, that abort for the eighth time, and that a grant keeps out. -/
theorem meets_ChunkOrder : let s := oneStrand (committing none 8)
    let t := oneStrand (committing (some 0) 7)
    let u := { s with granted := some 5, strands := [(0, committing none 0), (5, { strandAt (regsAt []) with chunk := { Chunk.start (regsAt []) with reads := [2 ^ 24] } })] }
    (s.strand 0).hold = .commit ∧ (s.strand 0).chunk.conflict = none ∧ s.granted = none ∧ s.grantQ = [] ∧ s.poison = [] ∧
    (∀ st ∈ (s.strand 0).chunk.stores, st.pkg = none) ∧ (t.strand 0).hold = .commit ∧ (t.strand 0).chunk.conflict.isSome = true ∧
    (t.strand 0).chunk.aborts = 7 ∧ (u.strand 0).hold = .commit ∧ (u.strand 0).chunk.conflict = none ∧ u.chunkBarred 0 = true ∧
    8 ≤ (s.strand 0).chunk.aborts ∧ u.granted.isSome = true := by decide +kernel

/-- A launch of core 0 whose task arena is 2^20 bits at G 2^20. -/
def working : Launch :=
  { leased with record := [0x200] ++ List.replicate 31 0 ++ [0, BitVec.ofNat 64 (2 ^ 30 + 7 * 2 ^ 60), BitVec.ofNat 64 (2 ^ 20), BitVec.ofNat 64 (2 ^ 20 + 8 * 2 ^ 60)] }

/-- Strand 1 is free for a while; strand 0 has a task. -/
def seeking (r : Regs) (kept : Memory) : State :=
  let b := { slotBind with scg := 4 }
  let s := mapped (strandAt r)
  { s with strands := [(0, { strandAt r with bind := b }), (1, { Strand.reset with bind := b })], launches := [working], clk := 1600,
           mem := s.mem ++ kept }

/-- A lit wick, and a span of ten indices with a grain of 2. -/
theorem meets_StealsAndSplits : let s := seeking { regsAt [] with wicks := [(64000, 63000)] } (padMem 64000 (2 ^ 63))
    let t := seeking { regsAt [(104, 0), (105, 10)] with role := .owner, grain := 2 } []
    s.canSeek 1 = true ∧ 0 = (s.strand 1).bind.launch ∧ s.launch 0 = some working ∧ s.freeRecord working = some (0, 2 ^ 20) ∧
    s.findWork 1 = some (0, false) ∧ s.oldestLit 0 = some (64000, 63000) ∧
    t.canSeek 1 = true ∧ 0 = (t.strand 1).bind.launch ∧ t.launch 0 = some working ∧ t.freeRecord working = some (0, 2 ^ 20) ∧
    t.findWork 1 = some (0, true) := by decide +kernel

/-- A frame for core 0 of context 0. -/
def frame (src pkg : BitVec 10) : Frame :=
  { pkg := pkg, core := 0, ctx := 0, srcPkg := src, sender := 0, tok := 5, header := 0, digest := 7, payload := 3 }

/-- Tasks that end, drained and not; free strands that wait, find a frame, a span, a wick or nothing. -/
theorem meets_TaskTurns : let s := oneStrand { strandAt (regsAt []) with status := .ending }
    let t := oneStrand { strandAt (regsAt []) with status := .ending, pend := [loadPend 5 64] }
    let u := seeking (regsAt []) []
    let v := seeking { regsAt [(104, 0), (105, 10)] with role := .owner, grain := 2 } []
    let w := seeking { regsAt [] with wicks := [(64000, 63000)] } (padMem 64000 (2 ^ 63))
    let x := { u with ctxs := [(0, { ctx0 with frames := [(none, frame 1 0)] })] }
    (s.strand 0).status = .ending ∧ s.drained 0 = true ∧ (s.strand 0).byStop = false ∧ (s.strand 0).kind ≠ .continuation ∧
    (s.core (coreOf 0)).inbox = [] ∧ (s.core (coreOf 0)).stage = 15 ∧ (s.ctx (s.strand 0).bind.ctx).frames = [] ∧
    (t.strand 0).status = .ending ∧ t.drained 0 = false ∧ ({ u with clk := 1599 } : State).past (u.strand 1).since 1600 = false ∧
    (u.strand 1).status = .free ∧ u.canSeek 1 = true ∧ isLantern 1 = false ∧ u.past (u.strand 1).since 1600 = true ∧
    x.canSeek 1 = true ∧ x.past (x.strand 1).since 1600 = true ∧ x.waiting (coreOf 1) (x.strand 1).bind.ctx = some (frame 1 0) ∧
    u.waiting (coreOf 1) (u.strand 1).bind.ctx = none ∧ u.launch (u.strand 1).bind.launch = some working ∧
    (u.core (coreOf 1)).stage = 15 ∧ (u.freeRecord working).isSome = true ∧
    v.findWork 1 = some (0, true) ∧ w.findWork 1 = some (0, false) := by decide +kernel

/-- No strand has work for strand 1. -/
theorem meets_TaskTurns_idle : (seeking (regsAt []) []).findWork 1 = none := by
  unfold State.findWork
  rw [List.findSome?_eq_none_iff]
  intro v _
  by_cases h0 : v = 0
  · subst h0
    decide +kernel
  by_cases h1 : v = 1
  · subst h1
    decide +kernel
  have hv : (seeking (regsAt []) []).strand v = Strand.reset := by
    simp [State.strand, seeking, SMap.look, h0, h1]
  have hf : (seeking (regsAt []) []).isVictim 1 v = false := by
    simp [State.isVictim, hv, Strand.reset, Binding.none]
  rw [hf]
  rfl

/-- A state of context 0 with some frames in memory, in core 0's inbox and in its outbound port. -/
def mailing (state : CtxState) (own : List (Option Nat × Frame)) (inbox out : List Frame) (free : Bool) : State :=
  let b := { slotBind with scg := 4 }
  { small [] with
    strands := [(0, { strandAt (regsAt []) with bind := b, pend := [{ loadPend 5 64 with kind := .frame, site := some (0, 0) }] }),
                (1, { (if free then Strand.reset else strandAt (regsAt [])) with bind := b })]
    ctxs := [(0, { ctx0 with state := state, frames := own })], launches := [leased]
    cores := [(0, { Core.reset with inbox := inbox, outPort := out })] }

theorem not_all_but (s : State) (h : (upFrom 0 4).all (fun n => !s.canSeek n) = true) : ∀ n, n / 4 = 0 → s.canSeek n = false := by
  intro n hn
  have : n = 0 ∨ n = 1 ∨ n = 2 ∨ n = 3 := by omega
  simp [upFrom] at h
  rcases this with rfl | rfl | rfl | rfl
  · exact h.1
  · exact h.2.1
  · exact h.2.2.1
  · exact h.2.2.2

/-- Frames for a context in each state, for a core with room, with a queue, with a full inbox and with a free strand; an answer,
and a frame that waits for one. -/
theorem meets_MessageFrames : let f := frame 1 0
    let g := frame 0 1
    let s := mailing .resident [] [] [g] false
    let w := mailing .resident [] [] [] true
    f.srcPkg ≠ s.pkg ∧ ((mailing .teardown [] [] [] false).ctx 0).state = .teardown ∧ ((mailing .free [] [] [] false).ctx 0).state = .free ∧
    ((mailing .swappedOut [] [] [] false).ctx 0).state = .swappedOut ∧ ([] : List (Option Nat × Frame)).length < heapCap ∧
    heapFor 0 (s.coreLaunch 0) (some 7, f) = false ∧ heapFor 0 (s.coreLaunch 0) (none, f) = true ∧ s.awayLaunch 0 0 = none ∧ s.coreHolds 9 0 = false ∧
    ({ s with launches := [{ leased with away := true, cores := [9] }] } : State).awayLaunch 9 0 = some 0 ∧
    (s.ctx 0).state = .resident ∧ s.coreHolds 0 0 = true ∧ (s.core 0).inbox = [] ∧ (∀ n, n / 4 = 0 → s.canSeek n = false) ∧
    (w.ctx 0).state = .resident ∧ w.coreHolds 0 0 = true ∧ (w.core 0).inbox = [] ∧ w.canSeek 1 = true ∧ isLantern 1 = false ∧
    (∀ m, m / 4 = 0 → m < 1 → w.canSeek m = false) ∧
    ((mailing .resident [] [f] [] false).core 0).inbox ≠ [] ∧ ((mailing .resident [] [f] [] false).core 0).inbox.length < 64 ∧
    64 ≤ ((mailing .resident [] (List.replicate 64 f) [] false).core 0).inbox.length ∧
    g.srcPkg = s.pkg ∧ g.pkg ≠ s.pkg ∧ (s.core (coreOf g.sender)).outPort.find? (fun h => sameWay h g) = some g ∧
    (s.strand g.sender).pend = [{ loadPend 5 64 with kind := .frame, site := some (0, 0) }] ∧ (5 : Nat) = g.tok.toNat ∧
    (s.ctx ((mailing .resident [] [f] [] false).inboxCtx 0)).frames.length + 1 ≤ heapCap ∧
    (mailing .resident [(none, f)] [f] [] false).coreCtx 0 = some 0 ∧ (∀ n, n / 4 = 0 → (mailing .resident [(none, f)] [f] [] false).canSeek n = false) ∧
    (s.core (coreOf 0)).outPort.find? (fun h => h.sender == 0 && h.tok == 5 && h.pkg != s.pkg) = some g ∧
    s.past 0 8000000 = false ∧ ({ s with clk := 8000000 } : State).past 0 8000000 = true := by
  and_intros
  all_goals first
    | decide +kernel
    | exact not_all_but _ (by decide +kernel)
    | (intro m _ hm; obtain rfl : m = 0 := by omega
       decide +kernel)

/-- A memory of the most frames that a context's area holds. -/
theorem meets_MessageHeapFull : heapCap ≤ (List.replicate heapCap (none, frame 1 0) : List (Option Nat × Frame)).length := Nat.le_of_eq List.length_replicate.symm

/-- A launch of two cores and two stages: stage 0 gives a core up, and stage 1 takes one at its empty ring. -/
def staged (now : Word) : State :=
  let l := { Launch.fresh 0 0 0 0 [] 0 with
    record := [BitVec.ofNat 64 (2 ^ 17)] ++ List.replicate 67 0 ++ [0, 0] ++ List.replicate 6 0 ++ [BitVec.ofNat 64 (2 ^ 33), 0], cores := [0, 1] }
  { small [] with launches := [l], clk := now, cores := [(0, { Core.reset with stage := 0 }), (1, { Core.reset with stage := 0 })] }

theorem meets_StageGovernor :
    (staged 8000).launch 0 = some ((staged 8000).launches.headD (Launch.fresh 0 0 0 0 [] 0)) ∧
    ((staged 8000).launches.headD (Launch.fresh 0 0 0 0 [] 0)).ended = false ∧
    ((staged 8000).launches.headD (Launch.fresh 0 0 0 0 [] 0)).preempted = false ∧
    (staged 8000).past ((staged 8000).launches.headD (Launch.fresh 0 0 0 0 [] 0)).since 8000 = true ∧
    (staged 7999).past ((staged 7999).launches.headD (Launch.fresh 0 0 0 0 [] 0)).since 8000 = false ∧
    (let s := staged 8000
     let l := s.launches.headD (Launch.fresh 0 0 0 0 [] 0)
     let count (st : Nat) := (s.stageCores l st).length
     0 < l.stages ∧ s.stageItems l 0 ≤ bitsOf (l.stageWord 0 5) 32 32 ∧ bitsOf (l.stageWord 0 4) 16 12 < count 0 ∧
       (s.core 0).moveTo = none ∧ 0 ∈ s.stageCores l 0 ∧ 1 < l.stages ∧ bitsOf (l.stageWord 1 5) 0 32 ≤ s.stageItems l 1 ∧
       count 1 < bitsOf (l.stageWord 1 4) 32 12 ∧ ¬count 0 < bitsOf (l.stageWord 0 4) 32 12) ∧
    (let s := { staged 0 with cores := [(5, { Core.reset with moveTo := some 1 })] }
     (s.core 5).moveTo = some 1 ∧ (s.strand 20).status = .free ∧ (s.strand 21).status = .free ∧ (s.strand 22).status = .free ∧
       (s.strand 23).status = .free) ∧
    (let s := { staged 0 with cores := [(0, { Core.reset with moveTo := some 1 })] }
     (s.core 0).moveTo = some 1 ∧ 0 / 4 = 0 ∧ (s.strand 0).status ≠ .free) := by
  and_intros <;> first | exact ok_of (by decide +kernel) | decide +kernel

/-- A core that takes clock bins: its context has an open barrier episode. -/
theorem meets_Tailwind : let s := barrierState (7 + 2 ^ 24 + 2 * 2 ^ 44 + 2 ^ 64)
    s.quiet 0 = false ∧ s.openEpisode 0 = true ∧ s.quiet 1 = true := by decide +kernel

/-- A canonical container of one return. -/
def tiny : List Byte :=
  [0x42, 0x4C, 0x52, 0x44, 1, 0, 4, 0, 104, 0, 0, 0, 0, 0, 0, 0, 3, 0, 0, 0, 0, 0, 0, 0, 0, 0, 0, 0, 0, 0, 0, 0] ++
  [2, 0, 0, 0, 0, 0, 0, 0, 80, 0, 0, 0, 8, 0, 0, 0] ++ [4, 0, 0, 0, 0, 0, 0, 0, 88, 0, 0, 0, 4, 0, 0, 0] ++
  [5, 0, 0, 0, 0, 0, 0, 0, 96, 0, 0, 0, 8, 0, 0, 0] ++ [0, 0, 0, 0, 0, 0, 0, 0] ++ [0, 0, 0, 0, 0, 0, 0, 0] ++ [1, 0, 0, 0, 0x25, 0xFF, 0, 0]

/-- The small container of spec/13: `inc(a: s64)`. -/
def inc : List Byte :=
  [0x42, 0x4C, 0x52, 0x44, 1, 0, 4, 0, 164, 0, 0, 0, 0, 0, 0, 0, 4, 0, 0, 0, 0, 0, 0, 0, 0, 0, 0, 0, 0, 0, 0, 0] ++
  [2, 0, 0, 0, 0, 0, 0, 0, 96, 0, 0, 0, 16, 0, 0, 0] ++ [3, 0, 0, 0, 0, 0, 0, 0, 112, 0, 0, 0, 16, 0, 0, 0] ++
  [4, 0, 0, 0, 0, 0, 0, 0, 128, 0, 0, 0, 6, 0, 0, 0] ++ [5, 0, 0, 0, 0, 0, 0, 0, 136, 0, 0, 0, 28, 0, 0, 0] ++
  [1, 0, 0, 0, 1, 0, 0, 0, 0, 0, 0, 0, 1, 0, 0, 0] ++ [1, 0, 0, 0, 0, 0, 0, 0, 1, 0, 0, 0, 0, 0, 0, 0] ++
  [2, 0, 0, 0, 0x0C, 0x0C, 0, 0] ++ [2, 0, 0, 0, 1, 0x0C, 0, 3, 1, 0, 0, 0, 0, 0, 0, 0, 0, 0, 0, 0x40, 0x25, 0xFF, 0, 1, 1, 0, 0, 0]

/-- The worked container of spec/13 is canonical, and its meaning is a + 1, wrapped. -/
theorem test_inc : canonical inc = true ∧
    (((fnOf inc).run 3 ((fnOf inc).enter [41] 0)).map PStep.act) = some (.ret [42]) ∧
    (((fnOf inc).run 3 ((fnOf inc).enter [2 ^ 64 - 1] 0)).map PStep.act) = some (.ret [0]) := by decide +kernel

/-- Two registers of type s64, one shifted by more than its width, one by sign fill. -/
theorem meets_ScalarLevel : (fnOf inc).types[1]? = some 12 ∧
    (let r : PFrame := { regs := [(0, 2 ^ 63), (1, 64)], pc := 0, fps := 0, joined := [] }
     (elemTy 12).bits ≤ SMap.look 0 r.regs 1 ∧
     SMap.look 0 ((fnOf inc).op r { opc := 0x0C, ty := 12, md := 0, ws := [1, 0, 1] }).frame.regs 1 = 2 ^ 64 - 1) := by decide +kernel

/-- R389, R392: a ring at 2^33 + 512 that entry 3 of port A's window table names, and one that no entry names. -/
theorem test_bar0 : let s : State := { small [] with csr := [(0x1332 * 2 ^ 20, 2 ^ 33 + 512), (0x1333 * 2 ^ 20, 2 ^ 34), (0x10000 * 2 ^ 20 + 3, 2 ^ 63 + 1)] }
    s.bar0 0 0x240 = some 0xC0000040 ∧ s.bar0 0 0x250 = some (BitVec.allOnes 64) ∧ s.bar0 0 0x300 = some 0 ∧ s.bar0 0 0x308 = none := by decide +kernel

/-- R279: 1 × 2 + 3 × 4 + 5 × 6 in f16, added to 0.5 (44.5). -/
theorem test_dot : (dotValue .f16 [0x3C00, 0x4200, 0x4500] [0x4000, 0x4400, 0x4600] 0x3F000000).1 = 0x42320000 := by decide +kernel

/-- Tile 0, whose lantern thread stands in a slot of partition 0. -/
def inSlot (thr : Nat) : Tile := { Tile.reset with slots := [(thr, { todo := [], now := some 0 })] }

/-- A code request. -/
def asking (st : ReqState) (source : Nat) : CodeReq :=
  { digest := functionDigest tiny, part := 0, gbud := 64, vbud := 32, state := st, source := source, askedAt := 0, seq := 0, bucket := none,
    kept := none, record := none, tile := 0, ctx := 0, strands := [0], asked := true, answer := none }

/-- A package with one request, in a slot of its partition or out of one. -/
def sourced (slot : Bool) (r : CodeReq) : State :=
  { small [] with reqs := [r], csr := [(0x1203 * 2 ^ 20, 0x8001), (0x1205 * 2 ^ 20, 3)], tiles := [(0, if slot then inSlot 2 else Tile.reset)] }

/-- A request asked of a neighbour and of the shelf, within its time and after it, in a slot and out of one; good and bad containers. -/
theorem meets_CodeAnswers : let s (source : Nat) : State := sourced true (asking .ask source)
    (s 0).reqs[0]? = some (asking .ask 0) ∧ (s 9).reqs[0]? = some (asking .ask 9) ∧ (asking .ask 0).state = .ask ∧
    (s 0).hasSlot 0 2 0 = true ∧ (sourced false (asking .ask 0)).hasSlot 0 2 0 = false ∧ (asking .ask 0).asked = true ∧ (asking .ask 0).answer = none ∧
    (s 0).past (asking .ask 0).askedAt (sourceLimit (asking .ask 0).source + 1) = false ∧ (asking .ask 0).source < 8 ∧ (asking .ask 9).source = 9 ∧
    (s 9).past (asking .ask 9).askedAt (sourceLimit 9 + 1) = false ∧
    ({ s 0 with clk := 16000000 } : State).past (asking .ask 0).askedAt (sourceLimit (asking .ask 0).source) = true ∧
    (asking .ask 0).source ≠ 8 ∧ (s 0).past (asking .ask 0).askedAt (sourceLimit (asking .ask 0).source) = false ∧
    canonical tiny = true ∧ functionDigest tiny = (asking .ask 0).digest ∧ (asking .ask 0).kept = none ∧ canonical [] = false ∧
    (s 0).recordFails [] (asking .ask 0).digest 0 64 32 = some 1 ∧ (s 0).hostBusy = false ∧
    (upFrom 1 9).find? (fun j => (s 0).hasSource 0 j) = none := by decide +kernel

/-- The neighbour that is asked and one that is not; a bucket of the shelf that names the digest and one that does not; a request that waits
for a slot. -/
theorem meets_CodeSources : let s := sourced true (asking .ask 0)
    let q := { asking .ask 9 with bucket := some 0 }
    let w := { asking .ask 0 with asked := false }
    s.neighbour 0 0 = some 1 ∧ s.neighbour 0 0 ≠ some 2 ∧ 3 ≠ (asking .ask 0).source ∧ (asking .ask 9).bucket = none ∧
    (sourced true (asking .ask 9)).bucketOk (asking .ask 9).digest ((functionDigest tiny).toNat + 2 ^ 281) = true ∧
    (sourced true (asking .ask 9)).bucketOk (asking .ask 9).digest 0 = false ∧ (sourced true q).reqs[0]? = some q ∧ q.bucket = some 0 ∧
    (sourced true w).reqs[0]? = some w ∧ w.asked = false ∧ w.answer = none ∧ w.state = .ask ∧ 5 ≠ s.chipClass := by decide +kernel

/-- The worked example of GB/T 32918.5: "message digest", signed for the identity 1234567812345678. -/
theorem test_sm2 : sm2SignAs ((upFrom 0 16).map fun i => BitVec.ofNat 8 (0x31 + i % 8))
      0x3945208F7B2144B13F36E38AC6D39F95889393692860B51A42FB81EF4DF7C5B8
      0x59276E27D506861A16680F3AD9C02DCCEF3CC1FA3CDBE4CE6D54B80DEAC1BC21
      [0x6D, 0x65, 0x73, 0x73, 0x61, 0x67, 0x65, 0x20, 0x64, 0x69, 0x67, 0x65, 0x73, 0x74] =
    (0xF5A03B0648D2C4630EEAC513E1BB81A15944DA3827D5B74143AC7EACEEE720B3,
     0xB1B6AA29DF212FD8763182BC0D421CA1BB9038FD1F7F42D4840B69C485BBC1AA) := by decide +kernel

/-- A key that partition 0 trusts. -/
def trusted : Digest × Digest := sm2Public 5

/-- A record of one word of text, signed with that key. -/
def signedRecord : List Byte :=
  let z (n : Nat) : List Byte := List.replicate n 0
  let text : List Byte := [0x74, 0, 0, 0, 0, 0, 0, 0]
  let head := [0x4A, 0x4E, 0x52, 0x43, 1, 0, 0, 0, 0, 0, 0, 0, 16, 8, 0, 0] ++ digestBytes 77 ++ digestBytes (sm3 text) ++ z 32 ++
    digestBytes (keyDigest trusted) ++ z 32 ++ z 4 ++ [1, 0, 0, 0] ++ z 16
  let sig := sm2Sign 5 99 head
  head ++ digestBytes sig.1 ++ digestBytes sig.2 ++ text

/-- A record that passes every check of R362. -/
theorem meets_CodeAnswers_accepted :
    ({ small [] with mem := Memory.setBits [] 0 1024 (trusted.1.toNat + 2 ^ 256 * trusted.2.toNat + 2 ^ 512) } : State).recordFails
      signedRecord 77 0 16 8 = none := by decide +kernel

/-- A record of no text, and one of one word. -/
def recordBytes (hot : Byte) : List Byte := List.replicate 180 0 ++ [hot] ++ List.replicate 91 0

/-- A translation under way, in a slot and out of one; records with room and without, and an object that is verifiable. What the translator
makes of a container is a free value. -/
theorem meets_CodeInstalls : let q := asking .translate 10
    let a := { asking .install 10 with record := some (recordBytes 0) }
    let b := { asking .install 10 with record := some (recordBytes 1) }
    let c := { asking .install 10 with digest := 77 }
    let s (r : CodeReq) : State := { oneStrand { strandAt (regsAt []) with status := .codeWait, wait := .code r.digest } with reqs := [r], tiles := [(0, inSlot 2)] }
    let k : State := { s c with objs := [(1, { text64 with digest := 77, signer := keyDigest (0, 0) })], mem := Memory.setBits [] 512 1 1 }
    (s q).reqs[0]? = some q ∧ q.state = .translate ∧ q.strands ≠ [] ∧ (s q).hasSlot q.tile 2 q.part = true ∧
    (small []).hasSlot q.tile 2 q.part = false ∧ (s a).hasSlot a.tile 2 a.part = true ∧ (s a).reqs[0]? = some a ∧ a.state = .install ∧
    (∀ n ∈ a.strands, ((s a).strand n).start = none) ∧ a.record = some (recordBytes 0) ∧ ((s a).install (recordBytes 0) 0).2 = some 2 ∧
    (s b).reqs[0]? = some b ∧ b.state = .install ∧ b.record = some (recordBytes 1) ∧ ((s b).install (recordBytes 1) 0).2 = none ∧
    c.record = none ∧ c.state = .install ∧ k.hasSlot c.tile 2 c.part = true ∧ k.reqs[0]? = some c ∧ k.verifiable c.digest 0 c.gbud c.vbud = some 1 ∧
    (k.obj 1).isSome = true := by decide +kernel

/-- Code waits within their time and after it, a poisoned line, and cold text whose digest is right and wrong. -/
theorem meets_CodeFaults : let t : Strand := { strandAt (regsAt []) with status := .codeWait, wait := .code 7 }
    let s := { oneStrand t with clk := 200000000 }
    let u := oneStrand { strandAt (regsAt []) with hold := .refetch }
    let o : Obj := { text64 with coldLen := 1, coldHere := false, cold := [1, 2, 3, 4], coldHash := sm3 [1, 2, 3, 4], live := 1 }
    let v := { oneStrand { t with wait := .cold 1 } with tiles := [(0, inSlot 2)], objs := [(1, o)], csr := [(0x1206 * 2 ^ 20, BitVec.ofNat 64 (2 ^ 22)), (0x1207 * 2 ^ 20, 4096)] }
    (s.strand 0).status = .codeWait ∧ (s.strand 0).hold ≠ .stopped ∧ s.past (s.strand 0).since 200000000 = true ∧ (s.strand 0).wait = .code 7 ∧
    isLantern 0 = false ∧ (oneStrand t).past (t.since) 200000000 = false ∧ (u.strand 0).hold = .refetch ∧
    (u.obj (u.strand 0).regs.handle).isSome = true ∧ v.obj 1 = some o ∧ o.coldHere = false ∧ (∀ p ∈ v.objs, p.1 = 1 → p.2.live ≠ 0) ∧
    v.coldWaiter 1 = some 0 ∧ v.hasSlot (tileOf 0) 2 (v.partOf 0) = true ∧ s.coldWaiter 1 = none ∧ (v.strand 0).hold ≠ .stopped ∧
    ({ v with tiles := [] } : State).hasSlot (tileOf 0) 2 (v.partOf 0) = false ∧
    sm3 o.cold = o.coldHash ∧ ((v.send (.coldRead o.coldAt 4)).makeRoom (32 * o.coldLen) false v.objs.length).2.isSome = true ∧
    ((({ v with csr := [] } : State).send (.coldRead o.coldAt 4)).makeRoom (32 * o.coldLen) false v.objs.length).2 = none ∧ sm3 o.cold ≠ ({ o with coldHash := 0 } : Obj).coldHash := by
  decide +kernel

/-- A strand that misses at G 0x400, with some walks in flight, in a slot of its partition or out of one. -/
def missed (slot : Bool) (ws : List WalkReq) : State :=
  { oneStrand { strandAt (regsAt []) with hold := .translate 0x400 3 } with
    tiles := [(0, { (if slot then inSlot 0 else Tile.reset) with walks := ws })] }

/-- A walk of page 0 of a context, with some replies. -/
def walkOn (ctx : Nat) (rs : List (Nat × Option (BitVec 128))) (stale : Bool) : WalkReq :=
  { ctx := ctx, page := 0, strands := [0], replies := rs, stale := stale }

/-- Misses with no walk in flight, with one to join, with the most, and out of the partition's slots; walks that lack each of their
replies, and that a `TLBI` has dropped; a probe at home and away. -/
theorem meets_Walks : let w : WalkId := { tile := 0, ctx := 0, page := 0 }
    let none2 : List (Nat × Option (BitVec 128)) := [(1, none), (2, none)]
    (missed true []).missing 0 = some (0x400, 3) ∧ (missed true []).hasSlot (tileOf 0) 0 ((missed true []).partOf 0) = true ∧
    (missed true []).walkFor 0 0x400 = w ∧ (missed true []).walkAt w = none ∧ ((missed true []).tile 0).walks.length < 256 ∧
    (missed true [walkOn 0 [] false]).walkAt w = some (walkOn 0 [] false) ∧
    (missed true (List.replicate 256 (walkOn 9 [] false))).walkAt w = none ∧
    256 ≤ ((missed true (List.replicate 256 (walkOn 9 [] false))).tile 0).walks.length ∧
    (missed false []).missing 0 = some (0x400, 3) ∧ (missed false []).hasSlot (tileOf 0) 0 ((missed false []).partOf 0) = false ∧
    (missed true [walkOn 0 [] true]).walkAt w = some (walkOn 0 [] true) ∧ 0x400 / 2 ^ 19 = (walkOn 0 none2 false).page ∧ (missed true []).ctxOf 0 = (walkOn 0 none2 false).ctx ∧
    none2.lookup 1 = some none ∧ none2.lookup 2 = some none ∧
    ([(0, none), (2, some pageEntry)] : List (Nat × Option (BitVec 128))).lookup 2 = some (some pageEntry) ∧
    (missed true []).probeHome w 0 = w.tile ∧ (missed true []).probeHome w 1 ≠ w.tile ∧
    (missed true []).hasSlot ((missed true []).probeHome w 1) 0 ((missed true []).ctxPart w.ctx) = false ∧ isLantern 0 = false := by
  decide +kernel

/-- A frame with slots left and without, of a thread with and without work, and a slot of a partition without work. -/
theorem meets_LanternFrames : let s := { missed true [] with agenda := [.tlbMiss 0] }
    let t := { small [] with tiles := [(0, { Tile.reset with slots := [(0, { todo := [0, 3], now := none })] })] }
    let u := { s with tiles := [(0, { Tile.reset with slots := [(0, { todo := [], now := some 3 })] })] }
    s.queued 0 0 = [0] ∧ (SMap.look Slots.none (s.tile 0).slots 0).todo = [] ∧ (small []).queued 0 0 = [] ∧
    (SMap.look Slots.none ((small []).tile 0).slots 0).todo = [] ∧ (SMap.look Slots.none (t.tile 0).slots 0).todo = 0 :: [3] ∧
    t.queued 0 0 = [] ∧ (SMap.look Slots.none (s.tile 0).slots 0).now = some 0 ∧ 0 ∈ s.queued 0 0 ∧
    (SMap.look Slots.none (u.tile 0).slots 0).now = some 3 ∧ 3 ∉ u.queued 0 0 ∧ u.queued 0 0 ≠ [] ∧
    (SMap.look Slots.none ((missed true []).tile 0).slots 0).now = some 0 ∧ (missed true []).queued 0 0 = [] := by decide +kernel

/-- Values at the ends of the ranges of HWIN and PTBITS, a context that is free and one that is not, masks of ways that meet,
a claim arena that is right and one that is not. -/
theorem meets_RegisterBehaviours : let s := small []
    let t := { oneStrand { strandAt (regsAt []) with bind := { slotBind with ctx := 3 } } with csr := [(0x11 * 2 ^ 20 + 3, 0xF0)] }
    (s.ctx (0 : BitVec 8).toNat).state ≠ .free ∧ (s.ctx (9 : BitVec 8).toNat).state = .free ∧ ((0x1F00F : Word) &&& 0xFFFF) ≠ 0 ∧
    ((0x10000 : Word) &&& 0xFFFF) = 0 ∧ (∀ x ∈ (t.tileCtxs 0).filter (· != 0), t.csrAt 0x11 (0 * 256 + x) &&& ((0x1000F : Word) &&& 0xFFFF) = 0) ∧
    (∃ x ∈ (t.tileCtxs 0).filter (· != 0), t.csrAt 0x11 (0 * 256 + x) &&& ((0x100FF : Word) &&& 0xFFFF) ≠ 0) ∧
    (1 : Word).getLsbD 0 = true ∧ (2 : Word).getLsbD 0 = false ∧ 1 ≤ (1 : Word).toNat % 1024 ∧ (600 : Word).toNat % 1024 ≤ 600 ∧
    (1024 : Word).toNat % 1024 = 0 ∧ 600 < (601 : Word).toNat % 1024 ∧ 10 ≤ (10 : Word).toNat % 32 ∧ (24 : Word).toNat % 32 ≤ 24 ∧
    (9 : Word).toNat % 32 < 10 ∧ 24 < (25 : Word).toNat % 32 ∧ s.arenaOk 0 ((0 : Word).toNat % 2 ^ 57) (s.csrAt 0x1003 0).toNat = true ∧
    s.arenaOk 0 ((2 ^ 57 - 1 : Word).toNat % 2 ^ 57) (s.csrAt 0x1003 0).toNat = false ∧
    s.arenaOk 0 (s.csrAt 0x1002 0).toNat ((64 : Word).toNat % 2 ^ 58) = false ∧
    s.arenaOk 0 (s.csrAt 0x1002 0).toNat ((0 : Word).toNat % 2 ^ 58) = true ∧ 1 ≤ bitsOf (1 : Word).toNat 0 8 := by decide +kernel

/-! Witnesses: launches and contexts. -/

theorem cpPlace_page (s : State) (ctx va : Nat) (e : BitVec 128) (g : Nat) (hz : va / 2 ^ pageShift 2 = 0) (he : s.probe ctx 0 2 = some e)
    (hi : e.getLsbD 60 = false) (hp : pte e 112 10 = s.pkg.toNat) (hs : pte e 61 2 = 2) (hg : pte e 64 25 = 2 ^ 14 * g) :
    s.cpPlace ctx va = some (.here (2 ^ 33 * g + va)) := by
  have hm : va % 2 ^ pageShift 2 = va := by
    have h := Nat.div_add_mod va (2 ^ pageShift 2)
    rw [hz, Nat.mul_zero, Nat.zero_add] at h
    exact h
  have hv : va < 2 ^ 33 := by
    rw [← hm]
    exact Nat.mod_lt _ (by decide)
  have hf : s.framePlace e va = .here (2 ^ 33 * g + va) := by
    unfold State.framePlace
    rw [hi, hp, hs, hm, hg, if_neg (by decide), if_pos rfl]
    congr 1
    omega
  have hw : ¬winStart ≤ va := by
    have : winStart = 0x1FFF00000000000 := rfl
    omega
  unfold State.cpPlace
  rw [if_neg hw, walk_page s ctx va hz e he, Option.map_some, hf]

theorem page_of_lt (va : Nat) (h : va < 2 ^ 33) : va / 2 ^ pageShift 2 = 0 := by
  apply Nat.div_eq_of_lt
  have : (2 : Nat) ^ pageShift 2 = 8589934592 := by decide
  omega

theorem ownedRun_page (s : State) (ctx n : Nat) (hn : n ≤ 2 ^ 33) (h : ∀ va, va / 2 ^ pageShift 2 = 0 → (s.ctxBit ctx va).isSome = true) :
    s.ownedRun ctx 0 n = true := by
  unfold State.ownedRun pagesOf unitsOf
  rw [decide_eq_true (show 0 + n ≤ winStart from by have : winStart = 0x1FFF00000000000 := rfl; omega), Bool.true_and, List.all_eq_true]
  intro k hk
  by_cases h0 : n = 0
  · rw [if_pos h0] at hk
    cases hk
  · rw [if_neg h0] at hk
    have hl := lt_of_mem_upFrom hk
    have hd : (0 + n - 1) / 2 ^ 19 * 2 ^ 19 ≤ 0 + n - 1 := Nat.div_mul_le_self _ _
    have hz : 0 / 2 ^ 19 = 0 := by decide
    rw [hz] at hl
    exact h _ (page_of_lt _ (by omega))

/-- A launch waits in partition 0: tile 0 is its, the record lies at G 0x1000, and the descriptor's areas at G 0. -/
def waitingFor (record : List Nat) (c0 : Nat) : State :=
  let s := mapped (strandAt (regsAt []))
  let l := Launch.fresh 0 0 0 0 [BitVec.ofNat 64 c0, 0x1000, 0x8000] 0
  { s with
    strands := [], cores := [], launches := [l], ctxs := [(0, { ctx0 with desc := [0, 0, 0, 0, 0, 0, 0, 0] })]
    parts := [(0, { Part.reset with granules := [1], wait0 := [0] })], tiles := [(0, { Tile.reset with owner := some 0 })]
    mem := s.mem.setBits (2 ^ 33 + 0x1000) 512 (packBits 64 record) }

/-- A launch of one core, whose record is right. -/
def goodLaunch : State := waitingFor [2 ^ 24 + 1, 2 ^ 32 + 2 ^ 16 + 2 ^ 8 + 1, 0, 0, 2 ^ 41 + 512, 512] 0x11

/-- A launch of 31 cores on each of 96 tiles. -/
def dearLaunch : State := waitingFor [2 ^ 24 + 1, 2 ^ 32 + 96 * 2 ^ 16 + 31 * 2 ^ 8 + 1, 0, 0, 2 ^ 41 + 512, 512] 0x11

theorem descOk_page (s : State) (h : s.probe 0 0 2 = some pageEntry) (hp : s.pkg = 0) (hg : ((s.part (s.ctx 0).part).granules.contains 1) = true)
    (hd : (s.ctx 0).desc = [0, 0, 0, 0, 0, 0, 0, 0]) : s.descOk 0 = true := by
  have hb : ∀ va, va / 2 ^ pageShift 2 = 0 → (s.ctxBit 0 va).isSome = true := fun va hv => by
    rw [ctxBit_page s 0 va pageEntry 1 hv h (by decide +kernel) (by rw [hp]; decide +kernel) (by decide +kernel) (by decide +kernel) hg]
    rfl
  have ho : ∀ n, n ≤ 2 ^ 33 → s.ownedRun 0 0 n = true := fun n hn => ownedRun_page _ 0 n hn hb
  unfold State.descOk
  rw [hd]
  have h1 := ho (2 ^ 17) (by decide)
  have h2 := ho (2 ^ 16) (by decide)
  have h5 := ho (4096 * 1024) (by decide)
  have h6 := ho (12288 * 2 ^ 16) (by decide)
  have h7 := ho 1 (by decide)
  have h4 := ho (max 1 0) (by decide)
  have hz : ∀ i, i < 8 → (([0, 0, 0, 0, 0, 0, 0, 0] : List Word).getD i 0).toNat = 0 := by decide
  have h0 : ((0 : Nat) &&& 0x1FFFFFF070F == 0) = true := by decide
  have hall : ([1, 2, 3, 5, 6, 7] : List Nat).all (fun i => (([0, 0, 0, 0, 0, 0, 0, 0] : List Word).getD i 0).toNat % 512 == 0) = true := by decide
  simp only [hall, h0, hz 0 (by decide), hz 1 (by decide), hz 2 (by decide), hz 3 (by decide), hz 4 (by decide), hz 5 (by decide), hz 6 (by decide), hz 7 (by decide), h1, h2, h4, h5, h6, h7, Bool.and_true]

theorem cpRead_page (s : State) (va : Nat) (h : s.probe 0 0 2 = some pageEntry) (hp : s.pkg = 0) (hz : va < 2 ^ 33) :
    s.cpRead 0 va = BitVec.ofNat 64 (s.bits (2 ^ 33 * 1 + va) 64) := by
  unfold State.cpRead
  rw [cpPlace_page s 0 va pageEntry 1 (page_of_lt va hz) h (by decide +kernel) (by rw [hp]; decide +kernel) (by decide +kernel) (by decide +kernel)]

/-- What the command processor copies of a launch's record. -/
def copied (s : State) : List Word := (upFrom 0 128).map fun i => BitVec.ofNat 64 (s.bits (2 ^ 33 * 1 + (0x1000 + 64 * i)) 64)

theorem readRecord_page (s : State) (l : Launch) (h : s.probe 0 0 2 = some pageEntry) (hp : s.pkg = 0) (hc : l.ctx = 0) (hr : l.recordAt = 0x1000)
    (h7 : ((copied s).getD 7 0).toNat % 2 ^ 16 / 64 = 0) : s.readRecord l = { l with record := copied s, args := [] } := by
  have hm : ((upFrom 0 128).map fun i => s.cpRead l.ctx (l.recordAt + 64 * i)) = copied s := by
    refine List.map_congr_left fun i hi => ?_
    have hi := lt_of_mem_upFrom hi
    rw [hc, hr, cpRead_page s _ h hp (by omega)]
  unfold State.readRecord
  simp only [hm, h7]
  rfl

theorem some_of_isSome {α : Type} {o : Option α} (h : o.isSome = true) : ∃ a, o = some a := by
  cases o with
  | some a => exact ⟨a, rfl⟩
  | none => cases h

/-- The launch that waits. -/
def waitsIn (s : State) : Launch := s.launches.headD (Launch.fresh 0 0 0 0 [] 0)

/-- The launch as the command processor has read its record. -/
def readIn (s : State) : Launch := { waitsIn s with record := copied s, args := [] }

/-- The verdict of R345 on the waiting launch, where the checks of the context pass. -/
def verdictOf (s : State) : Option Nat := (firstFail [(false, 0xFFFE),
  (((readIn s).packet.getD 0 0).toNat / 2 ^ 10 != 0 || bitsOf ((readIn s).packet.getD 0 0).toNat 4 4 != 1 ||
    bitsOf ((readIn s).packet.getD 0 0).toNat 1 3 != 0 || (upFrom 3 5).any (fun i => (readIn s).packet.getD i 0 != 0) ||
    (readIn s).recordAt % 512 != 0 || (readIn s).signal % 64 != 0 || !s.mapped 0 (readIn s).recordAt 8192 || !s.mapped 0 (readIn s).signal 256,
    0xFFFC)]).or (s.recordFail (readIn s))

/-- A launch that waits in a state of `waitingFor` is read as memory holds its record, and judged by the checks after those of its context. -/
theorem record_page (s : State) (h : s.probe 0 0 2 = some pageEntry)
    (hd : (s.ctx 0).desc = [0, 0, 0, 0, 0, 0, 0, 0] ∧ (s.part (s.ctx 0).part).granules.contains 1 = true ∧ s.pkg = 0 ∧ (s.ctx 0).state.serves = true)
    (hl : (waitsIn s).ctx = 0 ∧ (waitsIn s).recordAt = 0x1000 ∧ (waitsIn s).forwarded = false ∧ s.mapped 0 0x1000 8192 = true)
    (h7 : ((copied s).getD 7 0).toNat % 2 ^ 16 / 64 = 0) :
    s.withRecord (waitsIn s) = readIn s ∧ s.validate (readIn s) = verdictOf s := by
  obtain ⟨h1, h2, h3, h4⟩ := hd
  obtain ⟨l1, l2, l3, l4⟩ := hl
  have hc : (readIn s).ctx = 0 := l1
  have hf : (readIn s).forwarded = false := l3
  refine ⟨?_, ?_⟩
  · unfold State.withRecord
    rw [l1, l2, l3, l4, Bool.not_false, Bool.and_self, if_pos rfl]
    exact readRecord_page s _ h h3 l1 l2 h7
  · unfold State.validate State.packetFail verdictOf
    simp only [hc, hf, descOk_page s h h3 h2 h1, h4, Bool.not_true, Bool.or_false, Bool.false_eq_true, if_false]

/-- A partition's head that waits, and none. -/
theorem meets_PartitionRounds : let s := goodLaunch
    (∀ p, p < 16 → ((small []).part p).head = none) ∧ (∀ k, k < 16 → k ≠ 0 → (s.part k).head = none) ∧ s.launch 0 = some (waitsIn s) ∧
    (waitsIn s).part = 0 ∧ (∀ k, k < 4 → (s.part 0).wait k = if k = (waitsIn s).prio then [0] else []) ∧ (waitsIn s).prio < 4 ∧
    (waitsIn s).lease = .waiting ∧ (waitsIn s).costed = false ∧ (s.part 0).deficit + 32 * max 1 (bitsOf (s.csrAt 0x1111 0).toNat 0 8) = 32 ∧
    s.poison = [] := by decide +kernel

/-- A head that passes at once. -/
theorem meets_PartitionRounds_passes : (goodLaunch.withRecord (waitsIn goodLaunch)).cost ≤ 32 ∧
    goodLaunch.validate (goodLaunch.withRecord (waitsIn goodLaunch)) = none := by
  have h := record_page goodLaunch (by decide +kernel) (by decide +kernel) (by decide +kernel) (by decide +kernel)
  rw [h.1, h.2]
  decide +kernel

/-- A head that costs more than the deficit. -/
theorem meets_PartitionRounds_dear : 32 < (dearLaunch.withRecord (waitsIn dearLaunch)).cost := by
  have h := record_page dearLaunch (by decide +kernel) (by decide +kernel) (by decide +kernel) (by decide +kernel)
  rw [h.1]
  decide +kernel

/-- Heads whose packet or whose record fails. -/
theorem meets_PartitionRounds_fails (c0 : Nat) (hc : c0 = 0x11 ∨ c0 = 0x13) : let s := waitingFor [] c0
    (s.withRecord (waitsIn s)).cost ≤ 32 ∧ ∃ f, s.validate (s.withRecord (waitsIn s)) = some f := by
  intro s
  rcases hc with rfl | rfl <;>
    (have h := record_page s (by decide +kernel) (by decide +kernel) (by decide +kernel) (by decide +kernel)
     rw [h.1, h.2]
     exact ⟨by decide +kernel, some_of_isSome (by decide +kernel)⟩)

/-- Queue 2 of context 0, whose first packet is there or not, with its last scan at 0. -/
def queueState (valid : Nat) (now : Word) : State :=
  let s := mapped (strandAt (regsAt []))
  { s with mem := s.mem.setBits (2 ^ 33 + 0x3000) 64 (0x10 + valid), clk := now, csr := [(0x1101 * 2 ^ 20 + 2, 0x3000), (0x1102 * 2 ^ 20 + 2, 1), (0x1400 * 2 ^ 20, 0xF)] }

/-- Notifies that count and that do not, and scans that are due and are not. -/
theorem meets_QueueScans : let s := queueState 1 80000
    let t := queueState 0 79999
    let u := { small [] with fenced := 1 }
    s.notifyFrom 0 = true ∧ s.ready? = true ∧ (s.qcfg 2).testBit 0 = true ∧ s.reqs = [] ∧ (s.cpRead 0 0x3000).getLsbD 0 = true ∧
    (t.cpRead 0 0x3000).getLsbD 0 = false ∧ bitsOf (s.qcfg 2) 8 5 = 0 ∧ s.cpPlace 0 0x3000 = some (.here (2 ^ 33 + 0x3000)) ∧
    (small []).ready? = false ∧ u.notifyFrom 0 = false ∧ s.past (SMap.look 0 s.looked 2) 80000 = true ∧ (t.qcfg 2).testBit 0 = true ∧
    t.past (SMap.look 0 t.looked 2) 80000 = false := by decide +kernel

/-- A launch of partition 0 with its lease in a state, that needs one core in each of some tiles. -/
def launching (lease : Lease) (tiles : Nat) (lo : Nat) : State :=
  let l := { Launch.fresh 0 0 0 0 [0x11, 0x1000, 0x8000] 0 with
    record := [BitVec.ofNat 64 (2 ^ 24 + 2 ^ 8), BitVec.ofNat 64 (tiles * 2 ^ 16 + 2 ^ 8 + 1)] ++ List.replicate 30 0 ++ [BitVec.ofNat 64 lo, BitVec.ofNat 64 (2 ^ 19 + 3 * 2 ^ 60)], lease := lease }
  { goodLaunch with launches := [l] }

/-- Leases whose pages pass and do not, and a held launch with cores for it and without. -/
theorem meets_LaunchBinding : let s := launching .making 1 0
    let t := launching .making 1 (2 ^ 40)
    let u := launching .held 1 0
    let v := launching .held 2 0
    let l (x : State) := x.launches.headD (Launch.fresh 0 0 0 0 [] 0)
    (∀ x ∈ [s, t, u, v], x.launch 0 = some (l x)) ∧ (l s).lease = .making ∧ s.leaseFail (l s) = none ∧ (l t).lease = .making ∧
    t.leaseFail (l t) = some 0x800 ∧ (l u).lease = .held ∧ (l u).ended = false ∧ (l u).cores = [] ∧ (l u).away = false ∧ (l u).stages = 0 ∧
    (u.part (l u).part).head = some 0 ∧ (u.ctx (l u).ctx).state = .resident ∧ bitsOf (u.csrAt 0x1320 0).toNat 4 4 = 0 ∧
    u.pickCores (l u) [] = some [0] ∧ (∀ p ∈ (u.ctx (l u).ctx).frames, p.2.core ∉ [0]) ∧ (v.part (l v).part).head = some 0 ∧ v.pickCores (l v) [] = none ∧
    (l u).f 0 24 4 = 1 := by
  and_intros <;> decide +kernel

/-- A launch bound to core 0. -/
def bound (lease : Lease) (f : Launch → Launch) : State :=
  let s := launching lease 1 0
  { s with launches := s.launches.map fun l => f { l with cores := [0] } }

theorem find_congr {α : Type} (ok : α → Bool) (a b c d a' b' c' d' : α) (ha : a' = a) (hb : b' = b) (hc : c' = c) (hd : d' = d) :
    [a', b', c', d'].find? ok = [a, b, c, d].find? ok := by rw [ha, hb, hc, hd]

/-- The page table stands outside the completion record, so that the record's containers keep their places in every memory that is
the same outside it. -/
theorem meets_LaunchEnds_places (s : State) (l : Launch) (hc : l.ctx = 0) (hs : l.signal = 0x8000) (hp : s.pkg = 0)
    (hb : (s.csrAt 0x1000 0).toNat % 2 ^ 44 + 512 * s.bucketOf 0 0 2 = 1024)
    (hm : ∀ j, j < 4 → s.mem.bits (1024 + 128 * j) 128 = if j = 0 then pageEntry.toNat else 0) :
    ∀ m : Memory, (∀ x len, x + len ≤ 2 ^ 33 + 0x8000 ∨ 2 ^ 33 + 0x8000 + 256 ≤ x → m.bits x len = s.mem.bits x len) → ∀ k, k < 4 →
      ({ s with mem := m } : State).cpPlace l.ctx (l.signal + 64 * k) = some (.here (2 ^ 33 + 0x8000 + 64 * k)) := by
  intro m h k hk
  have he (j : Nat) (hj : j < 4) : m.bits (1024 + 128 * j) 128 = if j = 0 then pageEntry.toNat else 0 := by
    rw [h _ _ (Or.inl (by omega)), hm j hj]
  have hn : m.isEmpty = false := by
    cases m with
    | nil =>
      have := he 0 (by decide)
      revert this
      decide +kernel
    | cons a b => rfl
  have hprobe : ({ s with mem := m } : State).probe 0 0 2 = some pageEntry := by
    unfold State.probe
    have hcs : ({ s with mem := m } : State).csrAt 0x1000 0 = s.csrAt 0x1000 0 := rfl
    have hbk : ({ s with mem := m } : State).bucketOf 0 0 2 = s.bucketOf 0 0 2 := rfl
    have hbits (j : Nat) (hj : j < 4) : ({ s with mem := m } : State).bits (1024 + 128 * j) 128 = if j = 0 then pageEntry.toNat else 0 := he j hj
    have hok : (pte pageEntry 61 2 == 2 && entryHits pageEntry 0 0) = true := by decide +kernel
    rw [hcs, hbk, hb]
    show (if m.isEmpty = true then none else _) = _
    rw [hn]
    simp only [Bool.false_eq_true, if_false, State.bucketFind, hbits 0 (by decide), List.find?_cons, if_true, BitVec.ofNat_toNat, BitVec.setWidth_eq, hok]
  have hz : l.signal + 64 * k < 2 ^ 33 := by omega
  rw [hc, cpPlace_page ({ s with mem := m } : State) 0 _ pageEntry 1 (page_of_lt _ hz) hprobe (by decide +kernel)
    (by show _ = s.pkg.toNat; rw [hp]; decide +kernel) (by decide +kernel) (by decide +kernel)]
  congr 2
  omega

/-- A launch whose strands are free and not, whose engines have drained and not. -/
theorem meets_LaunchEnds : let s := bound .held id
    let t := { s with strands := [(0, strandAt (regsAt []))] }
    let u := bound .ending id
    let v := { u with cores := [(0, { Core.reset with matQ := [matCmd (.mclr 0 false)] })] }
    let l (x : State) := x.launches.headD (Launch.fresh 0 0 0 0 [] 0)
    (∀ x ∈ [s, t, u, v], x.launch 0 = some (l x)) ∧ (l s).lease = .held ∧ (l s).ended = false ∧ (l s).cores = [0] ∧ (l s).away = false ∧ (l s).killed = false ∧
    (∀ k, k < 4 → (s.strand (4 * 0 + k)).status = .free) ∧ s.noWork (l s) = true ∧ (t.strand 0).status ≠ .free ∧ (l u).lease = .ending ∧
    (l v).lease = .ending ∧ v.draining 0 (l v) = true ∧ u.draining 0 (l u) = false ∧ (u.members (l u)).length ≤ (l u).reports.length ∧
    u.stillEnds (l u) = true ∧ (l u).saved = [] ∧ u.poisonIn (2 ^ 33 + 0x8000) 64 = none ∧
    ({ u with strands := [(0, strandAt (regsAt []))] } : State).stillEnds (l u) = false ∧
    ({ u with strands := [(0, strandAt (regsAt []))] } : State).draining 0 (l u) = false ∧
    (l u).forwarded = false ∧ (l u).signal = 0x8000 ∧ (l u).signal % 64 = 0 ∧ (l u).ctx = 0 ∧ u.pkg = 0 ∧
    (u.csrAt 0x1000 0).toNat % 2 ^ 44 + 512 * u.bucketOf 0 0 2 = 1024 ∧
    (∀ j, j < 4 → u.mem.bits (1024 + 128 * j) 128 = if j = 0 then pageEntry.toNat else 0) := by
  and_intros <;> first | exact ok_of (by decide +kernel) | decide +kernel

/-- A head of priority 1 that has waited long enough, and not, beside a bound launch of priority 0. -/
def urgent (now : Word) : State :=
  let s := launching .held 1 0
  let l := s.launches.headD (Launch.fresh 0 0 0 0 [] 0)
  { s with launches := [{ l with prio := 1 }, { l with cores := upFrom 0 31 }], clk := now, parts := [(0, { Part.reset with granules := [1], wait1 := [0] })]
           cores := (upFrom 0 31).map fun c => (c, { Core.reset with held := some 1 }) }

theorem meets_LaunchPreemptions : let s := urgent 160000
    let l := s.launches.headD (Launch.fresh 0 0 0 0 [] 0)
    (s.part 0).head = some 0 ∧ s.launch 0 = some l ∧ l.lease = .held ∧ l.prio ≠ 0 ∧ (s.ctx l.ctx).state = .resident ∧
    s.past l.since 160000 = true ∧ (urgent 159999).past l.since 160000 = false ∧ s.victimsFor l [] (s.lesser 0 l.prio) = [1] := by decide +kernel

/-- Strands of a suspended context in each status, and one of a context that is not. -/
theorem meets_StopRequests : let s (f : Strand → Strand) : State := { oneStrand (f (strandAt (regsAt []))) with ctxs := [(0, { ctx0 with state := .suspended })] }
    let r := s id
    let t := s fun t => { t with entryClean := false }
    let u := s fun t => { t with status := .joinWait }
    let v := s fun t => { t with status := .ending }
    r.wantsStop 0 = true ∧ (r.strand 0).status = .ready ∧ (r.strand 0).hold ≠ .stopped ∧ (r.strand 0).entryClean = true ∧
    t.wantsStop 0 = true ∧ (t.strand 0).entryClean = false ∧ u.wantsStop 0 = true ∧ (u.strand 0).status ∈ [Status.sleep, .codeWait, .joinWait, .held] ∧
    v.wantsStop 0 = true ∧ (v.strand 0).status ∈ [Status.migrated, .trapping, .ending] ∧ (small []).wantsStop 0 = false ∧
    (r.strand 0).bind.valid = true := by decide +kernel

/-- A launch to save, with its strand stopped and not, and one that comes back. -/
theorem meets_SavesAndRestores : let stopped : Strand := { strandAt (regsAt []) with hold := .stopped }
    let s := { bound .held (fun l => { l with preempted := true }) with strands := [(0, stopped)] }
    let t := { s with strands := [(0, strandAt (regsAt []))] }
    let u := { bound .held (fun l => { l with away := true, saved := [(1, stopped)] }) with cores := [(0, { Core.reset with held := some 0 })] }
    let l (x : State) := x.launches.headD (Launch.fresh 0 0 0 0 [] 0)
    s.launch 0 = some (l s) ∧ (l s).ctx = (0 : BitVec 8).toNat ∧ s.toSave (0 : BitVec 8).toNat = [0] ∧ (l s).cores.Nodup ∧ s.canSave (l s) = true ∧
    (∀ c ∈ (l s).cores, ∀ m, m < 4 → (s.strand (4 * c + m)).chunk.stores = []) ∧
    t.launch 0 = some (l t) ∧ t.toSave (0 : BitVec 8).toNat = [0] ∧ t.canSave (l t) = false ∧ u.launch 0 = some (l u) ∧ (l u).away = true ∧ (l u).ended = false ∧
    (l u).cores.Nodup ∧ (l u).cores[0]? = some 0 ∧ (u.core 0).held = some 0 ∧ u.launches.length = 1 ∧ (l u).saved = [(4 * 0 + 1, stopped)] ∧
    stopped.status = .ready ∧ stopped.chunk.aborts < 8 ∧ (l u).savedCores.lookup 0 = none ∧ (∀ k, k ≠ 0 → u.launches.length ≤ k ∨ k = 0) := by
  and_intros
  all_goals first
    | decide +kernel
    | (intro k hk; exact Or.inl (Nat.pos_of_ne_zero hk))

/-- A context in each of its states, with a descriptor that can be read and one that cannot. -/
theorem meets_ContextStates : let s (st : CtxState) : State := { mapped (strandAt (regsAt [])) with ctxs := [(0, { ctx0 with state := st })], launches := [] }
    let t := { s .resident with ctxs := [], strands := [] }
    let u := { s .suspended with strands := [(0, { strandAt (regsAt []) with hold := .stopped })] }
    (t.ctx 0).state = .free ∧ (t.readDesc 0).isSome = true ∧ (s .resident |>.ctx 0).state ≠ .free ∧ State.reset.readDesc 0 = none ∧
    (s .resident |>.ctx 0).state = .resident ∧ (s .suspended |>.ctx 0).state = .suspended ∧ (s .swappedOut |>.ctx 0).state = .swappedOut ∧
    (u.strand 0).bind.valid = true ∧ (u.strand 0).bind.ctx = 0 ∧ (u.ctx 0).leaving = false ∧ u.launch (u.strand 0).bind.launch = none ∧
    (State.reset.ctx 0).state = .free ∧ State.reset.poison = [] ∧ (u.strand 0).chunk.aborts < 8 ∧
    (u.strand 0).hold = .stopped ∧ (s .teardown |>.ctx 0).state = .teardown ∧ (s .teardown |>.launches) = [] ∧
    (∀ n ∈ ({ s .teardown with strands := [] } : State).strandsOf 0, (({ s .teardown with strands := [] } : State).strand n).status = .free) ∧
    (∃ n ∈ (s .teardown).strandsOf 0, ((s .teardown).strand n).status ≠ .free) := by decide +kernel

/-! Witnesses: hosts, the pod, health, and the machine as a whole. -/

/-- A package of two host ports with function 1 of port 3 bound to context 0 and BAR2 window 0 of ports 0 and 3 at granule 1. -/
def hosting (ready : Word) : State :=
  let s := mapped (strandAt (regsAt []))
  { s with csr := [(0x1400 * 2 ^ 20, ready), (0x10000 * 2 ^ 20, 2 ^ 63 + 1), (0x10000 * 2 ^ 20 + 48, 2 ^ 63 + 1), (0x10001 * 2 ^ 20 + 769, 2 ^ 63)] }

/-- Accesses that reach memory, and that do not: a window that names nothing, an access that runs on into one, a function bound to nothing, a
page that is not there, a fenced port, a root port, a package that is not ready. -/
theorem meets_HostAccesses : let s := hosting 0xF
    let t := { s with fenced := 1 }
    s.poison = [] ∧ ([1, 2] : List Byte) ≠ [] ∧ s.ready? = true ∧ s.isEndpoint 0 = true ∧ s.isFenced 0 = false ∧ s.isFenced 3 = false ∧
    s.bar2Bit 0 16 = some (2 ^ 33 + 128) ∧ s.bar2Bit 0 (2 ^ 34) = none ∧ s.bar2Bit 0 (2 ^ 30 - 8) = some (2 ^ 34 - 64) ∧
    2 ^ 30 - (2 ^ 30 - 8) % 2 ^ 30 < 16 ∧ s.bar2Bit 0 (2 ^ 30 - 8 + 8) = none ∧ s.isEndpoint 3 = false ∧
    (hosting 0).ready? = false ∧ t.isFenced 0 = true ∧ s.fnCtx 3 1 = some 0 ∧ s.inbound 0 16 2 = some (.here (2 ^ 33 + 128)) ∧
    s.fnCtx 3 2 = none ∧ s.inbound 0 (2 ^ 31) 2 = none ∧ s.inboundRuns 0 (8 / 2 ^ 16 + 2) 16 8 = some [(.here (2 ^ 33 + 128), 8)] ∧
    s.attstat ≠ 1 ∧ ([1, 2, 3, 4, 5, 6, 7, 8] : List Byte).length = 8 := by decide +kernel

/-- R393, R394: a host reads BOOTSTAT at BAR0 + 0x300. -/
theorem test_bar0_read : let s := hosting 0xF
    (match exec (.bar2Read 0 (.bar0 0x300) 8) s with
      | .next t => t.out == [.data 0 [0xF, 0, 0, 0, 0, 0, 0, 0] false]
      | _ => false) = true := by decide +kernel

/-- HLEASE in a state, with the period of reset, and ports trained. -/
def leasing (st active : Nat) (ports now : Word) : State :=
  { small [] with csr := [(0x1300 * 2 ^ 20, BitVec.ofNat 64 (1000 * 2 ^ 16 + 4 * st + 2 * active)), (0x10008 * 2 ^ 20, ports)], clk := now }

theorem meets_HostLease : let s := leasing 1 0 3 800000000
    let t := leasing 1 0 1 799999999
    let u := leasing 2 0 2 0
    let v := leasing 0 0 3 0
    s.leaseState = 1 ∧ s.activePort = 0 ∧ s.trained (1 - s.activePort) = true ∧ t.trained (1 - t.activePort) = false ∧ u.leaseState = 2 ∧ u.trained 1 = true ∧
    v.leaseState = 0 ∧ s.activePort ≠ 1 ∧ 10 ≤ (10 : BitVec 16).toNat ∧ (10000 : BitVec 16).toNat ≤ 10000 ∧ (9 : BitVec 16).toNat < 10 ∧ 10000 < (10001 : BitVec 16).toNat ∧
    s.past s.leaseStart (bitsOf s.hlease 16 16 * 800000) = true ∧ t.leaseState = 1 ∧
    t.past t.leaseStart (bitsOf t.hlease 16 16 * 800000) = false ∧ v.leaseState ≠ 1 ∧ v.trained 0 = true ∧ v.trained 1 = true := by decide +kernel

/-- A drive of one queue of two entries at port 2, whose table entry is at bit 0 of HBM. -/
def driveState : State :=
  { small [] with mem := Memory.setBits [] 0 256 (2 * 2 ^ 4 + 1 * 2 ^ 192 + 1 * 2 ^ 216), csr := [(0x1331 * 2 ^ 20, BitVec.ofNat 64 (2 ^ 44))] }

theorem meets_Enumeration : let s := driveState
    let e : BitVec 256 := BitVec.ofNat 256 (2 * 2 ^ 4 + 1 * 2 ^ 192 + 1 * 2 ^ 216)
    (s.devices.filter fun e => devPort e != 7).length + (([e] : List (BitVec 256)).take 16).length ≤ 96 ∧ s.isEndpoint 7 = false ∧ s.isEndpoint 0 = true ∧
    (s.devices.filter fun e => devPort e == 2)[0]? = some e ∧ bitsOf e.toNat 36 4 = 0 ∧
    (s.csrAt 0x10009 (2 * 256 + 0)).toNat < min 64 (bitsOf e.toNat 216 8) ∧ 2 ≤ 2 ∧ 2 ≤ 4096 ∧ 2 ≤ bitsOf e.toNat 192 12 + 1 ∧ 1 < 2 ∧ 4096 < 4097 := by
  decide +kernel

/-- An access that its home admits, of clean and of poisoned memory and of a scratchpad, one that it does not; a reply that is away, within
its time and after it, with a route and without. -/
theorem meets_RemoteAccesses : let s := mapped (strandAt (regsAt []))
    let t := { s with csr := [(0x1330 * 2 ^ 20, 0x10007)] }
    let u := { t with poison := [(2 ^ 27, true)] }
    let who : Issuer := { ppid := 7, ctx := 0 }
    let p : Pend := { loadPend 5 64 with kind := .atomic, far := some (3, 64), snap := some (regsAt []) }
    let v := { oneStrand { strandAt (regsAt []) with pend := [p] } with csr := [(0x1311 * 2 ^ 20 + 3, 0x8000), (0x1312 * 2 ^ 20, 1)], clk := 7999999 }
    let w := { v with csr := [] }
    t.homeFails who (2 ^ 33) Cls.w64.bits = none ∧ t.poison = [] ∧ t.poisonIn (2 ^ 33) Cls.w64.bits = none ∧
    u.homeFails who (2 ^ 33) Cls.w64.bits = none ∧ u.poisonIn (2 ^ 33) Cls.w64.bits = some (2 ^ 33) ∧
    t.homeFails { who with ppid := 8 } (2 ^ 33) Cls.w64.bits = some 0x2A ∧ t.homeFails { who with ctx := 9 } (padBase 0) Cls.w64.bits = some 0x25 ∧
    2 ^ 33 < 2 ^ 44 ∧ (v.strand 0).pend = [p] ∧ p.kind ≠ .load ∧ p.snap = some (regsAt []) ∧ p.far = some (3, 64) ∧ isLantern 0 = false ∧
    (v.strand 0).status ≠ .ending ∧ v.hasRoute 3 = true ∧ v.past (v.strand 0).since 8000000 = false ∧
    w.hasRoute 3 = false ∧ (w.strand 0).pend = [p] ∧ (away none s).me.pend = [{ loadPend 5 64 with far := some (3, 0), snap := some (regsAt []) }] ∧ ({ v with clk := 8000000 } : State).past (v.strand 0).since 8000000 = true := by
  decide +kernel

/-- Flits to send again and not; a route that is up, one that fails over, and the last hop. -/
theorem meets_PodLinks : let f : LinkFlit := { dest := 3, hops := 1, body := 9, own := none, retries := 7 }
    let s := { small [] with links := [(4, f), (5, { f with retries := 8 })], csr := [(0x1311 * 2 ^ 20 + 3, 0x8004), (0x1312 * 2 ^ 20, 0x10)] }
    let t := { s with failover := [3] }
    let g : FarStore := { tag := 0, inst := 0, strand := 0, tok := 0, part := 0, launch := none, pkg := 3, bit := 0, site := (0, 0) }
    t.farStores = [] ∧ (s.routeTo 3).isSome = true ∧ ({ t with csr := [] } : State).routeTo 3 = none ∧
    ({ t with farStores := [g] } : State).sentTo 3 ≠ [] ∧ t.heldOut = [] ∧ g.tag < 2 ^ 20 ∧ (t.strand g.tag).pend = [] ∧
    s.links.lookup 4 = some f ∧ f.retries < 8 ∧ s.links.lookup 5 = some { f with retries := 8 } ∧ 8 ≤ ({ f with retries := 8 } : LinkFlit).retries ∧
    s.routeTo 3 = some 4 ∧ (0 : BitVec 10) = s.pkg ∧ (3 : BitVec 10) ≠ s.pkg ∧ 7 < 8 ∧ 3 ∈ t.failover ∧ 3 ∉ s.failover := by decide +kernel

/-- A package at a STATUS of its checkpoint, with one context to save or none. -/
def checking (st : Nat) (leaving : Bool) (now : Word) : State :=
  { small [] with csr := [(0x1320 * 2 ^ 20, BitVec.ofNat 64 (16 * st))], clk := now, ctxs := [(0, { ctx0 with leaving := leaving })] }

/-- A package that reads its image back. -/
def restoring : State :=
  { State.reset with
    csr := [(0x10007 * 2 ^ 20, 1)]
    checkpoint := some { hbm := [(5, 1)], poison := [], ctxs := [], descs := [(0, 0)], launches := [], parts := [], objs := [], claims := [], tasks := 0 } }

theorem meets_Checkpoint : (checking 0 false 0).ckptStatus = 0 ∧ (checking 4 false 0).ckptStatus = 4 ∧ ((checking 0 false 0).ctx 0).state = .resident ∧
    (checking 1 false 0).ckptStatus = 1 ∧ (checking 1 false 0).allSaved = true ∧ (checking 1 true 0).allSaved = false ∧
    ((checking 1 false 0).csrPut 0x10012 0 1).csrAt 0x10012 0 ≠ 0 ∧
    (checking 1 true 800000000).past (checking 1 true 800000000).ckptStart 800000000 = true ∧
    (checking 1 true 0).past (checking 1 true 0).ckptStart 800000000 = false ∧ (checking 2 false 0).ckptStatus = 2 ∧
    (checking 3 false 0).ckptStatus = 3 ∧ State.reset.ckptStatus = 0 ∧ State.reset.csrAt 0x1000D 0 = 0 ∧ 0 < State.reset.ckptTargets ∧
    State.reset.csrAt 0x10007 0 = 0 ∧ (State.reset.csrPut 0x1000D 0 1).csrAt 0x1000D 0 ≠ 0 ∧ restoring.csrAt 0x10007 0 ≠ 0 ∧
    (∃ m, restoring.checkpoint = some m ∧ (∀ p ∈ m.descs, p.1 < 256) ∧ Memory.wf m.hbm = true) ∧ restoring.mem.wf = true := by
  and_intros
  all_goals first
    | exact ⟨_, rfl, by decide +kernel, by decide +kernel⟩
    | decide +kernel

/-- An image of one byte, signed with the private key 5, and the fuses that name its key. -/
def fw : FwImage := { key := sm2Public 5, body := [7], sig := sm2Sign 5 77 (digestBytes (sm3 [7])), version := 1 }

/-- A power-up of a package with one stack, one tile and two ports. -/
def rails : PowerUp :=
  { fusesOk := true, fuses := BitVec.ofNat 512 (4 * ((keyDigest fw.key).toNat / 2 ^ 130)), strap := false, imageA := fw, imageB := fw,
    hbms := 1, ports := 3, links := 0, tiles := 1 }

theorem fw_accepted : imageAccepted fw rails.fuses = true := by decide +kernel

/-- A package in a step of its boot ROM. -/
def booting (step : Word) (p : PowerUp) : State := { State.reset with power := p, fuses := p.fuses, csr := [(0x1400 * 2 ^ 20, step)] }

/-- The boot ROM at each step, with what fails there and without. -/
theorem meets_BringUp : (State.reset.csrAt 0x1400 0).toNat = 0 ∧ State.reset.power = noPower ∧ rails ≠ noPower ∧
    (∀ k, k < 7 → ((booting (BitVec.ofNat 64 k) rails).csrAt 0x1400 0).toNat = k) ∧ ({ rails with fusesOk := false } : PowerUp).fusesOk = false ∧
    rails.fusesOk = true ∧ bootImage { rails with imageB := { fw with version := 0 } } 0 = none ∧ bootImage rails rails.fuses = some fw ∧
    ({ rails with hbms := 0 } : PowerUp).hbms = 0 ∧ rails.hbms ≠ 0 ∧ rails.tiles ≠ 0 ∧ (hosting 0xF).booted = true ∧ (hosting 0).booted = false := by
  have ok : bootImage rails rails.fuses = some fw := by
    unfold bootImage
    rw [show rails.imageA = fw from rfl, fw_accepted, if_pos rfl]
  exact ⟨by decide +kernel, rfl, by decide +kernel, by decide +kernel, rfl, rfl, by decide +kernel, ok, rfl, by decide +kernel, by decide +kernel,
    by decide +kernel, by decide +kernel⟩

/-- ATTSTAT in each state, in a package that is ready. -/
theorem meets_Attestation : let s (v : Word) : State := { small [] with csr := [(0x1400 * 2 ^ 20, 0xF), (0x1425 * 2 ^ 20, v)] }
    (s 0).attstat ≠ 1 ∧ (s 1).attstat = 1 ∧ (s 0).booted = true ∧ (small []).booted = false ∧ (s 0).nonceMixed = false ∧
    (((s 0).csrPut 0x1000E 0 1).csrPut 0x1000E 1 2).nonceMixed = true ∧ (0 : Word) ≠ 1 := by decide +kernel

/-- Errors of each class at the ends of their ranges, seven recent ones before them, and none. -/
theorem meets_HardwareErrors : let s := { small [] with units := [(2 * 2 ^ 16, { ErrUnit.reset with times := [0, 0, 0, 0, 0, 0, 0] })], clk := 1, poison := [(0, true)] }
    let t := { small [] with clk := 3600 * 800000000 }
    (∀ p, p < 16 → (s.csrAt 0x1811 p).toNat % 32 = 0) ∧ unitClass (2 * 2 ^ 16) ≤ 8 ∧ unitClass (2 * 2 ^ 16) = 2 ∧
    ((s.clk :: (s.unit (2 * 2 ^ 16)).times).take 8)[7]? = some 0 ∧ (s.clk - 0).toNat < s.hwin ∧
    (s.unit (2 * 2 ^ 16)).lasting = false ∧ (s.unit 5).times = [] ∧ 0 < 12288 ∧ (s.strand 0).status = .ready ∧ (delivering.strand 0).status = .trapping ∧ isLantern 0 = false ∧
    inHbm 512 = true ∧ inHbm (padBase 0) = false ∧ ({ ErrUnit.reset with alerted := true } : ErrUnit).alerted = true ∧ ErrUnit.reset.alerted = false ∧
    512 % 256 = 0 ∧ 512 + 256 < 1536 * 2 ^ 33 ∧ s.poisonIn 512 256 = none ∧ (s.poisonIn 0 256).isSome = true ∧ unitClass (6 * 2 ^ 16) = 6 ∧
    t.past (t.csrAt 0x10006 (6 * 2 ^ 16)) (3600 * 800000000) = true ∧ s.past (s.csrAt 0x10006 (6 * 2 ^ 16)) (3600 * 800000000) = false ∧
    t.clk.toNat < 72 * 3600 * 800000000 ∧ 72 * 3600 * 800000000 ≤ (207360000000000 : Word).toNat := by decide +kernel

/-- A limit that stands and none, bins at their ends, a counter that is due to decay and one that is not. -/
theorem meets_LimitsAndDecay : let s := { small [] with clk := 4096, tiles := [(0, { Tile.reset with limiting := true, baro := [(3, 7)] })],
                                                        cores := [(0, { Core.reset with throttle := 7 }), (1, { Core.reset with throttle := 8 })] }
    s.limited 0 = true ∧ (s.core 0).throttle < 8 ∧ 8 ≤ (s.core 1).throttle ∧ s.limited 32 = false ∧ SMap.wf 0 (s.tile 0).baro = true ∧
    s.past (s.csrAt 0x10005 0) 4096 = true ∧ (small []).past ((small []).csrAt 0x10005 0) 4096 = false ∧ 0 ∈ limitCores 0 ∧ s.quiet 0 = false := by
  decide +kernel

/-- An instruction that has words and is well formed. -/
theorem meets_EncodeDecode : encode (.add (.g 1) (.g 2) (.g 3)) ≠ [] ∧ WellFormed (.add (.g 1) (.g 2) (.g 3)) = true := by decide

/-- An idle package, whose memory has its form: it goes on. -/
theorem meets_MemoryCanonical : State.reset.mem.wf = true ∧ step State.reset = .next State.reset.tick := ⟨by decide, rfl⟩

/-- A package with one strand at an `ADD`. -/
def placed1 : State := State.reset.withFetchWord 32 ((encode (.add (.g 1) (.g 2) (.g 3))).headD 0).toNat

/-- A strand whose instruction passes every check, and an event that is the one turn. -/
theorem meets_StepRuns : let s := placed1
    let a := s.act 0
    let ws := encode (.add (.g 1) (.g 2) (.g 3))
    let i := Instr.add (.g 1) (.g 2) (.g 3)
    let t := { State.reset with agenda := [.dualClear] }
    s.pick s.turns = some (.strand 0) ∧ a.fetch = .ok (some ws) ∧ a.textPoison ws.length = false ∧ decode ws = .ok i ∧
    majorOf (ws.headD 0) ≠ 0x3F ∧ a.inBudget i = true ∧ modeFails i = false ∧ a.checkShadow i = .ok () ∧ a.checkCounts i ws.length = .ok () ∧
    a.checkNaming i = .ok () ∧ a.checkPending i = .ok () ∧ a.checkUnit i = .ok () ∧ a.mailboxPoison i = none ∧ unitOf i = none ∧
    a.me.chunk.count < 255 ∧ s.granted = none ∧ (∃ u, exec i a = .next u) ∧
    t.pick t.turns = some (.event 0) ∧ t.agenda[0]? = some .dualClear ∧ State.reset.turns = [] ∧ State.reset.halted = false := by
  and_intros
  all_goals first
    | decide +kernel
    | rfl
    | exact ok_of (by decide +kernel)
    | exact ⟨_, rfl⟩

/-- A strand's turn on a taper core, an access behind a write of its port, and the service strand of a core. -/
theorem meets_Scheduling : let s := placed1
    let t := { State.reset with agenda := [.bar2Read 3 (.bar2 0) 8] }
    let u := { State.reset with agenda := [.inboxSpill 2] }
    s.pick s.turns = some (.strand 0) ∧ 0 / 4 % 32 ≠ 31 ∧ t.pick t.turns = some (.event 0) ∧ t.agenda[0]? = some (.bar2Read 3 (.bar2 0) 8) ∧ ({ t with halted := true, agenda := [.powerFailure] } : State).pick [.event 0] = some (.event 0) ∧
    u.pick u.turns = some (.event 0) ∧ u.agenda[0]? = some (.inboxSpill 2) ∧ (Event.inboxSpill 2).service = some 2 := by
  decide +kernel

/-- A package with one strand, at some words, changed. -/
def issuing (ws : List CodeWord) (f : Strand → Strand) : State :=
  let s := State.reset.withFetchWord (32 * ws.length) (packBits 32 (ws.map BitVec.toNat))
  { s with strands := s.strands.map fun p => (0, f p.2) }

/-- A division, which occupies the divide unit of its core for 18 cycles, and one that finds it occupied. -/
theorem meets_StepRuns_unit : let i := Instr.div (.g 1) (.g 2) (.g 3)
    let s := issuing (encode i) id
    let a := s.act 0
    let b := { s with cores := [(0, { Core.reset with busy := [(0, 0, 18)] })] }
    s.pick s.turns = some (.strand 0) ∧ a.fetch = .ok (some (encode i)) ∧ decode (encode i) = .ok i ∧ a.checkUnit i = .ok () ∧
    a.mailboxPoison i = none ∧ unitOf i = some (0, 18) ∧ isLantern 0 = false ∧ b.pick b.turns = some (.strand 0) ∧
    a.checkPending i = .ok () ∧ (b.act 0).unitFree (coreOf 0) 0 = false := by
  and_intros <;> decide +kernel

/-- A strand at each of the checks before its instruction acts. -/
theorem meets_IssueChecks :
    let add := Instr.add (.g 1) (.g 2) (.g 3)
    let on (i : Instr) (f : Strand → Strand) : State := (issuing (encode i) f).act 0
    let ahead := issuing (encode add) fun t => { t with regs := { t.regs with off := 5 } }
    let priv := issuing (encode (.tlbw (.g 1) (.g 2))) id
    let bad := issuing [0xFFFFFFFC] id
    let wide := Instr.add (.g 40) (.g 2) (.g 3)
    let ldp := Instr.ldp 2 .w64 (.g 2) (.g 1) 0
    let lit := Instr.addLit (.g 1) (.g 2) 7
    let gather := Instr.vgath .w32 (.g 1) 0 0 0 (.g 2)
    let loop : Loop := { ctr := 0, start := 0, stop := 2, walk := none, finished := false }
    ahead.pick ahead.turns = some (.strand 0) ∧ ahead.granted = none ∧
    (ahead.act 0).textLen (ahead.act 0).me.regs.handle ≤ (ahead.act 0).me.regs.off ∧
    (priv.act 0).fetch = .ok (some (encode (.tlbw (.g 1) (.g 2)))) ∧ majorOf ((encode (.tlbw (.g 1) (.g 2))).headD 0) = 0x3F ∧ isLantern 0 = false ∧
    (bad.act 0).fetch = .ok (some [0xFFFFFFFC]) ∧
    (let z := (issuing [0] id).act 0
     ∃ o, z.obj z.me.regs.handle = some o ∧ z.me.regs.off < o.textLen ∧ z.me.regs.off < o.hotLen ∧ majorOf z.ir = 0 ∧ z.textPoison 1 = false) ∧
    (let a := on gather fun t => { t with pend := [loadPend 2 64] }
     (naming gather).find? (fun k => a.me.pending k && !(a.me.shadow.left != 0 && (a.me.shadow.reg == k || a.me.shadow.also == some k))) = some 2) ∧
    (on wide fun t => { t with bind := { t.bind with gbud := 16 } }).inBudget wide = false ∧
    (on ldp id).inBudget ldp = true ∧ modeFails ldp = true ∧
    (let a := on add fun t => { t with shadow := { reg := 2, also := none, left := 1, size := 3, handle := 1, off := 0 } }
     a.inBudget add = true ∧ modeFails add = false ∧ a.checkNaming add = .ok () ∧ a.me.shadow.left ≠ 0 ∧ endsShadow add = false ∧ a.me.shadow.reg ∈ touches add) ∧
    (let a := on lit fun t => { t with regs := { t.regs with loops := [loop] } }
     a.me.shadow.left = 0 ∧ a.me.regs.loops = loop :: [] ∧ a.me.regs.off < loop.stop ∧ loop.stop < a.me.regs.off + (encode lit).length) ∧
    (let a := on add fun t => { t with regs := { t.regs with count := 1024 } }
     a.me.regs.loops = [] ∧ add ≠ .region ∧ 1024 ≤ a.me.regs.count) ∧
    (let a := on add fun t => { t with pend := [loadPend 2 64] }
     (touches add ++ a.hidden add).find? (fun k => a.me.pending k && unwaited add != some k) = some 2 ∧ a.me.regs.count < 1024) ∧
    (let a := on add fun t => { t with chunk := { t.chunk with count := 255 } }
     a.checkPending add = .ok () ∧ a.checkUnit add = .ok () ∧ 255 ≤ a.me.chunk.count) := by
  and_intros <;> first | exact ok_of (by decide +kernel) | decide +kernel

/-- A reserved major, which is no instruction. -/
theorem meets_IssueChecks_reason : ∃ k, decode [0xFFFFFFFC] = .error (.reason k) := ⟨_, rfl⟩


/-- With no condition enabled every instruction that raises flags goes on; with one enabled, it goes on without that flag and traps
with it. -/
theorem meets_calm : let s := small []
    let t := oneStrand (strandAt { regsAt [] with fps := 0x40 })
    (∀ fl : Flags, s.calm fl) ∧ t.calm fDZ ∧ ¬t.calm fNV := by
  unfold State.calm
  decide +kernel

/-- A reduction of no lane, and of lanes 0 and 2 of 32 bits. -/
theorem meets_VectorReductions :
    let on (m : Vec) := (List.range Ty.s32.lanes).filter fun i => (oneStrand (strandAt { regsAt [] with m := [(1, m)] })).active 1 i
    on 0 = [] ∧ on 5 = [0, 2] := by decide +kernel

/-- A shift, a division and a saturation at their corners meet each clause of their statements. -/
theorem meets_ScalarDivision : (0 : Word) = 0 ∧ (BitVec.ofInt 64 (-2 ^ 63)).toInt = -2 ^ 63 ∧ (BitVec.allOnes 64).toInt = -1 ∧ (1 : Word) ≠ 0 := by
  decide

/-! Worked examples of the spec, one step each, with the results that the spec writes down. -/

/-- The operand `d` after one instruction from a small state. -/
def gives (i : Instr) (x : List (Nat × Word)) (d : Nat) : Option Word :=
  match exec i (small x) with
  | .next t => some (t.me.regs.get d)
  | _ => none

/-- The cause of a trap that one instruction takes from a small state. -/
def trapOf (i : Instr) (x : List (Nat × Word)) : Option (BitVec 8) :=
  match exec i (small x) with
  | .next t => t.agenda.findSome? fun e => match e with | .trapDelivery _ c _ _ => some c | _ => none
  | _ => none

/-- The table of R96. -/
theorem test_division :
    gives (.div (.g 1) (.g 2) (.g 3)) [(2, 7), (3, -2)] 1 = some 0xFFFFFFFFFFFFFFFD ∧ gives (.rem (.g 1) (.g 2) (.g 3)) [(2, 7), (3, -2)] 1 = some 1 ∧
    gives (.divu (.g 1) (.g 2) (.g 3)) [(2, 7), (3, -2)] 1 = some 0 ∧ gives (.remu (.g 1) (.g 2) (.g 3)) [(2, 7), (3, -2)] 1 = some 7 ∧
    gives (.rem (.g 1) (.g 2) (.g 3)) [(2, -7), (3, 2)] 1 = some (-1) ∧ gives (.divu (.g 1) (.g 2) (.g 3)) [(2, -7), (3, 2)] 1 = some 0x7FFFFFFFFFFFFFFC := by
  decide +kernel

/-- The corners of R96. -/
theorem test_division_corners :
    gives (.div (.g 1) (.g 2) (.g 3)) [(2, 0x8000000000000000), (3, -1)] 1 = some 0x8000000000000000 ∧
    gives (.rem (.g 1) (.g 2) (.g 3)) [(2, 0x8000000000000000), (3, -1)] 1 = some 0 ∧ gives (.div (.g 1) (.g 2) (.g 3)) [(2, 5)] 1 = some (-1) ∧
    gives (.rem (.g 1) (.g 2) (.g 3)) [(2, 5)] 1 = some 5 ∧ gives (.divu (.g 1) (.g 2) (.g 3)) [(2, 5)] 1 = some (-1) ∧
    gives (.remu (.g 1) (.g 2) (.g 3)) [(2, 5)] 1 = some 5 := by decide +kernel

/-- R98: the destination is the condition. -/
theorem test_csel : gives (.cselLit (.g 5) (.g 6) 42) [(5, 1), (6, 9)] 5 = some 9 ∧ gives (.cselLit (.g 5) (.g 6) 42) [(6, 9)] 5 = some 42 ∧
    gives (.cselLit (.g 5) (.g 6) 42) [(6, 9)] 72 = some 42 := by decide +kernel

/-- The examples of R40, within and across containers. -/
theorem test_pointers :
    gives (.padd (.g 1) (.g 2) (.sel (.g 3)) .w3) [(2, 0x39), (3, 5)] 1 = some 0x49 ∧ gives (.pdiff (.g 1) (.g 2) (.sel (.g 3)) .w3) [(2, 0x49), (3, 0x39)] 1 = some 5 ∧
    gives (.padd (.g 1) (.g 2) (.sel (.g 3)) .w6) [(2, 0x1036), (3, 1)] 1 = some 0x1040 ∧ gives (.psub (.g 1) (.g 2) (.sel (.g 3)) .w6) [(2, 0x1040), (3, 1)] 1 = some 0x1036 ∧
    gives (.padd (.g 1) (.g 2) (.sel (.g 3)) .w6) [(2, 0x1036), (3, -11)] 1 = some 0xFF0 ∧ gives (.paln (.g 1) (.g 2) .w3) [(2, 0x3F)] 1 = some 0x3C ∧
    gives (.paln (.g 1) (.g 2) .w3) [(2, 0x44)] 1 = some 0x43 ∧ trapOf (.padd (.g 1) (.g 2) (.sel (.g 3)) .w3) [(2, 0x3F), (3, 1)] = some 0x20 := by
  decide +kernel

/-- The examples of R40 on windows. -/
theorem test_windows :
    gives (.pwin (.g 1) (.g 2) (.sel (.g 3)) .w64) [(2, 0x1FFFC0), (3, 0x30A7)] 1 = some 0x1FFF80614FFFFC0 ∧
    gives (.pchk (.g 1) (.g 2) (.sel (.g 3)) .w6) [(2, 0x1FFF80614FFFFC0), (3, 10)] 1 = some 0 ∧
    gives (.pchk (.g 1) (.g 2) (.sel (.g 3)) .w6) [(2, 0x1FFF80614FFFFC0), (3, 11)] 1 = some 4 ∧
    gives (.pcore (.g 1) (.g 2)) [(2, 0x1FFF80614FFFFC0)] 1 = some 0x30A7 := by decide +kernel

/-- R79's signalling NaN, R107's fused product, R110's classes. -/
theorem test_floats :
    gives (.fadd (.g 1) (.g 2) (.g 3)) [(2, 0x7F800001), (3, 0x3F800000)] 1 = some 0x7FC00000 ∧
    gives (.fma (.g 1) (.g 2) (.g 3)) [(1, 0x3F800000), (2, 0x3F800001), (3, 0x3F800001)] 1 = some 0x40000001 ∧
    gives (.fclass (.g 1) (.g 2)) [(2, 0x80000001)] 1 = some 4 ∧ gives (.fclass (.g 1) (.g 2)) [(2, 0x7F800001)] 1 = some 0x100 := by decide +kernel

/-- R82: the conversion of −10 from s8 to n16, wrapped and clamped. -/
theorem test_conversion : gives (.fcvt (.g 1) (.sel (.g 2)) .n16 .s8 0) [(2, 0xF6)] 1 = some 0xFFF6 ∧
    gives (.fcvt (.g 1) (.sel (.g 2)) .n16 .s8 1) [(2, 0xF6)] 1 = some 0 := by decide +kernel

/-- R162: the two checksums of the ASCII digits 1 to 9. -/
theorem test_checksums : let b : List Byte := [0x31, 0x32, 0x33, 0x34, 0x35, 0x36, 0x37, 0x38, 0x39]
    b.foldl (crcByte (crcPoly false)) (2 ^ 32 - 1) ^^^ (2 ^ 32 - 1) = 0xE3069283 ∧
    b.foldl (crcByte (crcPoly true)) (2 ^ 64 - 1) ^^^ (2 ^ 64 - 1) = 0xAE8B14860A799888 := by decide +kernel

/-- GB/T 32905: the digest of "abc", byte 0 first. -/
theorem test_sm3 : (digestBytes (sm3 [0x61, 0x62, 0x63])).take 4 = [0x66, 0xC7, 0xF0, 0xF4] := by decide +kernel

end Sys2Proof.Tests
end

/-! SUPPORT. R96 and R97: the division functions and the saturating sum and difference, settled from one rule for the
common body of each family and one table for each function of the arithmetic unit. -/

namespace Sys2Proof.Machine

/-! The two common bodies. -/

/-- An instruction with the common body of R95 gives its function's value, raises no flag and takes no trap. -/
theorem gives_of_exec_binary {i : Instr} {s : State} {op : Word → Word → Word} {d a : Sel} {b : Word} {len : Nat}
    (h : exec i s = binary op d a b len s) : Gives i s d (op (s.rd a) b) 0 len :=
  ⟨_, h, s.wrote_result d _ len⟩

/-- Both forms of a function have the common body of R95. -/
theorem Binary.of_exec {r : Sel → Sel → Sel → Instr} {l : Sel → Sel → Word → Instr} {op : Word → Word → Word}
    (hr : ∀ s d a b, exec (r d a b) s = binary op d a (s.rd b) 1 s)
    (hl : ∀ s d a v, exec (l d a v) s = binary op d a v 3 s) : Binary r l op := fun s d a b v =>
  ⟨gives_of_exec_binary (hr s d a b), gives_of_exec_binary (hl s d a v)⟩

/-- An instruction with the common body of R97 gives the clamped value and raises SA when the clamp acts; no enabled
condition is asked. -/
theorem gives_of_exec_saturating {i : Instr} {s : State} {x : Int} {d : Sel} {len : Nat}
    (h : exec i s = saturating x d len s) :
    Gives i s d (saturate x).1 (if (saturate x).2 = true then fSA else 0) len := by
  refine ⟨_, h, ?_⟩
  split
  · exact ((Tuned.refl s).onRegs fun r => r.raiseFlags fSA).wrote_result d _ len rfl
  · exact s.wrote_result d _ len

/-! The tables of R96. -/

theorem aluDiv_eq (a b : Word) : aluDiv a b = if b = 0 then BitVec.allOnes 64
    else if a.toInt = -2 ^ 63 ∧ b.toInt = -1 then a else BitVec.ofInt 64 (Int.tdiv a.toInt b.toInt) := by
  unfold aluDiv
  split
  · rfl
  · split
    · next overflow =>
      obtain ⟨ha, hb⟩ := overflow
      have hmin : a = BitVec.ofInt 64 (-2 ^ 63) := by rw [← ha, BitVec.ofInt_toInt]
      rw [ha, hb, hmin]
      decide
    · rfl

theorem aluRem_eq (a b : Word) : aluRem a b = if b = 0 then a
    else if a.toInt = -2 ^ 63 ∧ b.toInt = -1 then 0
    else BitVec.ofInt 64 (a.toInt - b.toInt * Int.tdiv a.toInt b.toInt) := by
  unfold aluRem
  split
  · rfl
  · split
    · next overflow =>
      rw [overflow.1, overflow.2]
      decide
    · rw [Int.tmod_def]

/-! The table of R97. -/

theorem saturate_of_clampInt {x c : Int} (h : clampInt x (-(2 ^ 63 : Nat)) ((2 ^ 63 : Nat) - 1) = c) :
    saturate x = (BitVec.ofInt 64 c, c != x) := by
  rw [saturate, h]

/-- Where the clamp of R97 acts, on which side, and with what flag. -/
theorem saturate_eq (x : Int) : ((saturate x).1, if (saturate x).2 = true then fSA else 0) =
    if x < -2 ^ 63 then (BitVec.ofInt 64 (-2 ^ 63), fSA) else if 2 ^ 63 ≤ x then (BitVec.ofInt 64 (2 ^ 63 - 1), fSA)
    else (BitVec.ofInt 64 x, 0) := by
  by_cases below : x < -2 ^ 63
  · have low : clampInt x (-(2 ^ 63 : Nat)) ((2 ^ 63 : Nat) - 1) = -2 ^ 63 := by unfold clampInt; omega
    have acts : (-2 ^ 63 : Int) ≠ x := by omega
    rw [saturate_of_clampInt low, if_pos (bne_iff_ne.mpr acts), if_pos below]
  · by_cases above : 2 ^ 63 ≤ x
    · have high : clampInt x (-(2 ^ 63 : Nat)) ((2 ^ 63 : Nat) - 1) = 2 ^ 63 - 1 := by unfold clampInt; omega
      have acts : (2 ^ 63 - 1 : Int) ≠ x := by omega
      rw [saturate_of_clampInt high, if_pos (bne_iff_ne.mpr acts), if_neg below, if_pos above]
    · have inside : clampInt x (-(2 ^ 63 : Nat)) ((2 ^ 63 : Nat) - 1) = x := by unfold clampInt; omega
      rw [saturate_of_clampInt inside, if_neg (by simp), if_neg below, if_neg above]

/-- Both forms of a function have the common body of R97, on the exact result `g`. -/
theorem BinaryAt.of_exec_saturating {r : Sel → Sel → Sel → Instr} {l : Sel → Sel → Word → Instr}
    {g : Int → Int → Int}
    (hr : ∀ s d a b, exec (r d a b) s = saturating (g (s.rd a).toInt (s.rd b).toInt) d 1 s)
    (hl : ∀ s d a v, exec (l d a v) s = saturating (g (s.rd a).toInt v.toInt) d 3 s) :
    BinaryAt r l fun _ _ a b =>
      ((saturate (g a.toInt b.toInt)).1, if (saturate (g a.toInt b.toInt)).2 = true then fSA else 0) :=
  fun s d a b v => ⟨gives_of_exec_saturating (hr s d a b), gives_of_exec_saturating (hl s d a v)⟩

/-! The obligations. -/

/-- Settles O2: each division function has the common body of R95, and its function is its column of R96's table. -/
theorem scalarDivision : Obligations.ScalarDivision := by
  unfold Obligations.ScalarDivision
  simp only [← aluDiv_eq, ← aluRem_eq]
  exact ⟨.of_exec (fun _ _ _ _ => rfl) (fun _ _ _ _ => rfl), .of_exec (fun _ _ _ _ => rfl) (fun _ _ _ _ => rfl),
    .of_exec (op := aluDivu) (fun _ _ _ _ => rfl) (fun _ _ _ _ => rfl),
    .of_exec (op := aluRemu) (fun _ _ _ _ => rfl) (fun _ _ _ _ => rfl)⟩

/-- Settles O3: both functions have the common body of R97, which clamps and raises SA as R97's cases say. -/
theorem scalarSaturation : Obligations.ScalarSaturation := by
  unfold Obligations.ScalarSaturation
  simp only [← saturate_eq]
  exact ⟨.of_exec_saturating (g := (· + ·)) (fun _ _ _ _ => rfl) (fun _ _ _ _ => rfl),
    .of_exec_saturating (g := (· - ·)) (fun _ _ _ _ => rfl) (fun _ _ _ _ => rfl)⟩

end Sys2Proof.Machine
